-- ==== Sys2Proof/Word.lean ====
section
/-! DEFINITION. The plain word types of the model. -/

namespace Sys2Proof

/-- A byte of a frame or of a memory. -/
abbrev Byte := BitVec 8
/-- A register value (R397: every register is 32 bits). -/
abbrev Word := BitVec 32
/-- A 64-bit count or key. -/
abbrev Dword := BitVec 64
/-- The bytes of a frame or of a memory range, in increasing order. -/
abbrev Bytes := List Byte

end Sys2Proof
end

