-- ==== Sys2Proof/Syntax.lean ====
section
/-! DEFINITION. The commands of the block: one constructor of `Instr` for each row of spec/opcode_table.json, in the table's
order. The table gives the rows no bits; the operands are what the rule of the row leaves to the occasion. The first operand
of every command is the instant at which it happens, in ns of the reference clock (DESIGN CHOICE, log entry 1). -/

namespace Sys2Proof

/-- A work queue (R308): of a physical core (the even core of a SAFE pair), of a spectral engine, of the Sieve for a partition. -/
inductive QueueId where
  | core  (n : Fin 40)
  | spec  (q : Fin 4)
  | sieve (p : Fin 8)
deriving DecidableEq, Repr

/-- What a strike is recorded against (R339): a core (the even core for a SAFE unit) or a spectral engine. -/
inductive UnitId where
  | core (n : Fin 40)
  | engine (q : Fin 4)
deriving DecidableEq, Repr

/-- A checker instance of R367. -/
inductive Checker where
  | comparator (pair : Fin 20)
  | entryDup (pair : Fin 20)
  | coreParity (core : Fin 40)
  | pairClock (pair : Fin 20)
  | crcCore (core : Fin 40)
  | crcEngine (q : Fin 4)
  | crcSieve
  | feltParity (slice : Fin 4) (bank : Fin 16)
  | hopParity (hop : Nat)
  | frameTag (store : Nat)
  | tallyDup (bank : Nat)
  | dramSecded
  | crcUnit (n : Nat)
  | engineChecked (q : Fin 4)
  | sieveChecked
  | fabricClock
  | deadlineMonitor
deriving DecidableEq, Repr

/-- What the patrol finds in the next line (R183). -/
inductive LineError where
  | none
  | single
  | double
deriving DecidableEq, Repr

/-- An SRAM frame: of a core's sheet store or of a felt slice (R155). -/
inductive SramFrame where
  | sheet (core : Fin 40) (frame : Fin 64)
  | felt (slice : Fin 4) (frame : Fin 384)
deriving DecidableEq, Repr

/-- What the felt reserve holds for a variant of the proof tile: its expected signature under its own CRC-32C (R335). -/
structure ProofRef where
  variant : Fin 16
  sig : Word
  crc : Word
deriving DecidableEq, Repr

/-- An Ethernet frame at H0 or H1 (R390): source address, VLAN tag if any, EtherType and payload, and whether its FCS is good (R525). -/
structure HostFrame where
  src : BitVec 48
  vid : Option (BitVec 12)
  ethertype : BitVec 16
  payload : Bytes
  fcsOk : Bool
deriving DecidableEq, Repr

/-- An Ethernet frame at a sensor port (R193): its bytes from the destination address on, and whether its FCS is good (R525). -/
structure SensorFrame where
  bytes : Bytes
  fcsOk : Bool
deriving DecidableEq, Repr

/-- What a fast comparator of the regulators sees (R474): the rail, in the order VCORE, VFAB, VDRAM, VOPT, VAON, and its current in mA. -/
structure RailPeak where
  rail : Fin 5
  mA : Nat
deriving DecidableEq, Repr

/-- One millisecond of regulator measurements (R465): input in mV and units of 10 mA, then VCORE, VFAB, VDRAM, VOPT, VAON,
and the DRAM temperature in °C (R484). -/
structure PowerSample where
  vin : Nat
  iin : Nat
  rails : List (Nat × Nat)
  dramTemp : Int
deriving DecidableEq, Repr

/-- A gPTP measurement (R423): the port (0-7 S0-S7, 8 H0, 9 H1) and domain on which it came, the grandmaster, the measured
offset in ns, and whether the frame's FCS is good (R525). -/
structure GptpMsg where
  port : Nat
  domain : Nat
  gm : BitVec 64
  offset : Int
  fcsOk : Bool
deriving DecidableEq, Repr

/-- Who sends a register write: the port and the SESSION of the request (R405). -/
structure Sender where
  port : Fin 2
  session : Word
deriving DecidableEq, Repr

/-- Why a start fails (R441). -/
inductive FailCause where
  | imageCheck
  | training
  | firmwareLoad
  | notReady
  | escalation
deriving DecidableEq, Repr

/-- What a start found on its way (R181, R431, R436, R437, R439), as far as it came: cores that failed the core test, SRAM frames that failed
the full SRAM self-test, the DRAM temperature in °C, pattern chunks skipped for a flash error. -/
structure StartReport where
  failed : List (Fin 40)
  retired : List SramFrame
  dramTemp : Int
  skipped : Nat
deriving DecidableEq, Repr

/-- A start that fails (R441): why, the last step of the start that it reached, and what it found as far as it came. -/
structure StartFailure where
  why : FailCause
  reached : Fin 10
  found : StartReport
deriving DecidableEq, Repr

/-- A start that hangs (R441): the instant at which the ROM watchdog ends it, the last step that it reached, and what it found as far as it came. -/
structure StartHang where
  t : Nat
  reached : Fin 10
  found : StartReport
deriving DecidableEq, Repr


/-- The commands. -/
inductive Instr where
  | supplyInRange (t : Nat)
  | supplyOff (t : Nat)
  | supplyEmergency (t : Nat)
  | supplyEmergencyClear (t : Nat)
  | currentEmergency (t : Nat) (peak : RailPeak)
  | currentEmergencyClear (t : Nat) (rail : Fin 5)
  | thermalThrottleStart (t : Nat) (sensor : Fin 16) (temp : Int)
  | thermalThrottleStep (t : Nat) (q : Fin 4)
  | thermalThrottleClear (t : Nat) (q : Fin 4) (temps : List Int)
  | thermalShutdown (t : Nat) (sensor : Fin 16) (temp : Int)
  | powerLoop (t : Nat) (m : PowerSample)
  | thermalLoop (t : Nat) (q : Fin 4) (temps : List Int)
  | heavyPhaseHintWindow (t : Nat) (p : Fin 8) (idx : Nat)
  | fillerUpdate (t : Nat) (iWork : Nat)
  | stepTick (t : Nat) (p : Fin 8)
  | holdAssembly (t : Nat) (p : Fin 8) (group : Fin 16)
  | holdLimitExpiry (t : Nat) (ch : Fin 32)
  | workItemStart (t : Nat) (q : QueueId)
  | workItemComplete (t : Nat) (q : QueueId)
  | publicationDeadline (t : Nat) (p : Fin 8)
  | shedTimeout (t : Nat) (p : Fin 8)
  | vatPacketRx (t : Nat) (port : Fin 8) (frame : SensorFrame)
  | decoderTake (t : Nat) (raw : Bool)
  | decodeComplete (t : Nat) (ch : Fin 32) (slot : Fin 8)
  | decodeBudgetExpiry (t : Nat) (ch : Fin 32) (slot : Fin 8)
  | shapingStageComplete (t : Nat) (ch : Fin 32) (slot : Fin 8)
  | handoverWriteComplete (t : Nat) (p : Fin 8) (input : Fin 15) (pos : Fin 64)
  | endHold (t : Nat) (w : Sender) (ch : Fin 32)
  | gptpMessage (t : Nat) (m : GptpMsg)
  | syncLossTimeout (t : Nat)
  | holdoverExpiry (t : Nat)
  | displayPictureSent (t : Nat) (stream : Fin 4)
  | pageFault (t : Nat) (p : Fin 8) (vpn : Nat)
  | pageFillComplete (t : Nat) (p : Fin 8) (vpn : Nat)
  | prefetchServe (t : Nat) (p : Fin 8)
  | translationError (t : Nat) (q : QueueId) (va : Nat) (write : Bool)
  | sramParityError (t : Nat) (frame : SramFrame) (second : Bool) (by_ : Option QueueId)
  | fabricParityError (t : Nat) (second : Bool) (by_ : Option QueueId)
  | dramEccError (t : Nat) (frame : Nat) (double : Bool) (by_ : Option QueueId)
  | poisonedAccess (t : Nat) (q : QueueId) (va : Nat)
  | patrolScrub (t : Nat) (err : LineError)
  | hawkParityError (t : Nat) (core : Fin 40)
  | comparatorMismatch (t : Nat) (pair : Fin 20) (cls : Fin 7)
  | proofVerdict (t : Nat) (core : Fin 40) (result : Bytes) (ref : ProofRef)
  | proofTimeout (t : Nat) (core : Fin 40)
  | spectralMismatch (t : Nat) (q : Fin 4)
  | sieveCheckedMismatch (t : Nat) (p : Fin 8)
  | frameTagMismatch (t : Nat) (q : QueueId)
  | tallyDuplicateMismatch (t : Nat) (p : Fin 8)
  | workItemCrcMismatch (t : Nat) (q : QueueId)
  | clockMonitorCheck (t : Nat) (pll : Fin 21) (ppm : Int)
  | spDecision (t : Nat) (p : Fin 8)
  | backstopDeclaration (t : Nat) (p : Fin 8)
  | strikeExpiry (t : Nat) (u : UnitId)
  | spLockstepMismatch (t : Nat)
  | spHoldDegraded (t : Nat)
  | spHoldLimit (t : Nat)
  | sentinelWord (t : Nat) (tap : BitVec 16)
  | safeClear (t : Nat) (w : Sender) (pmask : BitVec 8)
  | checkerRotationStart (t : Nat)
  | checkerTestResult (t : Nat) (c : Checker) (ok : Bool)
  | rotationLate (t : Nat)
  | chunkGrant (t : Nat) (core : Fin 40)
  | chunkComplete (t : Nat) (core : Fin 40) (pass : Bool)
  | coverageOverdue (t : Nat) (core : Fin 40)
  | coverageRunComplete (t : Nat) (core : Fin 40) (pass : Bool)
  | stVerify (t : Nat) (w : Sender)
  | patternSetVerified (t : Nat)
  | stActivate (t : Nat) (w : Sender)
  | discard (t : Nat) (w : Sender)
  | stFence (t : Nat) (w : Sender)
  | regReq (t : Nat) (port : Fin 2) (f : HostFrame)
  | bulkRead (t : Nat) (port : Fin 2) (f : HostFrame)
  | bulkWrite (t : Nat) (port : Fin 2) (f : HostFrame)
  | flashProgramComplete (t : Nat)
  | claim (t : Nat) (port : Fin 2)
  | takeover (t : Nat) (port : Fin 2)
  | release (t : Nat) (w : Sender)
  | claimReset (t : Nat) (port : Fin 2) (takeover : Bool)
  | heartbeat (t : Nat) (w : Sender) (value : Word)
  | heartbeatTimeout (t : Nat)
  | pageCommit (t : Nat) (w : Sender) (page : Nat) (token : BitVec 16)
  | commitSafePoint (t : Nat) (page : Nat)
  | revert (t : Nat) (w : Sender) (page : Nat)
  | pageErrClear (t : Nat) (w : Sender) (page : Nat)
  | counterClear (t : Nat) (w : Sender) (page : Nat)
  | ptIndexLatch (t : Nat) (w : Sender) (p : Fin 8) (vpn : Word)
  | instarIndexLatch (t : Nat) (w : Sender) (index : BitVec 12)
  | stIndexLatch (t : Nat) (w : Sender) (core : BitVec 6)
  | pwrPairIndexLatch (t : Nat) (w : Sender) (pair : BitVec 5)
  | stallyIndexLatch (t : Nat) (w : Sender) (index : BitVec 12)
  | tallyWAdd (t : Nat) (w : Sender) (p : Fin 8) (value : Word)
  | sieveHostRdWrite (t : Nat) (w : Sender) (p : Fin 8) (value : Word)
  | load (t : Nat) (w : Sender) (p : Fin 8)
  | unload (t : Nat) (w : Sender) (p : Fin 8)
  | launch (t : Nat) (w : Sender) (p : Fin 8)
  | stop (t : Nat) (w : Sender) (p : Fin 8)
  | seqOpen (t : Nat) (w : Sender) (p : Fin 8)
  | seqRetire (t : Nat) (w : Sender) (p : Fin 8)
  | verify (t : Nat) (w : Sender)
  | slotVerified (t : Nat)
  | activate (t : Nat) (w : Sender)
  | activationDeferredStart (t : Nat)
  | cancel (t : Nat) (w : Sender)
  | start (t : Nat) (w : Sender)
  | sleep (t : Nat) (w : Sender)
  | secBurn (t : Nat) (w : Sender)
  | hostReady (t : Nat) (found : StartReport)
  | startFailed (t : Nat) (failure : StartFailure)
  | romWatchdog (hang : StartHang)
  | startGood (t : Nat)
  | wakLightWake (t : Nat)
  | sleepTimerExpiry (t : Nat)
  | wakePattern (t : Nat)
  | restart (t : Nat) (w : Sender) (proc : Fin 3) (dump : Bool)
  | procWatchdogExpiry (t : Nat) (proc : Fin 3)
  | fatalTrap (t : Nat) (proc : Fin 3)
  | procRestartComplete (t : Nat) (proc : Fin 3)
  | restartEscalation (t : Nat) (proc : Fin 3) (badHash : Bool)
  | dumpCopy (t : Nat) (proc : Fin 3)
  | logCopy (t : Nat)
  | helloSend (t : Nat) (link : Fin 4)
  | hello (t : Nat) (link : Fin 4) (frame : Bytes)
  | linkTimeout (t : Nat) (link : Fin 4)
  | data (t : Nat) (link : Fin 4) (frame : Bytes)
  | ack (t : Nat) (link : Fin 4) (frame : Bytes)
  | nack (t : Nat) (link : Fin 4) (frame : Bytes)
  | retryTimeout (t : Nat) (link : Fin 4)
  | ackIdleTimeout (t : Nat) (link : Fin 4)
  | portLinkTrained (t : Nat) (port : Fin 14)
  | portLinkLost (t : Nat) (port : Fin 14)
  | hostFrameDrop (t : Nat) (port : Fin 2) (f : HostFrame)
  | spectralParityError (t : Nat) (q : Fin 4)
  | displayEncoderFault (t : Nat) (stream : Fin 4)
  | aonSensorRead (t : Nat) (temp : Int)
  | wakLitChange (t : Nat) (lit : Bool)
deriving DecidableEq, Repr

end Sys2Proof
end

