-- ==== Sys2Proof/Config.lean ====
section
/-! DEFINITION. What the spec leaves open, as constants without a body: nothing can evaluate them or prove a value of them, so
a claim holds whatever they are. Each is named in the assumption log. -/

namespace Sys2Proof

/-- The n-th free value that a run takes (DESIGN CHOICE, log entry 2). `State.fresh` counts them. -/
opaque Config.free : Nat → Nat

/-- The Y, U and V planes that every JPEG decoder of the TK1 produces from the same frame data (R231; DESIGN CHOICE, log entry 12):
width and height of the chroma planes, then the samples. `none` when entropy data or markers are not valid (check 10 of R208). -/
opaque Config.jpegDecode : Bytes → Option (Nat × Nat × List Nat × List Nat × List Nat)

/-- The quantised coefficients, row by row, that the display encoder's DCT gives an 8 × 8 block under a quantisation table: the standard bounds an
encoder's arithmetic and does not fix it (R283, R284: outside the determinism contract; DESIGN CHOICE, log entry 74). -/
opaque Config.dctBlock : List Nat → List Nat → List Int

/-- The fused estimate of the filler current of one core, in mA, at a FREQ_STEP and an intensity of n sixteenths
(R476: fused coefficients; DESIGN CHOICE, log entry 15). -/
opaque Config.fillerCurrent : Nat → Nat → Nat

/-- The fused V/f table: the lowest VCORE in mV at which a FREQ_STEP runs (R466; DESIGN CHOICE, log entry 15). -/
opaque Config.vfTable : Nat → Nat

/-- How many fabric hop receivers the checker rotation tests (R367: no chapter gives the number; DESIGN CHOICE, log entry 16). -/
opaque Config.hopReceivers : Nat
/-- The tallies are one bank (R14). -/
def Config.tallyBanks : Nat := 1

end Sys2Proof
end

