-- ==== Sys2Proof/Machine/Operands.lean ====
section
/-! DEFINITION. Operand forms: bit fields, little-endian structures of the memories (R7) and big-endian frames of the fibres (R6). -/

namespace Sys2Proof.Machine

/-- Bits [hi:lo] of a number (00_scope.md: bit 0 is the least significant bit). -/
def bits (w hi lo : Nat) : Nat := w / 2 ^ lo % 2 ^ (hi + 1 - lo)

/-- Whether bit i is 1. -/
def bit (w i : Nat) : Bool := w.testBit i

/-- 1 for true. -/
def b2n (b : Bool) : Nat := if b then 1 else 0

/-- Little-endian number of bytes (R7). -/
def leNat : Bytes → Nat
  | [] => 0
  | b :: r => b.toNat + 256 * leNat r

/-- Big-endian number of bytes (R6). -/
def beNat (bs : Bytes) : Nat := bs.foldl (fun a b => a * 256 + b.toNat) 0

/-- n bytes of a list from an offset; missing bytes are left out. -/
def slice (bs : Bytes) (off n : Nat) : Bytes := (bs.drop off).take n

/-- Little-endian field of n bytes at an offset. -/
def le (bs : Bytes) (off n : Nat) : Nat := leNat (slice bs off n)

/-- Big-endian field of n bytes at an offset. -/
def be (bs : Bytes) (off n : Nat) : Nat := beNat (slice bs off n)

/-- The n bytes of a number, least significant first. -/
def toLE : Nat → Nat → Bytes
  | 0, _ => []
  | n + 1, v => BitVec.ofNat 8 v :: toLE n (v / 256)

/-- The n bytes of a number, most significant first. -/
def toBE (n v : Nat) : Bytes := (toLE n v).reverse

/-- 32-bit word i of a structure (R7). -/
def word (bs : Bytes) (i : Nat) : Nat := le bs (4 * i) 4

/-- Element i of a list of naturals, 0 beyond its end. -/
def nth (l : List Nat) (i : Nat) : Nat := l.getD i 0

/-- Quotient rounded up. -/
def ceilDiv (a b : Nat) : Nat := (a + b - 1) / b

/-- The first failing check of a table in order: its error code; none when all hold (the checks name what is wrong). -/
def firstFailure : List (Bool × Nat) → Option Nat
  | [] => none
  | (bad, code) :: r => if bad then some code else firstFailure r

/-- The list 0, 1, …, n-1 made by structural recursion. -/
def upto (n : Nat) : List Nat := List.range n

end Sys2Proof.Machine
end

