-- ==== Sys2Proof/Machine/Jpeg.lean ====
section
/-! DEFINITION. The display encoder's JPEG (R283): the JFIF matrix, 4:2:0 averages, RFC 2435's quantisation tables, the typical Huffman tables of
ISO/IEC 10918-1 and baseline coding. What the standards leave to an encoder is open: the quantised coefficients of a block
(Config.dctBlock).
Readings: log entry 13 (PRESUMED). -/

namespace Sys2Proof.Machine

/-! ### Samples -/

/-- BT.601 full range with 8-bit rounding (JFIF, ITU-T T.871). -/
def toYcc (r g b : Nat) : Nat × Nat × Nat :=
  let cl (v : Int) : Nat := (max 0 (min 255 v)).toNat
  (min 255 ((299 * r + 587 * g + 114 * b + 500) / 1000),
   cl ((2 * (886 * (b : Int) - 299 * r - 587 * g) + 1772).fdiv 3544 + 128),
   cl ((2 * (701 * (r : Int) - 587 * g - 114 * b) + 1402).fdiv 2804 + 128))

/-- A plane of samples. -/
structure SamplePlane where
  w : Nat
  px : Array Nat
deriving DecidableEq, Repr

def SamplePlane.at (p : SamplePlane) (x y : Nat) : Nat := p.px.getD (y * p.w + x) 0

/-- Halve a plane by rounded averages of 2 × 2 samples. -/
def SamplePlane.half (p : SamplePlane) (h : Nat) : SamplePlane :=
  ⟨p.w / 2, ((List.range (h / 2)).flatMap (fun y => (List.range (p.w / 2)).map (fun x =>
    (p.at (2 * x) (2 * y) + p.at (2 * x + 1) (2 * y) + p.at (2 * x) (2 * y + 1) + p.at (2 * x + 1) (2 * y + 1) + 2) / 4))).toArray⟩

/-- The 8 × 8 block whose first sample is (x, y), row by row. -/
def SamplePlane.block (p : SamplePlane) (x y : Nat) : List Nat := (List.range 64).map (fun i => p.at (x + i % 8) (y + i / 8))

/-! ### Tables -/

/-- RFC 2435, Table K.1 and K.2 of ISO/IEC 10918-1, row by row. -/
def lumaBase : List Nat :=
  [16, 11, 10, 16, 24, 40, 51, 61, 12, 12, 14, 19, 26, 58, 60, 55, 14, 13, 16, 24, 40, 57, 69, 56, 14, 17, 22, 29, 51, 87, 80, 62]
  ++ [18, 22, 37, 56, 68, 109, 103, 77, 24, 35, 55, 64, 81, 104, 113, 92, 49, 64, 78, 87, 103, 121, 120, 101, 72, 92, 95, 98, 112, 100, 103, 99]
def chromaBase : List Nat :=
  [17, 18, 24, 47, 99, 99, 99, 99, 18, 21, 26, 66, 99, 99, 99, 99, 24, 26, 56, 99, 99, 99, 99, 99, 47, 66, 99, 99, 99, 99, 99, 99]
  ++ List.replicate 32 99

/-- RFC 2435's tables for a quality of 1 to 99. -/
def quantTable (q : Nat) (base : List Nat) : List Nat :=
  let f := if q < 50 then 5000 / q else 200 - 2 * q
  base.map (fun v => max 1 (min 255 ((v * f + 50) / 100)))

/-- Zigzag order: the place in the block of each coefficient sent. -/
def zigzag : List Nat :=
  [0, 1, 8, 16, 9, 2, 3, 10, 17, 24, 32, 25, 18, 11, 4, 5, 12, 19, 26, 33, 40, 48, 41, 34, 27, 20, 13, 6, 7, 14, 21, 28]
  ++ [35, 42, 49, 56, 57, 50, 43, 36, 29, 22, 15, 23, 30, 37, 44, 51, 58, 59, 52, 45, 38, 31, 39, 46, 53, 60, 61, 54, 47, 55, 62, 63]

/-- A Huffman table: how many codes of each length from 1 to 16, and the symbols in order (Tables K.3 to K.6). -/
structure Huff where
  counts : List Nat
  symbols : List Nat
deriving DecidableEq, Repr

def dcLuma : Huff := ⟨[0, 1, 5, 1, 1, 1, 1, 1, 1, 0, 0, 0, 0, 0, 0, 0], List.range 12⟩
def dcChroma : Huff := ⟨[0, 3, 1, 1, 1, 1, 1, 1, 1, 1, 1, 0, 0, 0, 0, 0], List.range 12⟩
def acLuma : Huff := ⟨[0, 2, 1, 3, 3, 2, 4, 3, 5, 5, 4, 4, 0, 0, 1, 125],
  [0x01, 0x02, 0x03, 0x00, 0x04, 0x11, 0x05, 0x12, 0x21, 0x31, 0x41, 0x06, 0x13, 0x51, 0x61, 0x07, 0x22, 0x71, 0x14, 0x32, 0x81, 0x91, 0xA1, 0x08]
  ++ [0x23, 0x42, 0xB1, 0xC1, 0x15, 0x52, 0xD1, 0xF0, 0x24, 0x33, 0x62, 0x72, 0x82, 0x09, 0x0A, 0x16, 0x17, 0x18, 0x19, 0x1A, 0x25, 0x26, 0x27, 0x28]
  ++ [0x29, 0x2A, 0x34, 0x35, 0x36, 0x37, 0x38, 0x39, 0x3A, 0x43, 0x44, 0x45, 0x46, 0x47, 0x48, 0x49, 0x4A, 0x53, 0x54, 0x55, 0x56, 0x57, 0x58, 0x59]
  ++ [0x5A, 0x63, 0x64, 0x65, 0x66, 0x67, 0x68, 0x69, 0x6A, 0x73, 0x74, 0x75, 0x76, 0x77, 0x78, 0x79, 0x7A, 0x83, 0x84, 0x85, 0x86, 0x87, 0x88, 0x89]
  ++ [0x8A, 0x92, 0x93, 0x94, 0x95, 0x96, 0x97, 0x98, 0x99, 0x9A, 0xA2, 0xA3, 0xA4, 0xA5, 0xA6, 0xA7, 0xA8, 0xA9, 0xAA, 0xB2, 0xB3, 0xB4, 0xB5, 0xB6]
  ++ [0xB7, 0xB8, 0xB9, 0xBA, 0xC2, 0xC3, 0xC4, 0xC5, 0xC6, 0xC7, 0xC8, 0xC9, 0xCA, 0xD2, 0xD3, 0xD4, 0xD5, 0xD6, 0xD7, 0xD8, 0xD9, 0xDA, 0xE1, 0xE2]
  ++ [0xE3, 0xE4, 0xE5, 0xE6, 0xE7, 0xE8, 0xE9, 0xEA, 0xF1, 0xF2, 0xF3, 0xF4, 0xF5, 0xF6, 0xF7, 0xF8, 0xF9, 0xFA]⟩
def acChroma : Huff := ⟨[0, 2, 1, 2, 4, 4, 3, 4, 7, 5, 4, 4, 0, 1, 2, 119],
  [0x00, 0x01, 0x02, 0x03, 0x11, 0x04, 0x05, 0x21, 0x31, 0x06, 0x12, 0x41, 0x51, 0x07, 0x61, 0x71, 0x13, 0x22, 0x32, 0x81, 0x08, 0x14, 0x42, 0x91]
  ++ [0xA1, 0xB1, 0xC1, 0x09, 0x23, 0x33, 0x52, 0xF0, 0x15, 0x62, 0x72, 0xD1, 0x0A, 0x16, 0x24, 0x34, 0xE1, 0x25, 0xF1, 0x17, 0x18, 0x19, 0x1A, 0x26]
  ++ [0x27, 0x28, 0x29, 0x2A, 0x35, 0x36, 0x37, 0x38, 0x39, 0x3A, 0x43, 0x44, 0x45, 0x46, 0x47, 0x48, 0x49, 0x4A, 0x53, 0x54, 0x55, 0x56, 0x57, 0x58]
  ++ [0x59, 0x5A, 0x63, 0x64, 0x65, 0x66, 0x67, 0x68, 0x69, 0x6A, 0x73, 0x74, 0x75, 0x76, 0x77, 0x78, 0x79, 0x7A, 0x82, 0x83, 0x84, 0x85, 0x86, 0x87]
  ++ [0x88, 0x89, 0x8A, 0x92, 0x93, 0x94, 0x95, 0x96, 0x97, 0x98, 0x99, 0x9A, 0xA2, 0xA3, 0xA4, 0xA5, 0xA6, 0xA7, 0xA8, 0xA9, 0xAA, 0xB2, 0xB3, 0xB4]
  ++ [0xB5, 0xB6, 0xB7, 0xB8, 0xB9, 0xBA, 0xC2, 0xC3, 0xC4, 0xC5, 0xC6, 0xC7, 0xC8, 0xC9, 0xCA, 0xD2, 0xD3, 0xD4, 0xD5, 0xD6, 0xD7, 0xD8, 0xD9, 0xDA]
  ++ [0xE2, 0xE3, 0xE4, 0xE5, 0xE6, 0xE7, 0xE8, 0xE9, 0xEA, 0xF2, 0xF3, 0xF4, 0xF5, 0xF6, 0xF7, 0xF8, 0xF9, 0xFA]⟩

/-- The codes of a table in order: code, length and symbol (Annex C). -/
def huffCodes : List Nat → Nat → Nat → List Nat → List (Nat × Nat × Nat)
  | [], _, _, _ => []
  | n :: ns, len, code, syms =>
    (syms.take n).zipIdx.map (fun e => (code + e.2, len, e.1)) ++ huffCodes ns (len + 1) (2 * (code + n)) (syms.drop n)

/-- A field of bits: value and width. -/
abbrev Bits := Nat × Nat

def Huff.code (t : Huff) (sym : Nat) : Bits :=
  match (huffCodes t.counts 1 0 t.symbols).find? (fun e => e.2.2 == sym) with
  | some e => (e.1, e.2.1)
  | none => (0, 0)

/-! ### Coding (Annex F) -/

/-- The number of bits of a magnitude. -/
def category (v : Int) : Nat := if v = 0 then 0 else v.natAbs.log2 + 1
/-- The additional bits of a value of a category. -/
def magnitude (v : Int) : Bits := let n := category v; (if v < 0 then (v + 2 ^ n - 1).toNat else v.toNat, n)

/-- The AC coefficients in zigzag order, after a run of zeros. -/
def codeAc (t : Huff) : Nat → List Int → List Bits
  | _, [] => []
  | run, v :: r =>
    if (v :: r).all (fun x => x == 0) then [t.code 0]
    else if v = 0 then codeAc t (run + 1) r
    else List.replicate (run / 16) (t.code 0xF0) ++ t.code (run % 16 * 16 + category v) :: magnitude v :: codeAc t 0 r

/-- A block's quantised coefficients in zigzag order, within the ranges of baseline coding. -/
def coefficients (q : List Nat) (block : List Nat) : List Int :=
  let c := Config.dctBlock q block
  let lim (lo hi v : Int) : Int := max lo (min hi v)
  zigzag.zipIdx.map (fun z => lim (if z.2 = 0 then -1024 else -1023) 1023 (c.getD z.1 0))

/-- Code blocks one after the other: table number of each (0 Y, 1 Cb, 2 Cr) and its coefficients, with the DC predictions. -/
def codeBlocks : List (Nat × List Int) → Int × Int × Int → List Bits
  | [], _ => []
  | (k, c) :: r, (py, pb, pr) =>
    let dc := c.headD 0
    let d := dc - (if k = 0 then py else if k = 1 then pb else pr)
    let (td, ta) := if k = 0 then (dcLuma, acLuma) else (dcChroma, acChroma)
    td.code (category d) :: magnitude d :: codeAc ta 0 (c.drop 1)
      ++ codeBlocks r (if k = 0 then (dc, pb, pr) else if k = 1 then (py, dc, pr) else (py, pb, dc))

/-- Bytes of a bit string, the last one filled with ones, a zero byte after each 0xFF. -/
def packBits : List Bits → Nat → Nat → Bytes
  | [], _, 0 => []
  | [], acc, n + 1 => let b := acc * 2 ^ (7 - n) + (2 ^ (7 - n) - 1); if b = 0xFF then [0xFF, 0] else [BitVec.ofNat 8 b]
  | (v, w) :: r, acc, n =>
    let acc := acc * 2 ^ w + v
    let n := n + w
    let k := n / 8
    let out := (List.range k).flatMap (fun i => let b := acc / 2 ^ (n - 8 * (i + 1)) % 256; if b = 0xFF then [0xFF, 0] else [BitVec.ofNat 8 b])
    out ++ packBits r (acc % 2 ^ (n % 8)) (n % 8)

/-- The scan of a picture whose sides are multiples of 16: of each MCU four blocks of Y, one of Cb, one of Cr. -/
def scanBytes (q w h : Nat) (px : List (Nat × Nat × Nat)) : Bytes :=
  let ycc := px.map (fun p => toYcc p.1 p.2.1 p.2.2)
  let y : SamplePlane := ⟨w, (ycc.map (·.1)).toArray⟩
  let cb := (SamplePlane.mk w (ycc.map (·.2.1)).toArray).half h
  let cr := (SamplePlane.mk w (ycc.map (·.2.2)).toArray).half h
  let (ql, qc) := (quantTable q lumaBase, quantTable q chromaBase)
  let blocks := (List.range (h / 16)).flatMap (fun j => (List.range (w / 16)).flatMap (fun i =>
    let (x, z) := (16 * i, 16 * j)
    [(0, coefficients ql (y.block x z)), (0, coefficients ql (y.block (x + 8) z)), (0, coefficients ql (y.block x (z + 8))),
     (0, coefficients ql (y.block (x + 8) (z + 8))), (1, coefficients qc (cb.block (8 * i) (8 * j))), (2, coefficients qc (cr.block (8 * i) (8 * j)))]))
  packBits (codeBlocks blocks (0, 0, 0)) 0 0

/-! ### Segments -/

/-- A marker segment. -/
def segment (marker : Nat) (body : Bytes) : Bytes := toBE 2 (0xFF00 + marker) ++ toBE 2 (2 + body.length) ++ body
def huffSegment (cls : Nat) (t : Huff) : Bytes := segment 0xC4 (toBE 1 cls ++ (t.counts ++ t.symbols).flatMap (toBE 1))

/-- The frame data of a picture: SOI, the COM segment at once, the segments in RFC 2435's order, the scan, EOI. -/
def jpegFile (q w h : Nat) (comment : Bytes) (px : List (Nat × Nat × Nat)) : Bytes :=
  let dqt (k : Nat) (base : List Nat) : Bytes := let t := quantTable q base; segment 0xDB (toBE 1 k ++ zigzag.flatMap (fun z => toBE 1 (t.getD z 0)))
  toBE 2 0xFFD8 ++ segment 0xFE comment ++ dqt 0 lumaBase ++ dqt 1 chromaBase
  ++ segment 0xC0 (toBE 1 8 ++ toBE 2 h ++ toBE 2 w ++ [3, 0, 0x22, 0, 1, 0x11, 1, 2, 0x11, 1])
  ++ huffSegment 0x00 dcLuma ++ huffSegment 0x10 acLuma ++ huffSegment 0x01 dcChroma ++ huffSegment 0x11 acChroma
  ++ segment 0xDA [3, 0, 0x00, 1, 0x11, 2, 0x11, 0, 63, 0] ++ scanBytes q w h px ++ toBE 2 0xFFD9

end Sys2Proof.Machine
end

