-- ==== Sys2Proof/Machine/Fp.lean ====
section
/-! DEFINITION. Number formats, rounding and the FP32 operations (R28-R49 of 02_numbers.md). Values are computed exactly and
narrowed once. -/

namespace Sys2Proof.Machine

/-- The value of a floating encoding: NaN, an infinity, or (-1)^neg * m * 2^e. -/
inductive FVal where
  | nan
  | inf (neg : Bool)
  | fin (neg : Bool) (m : Nat) (e : Int)
deriving DecidableEq, Repr

/-- A floating format: widths of the exponent and mantissa fields, bias, and whether it has infinities (E4M3 has none) (R28). -/
structure FloatFormat where
  ebits : Nat
  mbits : Nat
  bias : Nat
  hasInf : Bool
deriving DecidableEq, Repr

def e4m3 : FloatFormat := ⟨4, 3, 7, false⟩
def e5m2 : FloatFormat := ⟨5, 2, 15, true⟩
def fp16 : FloatFormat := ⟨5, 10, 15, true⟩
def bf16 : FloatFormat := ⟨8, 7, 127, true⟩
def fp32 : FloatFormat := ⟨8, 23, 127, true⟩

/-- The exponent of the last bit of a subnormal of the format. -/
def FloatFormat.lsbExp (F : FloatFormat) : Int := 1 - (F.bias : Int) - (F.mbits : Int)

/-- The value of an encoding (R29). -/
def decodeFloat (F : FloatFormat) (w : Nat) : FVal :=
  let neg := w.testBit (F.ebits + F.mbits)
  let e := (w >>> F.mbits) % 2 ^ F.ebits
  let m := w % 2 ^ F.mbits
  if e = 2 ^ F.ebits - 1 ∧ F.hasInf then (if m = 0 then .inf neg else .nan)
  else if e = 2 ^ F.ebits - 1 ∧ m = 2 ^ F.mbits - 1 then .nan
  else if e = 0 then .fin neg m F.lsbExp
  else .fin neg (2 ^ F.mbits + m) ((e : Int) - F.bias - F.mbits)

/-- The canonical NaN of a format (R32). -/
def canonicalNaN (F : FloatFormat) : Nat :=
  if F.hasInf then (2 ^ F.ebits - 1) * 2 ^ F.mbits + 2 ^ (F.mbits - 1) else 2 ^ (F.ebits + F.mbits) - 1

/-- The largest finite magnitude of a format, as an encoding without sign. -/
def largestFinite (F : FloatFormat) : Nat :=
  if F.hasInf then (2 ^ F.ebits - 1) * 2 ^ F.mbits - 1 else 2 ^ (F.ebits + F.mbits) - 2

/-- Divide a magnitude by 2^sh and round: to nearest, ties to even, or with `rna` ties away from zero (R44). -/
def roundMag (rna : Bool) (m sh : Nat) : Nat :=
  if sh = 0 then m else
  let fl := m >>> sh
  let rem := m % 2 ^ sh
  let half := 2 ^ (sh - 1)
  if half < rem then fl + 1
  else if rem < half then fl
  else if rna then fl + 1 else fl + fl % 2

/-- Round a magnitude m * 2^e to a mantissa width with a smallest last-bit exponent and no upper bound (step 3 of R46). -/
def roundTo (rna : Bool) (F : FloatFormat) (m : Nat) (e : Int) : Nat × Int :=
  if m = 0 then (0, F.lsbExp) else
  let q := max (e + (Nat.log2 m : Int) - F.mbits) F.lsbExp
  if q ≤ e then (m * 2 ^ (e - q).toNat, q)
  else
    let r := roundMag rna m (q - e).toNat
    if r = 2 ^ (F.mbits + 1) then (2 ^ F.mbits, q + 1) else (r, q)

/-- What an overflow becomes (R47). -/
inductive OvfRule where
  | saturate
  | infinity
deriving DecidableEq, Repr

/-- Encode a value in a format after one rounding (R46 steps 1-4, R47). -/
def encodeFloat (rna : Bool) (ovf : OvfRule) (F : FloatFormat) (v : FVal) : Nat :=
  let sign (neg : Bool) := if neg then 2 ^ (F.ebits + F.mbits) else 0
  match v with
  | .nan => canonicalNaN F
  | .inf neg => if F.hasInf then sign neg + (2 ^ F.ebits - 1) * 2 ^ F.mbits else canonicalNaN F
  | .fin neg m e =>
    let (r, q) := roundTo rna F m e
    let code : Nat :=
      if r < 2 ^ F.mbits then r
      else (q + F.bias + F.mbits).toNat * 2 ^ F.mbits + (r - 2 ^ F.mbits)
    if code ≤ largestFinite F then sign neg + code
    else match ovf with
      | .saturate => sign neg + largestFinite F
      | .infinity => if F.hasInf then sign neg + (2 ^ F.ebits - 1) * 2 ^ F.mbits else canonicalNaN F

/-- Exact sum of two values; the sum of two zeros of opposite sign, and an exact cancellation, is +0 (R41). -/
def addVal : FVal → FVal → FVal
  | .nan, _ => .nan
  | _, .nan => .nan
  | .inf a, .inf b => if a = b then .inf a else .nan
  | .inf a, .fin _ _ _ => .inf a
  | .fin _ _ _, .inf b => .inf b
  | .fin na ma ea, .fin nb mb eb =>
    let e := min ea eb
    let a : Int := (ma * 2 ^ (ea - e).toNat : Nat)
    let b : Int := (mb * 2 ^ (eb - e).toNat : Nat)
    let s := (if na then -a else a) + (if nb then -b else b)
    if s = 0 then .fin (na && nb) 0 e else .fin (s < 0) s.natAbs e

/-- Exact product of two values (R37, R41). -/
def mulVal : FVal → FVal → FVal
  | .nan, _ => .nan
  | _, .nan => .nan
  | .inf a, .inf b => .inf (a != b)
  | .inf a, .fin b m _ => if m = 0 then .nan else .inf (a != b)
  | .fin a m _, .inf b => if m = 0 then .nan else .inf (a != b)
  | .fin a ma ea, .fin b mb eb => .fin (a != b) (ma * mb) (ea + eb)

/-- Change of sign. -/
def negVal : FVal → FVal
  | .nan => .nan
  | .inf n => .inf (!n)
  | .fin n m e => .fin (!n) m e

/-- The value of an integer. -/
def intVal (i : Int) : FVal := .fin (i < 0) i.natAbs 0

/-- The value of an FP32 word. -/
def fval (w : Word) : FVal := decodeFloat fp32 w.toNat

/-- Round a value to FP32, to nearest with ties to even; beyond the range it becomes an infinity (R40, R41). -/
def toFp32 (v : FVal) : Word := BitVec.ofNat 32 (encodeFloat false .infinity fp32 v)

/-- FP32 addition (R40). -/
def fadd (a b : Word) : Word := toFp32 (addVal (fval a) (fval b))
/-- FP32 subtraction (R40). -/
def fsub (a b : Word) : Word := toFp32 (addVal (fval a) (negVal (fval b)))
/-- FP32 multiplication (R40). -/
def fmul (a b : Word) : Word := toFp32 (mulVal (fval a) (fval b))
/-- Fused multiply-add a * b + c with one rounding (R40). -/
def ffma (a b c : Word) : Word := toFp32 (addVal (mulVal (fval a) (fval b)) (fval c))

/-- The FP32 word of an integer, one rounding (R42). -/
def fpOfInt (i : Int) : Word := toFp32 (intVal i)

/-- Change of the sign bit. -/
def fneg (a : Word) : Word := a ^^^ 0x80000000#32
/-- The magnitude. -/
def fabs (a : Word) : Word := a &&& 0x7FFFFFFF#32
/-- Whether a word is a NaN. -/
def isNaN (a : Word) : Bool := fval a == .nan

/-- Ordering key of two finite values or infinities: -1, 0 or 1; none when one is NaN. Zeros of either sign are equal. -/
def cmpVal : FVal → FVal → Option Int
  | .nan, _ => none
  | _, .nan => none
  | .inf a, .inf b => some (if a = b then 0 else if a then -1 else 1)
  | .inf a, .fin _ _ _ => some (if a then -1 else 1)
  | .fin _ _ _, .inf b => some (if b then 1 else -1)
  | .fin na ma ea, .fin nb mb eb =>
    let e := min ea eb
    let a : Int := (ma * 2 ^ (ea - e).toNat : Nat)
    let b : Int := (mb * 2 ^ (eb - e).toNat : Nat)
    let x := if na then -a else a
    let y := if nb then -b else b
    some (if x < y then -1 else if x = y then 0 else 1)

/-- a < b of FP32 words; false when either is NaN. -/
def flt (a b : Word) : Bool := cmpVal (fval a) (fval b) == some (-1)
/-- a ≤ b of FP32 words; false when either is NaN. -/
def fle (a b : Word) : Bool := match cmpVal (fval a) (fval b) with | some c => c ≤ 0 | none => false
/-- a = b of FP32 words; false when either is NaN. -/
def feq (a b : Word) : Bool := cmpVal (fval a) (fval b) == some 0

/-- The FP32 word of an exact quotient n/d of naturals, rounded once (used for division results). -/
def divVal : FVal → FVal → FVal
  | .nan, _ => .nan
  | _, .nan => .nan
  | .inf _, .inf _ => .nan
  | .inf a, .fin b _ _ => .inf (a != b)
  | .fin a _ _, .inf b => .fin (a != b) 0 0
  | .fin a ma ea, .fin b mb eb =>
    if mb = 0 then (if ma = 0 then .nan else .inf (a != b))
    else
      -- 64 more bits than the divisor and a sticky bit give the same single rounding as the exact quotient
      let k := Nat.log2 mb + 66
      let q := ma * 2 ^ k / mb
      let sticky := if ma * 2 ^ k % mb = 0 then 0 else 1
      .fin (a != b) (2 * q + sticky) (ea - eb - k - 1)

/-- FP32 division, one rounding. -/
def fdiv (a b : Word) : Word := toFp32 (divVal (fval a) (fval b))

/-- Divide an integer by 2^sh and round (the function of R53). -/
def roundShift (p : Int) (sh : Nat) (rna : Bool) : Int :=
  if sh = 0 then p else
  let fl := p.fdiv (2 ^ sh)
  let rem := p - fl * 2 ^ sh
  let half : Int := 2 ^ (sh - 1)
  if half < rem then fl + 1
  else if rem < half then fl
  else if rna then (if 0 ≤ p then fl + 1 else fl)
  else fl + fl.emod 2

/-- Clamp of an integer. -/
def clampInt (x lo hi : Int) : Int := if x < lo then lo else if hi < x then hi else x

/-- Saturation to INT32 (R38). -/
def satInt32 (x : Int) : Int := clampInt x (-2147483648) 2147483647

/-- A value rounded to an integer; infinities answer none with their sign kept by the caller (R49). -/
def roundInt (rna : Bool) (neg : Bool) (m : Nat) (e : Int) : Int :=
  let mag : Nat := if 0 ≤ e then m * 2 ^ e.toNat else roundMag rna m (-e).toNat
  if neg then -(mag : Int) else mag

/-- FP32 to an integer within bounds (R49): NaN gives 0, infinities lie beyond every integer. -/
def narrowInt (rna : Bool) (lo hi : Int) (w : Word) : Int :=
  match fval w with
  | .nan => 0
  | .inf neg => if neg then lo else hi
  | .fin neg m e => clampInt (roundInt rna neg m e) lo hi

/-- Narrow an FP32 word to a floating format (R46-R48): E4M3 and E5M2 results that are subnormal become zero. -/
def narrowFloat (rna : Bool) (ovf : OvfRule) (F : FloatFormat) (w : Word) : Nat :=
  let c := encodeFloat rna ovf F (fval w)
  let isFp8 := F.ebits + F.mbits = 7
  let mag := c % 2 ^ (F.ebits + F.mbits)
  if isFp8 ∧ mag < 2 ^ F.mbits then c - mag else c

/-- Two's complement value of the low n bits. -/
def sext (n : Nat) (w : Nat) : Int :=
  let v := w % 2 ^ n
  if v < 2 ^ (n - 1) then v else (v : Int) - 2 ^ n

/-- The low n bits of an integer. -/
def lowBits (n : Nat) (x : Int) : Nat := (x.emod (2 ^ n)).toNat

/-- The signed value of a register word. -/
def sval (w : Word) : Int := w.toInt

/-- The format codes of R51 in one list: code and width in bits. -/
inductive Fmt where
  | int4 | int8 | int32 | b4 | e4m3 | e5m2 | fp16 | bf16 | fp32 | ue4m4 | uq16
deriving DecidableEq, Repr

/-- The format of a code (R51). -/
def fmtOf (c : Nat) : Option Fmt :=
  match c with
  | 0x1 => some .int4 | 0x2 => some .int8 | 0x3 => some .int32 | 0x4 => some .b4
  | 0x5 => some .e4m3 | 0x6 => some .e5m2 | 0x7 => some .fp16 | 0x8 => some .bf16
  | 0x9 => some .fp32 | 0xA => some .ue4m4 | 0xB => some .uq16
  | _ => none

/-- Width in bits of an element (R28, R33). -/
def Fmt.bits : Fmt → Nat
  | .int4 => 4 | .b4 => 4 | .int8 => 8 | .e4m3 => 8 | .e5m2 => 8 | .ue4m4 => 8
  | .fp16 => 16 | .bf16 => 16 | .uq16 => 16
  | .int32 => 32 | .fp32 => 32

/-- The floating layout of a format that has one. -/
def Fmt.float : Fmt → Option FloatFormat
  | .e4m3 => some Machine.e4m3 | .e5m2 => some Machine.e5m2 | .fp16 => some Machine.fp16
  | .bf16 => some Machine.bf16 | .fp32 => some Machine.fp32
  | _ => none

/-- Whether the elements are integers. -/
def Fmt.isInt : Fmt → Bool
  | .int4 => true | .int8 => true | .int32 => true | .b4 => true
  | _ => false

/-- The exact value of an element of a format: integers by sign extension (R42), floats by R29, UE4M4 and UQ16 by R33. -/
def elemVal (f : Fmt) (w : Nat) : FVal :=
  match f with
  | .int4 | .b4 => intVal (sext 4 w)
  | .int8 => intVal (sext 8 w)
  | .int32 => intVal (sext 32 w)
  | .uq16 => .fin false (w % 65536) 0
  | .ue4m4 =>
    let e := w / 16 % 16
    let m := w % 16
    if e = 0 then .fin false m (-10) else .fin false (16 + m) ((e : Int) - 11)
  | .e4m3 => decodeFloat Machine.e4m3 w
  | .e5m2 => decodeFloat Machine.e5m2 w
  | .fp16 => decodeFloat Machine.fp16 w
  | .bf16 => decodeFloat Machine.bf16 w
  | .fp32 => decodeFloat Machine.fp32 w

/-- An element widened to FP32 (R42): exact, or one rounding for INT32. -/
def widen (f : Fmt) (w : Nat) : Word := toFp32 (elemVal f w)

/-- Integer value of an integer element. -/
def elemInt (f : Fmt) (w : Nat) : Int := sext f.bits w

end Sys2Proof.Machine
end

