-- ==== Sys2Proof/Machine/Compute.lean ====
section
/-! DEFINITION. How a work item computes: reads of its partition's virtual memory through a port, writes kept beside it until
they land (R84, R312: a replay or an abort leaves out what had not landed). -/

namespace Sys2Proof.Machine

/-- Why an access of a work item cannot be served. -/
inductive AccessErr where
  /-- no valid mapping, or a write to an RO page (R171) -/
  | translation (va : Nat) (write : Bool)
  /-- the page carries POISON (R176) -/
  | poisoned (va : Nat)
  /-- no access fails, but the array waits for a bank that never comes FREE (R74) -/
  | stalled
deriving DecidableEq, Repr

/-- What serves the accesses of a work item: a read of one byte of the partition's virtual memory, and whether a byte may be
written. -/
structure Port where
  rd : Nat → Except AccessErr Byte
  wr : Nat → Except AccessErr Unit

/-- A store of a work item: a byte, or one nibble of it (R75: the other nibble keeps its contents), by virtual address; `row` numbers the
output row or store that it belongs to, `hawk` says which unit makes it (R84, R90). -/
structure Put where
  va : Nat
  val : Byte
  /-- 0 the whole byte, 1 its low nibble, 2 its high nibble -/
  half : Nat
  row : Nat
  hawk : Bool
deriving DecidableEq, Repr

/-- What a store makes of the byte that it finds. -/
def Put.on (w : Put) (b : Byte) : Byte :=
  if w.half = 0 then w.val
  else if w.half = 1 then BitVec.ofNat 8 (b.toNat / 16 * 16 + w.val.toNat % 16)
  else BitVec.ofNat 8 (w.val.toNat % 16 * 16 + b.toNat % 16)

/-- What a computation did so far: its stores, newest first, the pages it touched, the row that its next store belongs to, and how many array
passes it has done. -/
structure Trace where
  writes : List Put
  pages : List Nat
  row : Nat
  hawk : Bool
  /-- array passes and pooling layers done, and how far the next has come: 0 before its plane is loaded, then one more for each vector -/
  passes : Nat
  prog : Nat
deriving DecidableEq, Repr

/-- The low (false) or high nibble that the stores of an item left at an address, none where none of them wrote it. -/
def storedNibble (va : Nat) (high : Bool) : List Put → Option Nat
  | [] => none
  | w :: r =>
    if w.va = va ∧ w.half ≠ (if high then 1 else 2) then
      some (if w.half = 0 ∧ high then w.val.toNat / 16 else w.val.toNat % 16)
    else storedNibble va high r

/-- Note that a page is touched. -/
def Trace.touch (o : Trace) (va : Nat) : Trace :=
  if o.pages.elem (va / 65536) then o else { o with pages := (va / 65536) :: o.pages }

/-- A computation over a trace, which an access error ends. -/
abbrev Comp := ExceptT AccessErr (StateM Trace)

/-- Read one byte: the item's own last stores, or memory (R175). -/
def rd8 (P : Port) (va : Nat) : Comp Byte := do
  let o ← get
  let lo := storedNibble va false o.writes
  let hi := storedNibble va true o.writes
  match lo, hi with
  | some l, some h => pure (BitVec.ofNat 8 (h * 16 + l))
  | _, _ => match P.rd va with
    | .ok b => do
      modify (fun t => t.touch va)
      pure (BitVec.ofNat 8 (hi.getD (b.toNat / 16) * 16 + lo.getD (b.toNat % 16)))
    | .error e => throw e

/-- Store a byte or a nibble. -/
def put8 (P : Port) (va : Nat) (b : Byte) (half : Nat) : Comp Unit := do
  match P.wr va with
  | .ok _ => modify (fun o => { o.touch va with writes := ⟨va, b, half, o.row, o.hawk⟩ :: o.writes })
  | .error e => throw e

/-- Write one byte. -/
def wr8 (P : Port) (va : Nat) (b : Byte) : Comp Unit := put8 P va b 0

/-- The stores that follow belong to a new row. -/
def endRow : Comp Unit := modify (fun o => { o with row := o.row + 1 })

/-- The stores that follow are the hawk program's. -/
def asHawk : Comp Unit := modify (fun o => { o with row := 0, hawk := true })

/-- Read n bytes in increasing order. -/
def rdBytes (P : Port) (va n : Nat) : Comp Bytes := (upto n).mapM (fun i => rd8 P (va + i))

/-- Write bytes in increasing order. -/
def wrBytes (P : Port) (va : Nat) : Bytes → Comp Unit
  | [] => pure ()
  | b :: r => do wr8 P va b; wrBytes P (va + 1) r

/-- Read a little-endian number of n bytes (R7). -/
def rdLE (P : Port) (va n : Nat) : Comp Nat := do return leNat (← rdBytes P va n)

/-- Write a little-endian number of n bytes. -/
def wrLE (P : Port) (va n v : Nat) : Comp Unit := wrBytes P va (toLE n v)

/-- Element i of a tensor of a format held from an address on; two INT4 elements share one byte (R31). -/
def rdElem (P : Port) (f : Fmt) (va i : Nat) : Comp Nat :=
  if f.bits = 4 then do
    let b ← rd8 P (va + i / 2)
    return if i % 2 = 0 then b.toNat % 16 else b.toNat / 16
  else rdLE P (va + i * (f.bits / 8)) (f.bits / 8)

/-- n elements from index 0 on. -/
def rdElems (P : Port) (f : Fmt) (va n : Nat) : Comp (List Nat) := (upto n).mapM (rdElem P f va)

/-- Write element i of a tensor; of an INT4 byte only the element's nibble is stored (R31, R75). -/
def wrElem (P : Port) (f : Fmt) (va i v : Nat) : Comp Unit :=
  if f.bits = 4 then put8 P (va + i / 2) (BitVec.ofNat 8 (v % 16)) (if i % 2 = 0 then 1 else 2)
  else wrLE P (va + i * (f.bits / 8)) (f.bits / 8) v

/-- Write elements from an index on. -/
def wrElems (P : Port) (f : Fmt) (va : Nat) : Nat → List Nat → Comp Unit
  | _, [] => pure ()
  | i, v :: r => do wrElem P f va i v; wrElems P f va (i + 1) r

/-- An array pass has its plane, or one more of its vectors is added. -/
def passOn : Comp Unit := modify (fun o => { o with prog := o.prog + 1 })

/-- An array pass or a pooling layer is done. -/
def endPass : Comp Unit := modify (fun o => { o with passes := o.passes + 1, prog := 0 })

/-- What a computation leaves: its stores, oldest first, the pages that it touched, the array passes and pooling layers that it did, and how far the
next has come. -/
structure Done where
  writes : List Put
  pages : List Nat
  passes : Nat
  prog : Nat
deriving DecidableEq, Repr

/-- Run a computation: its answer and what it leaves. -/
def runComp {α : Type} (c : Comp α) : Except AccessErr α × Done :=
  let (r, o) := c.run.run ⟨[], [], 0, false, 0, 0⟩
  (r, ⟨o.writes.reverse, o.pages, o.passes, o.prog⟩)

end Sys2Proof.Machine
end

