-- ==== Sys2Proof/Machine/Requant.lean ====
section
/-! DEFINITION. Requantisation (R50-R55 of 02_numbers.md).
Readings: log entry 55 (DEDUCED), log entry 73 (DEDUCED). -/

namespace Sys2Proof.Machine

/-- A requantisation descriptor (R50). -/
structure Requant where
  version : Nat
  inFmt : Nat
  outFmt : Nat
  rna : Bool
  ovf : Bool
  qpt : Bool
  biasEn : Bool
  channels : Nat
  qImm : Nat
  s2 : Nat
  clampLo : Nat
  clampHi : Nat
  qAddr : Nat
  biasAddr : Nat
deriving DecidableEq, Repr

/-- The fields of its 48 bytes (R50). -/
def parseRequant (b : Bytes) : Requant :=
  let w0 := word b 0
  let w1 := word b 1
  { version := bits w0 31 24, inFmt := bits w0 23 20, outFmt := bits w0 19 16, rna := bit w0 15, ovf := bit w0 14
    qpt := bit w0 13, biasEn := bit w0 12, channels := bits w1 31 16, qImm := bits w1 15 0
    s2 := word b 2, clampLo := word b 3, clampHi := word b 4, qAddr := le b 24 8, biasAddr := le b 32 8 }

/-- Smallest and largest value of an integer format (R28). -/
def intRange : Fmt → Int × Int
  | .int4 => (-8, 7)
  | .b4 => (-8, 7)
  | .int8 => (-128, 127)
  | _ => (-2147483648, 2147483647)

/-- Whether S2 is a positive normal FP32 value (R36). -/
def s2Legal (w : Nat) : Bool := !(bit w 31) && (0 < bits w 30 23) && (bits w 30 23 < 255)

/-- The checks of R52, in order. -/
def requantChecks (r : Requant) : List (Bool × Nat) :=
  let intOut := r.outFmt == 1 || r.outFmt == 2
  let lo := sext 32 r.clampLo
  let hi := sext 32 r.clampHi
  let rng := intRange (if r.outFmt == 1 then .int4 else .int8)
  let clampBad :=
    if intOut then decide (hi < lo) || decide (lo < rng.1) || decide (rng.2 < hi)
    else isNaN (BitVec.ofNat 32 r.clampLo) || isNaN (BitVec.ofNat 32 r.clampHi)
      || flt (BitVec.ofNat 32 r.clampHi) (BitVec.ofNat 32 r.clampLo)
  [ (r.version != 1, 0x1031),
    (!(r.inFmt == 3 || r.inFmt == 9) || !(intOut || (5 ≤ r.outFmt && r.outFmt ≤ 9)) || (r.inFmt == 3 && !intOut), 0x1032),
    (r.channels == 0, 0x1038),
    (!s2Legal r.s2, 0x1033),
    (clampBad, 0x1034),
    ((!r.qpt && decide (2 ^ 48 ≤ r.qAddr)) || (r.biasEn && decide (2 ^ 48 ≤ r.biasAddr)), 0x1037) ]

/-- The integer path (R53): acc and bias INT32, q UQ16. -/
def requantInt (r : Requant) (acc bias : Int) (q : Nat) : Int :=
  let t := satInt32 (acc + if r.biasEn then bias else 0)
  let m2 : Nat := r.s2 % 2 ^ 23 + 2 ^ 23
  let e2 : Int := (bits r.s2 30 23 : Int) - 150
  let p : Int := t * q * m2
  let v := if 0 ≤ e2 then p * 2 ^ e2.toNat else roundShift p (-e2).toNat r.rna
  let v := clampInt v (sext 32 r.clampLo) (sext 32 r.clampHi)
  let rng := intRange (if r.outFmt == 1 then .int4 else .int8)
  clampInt v rng.1 rng.2

/-- The activation clamp of step 4 of R54 on FP32 words; a NaN passes. -/
def clampFp (y lo hi : Word) : Word :=
  let y := if flt y lo then lo else y
  if flt hi y then hi else y

/-- The floating path (R54): the encoding of the output element. The 0 that R49 gives for a NaN is clamped to CLAMP_LO and CLAMP_HI like any
other integer, as the comment of R54's step 5 puts the clamp after R49 (DEDUCED, log entry 73). -/
def requantFp (r : Requant) (a bias : Word) (q : Nat) : Nat :=
  let s := fmul (fpOfInt q) (BitVec.ofNat 32 r.s2)
  let a := if r.biasEn then fadd a bias else a
  let y := fmul a s
  if r.outFmt == 1 || r.outFmt == 2 then
    let lo := sext 32 r.clampLo
    let hi := sext 32 r.clampHi
    let y := clampFp y (fpOfInt lo) (fpOfInt hi)
    let rng := intRange (if r.outFmt == 1 then .int4 else .int8)
    let v := clampInt (clampInt (narrowInt r.rna (-2147483648) 2147483647 y) lo hi) rng.1 rng.2
    lowBits (if r.outFmt == 1 then 4 else 8) v
  else
    let y := clampFp y (BitVec.ofNat 32 r.clampLo) (BitVec.ofNat 32 r.clampHi)
    match (fmtOf r.outFmt).bind Fmt.float with
    | some F => if F = fp32 then (toFp32 (fval y)).toNat
                else narrowFloat r.rna (if r.ovf then .infinity else .saturate) F y
    | none => 0

/-- One output element: the encoding in the output format of an accumulator word (R53, R54). -/
def requantElem (r : Requant) (acc bias : Word) (q : Nat) : Nat :=
  if r.inFmt == 3 then lowBits (if r.outFmt == 1 then 4 else 8) (requantInt r acc.toInt bias.toInt q)
  else requantFp r acc bias q

/-- The q of a channel (R50). -/
def rdQ (P : Port) (r : Requant) (c : Nat) : Comp Nat :=
  if r.qpt then pure r.qImm else rdLE P (r.qAddr + 2 * c) 2

/-- The bias of a channel (R50); 0 when BIAS_EN is 0. -/
def rdBias (P : Port) (r : Requant) (c : Nat) : Comp Word :=
  if r.biasEn then do return BitVec.ofNat 32 (← rdLE P (r.biasAddr + 4 * c) 4) else pure 0

/-- The requantisation descriptor at an address. -/
def rdRequant (P : Port) (va : Nat) : Comp Requant := do return parseRequant (← rdBytes P va 48)

/-- The output format of a descriptor. -/
def outFmtOf (r : Requant) : Fmt := (fmtOf r.outFmt).getD .int8

/-- Requantise a row of accumulator words, the first being channel `ch` (R53-R55). -/
def requantRow (P : Port) (r : Requant) : Nat → List Word → Comp (List Nat)
  | _, [] => pure []
  | ch, a :: rest => do
    let q ← rdQ P r ch
    let b ← rdBias P r ch
    let t ← requantRow P r (ch + 1) rest
    return requantElem r a b q :: t

end Sys2Proof.Machine
end

