-- ==== Sys2Proof/Machine/ArrayUnit.lean ====
section
/-! DEFINITION. The Deckle array: planes, banks, column sums, the drain and the checks of array descriptors
(03_deckle_array.md). -/

namespace Sys2Proof.Machine

/-- One weight plane: the element codes of its rows, 128 columns each, and the block scales of INT4 x B4 (R67). Rows that nothing has
broadcast are not listed. -/
structure Plane where
  rows : List (List Nat)
  scales : List (List Nat)
deriving DecidableEq, Repr

/-- One accumulator bank: 512 entries of 128 columns; entries and columns that nothing has written are not listed (R72). -/
structure Bank where
  entries : List (Nat × List Word)
deriving DecidableEq, Repr

/-- The array of one core: two planes, which is active, two banks, and whether each is in FILL for a tile that is open (R67, R72, R73). -/
structure ArraySt where
  plane0 : Plane
  plane1 : Plane
  active1 : Bool
  bank0 : Bank
  bank1 : Bank
  fill0 : Bool
  fill1 : Bool
deriving DecidableEq, Repr

/-- An array that has just been powered: the contents of planes and banks are undefined (R71); the model lists none and reads zero
(DESIGN CHOICE, log entry 7). -/
def emptyArray : ArraySt := ⟨⟨[], []⟩, ⟨[], []⟩, false, ⟨[]⟩, ⟨[]⟩, false, false⟩

/-- A plane and a bank whose contents are undefined: free values from a base on (R71, R84, R334). -/
def freePlane (k : Nat) : Plane :=
  ⟨(upto 128).map (fun r => (upto 128).map (fun c => Config.free (k + r * 128 + c) % 65536)),
   (upto 8).map (fun g => (upto 128).map (fun c => Config.free (k + 16384 + g * 128 + c) % 256))⟩
def freeBank (k : Nat) : Bank :=
  ⟨(upto 512).map (fun e => (e, (upto 128).map (fun c => BitVec.ofNat 32 (Config.free (k + e * 128 + c)))))⟩

/-- An array whose planes and banks are undefined. -/
def freeArray (k : Nat) (active1 : Bool) : ArraySt :=
  ⟨freePlane k, freePlane (k + 2 ^ 16), active1, freeBank (k + 2 ^ 17), freeBank (k + 2 ^ 18), false, false⟩

/-- The words of an entry below COLS. -/
def Bank.row (b : Bank) (e cols : Nat) : List Word :=
  (((b.entries.lookup e).getD []) ++ List.replicate cols 0).take cols
/-- Write the words of an entry below COLS; the columns from COLS on keep theirs (R72). -/
def Bank.put (b : Bank) (e : Nat) (ws : List Word) : Bank :=
  ⟨b.entries.filter (fun x => decide (x.1 < e)) ++ [(e, ws ++ ((b.entries.lookup e).getD []).drop ws.length)]
    ++ b.entries.filter (fun x => decide (e < x.1))⟩
/-- Write consecutive entries. -/
def Bank.putRows (b : Bank) : Nat → List (List Word) → Bank
  | _, [] => b
  | e, r :: rs => (b.put e r).putRows (e + 1) rs

/-- An operand pair of R37. -/
inductive Pair where
  | int8 | int4 | b4 | fp8 | bf16 | fp16
deriving DecidableEq, Repr

/-- The pair of two format codes, none when R37 has no such pair. -/
def pairOf (a w : Nat) : Option Pair :=
  if a == 2 && w == 2 then some .int8
  else if a == 1 && w == 1 then some .int4
  else if a == 1 && w == 4 then some .b4
  else if (a == 5 || a == 6) && (w == 5 || w == 6) then some .fp8
  else if a == 8 && w == 8 then some .bf16
  else if a == 7 && w == 7 then some .fp16
  else none

/-- Reduction indices held by one cell row (R79). -/
def Pair.perRow : Pair → Nat
  | .int4 => 2
  | .b4 => 2
  | _ => 1

/-- Bytes of one weight row (R79). -/
def Pair.rowBytes : Pair → Nat
  | .bf16 => 256
  | .fp16 => 256
  | _ => 128

/-- Whether the accumulator is INT32 (R37). -/
def Pair.isInt : Pair → Bool
  | .int8 => true
  | .int4 => true
  | _ => false

/-- Whether valid vectors take one slot in four (R80). -/
def Pair.slow : Pair → Bool
  | .bf16 => true
  | .fp16 => true
  | _ => false

/-- One pass of activation vectors through one plane (R81, R115). `vec n` is vector n as element codes, `part k c` says whether
cell (k, c) takes part (R114), and `out i` gives the address and the first element index of output row i. -/
structure Pass where
  aFmt : Nat
  wFmt : Nat
  first : Bool
  last : Bool
  bank : Bool
  wmode : Nat
  outPath : Nat
  rows : Nat
  cols : Nat
  vectors : Nat
  entryBase : Nat
  chBase : Nat
  wAddr : Nat
  sAddr : Nat
  rqAddr : Nat
  vec : Nat → Comp (List Nat)
  part : Nat → Nat → Bool
  out : Nat → Nat × Nat

/-- One column step of the integer path: row k's products added to the partial sums (R77). -/
def intRowStep (part : Nat → Bool) (as : List Int) (ws : List (List Int)) (ps : List Int) : List Int :=
  ps.zipIdx.map (fun (p, c) =>
    if part c then ((as.zip ws).foldl (fun s (a, w) => s + a * w.getD c 0) p) else p)

/-- The column sums of the integer path (R77), top to bottom, of a vector's element codes; E codes and E weights a row. -/
def intSums (e : Nat) (width : Nat) (part : Nat → Nat → Bool) (cols : Nat) : Nat → List Nat → List (List Nat) → List Int → List Int
  | _, _, [], ps => ps
  | k, a, row :: rows, ps =>
    let as := (a.take e).map (sext width)
    let ws := if e = 2 then [row.map (fun b => sext 4 (b % 16)), row.map (fun b => sext 4 (b / 16))]
              else [row.map (sext width)]
    intSums e width part cols (k + 1) (a.drop e) rows (intRowStep (part k) as ws ps)

/-- The column sums of the floating path (R77): each exact product added with one rounding, strictly top to bottom. -/
def fpSums (fa fw : Fmt) (part : Nat → Nat → Bool) : Nat → List Nat → List (List Nat) → List Word → List Word
  | _, _, [], ps => ps
  | _, [], _, ps => ps
  | k, a :: as, row :: rows, ps =>
    let va := elemVal fa a
    fpSums fa fw part (k + 1) as rows
      (ps.zipIdx.map (fun (p, c) =>
        if part k c then toFp32 (addVal (fval p) (mulVal va (elemVal fw (row.getD c 0)))) else p))

/-- The column sums of INT4 x B4 (R39, R77): an exact integer for each group of 16 rows, scaled exactly, one FP32 addition. -/
def b4Sums (part : Nat → Nat → Bool) (cols : Nat) : Nat → List Nat → List (List Nat) → List (List Nat) → List Word → List Word
  | _, _, _, [], ps => ps
  | g, a, rows, sc :: scs, ps =>
    let d := intSums 2 4 (fun k c => part (16 * g + k) c) cols 0 (a.take 32) (rows.take 16) (List.replicate cols 0)
    let ps' := (ps.zip d).zipIdx.map (fun ((p, d), c) =>
      if part (16 * g) c then toFp32 (addVal (fval p) (mulVal (intVal d) (elemVal .ue4m4 (sc.getD c 0)))) else p)
    b4Sums part cols (g + 1) (a.drop 32) (rows.drop 16) scs ps'

/-- The column sums of one vector under R77, as accumulator words (INT32 or FP32). A plane that was loaded under one operand pair is used
under another as the codes it holds; INT4 x B4 over a plane without scales adds nothing (DESIGN CHOICE, log entry 62). -/
def columnSums (pr : Pair) (p : Pass) (pl : Plane) (a : List Nat) : List Int × List Word :=
  let rows := pl.rows.take p.rows
  match pr with
  | .int8 => (intSums 1 8 p.part p.cols 0 a rows (List.replicate p.cols 0), [])
  | .int4 => (intSums 2 4 p.part p.cols 0 a rows (List.replicate p.cols 0), [])
  | .b4 => ([], b4Sums p.part p.cols 0 a rows (pl.scales.take (p.rows / 16)) (List.replicate p.cols 0))
  | _ => ([], fpSums ((fmtOf p.aFmt).getD .fp16) ((fmtOf p.wFmt).getD .fp16) p.part 0 a rows (List.replicate p.cols 0))

/-- The addition at the column bottom: saturating INT32, or one FP32 addition (R38, R77). In a tile whose descriptors have different operand
pairs the word is taken as the later pair's type (DESIGN CHOICE, log entry 62). -/
def bottomAdd (pr : Pair) (old : Option (List Word)) (sums : List Int × List Word) : List Word :=
  if pr.isInt then
    let prev := old.getD (List.replicate sums.1.length 0)
    (prev.zip sums.1).map (fun (o, s) => BitVec.ofInt 32 (satInt32 (o.toInt + s)))
  else
    let prev := old.getD (List.replicate sums.2.length 0)
    (prev.zip sums.2).map (fun (o, s) => fadd o s)

/-- Split a list into pieces of n. -/
def chunks {α : Type} (n : Nat) : Nat → List α → List (List α)
  | 0, _ => []
  | k + 1, l => l.take n :: chunks n k (l.drop n)

/-- Load the plane a pass names: ROWS rows of 128 weights at the row size of R79, and the 128 block scales of each group of B4 (R67).
The rows from ROWS on keep what the plane held. -/
def loadPlane (P : Port) (pr : Pair) (p : Pass) (old : Plane) : Comp Plane := do
  let n := pr.rowBytes / 128
  let rows ← (upto p.rows).mapM (fun k =>
    (upto 128).mapM (fun c => rdLE P (p.wAddr + k * pr.rowBytes + c * n) n))
  let scales ← if pr = .b4 then
      (upto (p.rows / 16)).mapM (fun g => (upto 128).mapM (fun c => rdLE P (p.sAddr + g * 128 + c) 1))
    else pure []
  return ⟨rows ++ old.rows.drop p.rows, scales ++ old.scales.drop scales.length⟩

/-- What the array hands to the sizing unit: one drained entry and whether it holds INT32 (R75, R99). -/
structure DrainedEntry where
  int : Bool
  vals : List Word
deriving DecidableEq, Repr

/-- The drain of a closed bank (R75): rows in increasing entry order, by OUT_PATH of the tile's last descriptor. -/
def drain (P : Port) (pr : Pair) (p : Pass) (rows : List (List Word)) (drn : List DrainedEntry) : Comp (List DrainedEntry) :=
  match p.outPath with
  | 0 => do
    let rq ← rdRequant P p.rqAddr
    let _ ← rows.zipIdx.mapM (fun (row, i) => do
      let out ← requantRow P rq p.chBase row
      wrElems P (outFmtOf rq) (p.out i).1 (p.out i).2 out
      endRow)
    return drn
  | 1 => do
    let _ ← rows.zipIdx.mapM (fun (row, i) => do
      wrElems P .int32 (p.out i).1 (p.out i).2 (row.map BitVec.toNat)
      endRow)
    return drn
  | _ => return drn ++ rows.map (fun r => ⟨pr.isInt, r⟩)

/-- One pass: the plane loaded or kept and its token, which need no bank (R70), every vector's column sums added into its entry, and the drain after LAST
(R66, R68, R75, R77, R78). A tile's first pass whose bank another tile still fills waits for ever, and so does a later pass of no tile (R74). -/
def runPass (P : Port) (st : ArraySt × List DrainedEntry) (p : Pass) : Comp (ArraySt × List DrainedEntry) := do
  let (a, drn) := st
  let pr := (pairOf p.aFmt p.wFmt).getD .int8
  let a ← if p.wmode = 1 then do
      let pl ← loadPlane P pr p (if a.active1 then a.plane0 else a.plane1)
      pure (if a.active1 then { a with plane0 := pl } else { a with plane1 := pl })
    else pure a
  let a := if p.wmode = 0 then a else { a with active1 := !a.active1 }
  passOn
  if p.first == (if p.bank then a.fill1 else a.fill0) then throw .stalled else
  let pl := if a.active1 then a.plane1 else a.plane0
  let old := if p.bank then a.bank1 else a.bank0
  let rows ← (upto p.vectors).mapM (fun n => do
    let v ← p.vec n
    passOn
    return bottomAdd pr (if p.first then none else some (old.row (p.entryBase + n) p.cols)) (columnSums pr p pl v))
  let bk := old.putRows p.entryBase rows
  let a := if p.bank then { a with bank1 := bk, fill1 := !p.last } else { a with bank0 := bk, fill0 := !p.last }
  let drn ← if p.last then drain P pr p rows drn else pure drn
  endPass
  return (a, drn)

/-- The passes of a list in order (R83). -/
def runPasses (P : Port) : ArraySt × List DrainedEntry → List Pass → Comp (ArraySt × List DrainedEntry)
  | st, [] => pure st
  | st, p :: ps => do
    let st ← runPass P st p
    runPasses P st ps

/-- An array descriptor (R81). -/
structure ArrayDesc where
  version : Nat
  aFmt : Nat
  wFmt : Nat
  first : Bool
  last : Bool
  bank : Bool
  wmode : Nat
  outPath : Nat
  rows : Nat
  cols : Nat
  vectors : Nat
  kPass : Nat
  entryBase : Nat
  aStride : Nat
  oStride : Nat
  chBase : Nat
  aAddr : Nat
  wAddr : Nat
  sAddr : Nat
  rqAddr : Nat
  oAddr : Nat
deriving DecidableEq, Repr

/-- The fields of its 64 bytes (R81). -/
def parseArrayDesc (b : Bytes) : ArrayDesc :=
  let w0 := word b 0
  let w1 := word b 1
  let w2 := word b 2
  { version := bits w0 31 24, aFmt := bits w0 23 20, wFmt := bits w0 19 16, first := bit w0 15, last := bit w0 14
    bank := bit w0 13, wmode := bits w0 12 11, outPath := bits w0 10 9
    rows := bits w1 31 24, cols := bits w1 23 16, vectors := bits w1 9 0
    kPass := bits w2 31 16, entryBase := bits w2 8 0
    aStride := word b 3, oStride := word b 4, chBase := bits (word b 5) 15 0
    aAddr := le b 24 8, wAddr := le b 32 8, sAddr := le b 40 8, rqAddr := le b 48 8, oAddr := le b 56 8 }

/-- The activation vector at an address: `rows` cell rows of a pair (R79). -/
def rdVector (P : Port) (pr : Pair) (aFmt rows va : Nat) : Comp (List Nat) :=
  rdElems P ((fmtOf aFmt).getD .int8) va (rows * pr.perRow)

/-- The pass that an array descriptor drives. -/
def passOfDesc (P : Port) (d : ArrayDesc) : Pass :=
  let pr := (pairOf d.aFmt d.wFmt).getD .int8
  { aFmt := d.aFmt, wFmt := d.wFmt, first := d.first, last := d.last, bank := d.bank, wmode := d.wmode
    outPath := d.outPath, rows := d.rows, cols := d.cols, vectors := d.vectors, entryBase := d.entryBase
    chBase := d.chBase, wAddr := d.wAddr, sAddr := d.sAddr, rqAddr := d.rqAddr
    vec := fun n => rdVector P pr d.aFmt d.rows (d.aAddr + n * d.aStride)
    part := fun _ _ => true
    out := fun i => (d.oAddr + i * d.oStride, 0) }

/-! ### Checks at plan load -/

/-- What the checks of a descriptor need to know of those before it in its work item: the tile that is open (its BANK, COLS,
entry range, last K_PASS) and the ROWS of the active and the shadow plane. -/
structure ArrayCtx where
  tile : Option ArrayDesc
  active : Option Nat
  shadow : Option Nat
deriving DecidableEq, Repr

/-- The context at the start of a work item (R71). -/
def startCtx : ArrayCtx := ⟨none, none, none⟩

/-- ROWS of the plane a descriptor uses, none when nothing of the work item loaded it (R71). -/
def planeRows (c : ArrayCtx) (d : ArrayDesc) : Option Nat :=
  match d.wmode with
  | 0 => c.active
  | 1 => some d.rows
  | _ => c.shadow

/-- The context after a descriptor. -/
def nextCtx (c : ArrayCtx) (d : ArrayDesc) : ArrayCtx :=
  { tile := if d.last then none else some d
    active := planeRows c d
    shadow := if d.wmode = 0 then c.shadow else c.active }

/-- Whether an address field in use has a bit of [63:48] set. -/
def badVa (a : Nat) : Bool := decide (2 ^ 48 ≤ a)

/-- The checks of R82 in order; a second FIRST = 1 before the open tile's LAST is refused with 0x1004 (DESIGN CHOICE, log entry 62). `rest` are the
later descriptors of the work item, `rq` the requantisation descriptor at RQ_ADDR when it is in use (R52 gives the place of its own checks). -/
def arrayChecks (c : ArrayCtx) (d : ArrayDesc) (rest : List ArrayDesc) (rq : Option Requant) : List (Bool × Nat) :=
  let pr := pairOf d.aFmt d.wFmt
  let rangeBad := match c.tile with
    | some t => d.entryBase != t.entryBase || d.vectors != t.vectors || d.cols != t.cols
    | none => false
  let orderBad := match c.tile with
    | some t => d.first || d.kPass != t.kPass + 1 || d.bank != t.bank || d.wmode == 0
    | none => !d.first
  let noLast := !(d.last || (rest.takeWhile (fun r => !r.first)).any (fun r => r.last))
  let useRq := d.last && d.outPath == 0
  [ (d.version != 1, 0x1001),
    (pr.isNone, 0x1035),
    (d.rows == 0 || decide (128 < d.rows) || d.cols == 0 || decide (128 < d.cols) || d.vectors == 0 || decide (512 < d.vectors), 0x1002),
    (d.wFmt == 4 && d.rows % 16 != 0, 0x1036),
    (decide (512 < d.entryBase + d.vectors) || rangeBad, 0x1003),
    ((d.first && d.kPass != 0) || orderBad || noLast, 0x1004),
    (d.wmode == 3 || d.outPath == 3, 0x1005),
    (match planeRows c d with | none => true | some r => decide (r < d.rows), 0x1006),
    (badVa d.aAddr || (d.wmode == 1 && badVa d.wAddr) || (d.wFmt == 4 && d.wmode == 1 && badVa d.sAddr)
      || (useRq && badVa d.rqAddr) || (d.last && d.outPath != 2 && badVa d.oAddr), 0x1007) ]
  ++ (match rq with
      | some r => if useRq then requantChecks r ++
          [ (decide (r.channels < d.chBase + d.cols) || (r.inFmt == 3) != (pr.map Pair.isInt == some true), 0x1008) ] else []
      | none => [])

/-! ### Slots, planes, banks and the drain in time (R59-R76, R85) -/

/-- What the time of a pass, or of a pooling layer, depends on. -/
structure PassShape where
  slow : Bool
  wmode : Nat
  rows : Nat
  cols : Nat
  vectors : Nat
  first : Bool
  last : Bool
  bank : Bool
  entryBase : Nat
  /-- its tile's drain writes rows to memory (R75) -/
  stores : Bool
  /-- a pooling layer, which gives the array nothing and during which the left edge is idle (R119): the output positions that it writes -/
  pool : Option Nat
deriving DecidableEq, Repr

/-- The shape of a pass. -/
def Pass.shape (p : Pass) : PassShape :=
  ⟨match pairOf p.aFmt p.wFmt with | some pr => pr.slow | none => false, p.wmode, p.rows, p.cols, p.vectors, p.first, p.last, p.bank, p.entryBase,
   p.last && decide (p.outPath < 2), none⟩

/-- The shape of a pooling layer that writes a number of output positions. -/
def poolShape (n : Nat) : PassShape := ⟨false, 0, 0, 0, 0, false, false, false, 0, false, some n⟩

/-- A valid vector and the tags that its words carry (R60): its slot, COLS, BANK and ENTRY. -/
structure VecEvent where
  slot : Nat
  cols : Nat
  bank : Bool
  entry : Nat
deriving DecidableEq, Repr

/-- A tile in its bank: the cycles from which the bank is FILL, CLOSED, DRAIN and FREE again (R73), none where that does not come; how many entries it
has, and whether the drain writes them to memory. -/
structure BankEvent where
  bank : Bool
  fill : Nat
  closed : Option Nat
  drain : Option Nat
  free : Option Nat
  vectors : Nat
  stores : Bool
deriving DecidableEq, Repr

/-- The array in time: every vector, token, plane load and tile of a work item by core cycle from its start, the bubbles by cause
(0 format interval, 1 plane wait, 2 bank wait, 3 feeder dry, 4 idle) as slot and number, and where the left edge stands. -/
structure Timeline where
  vecs : List VecEvent
  tokens : List Nat
  loads : List (Nat × Option Nat)
  tiles : List BankEvent
  bubbles : List (Nat × Nat × Nat)
  /-- pooling layers: the slot at which each begins, and the output positions that it writes -/
  pools : List (Nat × Nat)
  /-- next slot of the left edge -/
  next : Nat
  /-- slot from which R80 allows the next valid vector -/
  fmtReady : Nat
  /-- cycle from which row 0 of the free plane may be broadcast (R69) -/
  planeFree : Nat
  /-- cycle from which the left edge sees each bank FREE (R74), none while a tile holds it -/
  ready0 : Option Nat
  ready1 : Option Nat
  /-- slots of the last descriptor's vectors on each bank (R76) -/
  last0 : List Nat
  last1 : List Nat
  /-- cycle at which the drain is done with the banks closed so far, none where it never is -/
  drainFree : Option Nat
  /-- the cause for which every later slot is a bubble, where the item never gets past this point -/
  halt : Option Nat
deriving DecidableEq, Repr

/-- Before a work item's first descriptor. -/
def startLine : Timeline := ⟨[], [], [], [], [], [], 0, 0, 0, some 0, some 0, [], [], some 0, none⟩

/-- Move the left edge to a slot, counting the bubbles before it: those of the format interval first, then the cause given (R64). -/
def bubblesTo (z : Timeline) (target cause : Nat) : Timeline :=
  if target ≤ z.next then z else
  let nf := min (z.fmtReady - z.next) (target - z.next)
  { z with bubbles := (z.bubbles ++ (if nf = 0 then [] else [(z.next, nf, 0)]))
             ++ (if target - z.next - nf = 0 then [] else [(z.next + nf, target - z.next - nf, cause)])
           next := target }

/-- The wait of a vector for the format interval, its bank and its entry's last addition (R64, R74, R76, R80). -/
def awaitBank (ready : Nat) (prev : Option Nat) (z : Timeline) : Timeline :=
  bubblesTo z (max (max ready (match prev with | some s => s + 6 | none => 0)) z.fmtReady) 2

/-- One valid vector: its data come `dry` slots later than it could issue. -/
def issueVector (p : PassShape) (ready i : Nat) (z : Timeline) (prev : Option Nat) (dry : Nat) : Timeline :=
  let z := awaitBank ready prev z
  let z := bubblesTo z (z.next + dry) 3
  { z with vecs := z.vecs ++ [⟨z.next, p.cols, p.bank, p.entryBase + i⟩], next := z.next + 1
           fmtReady := if p.slow then z.next + 4 else z.next + 1 }

/-- The vectors of a pass in order. -/
def issueVectors (p : PassShape) (ready : Nat) (dry : Nat → Nat) (prevs : List Nat) : Nat → Nat → Timeline → Timeline
  | 0, _, z => z
  | n + 1, i, z => issueVectors p ready dry prevs n (i + 1) (issueVector p ready i z prevs[i]? (dry i))

/-- The switch token of a pass that has one: it issues when the shadow plane is loaded, whose rows come `fetch` cycles later than R69
allows, or never, while the load goes on (R67, R69, R70, R83). -/
def issueToken (p : PassShape) (never : Bool) (fetch : Nat) (z : Timeline) : Timeline :=
  if p.wmode = 0 then z
  else if p.wmode = 1 ∧ never = true then { z with loads := z.loads ++ [(z.planeFree, none)], halt := some 1 }
  else
    let loaded := z.planeFree + p.rows + fetch
    let z := if p.wmode = 1 then { z with loads := z.loads ++ [(z.planeFree, some loaded)] } else z
    let z := bubblesTo z (if p.wmode = 1 then loaded else z.next) 1
    { z with tokens := z.tokens ++ [z.next], planeFree := z.next + 128, next := z.next + 1 }

/-- What the rules leave open in the time of an array: how long a pooling layer takes, how late each pass's weights come, each vector's data, how long
after a bank closes its drain begins, how much longer each drain takes than one fabric cycle an entry, and how late the left edge sees the bank FREE
(R64, R75). -/
structure Waits where
  pool : Nat → Nat
  fetch : Nat → Nat
  dry : Nat → Nat → Nat
  start : Nat → Nat
  slack : Nat → Nat
  seen : Nat → Nat

/-- No wait at all: the delays that the timelines of R75 take as zero are. -/
def noWaits : Waits := ⟨fun _ => 0, fun _ => 0, fun _ _ => 0, fun _ => 0, fun _ => 0, fun _ => 0⟩
/-- Free waits, from a base of free values on (R75: the phase of the two clocks is not defined). -/
def freeWaits (k : Nat) : Waits :=
  ⟨fun i => Config.free (k + 2 ^ 40 * i + 2 ^ 39), fun i => Config.free (k + 2 ^ 40 * i), fun i n => Config.free (k + 2 ^ 40 * i + 2 + n),
   fun i => Config.free (k + 2 ^ 40 * i + 2 ^ 39 + 1), fun i => Config.free (k + 2 ^ 40 * i + 1), fun i => Config.free (k + 2 ^ 40 * i + 2 ^ 39 + 2)⟩

/-- Change the last tile of a bank. -/
def modTile (b : Bool) (f : BankEvent → BankEvent) : List BankEvent → List BankEvent
  | [] => []
  | e :: r => if e.bank == b && !(r.any (fun x => x.bank == b)) then f e :: r else e :: modTile b f r

/-- The left edge sees a bank FREE from a cycle on. -/
def Timeline.setReady (z : Timeline) (b : Bool) (r : Option Nat) : Timeline := if b then { z with ready1 := r } else { z with ready0 := r }
/-- The slots of the last descriptor's vectors on a bank. -/
def Timeline.setLast (z : Timeline) (b : Bool) (l : List Nat) : Timeline := if b then { z with last1 := l } else { z with last0 := l }

/-- The drain of the tile that pass i closes (R73, R75); one that is stuck never ends. `step` is FREQ_STEP: a fabric cycle is step/40 core cycles. The
delays of R75 are free up to their bounds: 2 fabric cycles before it begins, 2 core cycles before the left edge sees its end. -/
def drainTile (step : Nat) (w : Waits) (stuck : Bool) (i : Nat) (z : Timeline) (p : PassShape) : Timeline :=
  let closed := z.next - 1 + p.cols + 134
  let start := z.drainFree.map (fun d => max closed d + w.start i % (2 * step / 40 + 1))
  let done := if stuck then none else start.map (fun d => d + (p.vectors - 1) * step / 40 + 1 + w.slack i)
  let z : Timeline := { z with drainFree := done, tiles := modTile p.bank (fun e => { e with closed := some closed, drain := start, free := done, stores := p.stores }) z.tiles }
  z.setReady p.bank (done.map (· + w.seen i % 3))

/-- The vectors of pass i, all of them or as many as it ever gets, and the drain after LAST. -/
def vectorsOfPass (step : Nat) (w : Waits) (at? : Option Nat) (i ready : Nat) (z : Timeline) (p : PassShape) : Timeline :=
  let n := match at? with | some k => min (k - 1) p.vectors | none => p.vectors
  let prevs := if p.first then [] else if p.bank then z.last1 else z.last0
  let before := z.vecs.length
  let z := issueVectors p ready (w.dry i) prevs n 0 z
  let slots := (z.vecs.drop before).map VecEvent.slot
  let z := z.setLast p.bank slots
  let z : Timeline := match p.first, slots with
    | true, v :: _ => ({ z with tiles := z.tiles ++ [(⟨p.bank, v, none, none, none, p.vectors, false⟩ : BankEvent)] } : Timeline).setReady p.bank none
    | _, _ => z
  if n < p.vectors then { awaitBank ready prevs[n]? z with halt := some 3 }
  else if p.last then drainTile step w at?.isSome i z p
  else z

/-- Pass or pooling layer i in time. `stop` is the one that the item never gets past, and how far it comes in it: 0 before its plane is loaded, then one
more for each vector; where that is all of them, its drain is stuck. -/
def lineOfPass (step : Nat) (w : Waits) (stop : Option (Nat × Nat)) (i : Nat) (z : Timeline) (p : PassShape) : Timeline :=
  if z.halt.isSome then z
  else
    let at? := match stop with | some (k, n) => if k = i then some n else none | none => none
    match p.pool with
    | some n =>
      let z := { z with pools := z.pools ++ [(z.next, n)] }
      if at?.isSome then { z with halt := some 4 } else bubblesTo z (z.next + w.pool i) 4
    | none =>
      let z := issueToken p (at? == some 0) (w.fetch i) z
      if z.halt.isSome then z
      else match (if p.first then (if p.bank then z.ready1 else z.ready0) else some 0) with
        | none => { z with halt := some 2 }
        | some ready => vectorsOfPass step w at? i ready z p

/-- The timeline of a list of passes and pooling layers. -/
def lineOf (step : Nat) (w : Waits) (stop : Option (Nat × Nat)) : Nat → List PassShape → Timeline → Timeline
  | _, [], z => z
  | i, p :: ps, z => lineOf step w stop (i + 1) ps (lineOfPass step w stop i z p)

/-- The cycle by which every pass is made and every bank is drained. -/
def Timeline.done (z : Timeline) : Nat := (z.tiles.filterMap BankEvent.free).foldl max z.next
/-- The cycles up to which words and tokens are in the array (R62, R85). -/
def Timeline.wordsTill (z : Timeline) : Nat := (z.vecs.map (fun (v : VecEvent) => v.slot + max 255 (v.cols + 133) + 1)).foldl max 0
def Timeline.tokensTill (z : Timeline) : Nat := (z.tokens.map (· + 256)).foldl max 0

/-- How many of the cycles of an interval lie before a cycle. -/
def before (n a len : Nat) : Nat := min len (n - a)

/-- The seven slot counters after n cycles (R64, R65): VALID, SWITCH, FMT, PLANE, BANK, DRY, IDLE. Of the cycles after the last slot those of the format
interval come first; the others are idle bubbles, or have the cause for which the item never goes on. -/
def Timeline.counts (z : Timeline) (n : Nat) : List Nat :=
  let b := fun c => ((z.bubbles.filter (fun e => e.2.2 == c)).map (fun e => before n e.1 e.2.1)).foldl (· + ·) 0
  let tail := before n z.next (z.fmtReady - z.next)
  let rest := fun c => if z.halt == some c then n - z.next - tail else 0
  let l := [(z.vecs.filter (fun v => decide (v.slot < n))).length, (z.tokens.filter (fun s => decide (s < n))).length,
            b 0 + tail, b 1 + rest 1, b 2 + rest 2, b 3 + rest 3]
  l ++ [n - l.foldl (· + ·) 0]

/-- Whether a cycle has come. -/
def reached (c : Option Nat) (n : Nat) : Bool := c.any (fun k => decide (k ≤ n))

/-- The state of a bank in cycle n (R73): 0 FREE, 1 FILL, 2 CLOSED, 3 DRAIN. The last tile whose first vector has issued decides. -/
def Timeline.bankState (z : Timeline) (b : Bool) (n : Nat) : Nat :=
  match (z.tiles.filter (fun e => e.bank == b && decide (e.fill ≤ n))).getLast? with
  | some e => if reached e.free n then 0 else if reached e.drain n then 3 else if reached e.closed n then 2 else 1
  | none => 0

/-- How many output rows can have been written by cycle n (R75, R84): the entries that the drain has read of the tiles that it writes to memory, at most
one a fabric cycle, and the positions of the pooling layers begun. -/
def Timeline.rowsBy (step : Nat) (z : Timeline) (n : Nat) : Nat :=
  ((z.tiles.filter BankEvent.stores).map (fun e => match e.drain with
    | some d => if n ≤ d then 0 else min e.vectors ((n - d - 1) * 40 / step + 1)
    | none => 0)).foldl (· + ·) 0
  + ((z.pools.filter (fun e => decide (e.1 < n))).map Prod.snd).foldl (· + ·) 0

/-- CORE_ARRAY_STATUS from the state of its parts: IDLE follows R85. -/
def statusWord (bank1 bank0 : Nat) (active loading token words : Bool) : Nat :=
  let idle := !words && !token && !loading && bank0 < 2 && bank1 < 2
  bank1 % 4 * 1024 + bank0 % 4 * 256 + 16 * b2n active + 8 * b2n loading + 4 * b2n token + 2 * b2n words + b2n idle

/-- CORE_ARRAY_STATUS in cycle n of a timeline (R85, R86), with the plane that was active at its start, and whether a token or a word of what the core
did before is still in the array. -/
def Timeline.status (z : Timeline) (active token words : Bool) (n : Nat) : Nat :=
  statusWord (z.bankState true n) (z.bankState false n)
    (active ^^ ((z.tokens.filter (fun s => decide (s < n))).length % 2 == 1))
    (z.loads.any (fun e => decide (e.1 ≤ n) && !reached e.2 n))
    (token || z.tokens.any (fun s => decide (s < n) && decide (n ≤ s + 255)))
    (words || z.vecs.any (fun v => decide (v.slot < n) && decide (n ≤ v.slot + max 255 (v.cols + 133))))

end Sys2Proof.Machine
end

