-- ==== Sys2Proof/Machine/Conv.lean ====
section
/-! DEFINITION. Convolution, pooling, stripes and halos (05_convolution_and_tiling.md): the expansion of a convolution into
array passes, pooling, and the checks of convolution and stripe descriptors. -/

namespace Sys2Proof.Machine

/-- A convolution descriptor (R121). -/
structure ConvDesc where
  version : Nat
  aFmt : Nat
  wFmt : Nat
  op : Nat
  padMode : Nat
  outPath : Nat
  kh : Nat
  kw : Nat
  sh : Nat
  sw : Nat
  dh : Nat
  dw : Nat
  padT : Nat
  padB : Nat
  padL : Nat
  padR : Nat
  inH : Nat
  inW : Nat
  cin : Nat
  cout : Nat
  groups : Nat
  outRowFirst : Nat
  outRowCount : Nat
  inRowFirst : Nat
  inRowCount : Nat
  aRowStride : Nat
  aPixStride : Nat
  oRowStride : Nat
  oPixStride : Nat
  aAddr : Nat
  wAddr : Nat
  sAddr : Nat
  rqAddr : Nat
  oAddr : Nat
deriving DecidableEq, Repr

/-- The fields of its 96 bytes (R121). -/
def parseConv (b : Bytes) : ConvDesc :=
  let w := word b
  { version := bits (w 0) 31 24, aFmt := bits (w 0) 23 20, wFmt := bits (w 0) 19 16, op := bits (w 0) 15 14
    padMode := bits (w 0) 13 13, outPath := bits (w 0) 12 11
    kh := bits (w 1) 31 24, kw := bits (w 1) 23 16, sh := bits (w 1) 15 8, sw := bits (w 1) 7 0
    dh := bits (w 2) 31 24, dw := bits (w 2) 23 16
    padT := bits (w 3) 31 24, padB := bits (w 3) 23 16, padL := bits (w 3) 15 8, padR := bits (w 3) 7 0
    inH := bits (w 4) 31 16, inW := bits (w 4) 15 0, cin := bits (w 5) 31 16, cout := bits (w 5) 15 0
    groups := bits (w 6) 31 16
    outRowFirst := bits (w 7) 31 16, outRowCount := bits (w 7) 15 0
    inRowFirst := bits (w 8) 31 16, inRowCount := bits (w 8) 15 0
    aRowStride := w 10, aPixStride := w 11, oRowStride := w 12, oPixStride := w 13
    aAddr := le b 56 8, wAddr := le b 64 8, sAddr := le b 72 8, rqAddr := le b 80 8, oAddr := le b 88 8 }

/-- The output-size formula (R107). -/
def outSize (inp lo hi dil k stride : Nat) : Int :=
  ((inp + lo + hi : Int) - dil * ((k : Int) - 1) - 1).fdiv stride + 1

/-- Output height and width of a layer (R107). -/
def outH (d : ConvDesc) : Int := outSize d.inH d.padT d.padB d.dh d.kh d.sh
def outW (d : ConvDesc) : Int := outSize d.inW d.padL d.padR d.dw d.kw d.sw

/-- Channels of one group, and the cell rows of one group (R112). -/
def cinG (d : ConvDesc) : Nat := d.cin / d.groups
def coutG (d : ConvDesc) : Nat := d.cout / d.groups
def convPair (d : ConvDesc) : Pair := (pairOf d.aFmt d.wFmt).getD .int8
def lenG (d : ConvDesc) : Nat := d.kh * d.kw * cinG d
def rowsG (d : ConvDesc) : Nat := lenG d / (convPair d).perRow

/-- Passes of a tile and column tiles of a group (R113), and groups packed into one pass (R114). -/
def convNP (d : ConvDesc) : Nat := ceilDiv (rowsG d) 128
def convNT (d : ConvDesc) : Nat := ceilDiv (coutG d) 128
def convPack (d : ConvDesc) : Nat :=
  if convNP d = 1 ∧ convNT d = 1 then min (min (128 / rowsG d) (128 / coutG d)) d.groups else 1

/-- The activation format of a descriptor. -/
def convFmt (d : ConvDesc) : Fmt := (fmtOf d.aFmt).getD .int8

/-- The input position that a tap addresses (R109): none when it lies in padding of zero mode. -/
def tapPos (d : ConvDesc) (y x ky kx : Nat) : Option (Nat × Nat) :=
  let yi : Int := (y * d.sh : Int) - d.padT + ky * d.dh
  let xi : Int := (x * d.sw : Int) - d.padL + kx * d.dw
  if 0 ≤ yi ∧ yi < d.inH ∧ 0 ≤ xi ∧ xi < d.inW then some (yi.toNat, xi.toNat)
  else if d.padMode = 1 then
    some ((clampInt yi 0 (d.inH - 1)).toNat, (clampInt xi 0 (d.inW - 1)).toNat)
  else none

/-- Input element (y, x, c) (R121). -/
def rdInput (P : Port) (d : ConvDesc) (y x c : Nat) : Comp Nat :=
  rdElem P (convFmt d) (d.aAddr + (y - d.inRowFirst) * d.aRowStride + x * d.aPixStride) c

/-- Element r of group g's reduction for output position (y, x) (R112, R116). -/
def tapElem (P : Port) (d : ConvDesc) (g y x r : Nat) : Comp Nat :=
  let ci := r % cinG d
  let kx := r / cinG d % d.kw
  let ky := r / cinG d / d.kw
  match tapPos d y x ky kx with
  | some (yi, xi) => rdInput P d yi xi (g * cinG d + ci)
  | none => pure 0

/-- Activation vector of an output position in pass p of groups g0, … (R112, R114, R116). -/
def convVector (P : Port) (d : ConvDesc) (g0 p rows pos : Nat) : Comp (List Nat) := do
  let e := (convPair d).perRow
  let y := d.outRowFirst + pos / (outW d).toNat
  let x := pos % (outW d).toNat
  (upto (rows * e)).mapM (fun i =>
    let k := i / e
    let slot := if convPack d = 1 then 0 else k / rowsG d
    let r := (128 * p + k - slot * rowsG d) * e + i % e
    tapElem P d (g0 + slot) y x r)

/-- Rows of a pass of n packed groups (R113, R114). -/
def passRows (d : ConvDesc) (n p : Nat) : Nat := if convPack d = 1 then min 128 (rowsG d - 128 * p) else n * rowsG d
/-- Columns of a tile of n packed groups (R113, R114). -/
def passCols (d : ConvDesc) (n t : Nat) : Nat := if convPack d = 1 then min 128 (coutG d - 128 * t) else n * coutG d

/-- A pass index within one segment, in the order of R115: first group, column tile, pass. -/
def segPasses (d : ConvDesc) : List (Nat × Nat × Nat) :=
  (upto (ceilDiv d.groups (convPack d))).flatMap (fun g =>
    (upto (convNT d)).flatMap (fun t => (upto (convNP d)).map (fun p => (g * convPack d, t, p))))

/-- Groups in the pack that starts at g0. -/
def packOf (d : ConvDesc) (g0 : Nat) : Nat := min (convPack d) (d.groups - g0)

/-- Offsets of the weight plane and of the block scales of each pass of a segment (R118). -/
def planeOffsets (d : ConvDesc) : List (Nat × Nat) :=
  let step := fun (acc : List (Nat × Nat) × Nat × Nat) (q : Nat × Nat × Nat) =>
    let rows := passRows d (packOf d q.1) q.2.2
    (acc.1 ++ [(acc.2.1, acc.2.2)], acc.2.1 + rows * (convPair d).rowBytes, acc.2.2 + rows / 16 * 128)
  ((segPasses d).foldl step ([], 0, 0)).1

/-- The passes of a convolution in the order of R115; banks alternate tile by tile from bank 0. -/
def convPasses (P : Port) (d : ConvDesc) : List Pass :=
  let ow := (outW d).toNat
  let npos := d.outRowCount * ow
  let one := (segPasses d).zip (planeOffsets d)
  let tilesPerSeg := ceilDiv d.groups (convPack d) * convNT d
  (upto (ceilDiv npos 512)).flatMap (fun sg =>
    one.zipIdx.map (fun (((g0, t, p), off), i) =>
      let n := packOf d g0
      let np := convNP d
      { aFmt := d.aFmt, wFmt := d.wFmt, first := p == 0, last := p + 1 == np
        bank := (sg * tilesPerSeg + i / np) % 2 == 1, wmode := 1, outPath := d.outPath
        rows := passRows d n p, cols := passCols d n t, vectors := min 512 (npos - sg * 512), entryBase := 0
        chBase := g0 * coutG d + 128 * t
        wAddr := d.wAddr + off.1, sAddr := d.sAddr + off.2, rqAddr := d.rqAddr
        vec := fun v => convVector P d g0 p (passRows d n p) (sg * 512 + v)
        part := fun k c => convPack d == 1 || k / rowsG d == c / coutG d
        out := fun v =>
          let pos := sg * 512 + v
          (d.oAddr + pos / ow * d.oRowStride + pos % ow * d.oPixStride, g0 * coutG d + 128 * t) }))

/-! ### Pooling -/

/-- Whether a pooled element beats the best so far: integers as signed, floats by value with -0 below +0 (R119). -/
def poolLess (f : Fmt) (a b : Nat) : Bool :=
  if f.isInt then decide (elemInt f a < elemInt f b)
  else match cmpVal (elemVal f a) (elemVal f b) with
    | some c => c < 0 || (c == 0 && bit a (f.bits - 1) && !bit b (f.bits - 1))
    | none => false

/-- The maximum of the real taps of a window (R119): a NaN gives the canonical NaN. -/
def poolMax (f : Fmt) (xs : List Nat) : Nat :=
  let nan : Bool := if f.isInt then false else xs.any (fun x => elemVal f x == .nan)
  if nan then (match f.float with | some F => canonicalNaN F | none => 0)
  else match xs with
    | [] => 0
    | x :: r => r.foldl (fun m y => if poolLess f m y then y else m) x

/-- One pooling layer (R119), written in A_FMT to O_ADDR. -/
def runPool (P : Port) (d : ConvDesc) : Comp Unit := do
  let ow := (outW d).toNat
  let f := convFmt d
  let dz := { d with padMode := 0 }
  let _ ← (upto (d.outRowCount * ow)).mapM (fun pos => do
    let y := d.outRowFirst + pos / ow
    let x := pos % ow
    let taps := (upto (d.kh * d.kw)).filterMap (fun i => tapPos dz y x (i / d.kw) (i % d.kw))
    let vals ← (upto d.cin).mapM (fun c => do
      let xs ← taps.mapM (fun (yi, xi) => rdInput P d yi xi c)
      return poolMax f xs)
    wrElems P f (d.oAddr + pos / ow * d.oRowStride + pos % ow * d.oPixStride) 0 vals
    endRow)
  endPass

/-- A stripe descriptor (R128). -/
structure StripeDesc where
  version : Nat
  layers : Nat
  groupId : Nat
  stripe : Nat
  stripes : Nat
  sheetBytes : Nat
  convs : List ConvDesc
deriving DecidableEq, Repr

/-- Its 32-byte header and its layers (R128). -/
def parseStripe (b : Bytes) : StripeDesc :=
  let w0 := word b 0
  let w1 := word b 1
  { version := bits w0 31 24, layers := bits w0 19 16, groupId := bits w1 31 16, stripe := bits w1 15 8
    stripes := bits w1 7 0, sheetBytes := word b 2
    convs := (upto (min (bits w0 19 16) 8)).map (fun i => parseConv (slice b (32 + 96 * i) 96)) }

/-- The layers of a stripe in order (R123): what the array drains goes on to the sizing unit. -/
def runLayers (P : Port) : ArraySt × List DrainedEntry → List ConvDesc → Comp (ArraySt × List DrainedEntry)
  | st, [] => pure st
  | st, d :: ds => do
    let st ← if d.op = 1 then do runPool P d; pure st else runPasses P st (convPasses P d)
    runLayers P st ds

/-- The shapes of a stripe's passes and pooling layers in order (R119, R123). -/
def stripeShapes (P : Port) (ds : List ConvDesc) : List PassShape :=
  ds.flatMap (fun d => if d.op = 1 then [poolShape (d.outRowCount * (outW d).toNat)] else (convPasses P d).map Pass.shape)

/-- The passes that a stripe gives the array. -/
def stripePasses (P : Port) (s : StripeDesc) : List Pass :=
  s.convs.flatMap (fun d => if d.op = 1 then [] else convPasses P d)

/-! ### Checks -/

/-- The half-open byte range of a tensor of rows: its region, from its first byte to its last, the gaps that its strides leave among them
(DESIGN CHOICE, log entry 64: no rule says what the region of a strided tensor is). -/
def tensorBytes (addr rowStride pixStride rows cols ch bitsPer : Nat) : Nat × Nat :=
  if rows = 0 ∨ cols = 0 then (addr, addr)
  else (addr, addr + (rows - 1) * rowStride + (cols - 1) * pixStride + ceilDiv (ch * bitsPer) 8)

/-- Whether two half-open ranges share a byte. -/
def overlaps (a b : Nat × Nat) : Bool := decide (a.1 < b.2) && decide (b.1 < a.2)

/-- The format that a layer writes (R119, R75): the requantised format, raw FP32 or INT32, or A_FMT of a pool. -/
def convOutFmt (d : ConvDesc) (rq : Option Requant) : Fmt :=
  if d.op = 1 then convFmt d
  else if d.outPath = 0 then (match rq with | some r => outFmtOf r | none => .int8)
  else if (convPair d).isInt then .int32 else .fp32

/-- Bytes of the input and of the output region. -/
def inRegion (d : ConvDesc) : Nat × Nat :=
  tensorBytes d.aAddr d.aRowStride d.aPixStride d.inRowCount d.inW d.cin (convFmt d).bits
def outRegion (d : ConvDesc) (rq : Option Requant) : Nat × Nat :=
  tensorBytes d.oAddr d.oRowStride d.oPixStride d.outRowCount (outW d).toNat d.cout (convOutFmt d rq).bits
/-- The byte ranges that the output elements take, one for each position: what the layer maps (R129). -/
def outPieces (d : ConvDesc) (rq : Option Requant) : List (Nat × Nat) :=
  let n := ceilDiv (d.cout * (convOutFmt d rq).bits) 8
  let ow := (outW d).toNat
  if d.oPixStride = n then (upto d.outRowCount).map (fun y => (d.oAddr + y * d.oRowStride, d.oAddr + y * d.oRowStride + ow * n))
  else (upto d.outRowCount).flatMap (fun y => (upto ow).map (fun x =>
    let a := d.oAddr + y * d.oRowStride + x * d.oPixStride
    (a, a + n)))
/-- Bytes of the weight planes (R118). -/
def weightRegion (d : ConvDesc) : Nat × Nat :=
  (d.wAddr, d.wAddr + ((segPasses d).foldl (fun n q => n + passRows d (packOf d q.1) q.2.2 * (convPair d).rowBytes) 0))

/-- Bytes of the block scales of the weight planes (R118). -/
def scaleRegion (d : ConvDesc) : Nat × Nat :=
  (d.sAddr, d.sAddr + ((segPasses d).foldl (fun n q => n + passRows d (packOf d q.1) q.2.2 / 16 * 128) 0))

/-- The input columns that the descriptor's outputs read (R109, R111). -/
def colsRead (d : ConvDesc) : List Nat :=
  let rep := d.padMode == 1 && d.op == 0
  (upto d.inW).filter (fun c => (upto d.kw).any (fun kx =>
    let base : Int := c + d.padL - (kx : Int) * d.dw
    let edge := rep && ((c == 0 && decide (0 < (d.padL : Int) - (kx : Int) * d.dw))
      || (c + 1 == d.inW && decide ((d.inW : Int) ≤ ((outW d - 1) * d.sw : Int) - d.padL + (kx : Int) * d.dw)))
    edge || (decide (0 ≤ base) && base % d.sw == 0 && decide (base / d.sw < outW d))))

/-- Whether some tap of a row of outputs addresses a column of the image: without one, every tap lies in padding (R109, R111). -/
def columnHit (d : ConvDesc) : Bool :=
  (d.padMode == 1 && d.op == 0) || (upto (outW d).toNat).any (fun x => (upto d.kw).any (fun kx =>
    let xi : Int := (x * d.sw : Int) - d.padL + (kx : Int) * d.dw
    decide (0 ≤ xi) && decide (xi < d.inW)))

/-- The input rows that the descriptor's output rows read (R109, R111). -/
def rowsRead (d : ConvDesc) : List Nat :=
  if !columnHit d then [] else
  (upto d.outRowCount).flatMap (fun i => (upto d.kh).filterMap (fun (ky : Nat) =>
    let y := d.outRowFirst + i
    let yi : Int := (y * d.sh : Int) - d.padT + (ky : Int) * d.dh
    if 0 ≤ yi ∧ yi < d.inH then some yi.toNat
    else if d.padMode = 1 ∧ d.op = 0 then some (clampInt yi 0 (d.inH - 1)).toNat else none))

/-- The checks of R122, in order. The output half of 0x1019 is checked where an output is written to memory, not with OUT_PATH = 0b10 (DESIGN CHOICE, log
entry 64). -/
def convChecks (d : ConvDesc) (rq : Option Requant) : List (Bool × Nat) :=
  let pr := pairOf d.aFmt d.wFmt
  let pool := d.op == 1
  let geom := d.kh == 0 || decide (64 < d.kh) || d.kw == 0 || decide (64 < d.kw)
    || d.sh == 0 || decide (16 < d.sh) || d.sw == 0 || decide (16 < d.sw)
    || d.dh == 0 || decide (16 < d.dh) || d.dw == 0 || decide (16 < d.dw)
    || d.inH == 0 || decide (8192 < d.inH) || d.inW == 0 || decide (8192 < d.inW)
    || d.cin == 0 || d.cout == 0 || d.groups == 0
  let e2 := d.aFmt == 1
  let bytesOf := fun (n b : Nat) => ceilDiv (n * b) 8
  let ob := (convOutFmt d rq).bits
  let useRq := !pool && d.outPath == 0
  [ (d.version != 1, 0x1011),
    (decide (1 < d.op) || d.outPath == 3 || (pool && d.outPath != 1), 0x1012),
    (!pool && pr.isNone, 0x1035),
    (geom, 0x1013),
    (d.cin % d.groups != 0 || d.cout % d.groups != 0 || (e2 && lenG d % 2 == 1), 0x1014),
    (d.wFmt == 4 && lenG d % 32 != 0, 0x1036),
    (decide (outH d < 1) || decide (outW d < 1), 0x1015),
    (d.outRowCount == 0 || decide (outH d < d.outRowFirst + d.outRowCount), 0x1016),
    ((rowsRead d).any (fun y => decide (y < d.inRowFirst) || decide (d.inRowFirst + d.inRowCount ≤ y)), 0x1017),
    (pool && (d.dh != 1 || d.dw != 1 || decide (d.kh ≤ d.padT) || decide (d.kh ≤ d.padB) || decide (d.kw ≤ d.padL)
      || decide (d.kw ≤ d.padR) || d.groups != 1 || d.cout != d.cin
      || !(d.aFmt == 2 || d.aFmt == 1 || d.aFmt == 5 || d.aFmt == 6 || d.aFmt == 8 || d.aFmt == 7)), 0x1018),
    (decide (d.aPixStride < bytesOf d.cin (convFmt d).bits) || decide (d.aRowStride < d.inW * d.aPixStride)
      || (d.outPath != 2 && (decide (d.oPixStride < bytesOf d.cout ob) || decide (d.oRowStride < (outW d).toNat * d.oPixStride)
        || overlaps (outRegion d rq) (inRegion d))), 0x1019),
    (badVa d.aAddr || (!pool && badVa d.wAddr) || (!pool && d.wFmt == 4 && badVa d.sAddr) || (useRq && badVa d.rqAddr)
      || (d.outPath != 2 && badVa d.oAddr), 0x1007) ]
  ++ (match rq with
      | some r => if useRq then requantChecks r ++
          [ (decide (r.channels < d.cout) || (r.inFmt == 3) != (pr.map Pair.isInt == some true), 0x1008) ] else []
      | none => [])

/-- Whether the row fields of the layers agree with R124, walking from the last layer (given first) to the first. -/
def haloOk : List ConvDesc → Nat → Nat → Bool
  | [], _, _ => true
  | d :: rest, lo, cnt =>
    let hi := lo + cnt - 1
    let inLo : Int := max 0 ((lo * d.sh : Int) - d.padT)
    let inHi : Int := min ((d.inH : Int) - 1) ((hi * d.sh : Int) - d.padT + d.dh * ((d.kh : Int) - 1))
    (d.outRowFirst == lo && d.outRowCount == cnt) &&
    (match rest with
     | [] => decide ((d.inRowFirst : Int) ≤ inLo) && decide (inHi ≤ (d.inRowFirst : Int) + d.inRowCount - 1)
     | _ => decide ((d.inRowFirst : Int) = inLo) && decide ((d.inRowCount : Int) = inHi - inLo + 1)
        && haloOk rest inLo.toNat (inHi - inLo + 1).toNat)

/-- Consecutive pairs of a list. -/
def pairsOf {α : Type} (l : List α) : List (α × α) := l.zip (l.drop 1)

/-- The header checks of R129. -/
def stripeHeaderChecks (s : StripeDesc) : List (Bool × Nat) :=
  [ (s.version != 1 || s.layers == 0 || decide (8 < s.layers) || s.stripes == 0 || decide (s.stripes ≤ s.stripe), 0x1021) ]

/-- Bytes of a union of ranges, by sorted sweep. -/
def unionBytes (l : List (Nat × Nat)) : Nat :=
  let srt := l.mergeSort (fun a b => decide (a.1 ≤ b.1))
  (srt.foldl (fun (n, hi) (a, b) => if hi < a then (n + (b - a), b) else if hi < b then (n + (b - hi), b) else (n, hi)) (0, 0)).1

/-- Fields of a layer that all stripes of a group share (R129, 0x1024). -/
def sharedFields (d : ConvDesc) : ConvDesc :=
  { d with outRowFirst := 0, outRowCount := 0, inRowFirst := 0, inRowCount := 0
           aAddr := 0, wAddr := 0, sAddr := 0, rqAddr := 0, oAddr := 0 }

/-- The owned output rows of a stripe. -/
def ownedRows (s : StripeDesc) : Nat × Nat :=
  match s.convs.getLast? with
  | some d => (d.outRowFirst, d.outRowCount)
  | none => (0, 0)

/-- Whether the stripes of one GROUP_ID do not divide the output (R129, 0x1024). -/
def groupBad (s : StripeDesc) (all : List StripeDesc) : Bool :=
  let g := all.filter (fun x => x.groupId == s.groupId)
  let srt := g.mergeSort (fun a b => decide (a.stripe ≤ b.stripe))
  let idx := srt.map StripeDesc.stripe
  let rows := (g.map ownedRows).mergeSort (fun a b => decide (a.1 ≤ b.1))
  let h := match s.convs.getLast? with | some d => (outH d).toNat | none => 0
  let tiling := (rows.foldl (fun (at?, ok) (f, n) => (f + n, ok && f == at?)) (0, true))
  idx != upto s.stripes
  || g.any (fun x => x.stripes != s.stripes || x.layers != s.layers || x.convs.map sharedFields != s.convs.map sharedFields)
  || !tiling.2 || tiling.1 != h

/-- The checks of R129 after the layers' own, given the requantisation descriptors of the layers, all stripes of the plan,
whether a byte range lies in the sheet store of the bound core, whether it touches any sheet store, and the sheet quota. The later layer that reads a
layer's rows is the next one, whatever A_ADDR another names (0x1027; DESIGN CHOICE, log entry 64). -/
def stripeChecks (s : StripeDesc) (rqs : List (Option Requant)) (all : List StripeDesc)
    (inSheet touchesSheet : Nat × Nat → Bool) (quotaBytes : Nat) : List (Bool × Nat) :=
  let ls := s.convs.zip rqs
  let inner := ls.dropLast
  let innerOut := inner.map (fun (d, q) => outRegion d q)
  let chain := (pairsOf ls).any (fun ((a, qa), (b, _)) =>
    decide ((b.inH : Int) ≠ outH a) || decide ((b.inW : Int) ≠ outW a) || b.cin != a.cout
      || (fmtOf b.aFmt) != some (convOutFmt a qa))
  let (lo, cnt) := ownedRows s
  let lastOut := match ls.getLast? with
    | some (d, q) => if d.outPath = 2 then false else (outPieces d q).any touchesSheet
    | none => false
  let clash := ls.zipIdx.any (fun ((d, q), l) =>
    let o := outRegion d q
    if d.outPath = 2 then false else
    overlaps o (inRegion d) || (d.op == 0 && overlaps o (weightRegion d))
      || ((ls.take l).zipIdx.any (fun ((e, qe), j) => decide (l ≤ j + 1) && overlaps o (outRegion e qe))))
  [ (chain, 0x1022),
    (!haloOk s.convs.reverse lo cnt, 0x1023),
    (groupBad s all, 0x1024),
    (inner.any (fun e => (outPieces e.1 e.2).any (fun r => !inSheet r)) || lastOut, 0x1025),
    (decide (s.sheetBytes < unionBytes innerOut) || decide (quotaBytes < s.sheetBytes), 0x1026),
    (clash, 0x1027) ]

end Sys2Proof.Machine
end

