-- ==== Sys2Proof/Machine/Tables.lean ====
section
/-! DEFINITION. Function tables and the table-driven functions (R101, R102), and the fixed reductions (R104, R105). -/

namespace Sys2Proof.Machine

/-- A function table of 784 bytes (R101). -/
structure FTable where
  version : Nat
  func : Nat
  mode : Nat
  eLo : Int
  lo : Word
  invW : Word
  coef : List Word
deriving DecidableEq, Repr

/-- The fields of a function table (R101). -/
def parseTable (b : Bytes) : FTable :=
  let w0 := word b 0
  { version := bits w0 31 24, func := bits w0 23 16, mode := bits w0 15 8, eLo := sext 8 w0
    lo := BitVec.ofNat 32 (word b 1), invW := BitVec.ofNat 32 (word b 2)
    coef := (upto 192).map (fun i => BitVec.ofNat 32 (word b (4 + i))) }

/-- Whether VERSION and MODE are those of R101 and FUNC is the one asked for (R98, R258). -/
def tableOk (t : FTable) (func : Nat) : Bool := t.version == 1 && (t.mode == 0 || t.mode == 1) && t.func == func

def fpOne : Word := 0x3F800000#32
def fpZero : Word := 0#32
def fpInf : Word := 0x7F800000#32
def fpNegInf : Word := 0xFF800000#32
def fpNaN : Word := 0x7FC00000#32

/-- Greatest integer not above a finite value. -/
def floorVal (neg : Bool) (m : Nat) (e : Int) : Int :=
  let s : Int := if neg then -(m : Int) else m
  if 0 ≤ e then s * 2 ^ e.toNat else s.fdiv (2 ^ (-e).toNat)

/-- p scaled by 2^k with one rounding (R102). -/
def ldexpRne (p : Word) (k : Int) : Word :=
  match fval p with
  | .fin n m e => toFp32 (.fin n m (e + k))
  | v => toFp32 v

/-- The evaluation of one quadratic segment (R101). In MODE BINADE the exponent of zero or of a subnormal argument is its exponent field less
127, and its mantissa the mantissa field (DESIGN CHOICE, log entry 63: the callers of R101 pass normal numbers only). -/
def seg (t : FTable) (x : Word) : Word :=
  let (j, tt) : Nat × Word :=
    if t.mode = 0 then
      let u := fmul (fsub x t.lo) t.invW
      let j : Nat := match fval u with
        | .nan => 0
        | .inf n => if n then 0 else 63
        | .fin n m e => (clampInt (floorVal n m e) 0 63).toNat
      (j, fsub u (fpOfInt j))
    else
      let e : Int := (bits x.toNat 30 23 : Int) - 127
      let mant := bits x.toNat 22 0
      let j := (clampInt (4 * (e - t.eLo) + (mant / 2 ^ 21 : Nat)) 0 63).toNat
      (j, toFp32 (.fin false (mant % 2 ^ 21) (-21)))
  let c := fun i => t.coef.getD (3 * j + i) 0
  ffma (ffma (c 2) tt (c 1)) tt (c 0)

/-- Sign of y on the magnitude of x; a NaN stays the canonical one (R32). -/
def copysign (x y : Word) : Word := if isNaN x then fpNaN else fabs x ||| (y &&& 0x80000000#32)

/-- EXP of R102. -/
def fnExp (t : FTable) (x : Word) : Word :=
  if isNaN x then fpNaN else
  let z := fmul x 0x3FB8AA3B#32
  if fle 0x43000000#32 z then fpInf
  else if flt z 0xC3160000#32 then fpZero
  else match fval z with
    | .fin n m e =>
      let k := floorVal n m e
      ldexpRne (seg t (fsub z (fpOfInt k))) k
    | _ => fpNaN

/-- |x| = M * 2^e with 1 ≤ M < 2, for a finite x other than zero. -/
def normalise (m : Nat) (e : Int) : Word × Int :=
  let l := Nat.log2 m
  (toFp32 (.fin false m (-(l : Int))), e + l)

/-- RECIP of R102. -/
def fnRecip (t : FTable) (x : Word) : Word :=
  match fval x with
  | .nan => fpNaN
  | .inf _ => copysign fpZero x
  | .fin _ m e =>
    if m = 0 then copysign fpInf x else
    let (mm, ee) := normalise m e
    copysign (ldexpRne (seg t mm) (-ee)) x

/-- RSQRT of R102. -/
def fnRsqrt (t : FTable) (x : Word) : Word :=
  match fval x with
  | .nan => fpNaN
  | .inf n => if n then fpNaN else fpZero
  | .fin n m e =>
    if m = 0 then copysign fpInf x
    else if n then fpNaN
    else
      let (mm, ee) := normalise m e
      if ee.emod 2 = 1 then ldexpRne (seg t (fmul 0x40000000#32 mm)) (-((ee - 1).fdiv 2))
      else ldexpRne (seg t mm) (-(ee.fdiv 2))

/-- SIGMOID of R102. -/
def fnSigmoid (te tr : FTable) (x : Word) : Word := fnRecip tr (fadd fpOne (fnExp te (fneg x)))

/-- SILU of R102. -/
def fnSilu (te tr : FTable) (x : Word) : Word :=
  if x = fpNegInf then 0x80000000#32 else fmul x (fnSigmoid te tr x)

/-- TANH of R102. -/
def fnTanh (t : FTable) (x : Word) : Word :=
  if isNaN x then fpNaN else
  let a := fabs x
  if flt a 0x39800000#32 then x
  else if fle 0x41100000#32 a then copysign fpOne x
  else copysign (seg t a) x

/-- GELU of R102; K_PHI is the FP32 value nearest to 1/√(2π). -/
def fnGelu (t : FTable) (x : Word) : Word :=
  if isNaN x then fpNaN
  else if fle 0x41600000#32 x then x
  else if fle x 0xC1600000#32 then 0x80000000#32
  else
    let a := fabs x
    if flt a 0x39800000#32 then fmul x (ffma x 0x3ECC422A#32 0x3F000000#32)
    else
      let q := seg t a
      fmul x (if flt x fpZero then q else fsub fpOne q)

/-- Lane l of a row sum: its elements in increasing order (R104). -/
def laneSum (v : List Word) (l : Nat) : Word :=
  (v.zipIdx.foldl (fun a (x, i) => if i % 64 = l then fadd a x else a) fpZero)

/-- Neighbouring pairs added, one tree level. -/
def treeLevel (add : α → α → α) : List α → List α
  | a :: b :: r => add a b :: treeLevel add r
  | l => l

/-- The fixed pairwise tree of 2^n leaves (R91, R104). -/
def treeSum (add : α → α → α) : Nat → List α → List α
  | 0, l => l
  | n + 1, l => treeSum add n (treeLevel add l)

/-- The sum of a row (R104). -/
def rsum (v : List Word) : Word := ((treeSum fadd 6 ((upto 64).map (laneSum v))).head?).getD fpZero

/-- Whether a is below b with -0 below +0 (R104). -/
def orderedLt (a b : Word) : Bool := flt a b || (feq a b && a.msb && !b.msb)

/-- The maximum of a row (R104). -/
def rmax (v : List Word) : Word :=
  if v.any isNaN then fpNaN else
  match v with
  | [] => fpNegInf
  | x :: r => r.foldl (fun m y => if orderedLt m y then y else m) x

/-- SOFTMAX of R105. -/
def softmax (te tr : FTable) (x : List Word) : List Word :=
  let m := rmax x
  if m = fpNegInf then x.map (fun _ => fpZero) else
  let e := x.map (fun v => fnExp te (fsub v m))
  let r := fnRecip tr (rsum e)
  e.map (fun v => fmul v r)

/-- y * gamma (+ beta) with separate roundings (R105). -/
def affineRow (y gamma beta : List Word) (withBeta : Bool) : List Word :=
  y.zipIdx.map (fun (v, i) =>
    let g := fmul v (gamma.getD i fpZero)
    if withBeta then fadd g (beta.getD i fpZero) else g)

/-- LNORM of R105, before the affine step. -/
def lnorm (t : FTable) (x : List Word) (eps : Word) : List Word :=
  let rn := fdiv fpOne (fpOfInt x.length)
  let mu := fmul (rsum x) rn
  let d := x.map (fun v => fsub v mu)
  let r := fnRsqrt t (fadd (fmul (rsum (d.map (fun v => fmul v v))) rn) eps)
  d.map (fun v => fmul v r)

/-- RMSNORM of R105, before the affine step. -/
def rmsnorm (t : FTable) (x : List Word) (eps : Word) : List Word :=
  let rn := fdiv fpOne (fpOfInt x.length)
  let r := fnRsqrt t (fadd (fmul (rsum (x.map (fun v => fmul v v))) rn) eps)
  x.map (fun v => fmul v r)

end Sys2Proof.Machine
end

