-- ==== Sys2Proof/Machine/HawkUnit.lean ====
section
/-! DEFINITION. The hawk path and the sizing unit (04_hawk_and_sizing.md): hawk state, programs and their checks.
Readings: log entry 55 (DEDUCED), log entry 63 (DESIGN CHOICE), log entry 65 (DESIGN CHOICE). -/

namespace Sys2Proof.Machine

/-- A vector register: whether its tag is INT32, and its 32 elements (R88). -/
structure HReg where
  int : Bool
  vals : List Word
deriving DecidableEq, Repr

/-- A matrix slot: operand format code and 32 rows of 32 element codes (R88). -/
structure HMat where
  fmt : Nat
  rows : List (List Nat)
deriving DecidableEq, Repr

/-- The hawk state of one core: registers, matrix slots and table slots, keyed by number (R88). -/
structure HawkSt where
  regs : List (Nat × HReg)
  mats : List (Nat × HMat)
  tables : List (Nat × Bytes)
deriving DecidableEq, Repr

/-- Hawk state with nothing written: every register holds 32 zeros tagged FP32, every matrix slot 32 x 32 zeros of INT8, every table slot 784
zero bytes (DESIGN CHOICE, log entry 65: R88 gives no reset value). -/
def emptyHawk : HawkSt := ⟨[], [], []⟩

/-- The parity bit of a 64-bit word of hawk state (R88): the sum of its bits. -/
def parityBit (n : Nat) : Bool := ((List.range 64).filter (fun i => n.testBit i)).length % 2 == 1
/-- The parity bits of hawk state, one for each 64 bits of its bytes (R88). A wrong one exists in this model only as the event that reports it,
HAWK_PARITY_ERROR (DESIGN CHOICE, log entry 65). -/
def parityBits (b : Bytes) : List Bool := (chunks 8 (ceilDiv b.length 8) b).map (fun w => parityBit (leNat w))
/-- The parity bits that a register, a matrix slot (its elements row by row, in its format) and a table slot carry (R88). -/
def HReg.parity (r : HReg) : List Bool := parityBits (r.vals.flatMap (fun v => toLE 4 v.toNat))
def HMat.parity (m : HMat) : List Bool :=
  parityBits (m.rows.flatten.flatMap (fun v => toLE ((((fmtOf m.fmt).map Fmt.bits).getD 8) / 8) v))
def tableParity (b : Bytes) : List Bool := parityBits b
/-- Every parity bit that a core's hawk state carries. -/
def HawkSt.parity (h : HawkSt) : List Bool :=
  h.regs.flatMap (fun e => e.2.parity) ++ h.mats.flatMap (fun e => e.2.parity) ++ h.tables.flatMap (fun e => tableParity e.2)

/-- Hawk state whose contents are undefined: free values from a base on (R90, R334). -/
def freeHawk (k : Nat) : HawkSt :=
  { regs := (upto 64).map (fun n => (n, ⟨Config.free (k + n) % 2 == 1,
      (upto 32).map (fun i => BitVec.ofNat 32 (Config.free (k + 64 + n * 32 + i)))⟩))
    mats := (upto 4).map (fun n => (n, ⟨[2, 7, 8, 9].getD (Config.free (k + 2 ^ 13 + n) % 4) 2,
      (upto 32).map (fun r => (upto 32).map (fun c => Config.free (k + 2 ^ 14 + n * 1024 + r * 32 + c) % 2 ^ 32))⟩))
    tables := (upto 16).map (fun n => (n, (upto 784).map (fun i => BitVec.ofNat 8 (Config.free (k + 2 ^ 16 + n * 784 + i))))) }

/-- A hawk instruction (R94). -/
structure HInstr where
  op : Nat
  dst : Nat
  srcA : Nat
  srcB : Nat
  mat : Nat
  acc : Bool
  pair : Bool
  fmt : Nat
  func : Nat
  tslot : Nat
  drn : Bool
  aff : Bool
  len : Nat
  addr : Nat
  addr2 : Nat
  addr3 : Nat
  p0 : Word
  p1 : Word
deriving DecidableEq, Repr

/-- The fields of its 32 bytes (R94). -/
def parseHInstr (b : Bytes) : HInstr :=
  let w0 := word b 0
  let w1 := word b 1
  { op := bits w0 31 26, dst := bits w0 25 20, srcA := bits w0 19 14, srcB := bits w0 13 8, mat := bits w0 7 6
    acc := bit w0 5, pair := bit w0 4, fmt := bits w0 3 0, func := bits w1 31 24, tslot := bits w1 23 20
    drn := bit w1 19, aff := bit w1 18, len := bits w1 12 0, addr := le b 8 8, addr2 := le b 16 8, addr3 := le b 24 8
    p0 := BitVec.ofNat 32 (word b 4), p1 := BitVec.ofNat 32 (word b 5) }

/-- A hawk program: VERSION, COUNT and its instructions (R94). -/
structure HProgram where
  version : Nat
  count : Nat
  body : List HInstr
deriving DecidableEq, Repr

/-- The program at an address: 16-byte header, COUNT instructions. -/
def rdProgram (P : Port) (va : Nat) : Comp HProgram := do
  let h ← rdBytes P va 16
  let n := bits (word h 0) 12 0
  let body ← (upto n).mapM (fun i => do return parseHInstr (← rdBytes P (va + 16 + 32 * i) 32))
  return ⟨bits (word h 0) 31 24, n, body⟩

/-- Contents of a register (R89: a program writes before it reads). -/
def HawkSt.reg (h : HawkSt) (n : Nat) : HReg := (h.regs.lookup n).getD ⟨false, List.replicate 32 0⟩
/-- Contents of a matrix slot. -/
def HawkSt.slot (h : HawkSt) (n : Nat) : HMat := (h.mats.lookup n).getD ⟨2, List.replicate 32 (List.replicate 32 0)⟩
/-- Contents of a table slot. -/
def HawkSt.table (h : HawkSt) (n : Nat) : FTable := parseTable ((h.tables.lookup n).getD (List.replicate 784 0))

/-- Put one pair of a table with unique keys. -/
def assoc {α : Type} (k : Nat) (v : α) (l : List (Nat × α)) : List (Nat × α) := (k, v) :: l.filter (fun p => p.1 != k)

/-- Write a register of 32 elements; missing elements are zero. -/
def HawkSt.setReg (h : HawkSt) (n : Nat) (int : Bool) (vals : List Word) : HawkSt :=
  { h with regs := assoc n ⟨int, (vals ++ List.replicate 32 0).take 32⟩ h.regs }

/-- The INT8 matrix-vector product of one row (R91, R92). -/
def hmvRowInt (row : List Nat) (v : List Word) (acc : Option Word) : Word :=
  let ps := (row.zip v).map (fun (m, x) => sext 8 m * clampInt x.toInt (-128) 127)
  let s := ((treeSum (· + ·) 5 ps).head?).getD 0
  BitVec.ofInt 32 (satInt32 ((match acc with | some b => b.toInt | none => 0) + s))

/-- The floating matrix-vector product of one row (R91, R92). -/
def hmvRowFp (f : Fmt) (row : List Nat) (v : List Word) (acc : Option Word) : Word :=
  let ps := (row.zip v).map (fun (m, x) => fmul (widen f m) x)
  let s := ((treeSum fadd 5 ps).head?).getD fpZero
  fadd (acc.getD fpZero) s

/-- HMV (R91). -/
def hmv (h : HawkSt) (i : HInstr) : HawkSt :=
  let m := h.slot i.mat
  let v := (h.reg i.srcA).vals
  let b := (h.reg i.srcB).vals
  let out := m.rows.zipIdx.map (fun (row, k) =>
    let acc := if i.acc then some (b.getD k 0) else none
    if i.fmt = 2 then hmvRowInt row v acc else hmvRowFp ((fmtOf i.fmt).getD .fp32) row v acc)
  h.setReg i.dst (i.fmt == 2) out

/-- Elements of a register as FP32 (R99). -/
def regFp (r : HReg) : List Word := if r.int then r.vals.map (fun w => fpOfInt w.toInt) else r.vals

/-- Elements of a drained entry as FP32 (R99). -/
def entryFp (e : DrainedEntry) : List Word := if e.int then e.vals.map (fun w => fpOfInt w.toInt) else e.vals

/-- Elementwise functions of one operand (R100, R102). -/
def unary (h : HawkSt) (i : HInstr) (x : Word) : Word :=
  let t0 := h.table i.tslot
  let t1 := h.table (i.tslot + 1)
  match i.func with
  | 0x01 => if isNaN x then fpNaN else if flt fpZero x then x else fpZero
  | 0x02 => clampFp x i.p0 i.p1
  | 0x06 => fadd (fmul x i.p0) i.p1
  | 0x10 => fnExp t0 x
  | 0x11 => fnSigmoid t0 t1 x
  | 0x12 => fnSilu t0 t1 x
  | 0x13 => fnTanh t0 x
  | 0x14 => fnGelu t0 x
  | 0x15 => fnRecip t0 x
  | _ => fnRsqrt t0 x

/-- Elementwise functions of two operands (R100). -/
def binary (func : Nat) (a b : Word) : Word :=
  match func with
  | 0x03 => fadd a b
  | 0x04 => fsub a b
  | _ => fmul a b

/-- Whether a sizing function is a row function. -/
def isRow (func : Nat) : Bool := 0x20 ≤ func && func ≤ 0x24
/-- Whether a sizing function takes two registers. -/
def isBinary (func : Nat) : Bool := 3 ≤ func && func ≤ 5
/-- The table uses of a sizing function, first slot first (R100): FUNC codes of R101. -/
def tableUses (func : Nat) : List Nat :=
  match func with
  | 0x10 => [0x10] | 0x11 => [0x10, 0x15] | 0x12 => [0x10, 0x15] | 0x13 => [0x13] | 0x14 => [0x14]
  | 0x15 => [0x15] | 0x16 => [0x16] | 0x22 => [0x10, 0x15] | 0x23 => [0x16] | 0x24 => [0x16]
  | _ => []
/-- Whether FUNC is one of R100. -/
def funcKnown (func : Nat) : Bool := (1 ≤ func && func ≤ 6) || (0x10 ≤ func && func ≤ 0x16) || isRow func
/-- Whether a function accepts drained entries (R100). -/
def acceptsDrn (func : Nat) : Bool := func == 1 || (0x10 ≤ func && func ≤ 0x16) || isRow func

/-- A row function (R100, R104, R105). -/
def rowFn (P : Port) (h : HawkSt) (i : HInstr) (x : List Word) : Comp HawkSt := do
  let t0 := h.table i.tslot
  let t1 := h.table (i.tslot + 1)
  let words := fun (va n : Nat) => do return (← rdElems P .fp32 va n).map (BitVec.ofNat 32)
  let store := fun (y : List Word) => do wrElems P .fp32 i.addr2 0 (y.map BitVec.toNat); endRow
  match i.func with
  | 0x20 => return h.setReg i.dst false [rsum x]
  | 0x21 => return h.setReg i.dst false [rmax x]
  | 0x22 => do store (softmax t0 t1 x); return h
  | 0x23 => do
    let eps ← words i.addr3 1
    let y := lnorm t0 x (eps.getD 0 0)
    if i.aff then do
      let g ← words (i.addr3 + 4) x.length
      let b ← words (i.addr3 + 4 + 4 * x.length) x.length
      store (affineRow y g b true)
    else store y
    return h
  | _ => do
    let eps ← words i.addr3 1
    let y := rmsnorm t0 x (eps.getD 0 0)
    if i.aff then do
      let g ← words (i.addr3 + 4) x.length
      store (affineRow y g [] false)
    else store y
    return h

/-- SZ (R99, R100): answers the new hawk state and the drained entries left. -/
def sizing (P : Port) (h : HawkSt) (drn : List DrainedEntry) (i : HInstr) : Comp (HawkSt × List DrainedEntry) :=
  if i.drn then
    match drn with
    | [] => return (h, [])
    | e :: rest =>
      let x := entryFp e
      if isRow i.func then do return (← rowFn P h i (x.take i.len), rest)
      else
        let y := x.map (unary h i)
        return ((upto 4).foldl (fun h k => h.setReg (i.dst + k) false ((y.drop (32 * k)).take 32)) h, rest)
  else if isRow i.func then do
    let f := (fmtOf i.fmt).getD .fp32
    let x ← rdElems P f i.addr i.len
    return (← rowFn P h i (x.map (widen f)), drn)
  else
    let one := fun (h : HawkSt) (k : Nat) =>
      let a := regFp (h.reg (i.srcA + k))
      let y := if isBinary i.func then (a.zip (regFp (h.reg (i.srcB + k)))).map (fun (p, q) => binary i.func p q)
               else a.map (unary h i)
      h.setReg (i.dst + k) false y
    -- both registers of a pair are read before either result is written (64 lanes of one instruction)
    if i.pair then
      let h0 := one h 0
      let h1 := one h 1
      return ({ h0 with regs := assoc (i.dst + 1) (h1.reg (i.dst + 1)) h0.regs }, drn)
    else return (one h 0, drn)

/-- One hawk instruction (R95). An HRQ whose LEN passes CHANNELS of its descriptor goes on reading q and bias past them (DESIGN CHOICE, log entry
63: no check of R98 refuses it). -/
def hawkStep (P : Port) (st : HawkSt × List DrainedEntry) (i : HInstr) : Comp (HawkSt × List DrainedEntry) := do
  let (h, drn) := st
  match i.op with
  | 0x01 => do
    let f := (fmtOf i.fmt).getD .fp32
    let x ← rdElems P f i.addr i.len
    let vals := if f.isInt then x.map (fun w => BitVec.ofInt 32 (elemInt f w)) else x.map (widen f)
    return (h.setReg i.dst f.isInt vals, drn)
  | 0x02 => do
    wrElems P .fp32 i.addr2 0 (((h.reg i.srcA).vals.take i.len).map BitVec.toNat)
    endRow
    return (h, drn)
  | 0x03 => do
    let f := (fmtOf i.fmt).getD .fp32
    let rows ← (upto 32).mapM (fun r => rdElems P f (i.addr + r * 32 * (f.bits / 8)) 32)
    return ({ h with mats := assoc i.mat ⟨i.fmt, rows⟩ h.mats }, drn)
  | 0x04 => do
    let b ← rdBytes P i.addr 784
    return ({ h with tables := assoc i.tslot b h.tables }, drn)
  | 0x05 => return (hmv h i, drn)
  | 0x06 => sizing P h drn i
  | 0x07 => do
    let rq ← rdRequant P i.addr
    let x := (h.reg i.srcA).vals ++ (if i.pair then (h.reg (i.srcA + 1)).vals else [])
    let out ← requantRow P rq 0 (x.take i.len)
    wrElems P (outFmtOf rq) i.addr2 0 out
    endRow
    return (h, drn)
  | _ => return (h, drn)

/-- A hawk program in order, up to HEND (R95, R96). -/
def runHawk (P : Port) : HawkSt × List DrainedEntry → List HInstr → Comp (HawkSt × List DrainedEntry)
  | st, [] => pure st
  | st, i :: r =>
    if i.op = 0x3F then pure st
    else do
      let st ← hawkStep P st i
      runHawk P st r

/-! ### Checks of R98 -/

/-- What the work item's array part gives the checks: the columns of each entry delivered to the sizing unit in order, the
number of tiles, the byte ranges that descriptors read and that each tile's drain writes, and the bytes of memory that do not
change after load. -/
structure HawkEnv where
  entryCols : List Nat
  tiles : Nat
  reads : List (Nat × Nat)
  drains : List (Nat × Nat × Nat)
  bytes : Nat → Nat → Bytes

/-- Registers that an instruction reads. -/
def hReads (i : HInstr) : List Nat :=
  match i.op with
  | 0x02 => [i.srcA]
  | 0x05 => i.srcA :: (if i.acc then [i.srcB] else [])
  | 0x06 => if i.drn || isRow i.func then [] else
      (if i.pair then [i.srcA, i.srcA + 1] else [i.srcA]) ++
      (if isBinary i.func then (if i.pair then [i.srcB, i.srcB + 1] else [i.srcB]) else [])
  | 0x07 => if i.pair then [i.srcA, i.srcA + 1] else [i.srcA]
  | _ => []

/-- Registers that an instruction writes, and whether as INT32. -/
def hWrites (i : HInstr) : List (Nat × Bool) :=
  match i.op with
  | 0x01 => [(i.dst, i.fmt == 2 || i.fmt == 3)]
  | 0x05 => [(i.dst, i.fmt == 2)]
  | 0x06 => if i.func == 0x20 || i.func == 0x21 then [(i.dst, false)]
      else if isRow i.func then []
      else if i.drn then (upto 4).map (fun k => (i.dst + k, false))
      else if i.pair then [(i.dst, false), (i.dst + 1, false)] else [(i.dst, false)]
  | _ => []

/-- Table slots that an instruction uses, with the FUNC each must serve. -/
def hTables (i : HInstr) : List (Nat × Nat) :=
  if i.op = 0x06 then (tableUses i.func).zipIdx.map (fun (f, k) => (i.tslot + k, f)) else []

/-- Check 2 of R98 for one instruction, given COLS of the entry it takes when DRN = 1. PAIR is ignored where R94 and R100 give it no meaning: on an SZ
with DRN = 1 and on a row function. A row function with DRN = 1 takes LEN = COLS elements (R99): with another LEN it has no legal form
(DESIGN CHOICE, log entry 63, both). -/
def hForm (i : HInstr) (matFmt : Option Nat) (cols : Option Nat) : Bool :=
  let mf := i.fmt == 2 || i.fmt == 7 || i.fmt == 8 || i.fmt == 9
  match i.op with
  | 0x01 => !(mf || i.fmt == 3) || i.len == 0 || decide (32 < i.len)
  | 0x02 => !(i.fmt == 3 || i.fmt == 9) || i.len == 0 || decide (32 < i.len)
  | 0x03 => !mf
  | 0x04 => false
  | 0x05 => !mf || (match matFmt with | some f => f != i.fmt | none => false)
  | 0x06 =>
    !funcKnown i.func
    || (isRow i.func && !i.drn && !(i.fmt == 9 || i.fmt == 8 || i.fmt == 3))
    || (isRow i.func && (i.len == 0 || decide (4096 < i.len)))
    || (isRow i.func && i.drn && (match cols with | some c => c != i.len | none => false))
    || (!isRow i.func && i.drn && decide (63 < i.dst + 3))
    || ((tableUses i.func).length == 2 && decide (15 < i.tslot + 1))
    || (i.pair && !isRow i.func && !i.drn && (i.dst % 2 == 1 || i.srcA % 2 == 1 || (isBinary i.func && i.srcB % 2 == 1)))
    || (i.drn && !acceptsDrn i.func)
  | 0x07 => i.len == 0 || decide ((if i.pair then 64 else 32) < i.len) || (i.pair && i.srcA % 2 == 1)
  | 0x08 => false
  | 0x3F => false
  | _ => true

/-- Byte ranges that a hawk instruction loads. -/
def hLoads (i : HInstr) : List (Nat × Nat) :=
  let fb := ((fmtOf i.fmt).getD .fp32).bits / 8
  match i.op with
  | 0x01 => [(i.addr, i.addr + i.len * fb)]
  | 0x03 => [(i.addr, i.addr + 1024 * fb)]
  | 0x04 => [(i.addr, i.addr + 784)]
  | 0x06 => if isRow i.func then
      (if i.drn then [] else [(i.addr, i.addr + i.len * fb)]) ++
      (if i.func == 0x23 then [(i.addr3, i.addr3 + 4 + if i.aff then 8 * i.len else 0)]
       else if i.func == 0x24 then [(i.addr3, i.addr3 + 4 + if i.aff then 4 * i.len else 0)] else [])
    else []
  | _ => []

/-- Byte ranges that HSTV or HRQ stores. -/
def hStores (bytes : Nat → Nat → Bytes) (i : HInstr) : List (Nat × Nat) :=
  match i.op with
  | 0x02 => [(i.addr2, i.addr2 + 4 * i.len)]
  | 0x07 => [(i.addr2, i.addr2 + ceilDiv (i.len * (outFmtOf (parseRequant (bytes i.addr 48))).bits) 8)]
  | _ => []

/-- Whether an address in use is too wide (last check of R98). -/
def hBadAddr (i : HInstr) : Bool :=
  match i.op with
  | 0x01 => badVa i.addr
  | 0x02 => badVa i.addr2
  | 0x03 => badVa i.addr
  | 0x04 => badVa i.addr
  | 0x06 => isRow i.func && ((!i.drn && badVa i.addr) || (decide (0x22 ≤ i.func) && badVa i.addr2)
      || (decide (0x23 ≤ i.func) && badVa i.addr3))
  | 0x07 => badVa i.addr || badVa i.addr2
  | _ => false

/-- What is known at a point of a program: register tags, slot formats, table addresses, entries taken, tiles synchronised. -/
structure HFlow where
  tags : List (Nat × Bool)
  mats : List (Nat × Nat)
  tabs : List (Nat × Nat)
  taken : Nat
  synced : List Nat
deriving DecidableEq, Repr

/-- The flow after an instruction. -/
def flowNext (f : HFlow) (i : HInstr) : HFlow :=
  { tags := (hWrites i).foldl (fun t (n, b) => assoc n b t) f.tags
    mats := if i.op = 0x03 then assoc i.mat i.fmt f.mats else f.mats
    tabs := if i.op = 0x04 then assoc i.tslot i.addr f.tabs else f.tabs
    taken := f.taken + (if i.op = 0x06 && i.drn then 1 else 0)
    synced := if i.op = 0x08 then i.len :: f.synced else f.synced }

/-- The flow before each instruction. -/
def flows : HFlow → List HInstr → List (HFlow × HInstr)
  | _, [] => []
  | f, i :: r => (f, i) :: flows (flowNext f i) r

/-- The checks of R98 in order, with the requantisation checks of every HRQ before 0x1044 (R52): all those of the first HRQ, then those of
the next (DESIGN CHOICE, log entry 63). Every table that HLDT loads has a VERSION and a MODE of R101, used or not. -/
def hawkChecks (e : HawkEnv) (p : HProgram) : List (Bool × Nat) :=
  let fs := flows ⟨[], [], [], 0, []⟩ p.body
  let lastOp := match p.body.getLast? with | some i => i.op | none => 0
  let drns := (p.body.filter (fun i => i.op == 0x06 && i.drn)).length
  let tagBad := fun (f : HFlow) (i : HInstr) =>
    let tag := fun n => (f.tags.lookup n).getD false
    match i.op with
    | 0x02 => tag i.srcA != (i.fmt == 3)
    | 0x05 => tag i.srcA != (i.fmt == 2) || (i.acc && tag i.srcB != (i.fmt == 2))
    | 0x07 => let rq := parseRequant (e.bytes i.addr 48)
              tag i.srcA != (rq.inFmt == 3) || (i.pair && tag (i.srcA + 1) != (rq.inFmt == 3))
    | _ => false
  let clash := fun (i : HInstr) => (hStores e.bytes i).any (fun s =>
    e.reads.any (overlaps s) || e.drains.any (fun d => overlaps s d.2))
  let unsynced := fun (f : HFlow) (i : HInstr) => (hLoads i).any (fun s =>
    e.drains.any (fun d => overlaps s d.2 && !(f.synced.contains d.1 || f.synced.contains 0x1FFF)))
  [ (p.version != 1 || p.count == 0 || decide (4096 < p.count) || lastOp != 0x3F, 0x1041),
    (fs.any (fun (f, i) => hForm i (f.mats.lookup i.mat) (e.entryCols[f.taken]?)), 0x1042),
    (fs.any (fun (f, i) => (hReads i).any (fun n => (f.tags.lookup n).isNone)
       || (i.op == 0x05 && (f.mats.lookup i.mat).isNone) || (hTables i).any (fun t => (f.tabs.lookup t.1).isNone)), 0x1043) ]
  ++ (p.body.filter (fun i => i.op == 0x07)).flatMap (fun i =>
        requantChecks (parseRequant (e.bytes i.addr 48)))
  ++ [ (fs.any (fun (f, i) => tagBad f i), 0x1044),
    (p.body.any (fun i => i.op == 0x04 && (let t := parseTable (e.bytes i.addr 784); t.version != 1 || decide (1 < t.mode)))
     || fs.any (fun (f, i) => (hTables i).any (fun t =>
       !tableOk (parseTable (e.bytes ((f.tabs.lookup t.1).getD 0) 784)) t.2)), 0x1045),
    (drns != e.entryCols.length || p.body.any (fun i => i.op == 0x08 && i.len != 0x1FFF && decide (e.tiles ≤ i.len)), 0x1046),
    (p.body.any clash || fs.any (fun (f, i) => unsynced f i), 0x1047),
    (p.body.any hBadAddr, 0x1048) ]

end Sys2Proof.Machine
end

