-- ==== Sys2Proof/Machine/Crc.lean ====
section
/-! DEFINITION. The checksums: CRC-32C (R200) and the sentinel word's CRC-8 (R352). -/

namespace Sys2Proof.Machine

/-- One bit of a reflected 32-bit CRC with the Castagnoli polynomial (R200). -/
def crc32cBit (c : Nat) : Nat := if c % 2 = 1 then (c / 2) ^^^ 0x82F63B78 else c / 2

/-- One byte of CRC-32C. -/
def crc32cByte (c : Nat) (b : Byte) : Nat := (List.range 8).foldl (fun c _ => crc32cBit c) (c ^^^ b.toNat)

/-- CRC-32C of a byte string (R200). -/
def crc32c (bs : Bytes) : Nat := (bs.foldl crc32cByte 0xFFFFFFFF) ^^^ 0xFFFFFFFF

/-- One bit, most significant first, of a CRC-8 with a polynomial. -/
def crc8Bit (poly c : Nat) : Nat := if c / 128 % 2 = 1 then (c * 2 % 256) ^^^ poly else c * 2 % 256

/-- CRC-8 of bytes with a polynomial, an initial value and a final exclusive-or. -/
def crc8 (poly init xorout : Nat) (bs : Bytes) : Nat :=
  (bs.foldl (fun c b => (List.range 8).foldl (fun c _ => crc8Bit poly c) (c ^^^ b.toNat)) init) ^^^ xorout

end Sys2Proof.Machine
end

