-- ==== Sys2Proof/Machine/SieveUnit.lean ====
section
/-! DEFINITION. The Sieve (10_sieve_and_outputs.md, R257-R267): selection, decoding, suppression and the record. -/

namespace Sys2Proof.Machine

/-- A Sieve descriptor (R257). -/
structure SieveDesc where
  version : Nat
  op : Nat
  decode : Nat
  agnostic : Bool
  clip : Bool
  output : Nat
  classes : Nat
  attrN : Nat
  locs : Nat
  topk : Nat
  maxKeep : Nat
  thresh : Word
  thrIou : Nat
  stride : Word
  gw : Nat
  clipW : Nat
  clipH : Nat
  scPosStride : Nat
  bxPosStride : Nat
  attrPosStride : Nat
  hdrVa : Nat
  scAddr : Nat
  bxAddr : Nat
  ancAddr : Nat
  attrAddr : Nat
  expAddr : Nat
deriving DecidableEq, Repr

/-- The fields of its 128 bytes (R257). -/
def parseSieve (b : Bytes) : SieveDesc :=
  let w := word b
  { version := bits (w 0) 31 24, op := bits (w 0) 23 22, decode := bits (w 0) 21 20, agnostic := bit (w 0) 19, clip := bit (w 0) 18
    output := bits (w 1) 31 16, classes := bits (w 1) 15 8, attrN := bits (w 1) 7 4, locs := w 2
    topk := bits (w 3) 31 16, maxKeep := bits (w 3) 15 0, thresh := BitVec.ofNat 32 (w 4), thrIou := bits (w 5) 16 0
    stride := BitVec.ofNat 32 (w 6), gw := bits (w 7) 31 16, clipW := bits (w 8) 31 16, clipH := bits (w 8) 15 0
    scPosStride := w 9, bxPosStride := w 10, attrPosStride := w 11
    hdrVa := le b 48 8, scAddr := le b 56 8, bxAddr := le b 64 8, ancAddr := le b 72 8, attrAddr := le b 80 8, expAddr := le b 88 8 }

/-- The largest record of a descriptor (R268). -/
def largestRecord (d : SieveDesc) (groupMembers batch : Nat) : Nat :=
  if d.op = 0 then 64 + 24 * groupMembers + 48 * batch * d.maxKeep else 64 + 24 * groupMembers + batch * d.locs

/-- The checks of R258 in order: the IN_VA of the plan's input records with their BATCH and the size of their fusion group,
the OUTPUTs of the other Sieve descriptors, SLOT_BYTES of the ring, and memory as at load. -/
def sieveChecks (d : SieveDesc) (inputs : List (Nat × Nat × Nat)) (others : List Nat) (slotBytes : Nat)
    (bytes : Nat → Nat → Bytes) : List (Bool × Nat) :=
  let det := d.op == 0
  let copyBad := d.locs < 4 || decide (65536 < d.locs) || d.locs % 4 != 0
  let detBad := d.classes == 0 || decide (4 < d.attrN) || d.locs == 0 || decide (1048576 < d.locs)
    || d.topk == 0 || decide (4096 < d.topk) || d.maxKeep == 0 || decide (1024 < d.maxKeep)
    || decide (65536 < d.thrIou) || isNaN d.thresh
    || (d.clip && (d.clipW == 0 || decide (8192 < d.clipW) || d.clipH == 0 || decide (8192 < d.clipH)))
    || ((d.decode == 1 || d.decode == 2) &&
        (!(flt fpZero d.stride && flt d.stride fpInf) || d.gw == 0 || d.locs % d.gw != 0))
  let inp := inputs.find? (fun i => i.1 == d.hdrVa)
  let t := parseTable (bytes d.expAddr 784)
  [ (d.version != 1, 0x4001),
    (decide (1 < d.op) || (det && d.decode == 3) || (if det then detBad else copyBad), 0x4002),
    (inp.isNone, 0x4003),
    (det && !tableOk t 0x10, 0x4004),
    (others.contains d.output, 0x4005),
    ((match inp with | some (_, b, g) => decide (slotBytes < largestRecord d g b) | none => false), 0x4006),
    (badVa d.hdrVa || badVa d.scAddr || (det && (badVa d.bxAddr || badVa d.expAddr || (d.decode == 0 && badVa d.ancAddr)
      || (d.attrN != 0 && badVa d.attrAddr))), 0x1007) ]

/-- A box in 16.16 (R263). -/
structure Box where
  x1 : Int
  y1 : Int
  x2 : Int
  y2 : Int
deriving DecidableEq, Repr

/-- A detection kept: position, candidate index, class, score, box, attributes. -/
structure Detection where
  pos : Nat
  idx : Nat
  cls : Nat
  score : Word
  box : Box
  attrs : List Word
deriving DecidableEq, Repr

/-- A corner in 16.16 (R263); none when NaN. -/
def fixCorner (v : Word) : Option Int :=
  match fval v with
  | .nan => none
  | .inf n => some (if n then -2147483648 else 2147483647)
  | .fin n m e => some (clampInt (roundInt false n m (e + 16)) (-2147483648) 2147483647)

/-- The box of decoded corners (R263): dropped when a corner is NaN. -/
def fixBox (d : SieveDesc) (x1 y1 x2 y2 : Word) : Option Box :=
  match fixCorner x1, fixCorner y1, fixCorner x2, fixCorner y2 with
  | some a, some b, some c, some e =>
    let (a, c) := if c < a then (c, a) else (a, c)
    let (b, e) := if e < b then (e, b) else (b, e)
    let cx := fun (v : Int) => if d.clip then clampInt v 0 (d.clipW * 65536) else v
    let cy := fun (v : Int) => if d.clip then clampInt v 0 (d.clipH * 65536) else v
    some ⟨cx a, cy b, cx c, cy e⟩
  | _, _, _, _ => none

/-- The decoding of R262: four corners. -/
def decodeBox (d : SieveDesc) (t : FTable) (loc : Nat) (bx anc : List Word) : Word × Word × Word × Word :=
  let t4 := fun (l : List Word) i => l.getD i fpZero
  let half : Word := 0x3F000000#32
  let (cx, cy, w, h) : Word × Word × Word × Word :=
    if d.decode = 0 then
      (fadd (t4 anc 0) (fmul (t4 bx 0) (t4 anc 2)), fadd (t4 anc 1) (fmul (t4 bx 1) (t4 anc 3)),
       fmul (t4 anc 2) (fnExp t (t4 bx 2)), fmul (t4 anc 3) (fnExp t (t4 bx 3)))
    else
      (fmul (fadd (fpOfInt (loc % d.gw : Nat)) (t4 bx 0)) d.stride, fmul (fadd (fpOfInt (loc / d.gw : Nat)) (t4 bx 1)) d.stride,
       fmul (fnExp t (t4 bx 2)) d.stride, fmul (fnExp t (t4 bx 3)) d.stride)
  (fsub cx (fmul w half), fsub cy (fmul h half), fadd cx (fmul w half), fadd cy (fmul h half))

/-- Whether box k suppresses box c (R264). -/
def suppresses (thrIou : Nat) (k c : Box) : Bool :=
  let iw := min k.x2 c.x2 - max k.x1 c.x1
  let ih := min k.y2 c.y2 - max k.y1 c.y1
  if iw ≤ 0 ∨ ih ≤ 0 then false
  else
    let inter := iw * ih
    let uni := (k.x2 - k.x1) * (k.y2 - k.y1) + (c.x2 - c.x1) * (c.y2 - c.y1) - inter
    decide (thrIou * uni < inter * 65536)

/-- Greedy suppression in candidate order (R261 step 4): kept so far, boxes dropped, whether capped. -/
def suppress (d : SieveDesc) : List (Option Detection) → List Detection → Nat → List Detection × Nat × Bool
  | [], kept, drop => (kept, drop, false)
  | none :: r, kept, drop => suppress d r kept (drop + 1)
  | some c :: r, kept, drop =>
    if kept.any (fun k => (d.agnostic || k.cls == c.cls) && suppresses d.thrIou k.box c.box) then suppress d r kept drop
    else
      let kept := kept ++ [c]
      if kept.length = d.maxKeep then (kept, drop, !r.isEmpty) else suppress d r kept drop

/-- Candidate order: score descending, equal scores by lower index (R261 step 2). -/
def candBefore (a b : Word × Nat) : Bool := flt b.1 a.1 || (!flt a.1 b.1 && decide (a.2 ≤ b.2))

/-- What a Sieve work item computes for its record. -/
structure SieveResult where
  count : Nat
  payload : Bytes
  presel : Nat
  capped : Nat
  dropped : Nat
  integrity : Bool
deriving DecidableEq, Repr

/-- One position of a DETECT descriptor (R259, R261): survivors, candidates, dropped boxes, capped. -/
def sievePosition (P : Port) (d : SieveDesc) (t : FTable) (s : Nat) : Comp (List Detection × Nat × Nat × Bool) := do
  let scores ← rdElems P .fp32 (d.scAddr + s * d.scPosStride) (d.locs * d.classes)
  let cand := scores.zipIdx.filterMap (fun (w, i) =>
    let v := BitVec.ofNat 32 w
    if fle d.thresh v then some (v, i) else none)
  let order := (cand.mergeSort candBefore).take d.topk
  let dets ← order.mapM (fun (score, i) => do
    let loc := i / d.classes
    let words := fun va n => do return (← rdElems P .fp32 va n).map (BitVec.ofNat 32)
    let bx ← words (d.bxAddr + s * d.bxPosStride + 16 * loc) 4
    let anc ← if d.decode = 0 then words (d.ancAddr + 16 * loc) 4 else pure []
    let attrs ← if d.attrN = 0 then pure [] else words (d.attrAddr + s * d.attrPosStride + 4 * d.attrN * loc) d.attrN
    let (x1, y1, x2, y2) := decodeBox d t loc bx anc
    return (fixBox d x1 y1 x2 y2).map (fun b => (⟨s, i, i % d.classes, score, b, attrs⟩ : Detection)))
  let (kept, drop, capped) := suppress d dets [] 0
  return (kept, cand.length, drop, capped)

/-- The 48 bytes of a detection (R267). -/
def detectionBytes (x : Detection) : Bytes :=
  toLE 1 x.pos ++ toLE 1 x.cls ++ toLE 2 0 ++ toLE 4 x.idx ++ toLE 4 x.score.toNat
  ++ toLE 4 (lowBits 32 x.box.x1) ++ toLE 4 (lowBits 32 x.box.y1) ++ toLE 4 (lowBits 32 x.box.x2) ++ toLE 4 (lowBits 32 x.box.y2)
  ++ (upto 4).flatMap (fun i => toLE 4 (x.attrs.getD i fpZero).toNat) ++ toLE 4 0

/-- A batch header as the Sieve reads it (R252). -/
structure BatchHeader where
  batch : Nat
  groupMembers : Nat
  mask : Nat
  marks : List Bytes
  entries : List Bytes
deriving DecidableEq, Repr

/-- The batch header at an address (R252). -/
def rdBatchHeader (P : Port) (va : Nat) : Comp BatchHeader := do
  let h ← rdBytes P va 64
  let batch := le h 1 1
  let gm := le h 3 1
  let marks ← (upto batch).mapM (fun s => rdBytes P (va + 64 + 32 * s) 32)
  let entries ← (upto gm).mapM (fun m => rdBytes P (va + 64 + 32 * batch + 24 * m) 24)
  return ⟨batch, gm, le h 16 8, marks, entries⟩

/-- A Sieve descriptor's work (R259-R261): WM_CRC of every masked-in position first. -/
def runSieve (P : Port) (d : SieveDesc) : Comp SieveResult := do
  let h ← rdBatchHeader P d.hdrVa
  let bad := h.marks.zipIdx.any (fun (m, s) => bit h.mask s && le m 28 4 != crc32c (slice m 0 28))
  if bad then return ⟨0, [], 0, 0, 0, true⟩
  else if d.op = 0 then do
    let t := parseTable (← rdBytes P d.expAddr 784)
    let ps ← ((upto h.batch).filter (fun s => bit h.mask s)).mapM (fun s => sievePosition P d t s)
    let kept := ps.flatMap (fun p => p.1)
    let presel := min (ps.foldl (fun n p => n + p.2.1) 0) (2 ^ 32 - 1)
    return ⟨kept.length, kept.flatMap detectionBytes, presel, (ps.filter (fun p => p.2.2.2)).length,
            ps.foldl (fun n p => n + p.2.2.1) 0, false⟩
  else do
    let ps ← (upto h.batch).mapM (fun s =>
      if bit h.mask s then rdBytes P (d.scAddr + s * d.scPosStride) d.locs else pure (List.replicate d.locs 0))
    return ⟨h.batch * d.locs, ps.flatten, 0, 0, 0, false⟩

/-- The fields of a record (R267). -/
structure RecordFields where
  validity : Nat
  shed : Bool
  integrity : Bool
  safeState : Bool
  capped : Bool
  replayed : Bool
  partition : Nat
  output : Nat
  op : Nat
  seq : Nat
  step : Nat
  publishNs : Nat
  count : Nat
  mask : Nat
  presel : Nat
  entries : List Bytes
  payload : Bytes
deriving DecidableEq, Repr

/-- Whether a frame-set entry of R221 is ABSENT, and whether it carries HOLD_TIMEOUT. -/
def entryAbsent (e : Bytes) : Bool := le e 21 1 % 16 == 2
def entryTimeout (e : Bytes) : Bool := bit (le e 22 1) 3

/-- The bytes of a record, RECORD_CRC last (R267). -/
def recordBytes (r : RecordFields) : Bytes :=
  let flags := b2n r.replayed + 2 * b2n (r.entries.any entryAbsent) + 4 * b2n (r.entries.any entryTimeout)
    + 8 * b2n r.capped + 16 * b2n r.safeState + 32 * b2n r.integrity + 64 * b2n r.shed
  let n := 64 + 24 * r.entries.length + r.payload.length
  let head := toLE 1 1 ++ toLE 1 r.validity ++ toLE 1 flags ++ toLE 1 r.partition ++ toLE 2 r.output ++ toLE 1 r.op
    ++ toLE 1 r.entries.length ++ toLE 8 r.seq ++ toLE 8 r.step ++ toLE 8 r.publishNs ++ toLE 4 r.count ++ toLE 4 n
    ++ toLE 8 r.mask ++ toLE 4 r.presel ++ toLE 8 0
  let body := r.entries.flatten ++ r.payload
  head ++ toLE 4 (crc32c (head ++ body)) ++ body

end Sys2Proof.Machine
end

