-- ==== Sys2Proof/Machine/Spectral.lean ====
section
/-! DEFINITION. The spectral engine (06_spectral_engine.md): block-floating transforms, tiles and the checks of spectral
descriptors.
Readings: log entry 2 (DESIGN CHOICE). -/

namespace Sys2Proof.Machine

/-- A spectral descriptor (R151). -/
structure SpecDesc where
  version : Nat
  aFmt : Nat
  padMode : Nat
  outPath : Nat
  kh : Nat
  kw : Nat
  dh : Nat
  dw : Nat
  lh : Nat
  lw : Nat
  padT : Nat
  padB : Nat
  padL : Nat
  padR : Nat
  inH : Nat
  inW : Nat
  cin : Nat
  cout : Nat
  groups : Nat
  tileFirst : Nat
  tileCount : Nat
  aRowStride : Nat
  aPixStride : Nat
  oRowStride : Nat
  oPixStride : Nat
  aAddr : Nat
  fAddr : Nat
  feAddr : Nat
  rqAddr : Nat
  oAddr : Nat
  wbAddr : Nat
deriving DecidableEq, Repr

/-- The fields of its 96 bytes (R151). -/
def parseSpec (b : Bytes) : SpecDesc :=
  let w := word b
  { version := bits (w 0) 31 24, aFmt := bits (w 0) 23 20, padMode := bits (w 0) 13 13, outPath := bits (w 0) 12 11
    kh := bits (w 1) 31 24, kw := bits (w 1) 23 16, dh := bits (w 1) 15 8, dw := bits (w 1) 7 0
    lh := bits (w 2) 31 28, lw := bits (w 2) 27 24
    padT := bits (w 3) 31 24, padB := bits (w 3) 23 16, padL := bits (w 3) 15 8, padR := bits (w 3) 7 0
    inH := bits (w 4) 31 16, inW := bits (w 4) 15 0, cin := bits (w 5) 31 16, cout := bits (w 5) 15 0
    groups := bits (w 6) 31 16, tileFirst := bits (w 7) 31 16, tileCount := bits (w 7) 15 0
    aRowStride := w 8, aPixStride := w 9, oRowStride := w 10, oPixStride := w 11
    aAddr := le b 48 8, fAddr := le b 56 8, feAddr := le b 64 8, rqAddr := le b 72 8, oAddr := le b 80 8, wbAddr := le b 88 8 }

/-- The convolution geometry a spectral descriptor shares with R107 and R109: stride 1. -/
def specGeom (d : SpecDesc) : ConvDesc :=
  { version := 1, aFmt := 2, wFmt := 2, op := 0, padMode := d.padMode, outPath := d.outPath
    kh := d.kh, kw := d.kw, sh := 1, sw := 1, dh := d.dh, dw := d.dw
    padT := d.padT, padB := d.padB, padL := d.padL, padR := d.padR
    inH := d.inH, inW := d.inW, cin := d.cin, cout := d.cout, groups := d.groups
    outRowFirst := 0, outRowCount := 0, inRowFirst := 0, inRowCount := d.inH
    aRowStride := d.aRowStride, aPixStride := d.aPixStride, oRowStride := d.oRowStride, oPixStride := d.oPixStride
    aAddr := d.aAddr, wAddr := 0, sAddr := 0, rqAddr := d.rqAddr, oAddr := d.oAddr }

/-- Tile sizes, effective kernel extents and the grid (R133). -/
def specNH (d : SpecDesc) : Nat := 4 ^ d.lh
def specNW (d : SpecDesc) : Nat := 4 ^ d.lw
def specKEH (d : SpecDesc) : Nat := d.dh * (d.kh - 1) + 1
def specKEW (d : SpecDesc) : Nat := d.dw * (d.kw - 1) + 1
def specVH (d : SpecDesc) : Nat := specNH d + 1 - specKEH d
def specVW (d : SpecDesc) : Nat := specNW d + 1 - specKEW d
def specTH (d : SpecDesc) : Nat := ceilDiv (outH (specGeom d)).toNat (specVH d)
def specTW (d : SpecDesc) : Nat := ceilDiv (outW (specGeom d)).toNat (specVW d)

/-- A point: an exact complex value (re + i im) * 2^e. -/
structure CPt where
  re : Int
  im : Int
  e : Int
deriving DecidableEq, Repr

def cZero : CPt := ⟨0, 0, 0⟩

/-- An integer at exponent e expressed at a lower exponent. -/
def lowerTo (x e e' : Int) : Int := x * 2 ^ (e - e').toNat

/-- Exact complex sum. -/
def cAdd (a b : CPt) : CPt :=
  let e := min a.e b.e
  ⟨lowerTo a.re a.e e + lowerTo b.re b.e e, lowerTo a.im a.e e + lowerTo b.im b.e e, e⟩
def cNeg (a : CPt) : CPt := ⟨-a.re, -a.im, a.e⟩
def cSub (a b : CPt) : CPt := cAdd a (cNeg b)
/-- Exact complex product. -/
def cMul (a b : CPt) : CPt := ⟨a.re * b.re - a.im * b.im, a.re * b.im + a.im * b.re, a.e + b.e⟩
/-- Multiplication by i. -/
def cI (a : CPt) : CPt := ⟨-a.im, a.re, a.e⟩

/-- cos(π/2 * r/h) * 2^64 by its series, for 0 ≤ r ≤ h. -/
def cosFix (r h : Nat) : Int :=
  let x : Int := (0x3243F6A8885A308D3 * r / (2 * h) : Nat)
  let x2 := x * x / 2 ^ 64
  let step := fun (acc : Int × Int) (n : Nat) =>
    let t := -(acc.2 * x2 / 2 ^ 64) / ((2 * n + 1) * (2 * n + 2) : Nat)
    (acc.1 + t, t)
  ((upto 14).foldl step (2 ^ 64, 2 ^ 64)).1

/-- rne(2^14 * cos(2πk/N)) (R137), by quadrant. -/
def cos14 (N k : Nat) : Int :=
  let k := k % N
  let h := N / 4
  let r := k % h
  let q := k / h
  let v := match q with
    | 0 => cosFix r h
    | 1 => -(cosFix (h - r) h)
    | 2 => -(cosFix r h)
    | _ => cosFix (h - r) h
  roundShift v 50 false

/-- The twiddle factor W(N, k) (R137). -/
def twiddle (N k : Nat) : CPt := ⟨cos14 N k, -(cos14 N (k + 3 * N / 4)), -14⟩
/-- Its conjugate. -/
def twiddleConj (N k : Nat) : CPt := ⟨cos14 N k, cos14 N (k + 3 * N / 4), -14⟩

/-- Round p * 2^(-s), to nearest with ties to even; exact for s ≤ 0. -/
def scaleRne (p s : Int) : Int := if s ≤ 0 then p * 2 ^ (-s).toNat else roundShift p s.toNat false

/-- Renormalise one block (R136). -/
def renormBlock (v : List CPt) : List CPt :=
  let e0 := v.foldl (fun m p => min m p.e) ((v.head?.map CPt.e).getD 0)
  let parts := v.flatMap (fun p => [lowerTo p.re p.e e0, lowerTo p.im p.e e0])
  let mx := parts.foldl (fun m p => max m p.natAbs) 0
  if mx = 0 then v.map (fun _ => cZero) else
  let l : Int := Nat.log2 mx + 1
  let fits := fun (s : Int) => parts.all (fun p => let r := scaleRne p s; decide (-32768 ≤ r) && decide (r ≤ 32767))
  let s := if fits (l - 16) then l - 16 else if fits (l - 15) then l - 15 else l - 14
  v.map (fun p => ⟨scaleRne (lowerTo p.re p.e e0) s, scaleRne (lowerTo p.im p.e e0) s, e0 + s⟩)

/-- Renormalise a line: blocks of 256 storage positions (R136). -/
def renormLine (v : List CPt) : List CPt := (chunks 256 (v.length / 256) v).flatMap renormBlock

/-- One butterfly block of the forward transform: 4q points at stage s (R138). -/
def fwdBlock (N s q : Nat) (x : List CPt) : List CPt :=
  let a : Nat → Nat → CPt := fun i r => (x.drop (i * q + r)).headD cZero
  let col : Nat → List CPt := fun i => (upto q).map (fun r =>
    let k := r * 2 ^ (2 * s)
    let a0 := a 0 r
    let a1 := a 1 r
    let a2 := a 2 r
    let a3 := a 3 r
    match i with
    | 0 => cAdd (cAdd (cAdd a0 a1) a2) a3
    | 1 => cMul (cAdd (cSub (cSub a0 (cI a1)) a2) (cI a3)) (twiddle N k)
    | 2 => cMul (cSub (cAdd (cSub a0 a1) a2) a3) (twiddle N (2 * k))
    | _ => cMul (cSub (cSub (cAdd a0 (cI a1)) a2) (cI a3)) (twiddle N (3 * k)))
  col 0 ++ col 1 ++ col 2 ++ col 3

/-- One butterfly block of the inverse transform (R139). -/
def invBlock (N s q : Nat) (x : List CPt) : List CPt :=
  let a : Nat → Nat → CPt := fun i r => (x.drop (i * q + r)).headD cZero
  let col : Nat → List CPt := fun i => (upto q).map (fun r =>
    let k := r * 2 ^ (2 * s)
    let a0 := a 0 r
    let u1 := cMul (a 1 r) (twiddleConj N k)
    let u2 := cMul (a 2 r) (twiddleConj N (2 * k))
    let u3 := cMul (a 3 r) (twiddleConj N (3 * k))
    match i with
    | 0 => cAdd (cAdd (cAdd a0 u1) u2) u3
    | 1 => cSub (cSub (cAdd a0 (cI u1)) u2) (cI u3)
    | 2 => cSub (cAdd (cSub a0 u1) u2) u3
    | _ => cAdd (cSub (cSub a0 (cI u1)) u2) (cI u3))
  col 0 ++ col 1 ++ col 2 ++ col 3

/-- One stage of a line: its butterfly blocks, then renormalisation. -/
def lineStage (blk : Nat → Nat → Nat → List CPt → List CPt) (N s : Nat) (x : List CPt) : List CPt :=
  let q := N / 2 ^ (2 * s + 2)
  renormLine ((chunks (4 * q) (N / (4 * q)) x).flatMap (blk N s q))

/-- Forward transform of a line of 4^L points (R138). -/
def fwdLine (L : Nat) (x : List CPt) : List CPt := (upto L).foldl (fun x s => lineStage fwdBlock (4 ^ L) s x) x
/-- Inverse transform of a line of 4^L points (R139). -/
def invLine (L : Nat) (x : List CPt) : List CPt := (upto L).reverse.foldl (fun x s => lineStage invBlock (4 ^ L) s x) x

/-- Columns of a list of rows. -/
def transpose (w : Nat) (rows : List (List CPt)) : List (List CPt) :=
  (upto w).map (fun c => rows.map (fun r => r.getD c cZero))

/-- A tile's spectrum from its rows: column-major (R140). -/
def tileSpectrum (d : SpecDesc) (rows : List (List CPt)) : List (List CPt) :=
  let rows := rows.map (fun r => fwdLine d.lw (renormLine r))
  (transpose (specNW d) rows).map (fun c => fwdLine d.lh (renormLine c))

/-- The inverse of a spectrum: rows (R140). -/
def tileInverse (d : SpecDesc) (cols : List (List CPt)) : List (List CPt) :=
  let cols := cols.map (invLine d.lh)
  (transpose (specNH d) cols).map (fun r => invLine d.lw (renormLine r))

/-- A tile point's value for one input channel (R134). -/
def tilePoint (P : Port) (d : SpecDesc) (ty tx c y x : Nat) : Comp CPt :=
  let py := ty * specVH d + y
  let px := tx * specVW d + x
  if py < d.inH + d.padT + d.padB ∧ px < d.inW + d.padL + d.padR then
    -- a padded position is a tap position of a 1 x 1 kernel at (py, px)
    match tapPos (specGeom d) py px 0 0 with
    | some (yi, xi) => do
      let v ← rdElem P .int8 (d.aAddr + yi * d.aRowStride + xi * d.aPixStride) c
      return ⟨sext 8 v, 0, 0⟩
    | none => pure cZero
  else pure cZero

/-- A filter spectrum, column-major (R143). -/
def rdFilter (P : Port) (d : SpecDesc) (s : Nat) : Comp (List (List CPt)) := do
  let p := specNH d * specNW d
  (upto (specNW d)).mapM (fun col => (upto (specNH d)).mapM (fun r => do
    let i := col * specNH d + r
    let w ← rdLE P (d.fAddr + s * 4 * p + 4 * i) 4
    let e ← rdLE P (d.feAddr + s * (p / 256) + i / 256) 1
    return ⟨sext 16 w, sext 16 (w / 65536), sext 8 e⟩))

/-- Pointwise product added into a sum (R141). -/
def addProduct (acc x f : List (List CPt)) : List (List CPt) :=
  (acc.zip (x.zip f)).map (fun (a, x, f) => (a.zip (x.zip f)).map (fun (a, x, f) => cAdd a (cMul x f)))

/-- One tile (R135, R140-R142). -/
def runTile (P : Port) (d : SpecDesc) (t : Nat) : Comp Unit := do
  let tw := specTW d
  let ty := t / tw
  let tx := t % tw
  let nh := specNH d
  let nw := specNW d
  let ci := d.cin / d.groups
  let co := d.cout / d.groups
  let rq ← if d.outPath = 0 then rdRequant P d.rqAddr else pure (parseRequant [])
  let _ ← (upto d.groups).mapM (fun g => do
    let xs ← (upto ci).mapM (fun i => do
      let rows ← (upto nh).mapM (fun y => (upto nw).mapM (fun x => tilePoint P d ty tx (g * ci + i) y x))
      return tileSpectrum d rows)
    let _ ← (upto co).mapM (fun j => do
      let zero := List.replicate nw (List.replicate nh cZero)
      let sum ← xs.zipIdx.foldlM (fun acc (x, i) => do
        return addProduct acc x (← rdFilter P d ((g * co + j) * ci + i))) zero
      let rows := tileInverse d (sum.map renormLine)
      let q ← if d.outPath = 0 then rdQ P rq (g * co + j) else pure 0
      let b ← if d.outPath = 0 then rdBias P rq (g * co + j) else pure 0
      let _ ← rows.zipIdx.mapM (fun (row, y) => row.zipIdx.mapM (fun (pt, x) => do
        let oy := ty * specVH d + (y + 1 - specKEH d)
        let ox := tx * specVW d + (x + 1 - specKEW d)
        if specKEH d ≤ y + 1 ∧ specKEW d ≤ x + 1 ∧ (oy : Int) < outH (specGeom d) ∧ (ox : Int) < outW (specGeom d) then
          let v := toFp32 (.fin (pt.re < 0) pt.re.natAbs (pt.e - 2 * (d.lh + d.lw)))
          let va := d.oAddr + oy * d.oRowStride + ox * d.oPixStride
          if d.outPath = 0 then wrElem P (outFmtOf rq) va (g * co + j) (requantElem rq v b q)
          else wrElem P .fp32 va (g * co + j) v.toNat
          endRow
        else pure ()))
      return ())
    return ())
  return ()

/-- Bytes of the work buffer (R150). -/
def workBufferBytes (d : SpecDesc) : Nat :=
  let p := specNH d * specNW d
  (d.cin / d.groups + 1) * (4 * p + p / 256 * 2)

/-- What the work buffer holds afterwards, also after an abort: its bytes are undefined (R150), `junk` gives them. They are stores of no tile. -/
def bufferPuts (P : Port) (junk : Nat → Byte) (d : SpecDesc) : List Put :=
  (upto (workBufferBytes d)).filterMap (fun i => match P.wr (d.wbAddr + i) with
    | .ok _ => some ⟨d.wbAddr + i, junk i, 0, 0, true⟩
    | .error _ => none)
/-- The first access to the work buffer that cannot be served. -/
def bufferErr (P : Port) (d : SpecDesc) : Option AccessErr :=
  ((d.wbAddr :: (upto (workBufferBytes d / 65536 + 1)).map (fun i => min ((d.wbAddr / 65536 + i + 1) * 65536) (d.wbAddr + workBufferBytes d - 1)))).findSome?
    (fun a => match P.wr a with | .ok _ => none | .error e => some e)

/-- The tiles of a descriptor in order (R135). -/
def runSpectral (P : Port) (d : SpecDesc) : Comp Unit := do
  let _ ← (upto d.tileCount).mapM (fun i => runTile P d (d.tileFirst + i))

/-- Butterflies of one tile: one for every four points of every stage of every transform (R138, R147). -/
def tileButterflies (d : SpecDesc) : Nat := (d.cin + d.cout) * (specNH d * specNW d * (d.lh + d.lw) / 4)
/-- Complex multiply-accumulates of one tile (R147). -/
def tileCmacs (d : SpecDesc) : Nat := d.groups * (d.cin / d.groups) * (d.cout / d.groups) * (specNH d * specNW d)
/-- Busy cycles of one tile at least (R147). -/
def tileCycles (d : SpecDesc) : Nat :=
  let p := specNH d * specNW d
  (d.cin + d.cout) * (p * (d.lh + d.lw) / 256 + p / 512) + tileCmacs d / 256

/-- Byte regions that a descriptor names (R152): output, work buffer, input, filter points, filter exponents. -/
def specRegions (d : SpecDesc) (rq : Option Requant) : List (Nat × Nat) :=
  let g := specGeom d
  let n := d.cin / d.groups * d.cout
  let p := specNH d * specNW d
  let ob := match rq with | some r => if d.outPath = 0 then (outFmtOf r).bits else 32 | none => 32
  [ tensorBytes d.oAddr d.oRowStride d.oPixStride (outH g).toNat (outW g).toNat d.cout ob,
    (d.wbAddr, d.wbAddr + workBufferBytes d),
    tensorBytes d.aAddr d.aRowStride d.aPixStride d.inH d.inW d.cin 8,
    (d.fAddr, d.fAddr + n * 4 * p), (d.feAddr, d.feAddr + n * (p / 256)) ]

/-- The checks of R152 in order; `bytes` reads memory that does not change after load. -/
def specChecks (d : SpecDesc) (rq : Option Requant) (bytes : Nat → Nat → Bytes) : List (Bool × Nat) :=
  let rangeBad := d.kh == 0 || d.kw == 0 || d.dh == 0 || decide (16 < d.dh) || d.dw == 0 || decide (16 < d.dw)
    || decide (d.lh < 4) || decide (6 < d.lh) || decide (d.lw < 4) || decide (6 < d.lw)
    || d.inH == 0 || decide (8192 < d.inH) || d.inW == 0 || decide (8192 < d.inW)
    || d.cin == 0 || d.cout == 0 || d.groups == 0 || d.cin % d.groups != 0 || d.cout % d.groups != 0
  let g := specGeom d
  let nExp := d.cin / d.groups * d.cout * (specNH d * specNW d / 256)
  let expBad := (bytes d.feAddr nExp).any (fun b => let e := sext 8 b.toNat; decide (e < -64) || decide (63 < e))
  let rs := specRegions d rq
  let ob := match rq with | some r => if d.outPath = 0 then (outFmtOf r).bits else 32 | none => 32
  let strideBad := decide (d.aPixStride < d.cin) || decide (d.aRowStride < d.inW * d.aPixStride)
    || decide (d.oPixStride < ceilDiv (d.cout * ob) 8) || decide (d.oRowStride < (outW g).toNat * d.oPixStride)
  let clash := rs.zipIdx.any (fun (a, i) => rs.zipIdx.any (fun (b, j) => decide (i < j) && decide (i < 2) && overlaps a b))
    || (match rs with | [_, _, i, f, fe] => overlaps i f || overlaps i fe | _ => false)
  [ (d.version != 1, 0x1051),
    (d.aFmt != 2 || decide (1 < d.outPath), 0x1052),
    (rangeBad, 0x1053),
    (decide (specNH d < specKEH d) || decide (specNW d < specKEW d), 0x1054),
    (decide (outH g < 1) || decide (outW g < 1), 0x1015),
    (d.tileCount == 0 || decide (specTH d * specTW d < d.tileFirst + d.tileCount), 0x1055),
    (expBad, 0x1056),
    (strideBad || clash, 0x1057),
    (badVa d.aAddr || badVa d.fAddr || badVa d.feAddr || badVa d.rqAddr || badVa d.oAddr || badVa d.wbAddr, 0x1007) ]
  ++ (match rq with
      | some r => if d.outPath == 0 then requantChecks r ++ [ (decide (r.channels < d.cout) || r.inFmt != 9, 0x1008) ] else []
      | none => [])

end Sys2Proof.Machine
end

