-- ==== Sys2Proof/Machine/VatShape.lean ====
section
/-! DEFINITION. The arithmetic of shaping (09_vat_shaping.md): colour, crop, rotation, resize, augmentation, pyramid,
normalisation and the layout of a sample. -/

namespace Sys2Proof.Machine

/-- The settings of a shaping page (R255). -/
structure ShapeCfg where
  levels : Nat
  pyr : Nat
  rot : Nat
  pat : Nat
  range : Nat
  cmode : Nat
  cropX : Nat
  cropY : Nat
  cropW : Nat
  cropH : Nat
  outW : Nat
  outH : Nat
  mean : List Word
  scale : List Word
  augEn : Bool
  flipP : Nat
  bri : Nat
  con : Nat
  shift : Nat
  noise : Nat
  occP : Nat
  occW : Nat
  occH : Nat
deriving DecidableEq, Repr

/-- An image of unsigned working values, interleaved by channel in raster order (R231). -/
structure Img where
  w : Nat
  h : Nat
  c : Nat
  px : List Nat
deriving DecidableEq, Repr

/-- The value at row y, column x, channel k. -/
def Img.at (m : Img) (y x k : Nat) : Nat := m.px.getD ((y * m.w + x) * m.c + k) 0

/-- The image of a function of row, column and channel. -/
def mkImg (w h c : Nat) (f : Nat → Nat → Nat → Nat) : Img :=
  ⟨w, h, c, (upto h).flatMap (fun y => (upto w).flatMap (fun x => (upto c).map (fun k => f y x k)))⟩

/-! ### Colour -/

/-- The colour of a site, 0 R, 1 G, 2 B (R233). -/
def bayerColour (pat y x : Nat) : Nat :=
  let tab := match pat with
    | 0 => [0, 1, 1, 2]
    | 1 => [1, 0, 2, 1]
    | 2 => [1, 2, 0, 1]
    | _ => [2, 1, 1, 0]
  nth tab (2 * (y % 2) + x % 2)

/-- A mirrored neighbour index: -1 → 1, N → N - 2 (R233). -/
def mirrorEdge (i : Int) (n : Nat) : Nat :=
  if i < 0 then (-i).toNat else if (n : Int) ≤ i then (2 * ((n : Int) - 1) - i).toNat else i.toNat

/-- Bilinear value of colour k from the neighbours of that colour: n is 2 or 4 (R233). The rule asks for even sizes and no check refuses an odd one:
then the mirror image's colours are taken as they fall, and a sum of other than four is halved (DESIGN CHOICE, log entry 76). -/
def bayerBilinear (m : Img) (pat y x k : Nat) : Nat :=
  let nb := [(-1, -1), (-1, 0), (-1, 1), (0, -1), (0, 1), (1, -1), (1, 0), (1, 1)]
  let vals := nb.filterMap (fun (dy, dx) =>
    let yy : Int := y + dy
    let xx : Int := x + dx
    -- mirroring keeps the colour, so the colour of the neighbour outside is that of its mirror image
    let ym := mirrorEdge yy m.h
    let xm := mirrorEdge xx m.w
    if bayerColour pat ym xm = k then some (m.at ym xm 0) else none)
  let n := vals.length
  let s := vals.foldl (· + ·) 0
  if n = 4 then (s + 2) / 4 else (s + 1) / 2

/-- Green at a red or blue site by direction (R233). -/
def bayerGreenEdge (m : Img) (pat y x : Nat) : Nat :=
  let g := fun (dy dx : Int) => m.at (mirrorEdge (y + dy) m.h) (mirrorEdge (x + dx) m.w) 0
  let l := g 0 (-1)
  let r := g 0 1
  let u := g (-1) 0
  let d := g 1 0
  let dh := (max l r) - (min l r)
  let dv := (max u d) - (min u d)
  if dh < dv then (l + r + 1) / 2
  else if dv < dh then (u + d + 1) / 2
  else bayerBilinear m pat y x 1

/-- The Bayer colour stage on shifted working values (R233). -/
def bayer (m : Img) (pat : Nat) (edge : Bool) : Img :=
  mkImg m.w m.h 3 (fun y x k =>
    let own := bayerColour pat y x
    if own = k then m.at y x 0
    else if edge && k == 1 then bayerGreenEdge m pat y x
    else bayerBilinear m pat y x k)

/-- The matrix of R234: KY, YO, KRV, KGU, KGV, KBU. -/
def yuvMatrix (cmode range : Nat) : List Int :=
  if cmode = 3 then
    (if range = 0 then [16384, 0, 22970, 5638, 11700, 29032] else [19077, 16, 26149, 6419, 13320, 33050])
  else
    (if range = 0 then [16384, 0, 25802, 3069, 7670, 30402] else [19077, 16, 29372, 3494, 8731, 34610])

/-- One converted component, 8 bits (R234). -/
def yuvComponent (k : List Int) (comp : Nat) (yv uv vv : Nat) : Nat :=
  let c := fun i => k.getD i 0
  let yy := c 0 * ((yv : Int) - c 1)
  let u : Int := (uv : Int) - 128
  let v : Int := (vv : Int) - 128
  let x := match comp with
    | 0 => yy + c 2 * v
    | 1 => yy - c 3 * u - c 4 * v
    | _ => yy + c 5 * u
  (clampInt ((x + 8192).fdiv 16384) 0 255).toNat

/-- The planes that stage 2 hands to the colour stage: raw pixels, or Y, U and V with the size of the chroma planes. -/
inductive Decoded where
  | raw (bits : Nat) (px : List Nat)
  | yuv (cw ch : Nat) (y u v : List Nat)
  | points (recs : List (List Int))
deriving DecidableEq, Repr

/-- The colour stage (R231-R234). -/
def colourStage (s : ShapeCfg) (w h : Nat) : Decoded → Img
  | .raw b px =>
    let m : Img := ⟨w, h, 1, px.map (fun p => p * 2 ^ (16 - b))⟩
    if s.cmode = 1 then bayer m s.pat false
    else if s.cmode = 2 then bayer m s.pat true
    else m
  | .yuv cw ch yp up vp =>
    if s.cmode = 0 then ⟨w, h, 1, yp.map (fun v => 257 * v)⟩
    else
      let k := yuvMatrix s.cmode s.range
      mkImg w h 3 (fun y x c =>
        let i := y * ch / h * cw + x * cw / w
        257 * yuvComponent k c (nth yp (y * w + x)) (nth up i) (nth vp i))
  | .points _ => ⟨0, 0, 0, []⟩

/-! ### Geometry -/

/-- The crop stage, bypassed when both sizes are 0; the origin is clamped (R235). -/
def cropStage (s : ShapeCfg) (dx dy : Int) (m : Img) : Img :=
  if s.cropW = 0 ∧ s.cropH = 0 then m else
  let x0 := (clampInt ((s.cropX : Int) + dx) 0 ((m.w : Int) - s.cropW)).toNat
  let y0 := (clampInt ((s.cropY : Int) + dy) 0 ((m.h : Int) - s.cropH)).toNat
  mkImg s.cropW s.cropH m.c (fun y x k => m.at (y0 + y) (x0 + x) k)

/-- The rotate stage (R236). -/
def rotateStage (rot : Nat) (m : Img) : Img :=
  match rot with
  | 0 => m
  | 1 => mkImg m.h m.w m.c (fun y x k => m.at (m.h - 1 - x) y k)
  | 2 => mkImg m.w m.h m.c (fun y x k => m.at (m.h - 1 - y) (m.w - 1 - x) k)
  | _ => mkImg m.h m.w m.c (fun y x k => m.at x (m.w - 1 - y) k)

/-- The index function of the resize stage (R237): i0, i1 and the weight. -/
def resizeIndex (i nIn nOut : Nat) : Nat × Nat × Nat :=
  let f : Int := (((2 * i + 1) * nIn * 65536 : Nat) : Int).fdiv ((2 * nOut : Nat) : Int) - 32768
  let f := (clampInt f 0 (((nIn : Int) - 1) * 65536)).toNat
  let i0 := f / 65536
  (i0, min (i0 + 1) (nIn - 1), f / 256 % 256)

/-- The resize stage (R237). -/
def resizeStage (s : ShapeCfg) (m : Img) : Img :=
  if (s.outW = 0 ∧ s.outH = 0) ∨ (s.outW = m.w ∧ s.outH = m.h) then m else
  mkImg s.outW s.outH m.c (fun y x k =>
    let (x0, x1, wx) := resizeIndex x m.w s.outW
    let (y0, y1, wy) := resizeIndex y m.h s.outH
    let h0 := m.at y0 x0 k * (256 - wx) + m.at y0 x1 k * wx
    let h1 := m.at y1 x0 k * (256 - wx) + m.at y1 x1 k * wx
    (h0 * (256 - wy) + h1 * wy + 32768) / 65536 % 65536)

/-- Reflection about samples 0 and n-1, repeated (R238). -/
def mirrorIdx (i : Int) (n : Nat) : Nat :=
  if n = 1 then 0 else
  let r := (i.emod (2 * (n : Int) - 2)).toNat
  if r < n then r else 2 * n - 2 - r

/-- One more pyramid level (R238). -/
def pyramidStep (pyr : Nat) (m : Img) : Img :=
  let w := ceilDiv m.w 2
  let h := ceilDiv m.h 2
  if pyr = 0 then
    let t := [1, 4, 6, 4, 1]
    mkImg w h m.c (fun y x k =>
      let s := (upto 5).foldl (fun (s j : Nat) =>
        let hh := (upto 5).foldl (fun (a i : Nat) =>
          a + nth t i * m.at (mirrorIdx ((2 * y + j : Int) - 2) m.h) (mirrorIdx ((2 * x + i : Int) - 2) m.w) k) 0
        s + nth t j * hh) 0
      (s + 128) / 256)
  else
    mkImg w h m.c (fun y x k =>
      let y1 := min (2 * y + 1) (m.h - 1)
      let x1 := min (2 * x + 1) (m.w - 1)
      (m.at (2 * y) (2 * x) k + m.at (2 * y) x1 k + m.at y1 (2 * x) k + m.at y1 x1 k + 2) / 4)

/-- All levels, level 0 first (R238). -/
def pyramid (pyr : Nat) : Nat → Img → List Img
  | 0, _ => []
  | 1, m => [m]
  | n + 1, m => m :: pyramid pyr n (pyramidStep pyr m)

/-! ### Augmentation -/

/-- The generator (R243). -/
def vatRandRound (s : Dword × Dword) : Dword × Dword :=
  let x := s.1 ^^^ s.2
  let x := x * 0x8F3A62D1C5B94E27#64
  let x := x ^^^ (x >>> 31)
  let x := x.rotateLeft 27 + s.2
  (x, s.2 + 0x3D2E91A7F05C6B43#64)

/-- One draw (R243). -/
def vatRand (key ctr : Dword) : Dword :=
  let x := ((upto 10).foldl (fun s _ => vatRandRound s) (ctr, key)).1
  x ^^^ (x >>> 33)

/-- u(r, n) of R243. -/
def drawBelow (r : Dword) (n : Nat) : Nat := r.toNat / 2 ^ 32 * n / 2 ^ 32

/-- Draw d of a frame (R244). -/
def frameDraw (key : Dword) (index d : Nat) : Dword := vatRand key (BitVec.ofNat 64 (index * 256 + d))

/-- Crop offsets, 0 when AUG_EN is 0 (R235, R244). -/
def cropOffsets (s : ShapeCfg) (key : Dword) (index : Nat) : Int × Int :=
  if s.augEn then
    ((drawBelow (frameDraw key index 0) (2 * s.shift + 1) : Int) - s.shift,
     (drawBelow (frameDraw key index 1) (2 * s.shift + 1) : Int) - s.shift)
  else (0, 0)

/-- The augment stage (R244, R245). -/
def augmentStage (s : ShapeCfg) (key : Dword) (index : Nat) (m : Img) : Img :=
  if !s.augEn then m else
  let r := frameDraw key index
  let flip := decide (drawBelow (r 2) 256 < s.flipP)
  let b : Int := ((drawBelow (r 3) (2 * s.bri + 1) : Int) - s.bri) * 256
  let k : Int := 256 - (s.con : Int) + drawBelow (r 4) (2 * s.con + 1)
  let x0 := drawBelow (r 5) (m.w + 1 - s.occW)
  let y0 := drawBelow (r 6) (m.h + 1 - s.occH)
  let patch := decide (drawBelow (r 7) 256 < s.occP)
  let key8 := r 8
  mkImg m.w m.h m.c (fun y x c =>
    let p : Int := m.at y (if flip then m.w - 1 - x else x) c
    let v := clampInt (p + b) 0 65535
    let v := clampInt (32768 + ((v - 32768) * k + 128).fdiv 256) 0 65535
    let e := (y * m.w + x) * m.c + c
    let v := if s.noise = 0 then v else
      clampInt (v + drawBelow (vatRand key8 (BitVec.ofNat 64 e)) (2 * s.noise + 1) - s.noise) 0 65535
    if patch && decide (x0 ≤ x) && decide (x < x0 + s.occW) && decide (y0 ≤ y) && decide (y < y0 + s.occH) then 0
    else v.toNat)

/-- Stages 3 to 8 (R230): the levels of a frame. -/
def shapeLevels (s : ShapeCfg) (key : Dword) (index w h : Nat) (d : Decoded) : List Img :=
  let m := colourStage s w h d
  let (dx, dy) := cropOffsets s key index
  let m := resizeStage s (rotateStage s.rot (cropStage s dx dy m))
  pyramid s.pyr s.levels (augmentStage s key index m)

/-! ### Sizes and the sample -/

/-- Colour channels that the settings give (R232). -/
def shapeC (s : ShapeCfg) : Nat := if s.cmode = 0 then 1 else 3

/-- W0 and H0 of level 0 from the channel's geometry (R235-R237). -/
def level0Size (s : ShapeCfg) (w h : Nat) : Nat × Nat :=
  let (w, h) := if s.cropW = 0 ∧ s.cropH = 0 then (w, h) else (s.cropW, s.cropH)
  let (w, h) := if s.rot % 2 = 1 then (h, w) else (w, h)
  if s.outW = 0 ∧ s.outH = 0 then (w, h) else (s.outW, s.outH)

/-- Sizes of the levels. -/
def levelSizes : Nat → Nat → Nat → List (Nat × Nat)
  | 0, _, _ => []
  | n + 1, w, h => (w, h) :: levelSizes n (ceilDiv w 2) (ceilDiv h 2)

/-- Bytes of one level of elements of a width in bits. -/
def levelBytes (c bitsPer : Nat) (wh : Nat × Nat) : Nat := ceilDiv (wh.1 * wh.2 * c * bitsPer) 8

/-- Byte offset of each level and the bytes of the sample: each level begins at the next multiple of 64 (R240). -/
def sampleLayout (c bitsPer : Nat) (sizes : List (Nat × Nat)) : List Nat × Nat :=
  sizes.foldl (fun (offs, e) wh =>
    let o := ceilDiv e 64 * 64
    (offs ++ [o], o + levelBytes c bitsPer wh)) ([], 0)

/-- Whether row y of level 0 is written (R241). -/
def rowWritten (first last period run y : Nat) : Bool :=
  decide (first ≤ y) && decide (y ≤ last) && decide ((y - first) % period < run)

/-- Stage 9 on one element (R239): FP32, ready for R54. -/
def normalise9 (s : ShapeCfg) (v c : Nat) : Word :=
  fmul (fsub (fpOfInt v) (s.mean.getD c 0)) (s.scale.getD c 0)

/-- A byte of a sample: its offset, its value, and which of its bits are written (0xFF, or one nibble of INT4). -/
structure SampleCell where
  off : Nat
  val : Nat
  mask : Nat
deriving DecidableEq, Repr

/-- The bytes of one level: element codes in order, none for elements that are not written (R31, R240, R241). -/
def packLevel (bitsPer base : Nat) : Nat → List (Option Nat) → List SampleCell
  | _, [] => []
  | i, [a] =>
    if bitsPer = 4 then (match a with | some v => [⟨base + i / 2, v % 16, 0x0F⟩] | none => [])
    else (match a with | some v => (toLE (bitsPer / 8) v).zipIdx.map (fun (b, j) => ⟨base + i * (bitsPer / 8) + j, b.toNat, 0xFF⟩) | none => [])
  | i, a :: b :: r =>
    if bitsPer = 4 then
      let m := (if a.isSome then 0x0F else 0) + (if b.isSome then 0xF0 else 0)
      (if m = 0 then [] else [⟨base + i / 2, (a.getD 0) % 16 + 16 * ((b.getD 0) % 16), m⟩]) ++ packLevel bitsPer base (i + 2) r
    else
      let one := fun (i : Nat) (a : Option Nat) => match a with
        | some v => (toLE (bitsPer / 8) v).zipIdx.map (fun (x, j) => (⟨base + i * (bitsPer / 8) + j, x.toNat, 0xFF⟩ : SampleCell))
        | none => []
      one i a ++ one (i + 1) b ++ packLevel bitsPer base (i + 2) r

/-- The row pattern of R241. -/
structure RowPattern where
  first : Nat
  last : Nat
  period : Nat
  run : Nat
deriving DecidableEq, Repr

/-- Stage 9 (R239-R241): the sample of the levels under a requantisation descriptor whose q and bias of channel c are given. -/
def buildSample (s : ShapeCfg) (rq : Requant) (qs : List Nat) (bs : List Word) (rp : RowPattern) (levels : List Img) :
    List SampleCell :=
  let f := outFmtOf rq
  let offs := (sampleLayout (shapeC s) f.bits (levels.map (fun m => (m.w, m.h)))).1
  levels.zipIdx.flatMap (fun (m, l) =>
    let codes := (upto (m.w * m.h)).flatMap (fun p =>
      let y := p / m.w
      if l = 0 && !rowWritten rp.first rp.last rp.period rp.run y then List.replicate m.c none
      else (upto m.c).map (fun k =>
        some (requantElem rq (normalise9 s (m.px.getD (p * m.c + k) 0) k) (bs.getD k 0) (nth qs k))))
    packLevel f.bits (nth offs l) 0 codes)

/-- A POINTS sample: the header with COUNT, the records, zeros up to MAX_RECORDS (R242). -/
def pointsSample (maxRecords : Nat) (recs : List (List Int)) : List SampleCell :=
  let body := recs.flatMap (fun r => r.flatMap (fun v => toLE 4 (lowBits 32 v)))
  let bytes := toLE 4 recs.length ++ toLE 4 0 ++ body ++ List.replicate ((maxRecords - recs.length) * 32) 0
  bytes.zipIdx.map (fun (b, i) => ⟨i, b.toNat, 0xFF⟩)

/-- The bytes of a sample in increasing address order, for DATA_CRC (R241). -/
def sampleBytes (c : List SampleCell) : Bytes := c.map (fun x => BitVec.ofNat 8 x.val)

end Sys2Proof.Machine
end

