-- ==== Sys2Proof/Machine/Types.lean ====
section
/-! DEFINITION. The records that State is made of, all plain data. -/

namespace Sys2Proof.Machine

/-- Where the device stands (R19, R436, R443): no supply, SLEEP, a start, up (IDLE or ACTIVE), recovery. -/
inductive Phase where
  | off | sleep | starting | up | recovery
deriving DecidableEq, Repr

/-- Fuses (R2, R3, R421, R422, R432). -/
structure Fuses where
  pairs : BitVec 20
  serial : BitVec 64
  mac0 : BitVec 48
  mac1 : BitVec 48
  rootKeyHash : BitVec 384
  minSec : Nat
  /-- maximum voltage in mV and maximum current in mA of VCORE, VFAB, VDRAM, VOPT and VAON (R464) -/
  vMax : List Nat
  iMax : List Nat
deriving DecidableEq, Repr

/-- What leaves the module (R391): a host frame on H0/H1, a sentinel word with the light of its 100 µs in half microseconds (R352), a Sirris frame
on a link, a display packet, an 802.1AS message of the time engine on a port (R204). -/
inductive Output where
  | host (port : Nat) (dst : BitVec 48) (tag : Option (Nat × Nat)) (frame : Bytes)
  | sentinel (w : BitVec 16) (light : List Bool)
  | sirris (link : Nat) (frame : Bytes)
  | display (port : Nat) (tag : Option (Nat × Nat)) (payload : Bytes)
  | gptp (port : Nat) (message : Bytes)
deriving DecidableEq, Repr

/-- State of a page's commit (R412). -/
inductive CommitState where
  | idle | pending | applied | refused
deriving DecidableEq, Repr

/-- Common header of one page: commit state and token, the snapshot of a pending commit, the recorded error (R412, R414). -/
structure PageHdr where
  cstate : CommitState
  token : BitVec 16
  snapshot : List (Nat × Word)
  /-- clock at which the pending commit was written (R416: a safe point in that cycle does not count) -/
  at? : Nat
  errValid : Bool
  errOverflow : Bool
  errSource : Nat
  errCode : Nat
  errInfo : Word
deriving DecidableEq, Repr

/-- Clock state of a core (R21). -/
inductive CoreClock where
  | off | stopped | run
deriving DecidableEq, Repr

/-- One physical core (R21, R86, R339, R374-R376, R476). `covAge` is the operating time (Clk.opTime) at its last completed coverage. -/
structure CoreSt where
  clk : CoreClock
  fenced : Bool
  overdue : Bool
  suspect : Bool
  testing : Bool
  logical : Nat
  /-- device times of the strikes of the last 60 s -/
  strikes : List Nat
  progress : Nat
  covAge : Nat
  /-- device time at which the chunk failed that awaits its repetition (R375) -/
  suspectAt : Nat
  /-- clock at which its chunk was granted -/
  chunkFrom : Nat
  /-- clock up to which its cycles in RUN are counted, thousandths of a cycle left over, and the cycles counted of what it runs (R65) -/
  runAt : Nat
  milli : Nat
  pos : Nat
  /-- clock at which it last met the stop condition (R22), none before; of a core in RUN, the clock from which its array is idle, when it stops (R85) -/
  stopAt : Option Nat
  /-- clocks up to which words and tokens of the last core item are in the array (R62, R85) -/
  wordsTill : Nat
  tokensTill : Nat
  /-- whether its last entry into RUN counted as a wake (R24) -/
  woke : Bool
  filler : Nat
  array : ArraySt
  hawk : HawkSt
deriving DecidableEq, Repr

/-- One wing pair (R329, R364, R466-R474). -/
structure PairSt where
  safe : Bool
  owner : Nat
  capPower : Nat
  capTherm : Nat
  capHw : Nat
  /-- FREQ_STEP in force, and the one that MP has chosen: a STOPPED pair takes it at its next wake (R25, R467) -/
  freq : Nat
  next : Nat
  lastClass : Nat
  lastPart : Nat
deriving DecidableEq, Repr

/-- One spectral engine (R153). -/
structure EngineSt where
  off : Bool
  fenced : Bool
  strikes : List Nat
  owner : Nat
deriving DecidableEq, Repr

/-- A page-table entry (R158), its RES as a number: 0 not resident, 1 sheet, 2 felt, 3 DRAM; `odd` is the second copy of a sheet
page on a SAFE pair is implied by the pair's mode (R162). `src` is the byte offset of its contents in the plan image; `used`
the time of last access in µs (R169); `holds` counts the step holds (R170); `region` the region it belongs to. -/
structure Pte where
  valid : Bool
  res : Nat
  pin : Bool
  holds : Nat
  dirty : Bool
  poison : Bool
  ro : Bool
  wt : Bool
  source : Nat
  written : Bool
  loc : Nat
  backing : Option Nat
  frame : Nat
  src : Nat
  used : Nat
  filling : Bool
deriving DecidableEq, Repr

/-- A region record (R159). -/
structure Region where
  version : Nat
  home : Nat
  pin : Bool
  seq : Bool
  ro : Bool
  wt : Bool
  source : Nat
  affinity : Nat
  pages : Nat
  vaBase : Nat
  srcOffset : Nat
deriving DecidableEq, Repr

/-- An input record (R247). -/
structure InputRec where
  version : Nat
  kind : Nat
  fgroup : Nat
  batch : Nat
  memberFirst : Nat
  members : Nat
  levels : Nat
  c : Nat
  tally : Nat
  dims : Nat
  pat : RowPattern
  sampleBytes : Nat
  inVa : Nat
  rqAddr : Nat
deriving DecidableEq, Repr

/-- A ring record (R266). -/
structure RingRec where
  version : Nat
  slotsLog2 : Nat
  slotBytes : Nat
  ringVa : Nat
deriving DecidableEq, Repr

/-- A heavy-phase hint (R314). -/
structure HintRec where
  startUs : Nat
  durUs : Nat
  level : Nat
deriving DecidableEq, Repr

/-- A work item (R298): KIND 0 CORE, 1 SPEC, 2 SIEVE; waits (tally, value) and adds (tally, amount) of the plan's own numbers. The
Sieve descriptor of a SIEVE item is kept beside it (R256), its 96 bytes, the length of its descriptor list, and the CRC-32C that LOAD stores with it
over both (R328). -/
structure WorkItem where
  version : Nat
  kind : Nat
  shed : Bool
  after : Bool
  nwait : Nat
  nadd : Nat
  target : Nat
  ndesc : Nat
  npf : Nat
  waits : List (Nat × Nat)
  adds : List (Nat × Nat)
  descAddr : Nat
  hawkAddr : Nat
  pfAddr : Nat
  sieve : Option SieveDesc
  raw : Bytes
  listBytes : Nat
  crc : Nat
deriving DecidableEq, Repr

/-- A sequence class (R300) with its work items, instance 0 first. -/
structure SClass where
  version : Nat
  batch : Nat
  maxBatches : Nat
  bind : Bool
  rpt : Bool
  fgroup : Nat
  nitems : Nat
  region : Nat
  itemsOff : Nat
  winVa : Nat
  hdrVa : Nat
  reqVa : Nat
  items : List WorkItem
deriving DecidableEq, Repr

/-- A loaded plan (R296): its header fields and tables, the DRAM frames of its image copy, and the page-table keys of the pad
instances (R301). -/
structure Plan where
  imageBytes : Nat
  lcores : Nat
  lmode : Bool
  lengines : Nat
  tallies : Nat
  regions : List Region
  inputs : List InputRec
  ring : Option RingRec
  classes : List SClass
  hints : List HintRec
  steps : List WorkItem
  image : List Nat
deriving DecidableEq, Repr

/-- State of a partition (R291). -/
inductive PState where
  | empty | ready | loaded | running | stopping | suspended
deriving DecidableEq, Repr

/-- A failure of a step (R337, R338): detection instant, log code, replayable, and what it is attributed to. -/
structure Failure where
  td : Nat
  code : Nat
  replayable : Bool
  unit : Option UnitId
deriving DecidableEq, Repr

/-- Watermark fields (R211). -/
structure Watermark where
  devFrame : Nat
  captureNs : Int
  sensorCount : Nat
  channel : Nat
  flags : Nat
  stage : Nat
  dataCrc : Nat
deriving DecidableEq, Repr

/-- A member's entry of a frame set (R221): its channel, the selected frame's slot and watermark, status, cause, HOLD_TIMEOUT. -/
structure FrameEntry where
  member : Nat
  ch : Nat
  slot : Option Nat
  wm : Option Watermark
  status : Nat
  cause : Nat
  timeout : Bool
deriving DecidableEq, Repr

/-- An assembled frame set of a group. -/
structure FrameSet where
  group : Nat
  entries : List FrameEntry
deriving DecidableEq, Repr

/-- A HOLD wait of a group (R224): the members with HOLD = 1 and how each was resolved (0 not yet, 1 resolved, 2 by HOLD_LIMIT). -/
structure HoldWait where
  group : Nat
  members : List (Nat × Nat)
deriving DecidableEq, Repr

/-- The step of a partition that is in progress (R307, R315). -/
structure StepRec where
  n : Nat
  tick : Nat
  /-- start of R318: the tick, or the last assembly -/
  start : Nat
  built : Bool
  replay : Bool
  fail : Option Failure
  declared : Bool
  /-- OUTPUTs that have their record, and whether it was VALID -/
  published : List (Nat × Bool)
  shed : Bool
  /-- a SHED instant has passed -/
  sets : List FrameSet
  waits : List HoldWait
  /-- batches: class, instance, Instar index of each position -/
  batches : List (Nat × Nat × List Nat)
  /-- units whose proof tile has not passed in this attempt -/
  proofs : List Nat
  /-- pages on which the step holds -/
  holds : List Nat
  /-- an item of the step was aborted alone, so that the step cannot end before its deadline -/
  lost : Bool
deriving DecidableEq, Repr

/-- Open and retire commands waiting for their step (R305). -/
structure PendingOpen where
  sclass : Nat
  member : Nat
  user : Nat
  atStep : Nat
  /-- whether it is the last SEQ_OPEN, whose outcome PART_OPEN_RESULT tells (R320) -/
  last : Bool
deriving DecidableEq, Repr

/-- What a logical core or engine without a unit lost, and the log code of the fence (R291, R294). -/
structure LostUnit where
  engine : Bool
  logical : Nat
  old : Nat
  code : Nat
deriving DecidableEq, Repr

/-- A partition (R288-R323, R361). -/
structure PartSt where
  st : PState
  /-- PART_CMD being served while QP restarts: CMD and the three arguments -/
  cmd : Option (Nat × Word × Word × Word)
  pairsNow : BitVec 20
  plan : Option Plan
  bind : List (Option Nat)
  ebind : List (Option Nat)
  lost : List LostUnit
  step : Option StepRec
  /-- number of the next tick: steps ticked since the launch -/
  stepNo : Nat
  outcome : Nat
  /-- launch instant in device time once accepted, none before; the global launch count otherwise -/
  launchNs : Option Nat
  launchGlobal : Bool
  /-- device time before which the next tick does not fall (R318) -/
  notBefore : Nat
  sid : Nat
  opens : List PendingOpen
  openResult : Word
  build : Nat
  buildMax : Nat
  finish : Nat
  finishMax : Nat
  margin : Nat
  ptes : List (Nat × Pte)
  ptEntry : Dword
  /-- prefetches in the order emitted: page, item that named it, and whether it has been served (R172) -/
  prefetch : List (Nat × Nat × Bool)
  wrSeq : Nat
  /-- the overwrites made at one instant: the instant, the SEQ overwritten and whether it was judged LOST (R275) -/
  overAt : Nat
  overs : List (Nat × Bool)
  /-- safe-state latch: log code of its cause and step (R344, R361) -/
  safe : Option (Nat × Nat)
  clearing : Bool
  /-- watermark, after stage 10, of the frame that each position buffer holds, by input record and position (R249) -/
  buffers : List ((Nat × Nat) × Watermark)
  /-- stage-10 writes in progress: input record, position, channel, slot, DEV_FRAME -/
  handovers : List ((Nat × Nat) × (Nat × Nat × Nat))
  /-- the pages whose holds the last step boundary released, and its instant (R173) -/
  relAt : Nat
  rels : List Nat
  /-- frames that each group's last assembly selected: channel and DEV_FRAME -/
  lastSets : List (Nat × List (Nat × Nat))
  resetting : Bool
deriving DecidableEq, Repr

/-- An Instar entry (R303), STATE 0 FREE, 1 OPEN, 2 RETIRING. -/
structure InstarEntry where
  sid : Nat
  st : Nat
  part : Nat
  sclass : Nat
  isNew : Bool
  h : Bool
  member : Nat
  user : Nat
  openStep : Nat
  steps : Nat
  /-- boundary before which a retiring sequence ends -/
  retireAt : Nat
deriving DecidableEq, Repr

/-- A queued item: a proof tile or a work item of a partition's step, with its arrival order (R308). -/
structure QItem where
  part : Nat
  proof : Bool
  item : WorkItem
  order : Nat
  id : Nat
  /-- clock at which it was emitted (R335) -/
  emitted : Nat
  /-- TALLY_WAITs sent for it: TAG and which wait; and the waits woken by TALLY_WAKE (R498) -/
  sent : List (Nat × Nat)
  woken : List Nat
deriving DecidableEq, Repr

/-- The item that a unit is running: what it writes and what it will do when complete. -/
structure Running where
  item : QItem
  since : Nat
  /-- clock up to which an engine's busy cycles are counted (R153) -/
  counted : Nat
  writes : List Put
  pages : List Nat
  /-- its writes have landed and remote ones are outstanding (R496) -/
  landed : Bool
  /-- the access that cannot be served, which the item never gets past -/
  err : Option AccessErr
  result : Option SieveResult
  /-- what an engine has still to count: BFLY, CMAC, TILES (R153) -/
  advance : List Nat
  /-- the array passes and pooling layers of a core item, the one that it never gets past with how far it comes in it, and what their time depends on:
  the base of the free waits and FREQ_STEP at the start (R64, R75) -/
  shape : List PassShape
  stop : Option (Nat × Nat)
  seed : Nat
  step : Nat
  /-- the array and the hawk state that a core item leaves when it is complete -/
  array : ArraySt
  hawk : HawkSt
deriving DecidableEq, Repr

/-- Settings of a channel page in force for a frame (R227, R229). -/
structure ChanCfg where
  en : Bool
  kind : Nat
  hold : Bool
  chkrec : Bool
  port : Nat
  vlanEn : Bool
  vid : Nat
  stream : Nat
  w : Nat
  h : Nat
  nslots : Nat
  budgetUs : Nat
  maxAge : Nat
  maxLead : Nat
  ptOffset : Int
  alignOff : Nat
  alignTol : Nat
  absentLimit : Nat
  holdLimit : Nat
  fgroup : Nat
  member : Nat
  recBytes : Nat
  nfields : Nat
  fields : List Nat
deriving DecidableEq, Repr

/-- A frame slot's state (R217). -/
inductive SlotState where
  | free | receiving | decoding | shaping | ready
deriving DecidableEq, Repr

/-- A frame slot in use (R217): its state, who holds it (partition and step; 16 + stream and picture for the display: HELD while any
does), the frame's watermark, end of frame, budget start, instant of stage 9, its settings, and the data of its areas. `rtype` is
the RFC 2435 type with Q and the quantisation header. -/
structure Slot where
  st : SlotState
  holders : List (Nat × Nat)
  wm : Watermark
  eofAt : Nat
  budgetFrom : Nat
  readyAt : Option Nat
  cfg : ChanCfg
  shape : ShapeCfg
  rtype : Bytes
  recv : Bytes
  pixels : List (Nat × Nat)
  decoded : Option Decoded
  working : List Img
  colour : Option Img
  colourAt : Nat
  sample : Option (List SampleCell)
  /-- a watermark or data CRC of the slot no longer holds -/
  corrupt : Bool
deriving DecidableEq, Repr

/-- A frame in receive (R196-R203): its settings, slot once taken, times, the header fields of its first packet (for Himir frames
FRAME_COUNT, CAPTURE_TIME with TS_VALID; for MJPEG type, Q, width, height), the last tile or the next record, and its data. -/
structure RxFrame where
  cfg : ChanCfg
  shape : ShapeCfg
  slot : Option Nat
  firstAt : Nat
  unsync : Bool
  seq : Nat
  capture : Option Int
  head : List Nat
  tile : Option (Nat × Nat × Nat × Nat)
  recNext : Nat
  crcOk : Bool
  dims : Option (Nat × Nat)
  sof : Bool
  qtab : Bytes
  data : Bytes
  /-- unpacked pixels by raster index, in arrival order -/
  pixels : List (Nat × Nat)
deriving DecidableEq, Repr

/-- An outcome of the channel's history (R210): capture time if known, status code, and DEV_FRAME of an accepted frame. -/
structure History where
  capture : Option Int
  status : Nat
  devFrame : Nat
  /-- clock at which an accepted frame was shaped (R219, R220) -/
  shapedAt : Option Nat
deriving DecidableEq, Repr

/-- A Vat channel (R205-R229). -/
structure ChanSt where
  rx : Option RxFrame
  /-- a rejected frame's later packets are discarded until the next frame starts -/
  discard : Bool
  slots : List (Nat × Slot)
  history : List History
  lastCount : Option Nat
  /-- SENSOR_COUNT of the last accepted frame, 0 with NOCHK -/
  lastShown : Nat
  lastTime : Option Int
  lastStatus : Nat
  /-- DEV_FRAME of the channel's last frame where that one was accepted (R229) -/
  lastDev : Option Nat
  lastMember : Nat
  absentRun : Nat
  lostReported : Bool
  endLatched : Bool
  /-- capture time of the newest frame that passed check 1 (R224) -/
  newestSeen : Option Int
  /-- device times of the INTEGRITY reports of the last second (R386) -/
  integrity : List Nat
deriving DecidableEq, Repr

/-- A kept answer (R398): TAG, SESSION and the answer frame. -/
structure Kept where
  tag : Word
  session : Word
  answer : Bytes
deriving DecidableEq, Repr

/-- Host state (R407). -/
inductive HostState where
  | unclaimed | claimed | orphan
deriving DecidableEq, Repr

/-- The host link (R398-R410). -/
structure LinkSt where
  host : HostState
  session : Word
  port : Nat
  /-- device time of the grant or of the last heartbeat -/
  hbAt : Nat
  grant : Word
  version : Nat
  /-- claim waiting for its reset: port -/
  resetting : Option Nat
  kept : List (Nat × Kept)
  keptBulk : List (Nat × Kept)
  /-- window 2 writes whose BULK_ACK waits for the flash: port, TAG, SESSION, source, frame -/
  flashWait : List (Nat × HostFrame)
  /-- flash offsets at which sectors partly written go on (R403) -/
  flashNext : List Nat
  /-- BULK_READs outstanding: port, session, and the instant at which the last BULK_DATA has left (R404) -/
  reads : List (Nat × Nat × Nat)
  /-- a CLAIM on H0 wins over H1's of this cycle (R411) -/
  h0First : Bool
deriving DecidableEq, Repr

/-- Device time's engine (R423, R424): STATE, last offsets (newest first), grandmaster, offset still to slew with the part of 10,000 ns over which its
next nanosecond is slewed, Sync instant, the last offset measured. -/
structure TimeSt where
  st : Nat
  offsets : List Int
  gm : BitVec 64
  slew : Int
  slewPart : Nat
  rate : Int
  lastSync : Nat
  deferred : Bool
  lastOffset : Int
deriving DecidableEq, Repr

end Sys2Proof.Machine
end

