-- ==== Sys2Proof/Machine/State.lean ====
section
/-! DEFINITION. The state of the TK1: everything the spec gives the machine, as plain data, and the state after reset. -/

namespace Sys2Proof.Machine

/-- Why a step stops with a fault. The spec stops the block nowhere (INVENTORY.md, Faults), so no command raises one; the type
has one constructor so that it is a closed inductive. -/
inductive Fault where
  /-- raised by no command: safe -/
  | none
deriving DecidableEq, Repr

/-- Why a step refuses a command. -/
inductive Refusal where
  /-- raised by an arm of exec whose meaning is not written: safe -/
  | notModelled (mnemonic : String)
deriving DecidableEq, Repr

/-- A log entry formed and not yet copied (R454). `spot`: the virtual page, if any, and the physical address of the frame of a memory event (R184). -/
structure LogEntry where
  time : Nat
  code : Nat
  part : Nat
  unit : Nat
  step : Nat
  info : Nat
  spot : Option (Option Nat × Nat)
deriving DecidableEq, Repr

/-- The log: entries waiting for MP, whether entries were lost while it restarted (R450), SEQ of the next entry copied, and the
hold-offs (code, scope, device time of the last entry) (R454). -/
structure LogSt where
  queue : List LogEntry
  lost : Bool
  nextSeq : Nat
  holdoff : List ((Nat × Nat) × Nat)
deriving DecidableEq, Repr

/-- Kind and cause of a start (R435, R461). -/
structure StartSt where
  kind : Nat
  cause : Nat
  /-- clock at which the start began -/
  begun : Nat
deriving DecidableEq, Repr

/-- State of a firmware slot (R455, R461). -/
inductive SlotVerify where
  | unverified | verifying | verified | refused
deriving DecidableEq, Repr

/-- A crash dump (R453): the header's fields, and the base of the free values that its other bytes are. -/
structure Dump where
  proc : Nat
  cause : Nat
  slot : Bool
  seq : Nat
  time : Nat
  ticks : Nat
  version : Nat
  base : Nat
deriving DecidableEq, Repr

/-- Boot (R427, R435-R461). -/
structure BootSt where
  start : StartSt
  running : Bool
  preferred : Bool
  configCopy : Nat
  /-- the ROM's check of the slot at step 3: the code that fails, none when it passed (R430, R441) -/
  romCode : Option Nat
  slotA : SlotVerify
  slotB : SlotVerify
  /-- BOOT command being served and its argument -/
  busy : Option (Nat × Word)
  /-- activation deferred: MODE -/
  activate : Option Nat
  /-- clock at which the last emergency cleared (R457) -/
  emergClear : Option Nat
  /-- clock at which the module last went OFF (R517) -/
  offAt : Nat
  /-- clock at which HOST_READY was reached, and whether the start is known good (R441) -/
  readyAt : Nat
  good : Bool
  /-- cores held for a post-start coverage run (R439) -/
  coverage : List Nat
  /-- record WAKE of the configuration (R433) -/
  patternEn : Bool
  /-- slot that a fallback marked FAILED, and whether this start fell back (R442) -/
  failedMark : Option Bool
  fallback : Bool
  /-- steps that the last start skipped (R437) -/
  dramSkip : Bool
  sramSkip : Bool
  /-- processors that a LIVE activation has still to restart (R456) -/
  live : Option (List Nat)
  /-- the slot of an activation that has begun and is not complete: 0x7109 is written when it runs (R456) -/
  newSlot : Option Bool
  /-- SP has started the sentinel's encoder since the supply came within range (R354, R438) -/
  sntUp : Bool
  /-- the flash dump ring (R452): slot and dump, and the slot written next -/
  dumpRing : List (Nat × Dump)
  dumpNext : Nat
deriving DecidableEq, Repr

/-- A firmware processor (R448-R452, R462). -/
inductive ProcRun where
  | run | restarting | halted
deriving DecidableEq, Repr

structure ProcSt where
  st : ProcRun
  /-- clock at which the restart began -/
  since : Nat
  cause : Nat
  /-- image slot its code runs from, and that image's IMAGE_VERSION as it was loaded (R462) -/
  slot : Bool
  fw : Nat
  /-- device times of restarts, newest first -/
  restarts : List Nat
  /-- the dump SRAM, the processor's dumps since the supply came within range, whether MP has still to copy it -/
  dump : Option Dump
  dumpSeq : Nat
  dumpNew : Bool
deriving DecidableEq, Repr

/-- A failed start in the boot counter (R441, R442). -/
structure BootFail where
  slot : Bool
  aonTime : Nat
deriving DecidableEq, Repr

/-- A record of the AON fault history (R384): the pair, the core when it is known, and the cause. -/
structure FaultRec where
  pair : Nat
  core : Option Nat
  cause : Nat
deriving DecidableEq, Repr

/-- The wake-pattern detector (R447): edges so far as the detector has classified them. -/
structure WakeDet where
  /-- clock of the last change of the filtered WAK light (R521) -/
  changed : Nat
  /-- clock from which the light counts as it is, and whether lit -/
  since : Nat
  lit : Bool
  /-- bits taken of the pattern in progress, none when idle -/
  bits : Option (List Nat)
  bad : Nat
deriving DecidableEq, Repr

/-- AON retention (R181, R376, R384, R405, R438, R441, R460, R473). -/
structure AonSt where
  /-- clock at which AON last gained power -/
  base : Nat
  session : Nat
  failures : List BootFail
  trained : Bool
  /-- DRAM temperature at training, °C -/
  trainTemp : Int
  /-- AON time of the last full SRAM self-test, none before one -/
  sramAt : Option Nat
  sleepTimer : Nat
  /-- clock from which the sleep timer runs -/
  sleepFrom : Nat
  wakeLast : Nat
  retiredSheet : List (Nat × Nat)
  retiredFelt : List (Nat × Nat)
  faults : List FaultRec
  shutdowns : Nat
  /-- in the SLEEP of a thermal shutdown the AON sensor reads above 95 °C: wakes do not count (R473); and the clock since which -/
  hot : Bool
  hotFrom : Nat
  /-- a thermal shutdown whose log entry MP has still to write (R473) -/
  owedShutdown : Bool
  aonTemp : Int
  wake : WakeDet
deriving DecidableEq, Repr

/-- The device's safety state (R346, R348, R352-R355). -/
structure SafetySt where
  /-- device safe state: DEV_CAUSE, 0 when not in it -/
  dev : Nat
  /-- device time at which SP's hold began -/
  hold : Option Nat
  degraded : Bool
  sentinelOn : Bool
  counter : Nat
  lastWord : Nat
  lastCause : Nat
  /-- status and cause that SP had set when its hold began (R355) -/
  spStatus : Nat
  spCause : Nat
  proofVariant : Nat
  proofFail : Nat
  proofMax : Nat
  /-- shared-scope checker failed: latch (R369) -/
  shared : Bool
  /-- the last word taken from the optical tap was not the word intended (R367) -/
  tapBad : Bool
  /-- strikes that wait for SP (R339, R450) -/
  owed : List UnitId
  /-- cores whose sheet page found no new frame while SP restarted: their fence waits for it (R179, R450) -/
  owedFences : List Nat
  /-- the expected signature of each variant of the proof tile as SP last loaded it (R335, R450) -/
  proofSigs : List (Nat × Nat)
deriving DecidableEq, Repr

/-- The self-test (R366-R388). -/
structure SelfTestSt where
  rotating : Bool
  rotStart : Option Nat
  rotLast : Nat
  remaining : List Checker
  late : Bool
  activeBank : Nat
  activeVersion : Nat
  stagedVersion : Nat
  /-- 0 EMPTY/unverified, 1 VERIFYING, 2 VERIFIED, 3 REFUSED -/
  staged : Nat
  busy : Bool
  /-- command of ST_CMD that waits for SP, and its argument (R450) -/
  waiting : Option (Nat × Nat)
  /-- cores that run a chunk of the set that was active before, and that set's bank (R377) -/
  coreBank : List (Nat × Nat)
deriving DecidableEq, Repr

/-- A hint window (R475). -/
structure HintWindow where
  part : Nat
  startNs : Nat
  endNs : Nat
  level : Nat
  opened : Bool
deriving DecidableEq, Repr

/-- Power and heat (R464-R484). -/
structure PowerSt where
  /-- power of the last milliseconds in mW, newest first -/
  hist : List Nat
  emSupply : Bool
  emCurrent : List Nat
  emThermal : List Nat
  /-- quadrants being throttled by hardware -/
  throttled : List Nat
  vin : Nat
  iin : Nat
  rails : List (Nat × Nat)
  vcore : Nat
  floor : Nat
  iWork : Nat
  sensors : List Int
  dramTemp : Int
  windows : List HintWindow
  thermCount : List Nat
  /-- partitions whose power caps MP has lowered, and the device time of the last step (R475) -/
  lowered : List (Nat × Nat)
  energyRem : Nat
  fillRem : Nat
deriving DecidableEq, Repr

/-- A kept Sirris frame (R490). -/
structure SirKept where
  seq : Nat
  frame : Bytes
deriving DecidableEq, Repr

/-- A Sirris link (R486-R492): UP, good HELLO received, PEER, next SEQ to send, SEQ expected, the replay buffer, REQ and RSP credits
held and owed, whether a frame accepted has still to be acknowledged, rounds without progress, clocks of the last progress, good frame, NACK and
frame sent, and the messages that wait for credits: class, message, and the link whose buffer holds one that is forwarded (R489). -/
structure SirLink where
  up : Bool
  peer : Nat
  nextSeq : Nat
  expected : Nat
  kept : List SirKept
  credReq : Nat
  credRsp : Nat
  owedReq : Nat
  owedRsp : Nat
  ackOwed : Bool
  rounds : Nat
  lastProgress : Nat
  lastGood : Nat
  lastNack : Option Nat
  lastTx : Nat
  waiting : List (Nat × Bytes × Option Nat)
deriving DecidableEq, Repr

/-- A system tally held here as HOME (R497, R498): the counts of two steps, newest first, and the waits registered: step, value, the
device, partition and TAG to answer. -/
structure SysTally where
  counts : List (Nat × Nat)
  waiters : List (Nat × Nat × Nat × Nat × Nat)
deriving DecidableEq, Repr

/-- An optical port (R522-R526): link state 0 DOWN, 1 TRAINING, 2 UP. -/
structure PortSt where
  link : Nat
  rxPower : Nat
  txPower : Nat
deriving DecidableEq, Repr

/-- A display stream (R278, R283): whether a picture is being encoded or sent, PIC_COUNT, the next sequence_num, the slots it reads
(channel, slot), and the port, the VLAN tag, the packets and the JPEG bytes of the picture. -/
structure DispSt where
  busy : Bool
  pics : Nat
  seq : Nat
  holding : List (Nat × Nat)
  port : Nat
  tag : Option (Nat × Nat)
  packets : List Bytes
  bytes : Nat
deriving DecidableEq, Repr

/-- The clocks: the reference clock in ns (DESIGN CHOICE, log entry 1), device time (R423), the operating time, which runs while the device is ACTIVE
or IDLE (R376), and the time engine. -/
structure Clk where
  clock : Nat
  dev : Nat
  opTime : Nat
  time : TimeSt
deriving DecidableEq, Repr

/-- The register tables, keyed by address (page times 4096 plus offset): values in force and shadows of the written registers (R413),
page headers by page, 64-bit counters by the address of their low register, latched high words by the address of the high one. -/
structure Regs where
  force : List (Nat × Word)
  shadow : List (Nat × Word)
  hdr : List (Nat × PageHdr)
  counters : List (Nat × Nat)
  latches : List (Nat × Word)
deriving DecidableEq, Repr

/-- The units: cores, wing pairs, spectral engines, by number. -/
structure Units where
  cores : List (Nat × CoreSt)
  pairs : List (Nat × PairSt)
  engines : List (Nat × EngineSt)
deriving DecidableEq, Repr

/-- Partitions and steps: partitions, Instar table with its latched entry, tallies with their second copies (the complement of each count, R328), the
work queues and the items in progress by queue number, and the host's adds of one cycle (clock, device tally, amount; R313). -/
structure Plans where
  parts : List (Nat × PartSt)
  instar : List (Nat × InstarEntry)
  instarEntry : List Word
  tallies : List (Nat × Nat)
  talliesDup : List (Nat × Nat)
  queues : List (Nat × List QItem)
  running : List (Nat × Running)
  arrival : Nat
  hostAdds : List (Nat × Nat × Nat)
  /-- the replacement that QP last recorded for a logical core: partition, logical core, unit (R450) -/
  spares : List ((Nat × Nat) × Nat)
  /-- the Sieve item taken out last: clock, queue, and what it would still have counted as capped and dropped (R275) -/
  sieveCut : Option (Nat × Nat × Nat × Nat)
deriving DecidableEq, Repr

/-- The Vat and the display: channels, DEV_FRAME, decoder and raw-path queues (channel, slot) and what they work on, streams. -/
structure Vat where
  chans : List (Nat × ChanSt)
  devFrame : Nat
  decodeQ : List (Nat × Nat)
  decoders : List (Option (Nat × Nat))
  rawQ : List (Nat × Nat)
  rawPath : Option (Nat × Nat)
  display : List (Nat × DispSt)
  /-- the slot whose budget expired last: clock, channel, slot number, and its contents (R215) -/
  expired : Option (Nat × Nat × Nat × Slot)
deriving DecidableEq, Repr

/-- An arbiter's signed credit in beats per class, the class it granted last, and of each class the uplink that it took last (R187). -/
structure Arb where
  credit : List Int
  last : Nat
  lastUp : List Nat
deriving DecidableEq, Repr

/-- No credit anywhere; the first round robins begin at class 0 and uplink 0 (R187 gives no reset: DESIGN CHOICE, log entry 72). -/
def Arb.reset : Arb := ⟨List.replicate 16 0, 15, List.replicate 16 4⟩

/-- Requests of one class that wait at an arbiter (R187): its number, their class, the uplink of the quadrant that they come by, 4 for the DRAM
controller and the device blocks, the beats of each, and how many. -/
structure Req where
  port : Nat
  cls : Nat
  up : Nat
  beats : Nat
  n : Nat
deriving DecidableEq, Repr

/-- The Press: patrol (R183), retired DRAM frames (R182), the arbiters' credits (R187), where number 0 is the DRAM controller and 1 + q the inbound
port of quadrant q, and the requests that wait at them, oldest first, with the instant at which they were made. -/
structure Press where
  dramRetired : List Nat
  patrolBusy : Bool
  patrolAt : Nat
  arbs : List (Nat × Arb)
  waiting : List Req
  waitAt : Nat
deriving DecidableEq, Repr

/-- Sirris links, system tallies, the next message TAG, remote writes without answer (TAG, queue), and optical ports. -/
structure Net where
  tag : Nat
  sirris : List (Nat × SirLink)
  stallies : List (Nat × SysTally)
  remote : List (Nat × Nat)
  ports : List (Nat × PortSt)
deriving DecidableEq, Repr

/-- The whole machine. `pending` is the queue of commands, first in, first out; `out` what has left the module; `fresh` counts the
free values taken (DESIGN CHOICE, log entry 2). Sparse tables list only what differs from the default, keys rising. -/
structure State where
  pending : List Instr
  out : List Output
  fresh : Nat
  clk : Clk
  phase : Phase
  fuses : Fuses
  mem : List Host.Cell
  regs : Regs
  units : Units
  plans : Plans
  vat : Vat
  press : Press
  link : LinkSt
  safety : SafetySt
  selftest : SelfTestSt
  aon : AonSt
  boot : BootSt
  procs : List (Nat × ProcSt)
  log : LogSt
  power : PowerSt
  net : Net
deriving DecidableEq, Repr

/-! ### Defaults of the tables -/

/-- A page header at reset (R412). -/
def PageHdr.reset : PageHdr := ⟨.idle, 0, [], 0, false, false, 0, 0, 0⟩

/-- A core after a start: STOPPED once its core test has passed (R21, R439), unbound, no strike (R86). -/
def CoreSt.reset : CoreSt := ⟨.stopped, false, false, false, false, 0xFF, [], 0, 0, 0, 0, 0, 0, 0, none, 0, 0, false, 0, emptyArray, emptyHawk⟩

/-- A pair after a start with the default mode map: SPLIT, unowned, caps 48, FREQ_STEP 32 (R329, R434, R468). -/
def PairSt.reset : PairSt := ⟨false, 0xF, 48, 48, 48, 32, 32, 0, 0⟩

/-- An engine after a start (R153). -/
def EngineSt.reset : EngineSt := ⟨false, false, [], 0xF⟩

/-- An EMPTY partition (R291, R320). -/
def PartSt.reset : PartSt :=
  { st := .empty, cmd := none, pairsNow := 0, plan := none, bind := [], ebind := [], lost := [], step := none, stepNo := 0, outcome := 0
    launchNs := none, launchGlobal := false, notBefore := 0, sid := 1, opens := [], openResult := 0
    build := 0, buildMax := 0, finish := 0, finishMax := 0, margin := 0, ptes := [], ptEntry := 0, prefetch := [], wrSeq := 0, overAt := 0, overs := []
    safe := none, clearing := false, buffers := [], handovers := [], relAt := 0, rels := [], lastSets := [], resetting := false }

/-- A FREE Instar entry (R303). -/
def InstarEntry.reset : InstarEntry := ⟨0, 0, 0, 0, false, false, 0, 0, 0, 0, 0⟩

/-- A channel after a start: disabled, NSLOTS 4 slots FREE, LAST_MEMBER 0xF (R229). -/
def ChanSt.reset : ChanSt := ⟨none, false, [], [], none, 0, none, 0, none, 0xF, 0, false, false, none, []⟩

/-- A display stream after a start (R278). -/
def DispSt.reset : DispSt := ⟨false, 0, 0, [], 0, none, [], 0⟩

/-- A processor after a start (R448, R462). -/
def ProcSt.reset : ProcSt := ⟨.run, 0, 1, false, 0, [], none, 0, false⟩

/-- A Sirris link after a start: DOWN (R488). -/
def SirLink.reset : SirLink := ⟨false, 0, 0, 0, [], 512, 512, 0, 0, false, 0, 0, 0, none, 0, []⟩

/-- A system tally after a start (R498). -/
def SysTally.reset : SysTally := ⟨[], []⟩

/-- A port after a start: no light (R523, R526). -/
def PortSt.reset : PortSt := ⟨0, 0x8000, 0x8000⟩

/-- The sub-states after a start that reached HOST_READY. -/
def SafetySt.reset : SafetySt := ⟨0, none, false, true, 0, 0, 0, 3, 3, 0, 0xFF, 0, false, false, [], [], []⟩
def SelfTestSt.reset : SelfTestSt := ⟨false, none, 0, [], false, 0, 0, 0, 0, false, none, []⟩
/-- The time engine after a start: SRC is H0 (R425), so it is ACQUIRING (R423; DEDUCED, log entry 31). -/
def TimeSt.reset : TimeSt := ⟨1, [], 0, 0, 0, 0, 0, false, 0⟩
def LinkSt.reset : LinkSt := ⟨.unclaimed, 0, 0, 0, 0, 0, none, [], [], [], [], [], false⟩
def AonSt.reset : AonSt :=
  { base := 0, session := 0, failures := [], trained := true, trainTemp := 0, sramAt := some 0, sleepTimer := 0, sleepFrom := 0, wakeLast := 0
    retiredSheet := [], retiredFelt := [], faults := [], shutdowns := 0, hot := false, hotFrom := 0, owedShutdown := false, aonTemp := 0
    wake := ⟨0, 0, false, none, 0⟩ }
def BootSt.reset : BootSt :=
  { start := ⟨1, 0, 0⟩, running := false, preferred := false, configCopy := 2, romCode := none
    slotA := .unverified, slotB := .unverified, busy := none, activate := none
    emergClear := none, offAt := 0, readyAt := 0, good := false, coverage := []
    patternEn := true, failedMark := none, fallback := false, dramSkip := false, sramSkip := false, live := none, newSlot := none, sntUp := true, dumpRing := [], dumpNext := 0 }
def LogSt.reset : LogSt := ⟨[], false, 0, []⟩
def PowerSt.reset : PowerSt :=
  { hist := [], emSupply := false, emCurrent := [], emThermal := [], throttled := [], vin := 0, iin := 0, rails := []
    vcore := 0, floor := 0, iWork := 0, sensors := [], dramTemp := 0, windows := [], thermCount := [], lowered := [], energyRem := 0, fillRem := 0 }

/-- Fuses of a TK1-40 (DESIGN CHOICE, log entry 4), with the limits of R464. -/
def Fuses.reset : Fuses := ⟨0xFFFFF, 0, 0, 0, 0, 0, [900, 850, 1100, 1800, 800], [220000, 60000, 15000, 10000, 100]⟩

/-- The machine right after reset: a cold start with default configuration has reached HOST_READY (R440): IDLE, UNCLAIMED, every
partition EMPTY (DESIGN CHOICE, log entries 1 to 7). -/
def State.reset : State :=
  { pending := [], out := [], fresh := 0, clk := ⟨0, 0, 0, TimeSt.reset⟩, phase := .up, fuses := Fuses.reset, mem := []
    regs := ⟨[], [], [], [(0x003080, 1)], []⟩, units := ⟨[], [], []⟩
    plans := ⟨[], [], List.replicate 8 0, [], [], [], [], 0, [], [], none⟩
    vat := ⟨[], 0, [], List.replicate 8 none, [], none, [], none⟩
    press := ⟨[], false, 0, [], [], 0⟩, link := LinkSt.reset, safety := SafetySt.reset, selftest := SelfTestSt.reset
    aon := AonSt.reset, boot := BootSt.reset, procs := [], log := LogSt.reset, power := PowerSt.reset
    net := ⟨0, [], [], [], []⟩ }

end Sys2Proof.Machine
end

