-- ==== Sys2Proof/Machine/RegMap.lean ====
section
/-! DEFINITION. The page map (R418) and, for every page, its registers: offset, access code (R9) and reset value.
Readings: log entry 3 (DESIGN CHOICE). -/

namespace Sys2Proof.Machine

/-- What a page belongs to (R418). -/
inductive Block where
  | dev | host | aon | boot
  | proc (i : Nat) | port (i : Nat) | sntw | time
  | chan (n : Nat) | shape (n : Nat) | core (n : Nat) | pair (p : Nat) | quad (q : Nat) | engine (q : Nat)
  | press | pressP (p : Nat) | felt | dram | instar | part (p : Nat) | tallyW (p : Nat)
  | sieve | disp | safe | proof | dl | st | pwr | therm | sirris | stally
deriving DecidableEq, Repr

/-- The block of a page, and the first page of its row in the page map; none outside the map (R418). -/
def blockOf (page : Nat) : Option (Block × Nat) :=
  if page = 0x000 then some (.dev, 0x000)
  else if page = 0x001 then some (.host, 0x001)
  else if page = 0x002 then some (.aon, 0x002)
  else if page = 0x003 then some (.boot, 0x003)
  else if 0x004 ≤ page ∧ page ≤ 0x006 then some (.proc (page - 0x004), 0x004)
  else if 0x010 ≤ page ∧ page ≤ 0x017 then some (.port (page - 0x010), 0x010)
  else if 0x018 ≤ page ∧ page ≤ 0x019 then some (.port (page - 0x010), 0x018)
  else if 0x01A ≤ page ∧ page ≤ 0x01D then some (.port (page - 0x010), 0x01A)
  else if page = 0x01E then some (.sntw, 0x01E)
  else if page = 0x020 then some (.time, 0x020)
  else if 0x030 ≤ page ∧ page ≤ 0x04F then some (.chan (page - 0x030), 0x030)
  else if 0x050 ≤ page ∧ page ≤ 0x06F then some (.shape (page - 0x050), 0x050)
  else if 0x100 ≤ page ∧ page ≤ 0x127 then some (.core (page - 0x100), 0x100)
  else if 0x140 ≤ page ∧ page ≤ 0x153 then some (.pair (page - 0x140), 0x140)
  else if 0x160 ≤ page ∧ page ≤ 0x163 then some (.quad (page - 0x160), 0x160)
  else if 0x170 ≤ page ∧ page ≤ 0x173 then some (.engine (page - 0x170), 0x170)
  else if page = 0x180 then some (.press, 0x180)
  else if 0x181 ≤ page ∧ page ≤ 0x188 then some (.pressP (page - 0x181), 0x181)
  else if page = 0x190 then some (.felt, 0x190)
  else if page = 0x191 then some (.dram, 0x190)
  else if page = 0x1A0 then some (.instar, 0x1A0)
  else if 0x1A1 ≤ page ∧ page ≤ 0x1A8 then some (.part (page - 0x1A1), 0x1A1)
  else if 0x1A9 ≤ page ∧ page ≤ 0x1B0 then some (.tallyW (page - 0x1A9), 0x1A9)
  else if page = 0x1C0 then some (.sieve, 0x1C0)
  else if page = 0x1C1 then some (.disp, 0x1C1)
  else if page = 0x1D0 then some (.safe, 0x1D0)
  else if page = 0x1D1 then some (.proof, 0x1D0)
  else if page = 0x1D2 then some (.dl, 0x1D0)
  else if page = 0x1D3 then some (.st, 0x1D3)
  else if page = 0x1E0 then some (.pwr, 0x1E0)
  else if page = 0x1E1 then some (.therm, 0x1E1)
  else if page = 0x1F0 then some (.sirris, 0x1F0)
  else if page = 0x1F1 then some (.stally, 0x1F1)
  else none

/-- Every page number of the map, in order. -/
def allPages : List Nat := (List.range 0x1F2).filter (fun p => (blockOf p).isSome)

/-- Whether MP emulates the page (R417, R418). -/
def emulated (page : Nat) : Bool := page == 0x003 || page == 0x1E0 || page == 0x1E1

/-- Access code of a register (R9). -/
inductive Acc where
  | reserved | ro | rw | rws | wo
deriving DecidableEq, Repr

/-- n consecutive registers from an offset: access and reset value. -/
structure RegRow where
  off : Nat
  n : Nat
  acc : Acc
  reset : Nat
deriving DecidableEq, Repr

/-- The view registers of one display stream (R287). -/
def streamRows (b : Nat) : List RegRow :=
  [⟨b, 1, .rws, 0⟩, ⟨b + 0x04, 2, .rws, 0⟩, ⟨b + 0x0C, 1, .rws, 0⟩, ⟨b + 0x10, 1, .rws, 0xCB00_4E20⟩, ⟨b + 0x20, 16, .rws, 0⟩]

/-- The registers of a block beyond the common header, 64-bit counters apart (R86, R153, R189–R191, R229, R255, R285, R287, R319, R320,
R323, R361–R364, R388, R421, R422, R425, R460–R462, R483, R484, R508, R509, R525, R526). Fields whose reset value comes from the
flash stand at the default configuration (R434); a start writes the values in force over it. Trims stand at 0 (DESIGN CHOICE, log entry 3). -/
def regRows : Block → List RegRow
  | .core _ => [⟨0x040, 3, .ro, 0⟩, ⟨0x04C, 1, .rws, 1⟩, ⟨0x050, 1, .wo, 0⟩, ⟨0x054, 1, .ro, 0⟩, ⟨0x0C0, 4, .rw, 0⟩]
  | .engine _ => [⟨0x040, 1, .ro, 0⟩, ⟨0x044, 1, .rws, 1⟩, ⟨0x048, 1, .wo, 0⟩, ⟨0x04C, 1, .ro, 0⟩, ⟨0x0C0, 3, .rw, 0⟩]
  | .quad _ => []
  | .press => [⟨0x040, 2, .ro, 0⟩, ⟨0x048, 1, .rws, 32⟩, ⟨0x04C, 1, .wo, 0⟩, ⟨0x0C0, 3, .rw, 0⟩]
  | .pressP _ => [⟨0x040, 3, .ro, 0⟩, ⟨0x04C, 3, .rws, 0⟩, ⟨0x058, 1, .rws, 16⟩, ⟨0x05C, 1, .rw, 0⟩, ⟨0x060, 2, .ro, 0⟩,
      ⟨0x068, 1, .rws, 1⟩, ⟨0x06C, 1, .wo, 0⟩]
  | .felt => [⟨0x040, 1, .ro, 0⟩, ⟨0x044, 1, .wo, 0⟩, ⟨0x0C0, 2, .rw, 0⟩]
  | .dram => [⟨0x040, 1, .ro, 0⟩, ⟨0x044, 1, .rws, 0x8000_0004⟩, ⟨0x048, 1, .wo, 0⟩, ⟨0x0C0, 2, .rw, 0⟩]
  | .chan _ => [⟨0x040, 1, .rws, 1⟩, ⟨0x044, 4, .rws, 0⟩, ⟨0x054, 1, .rws, 0x0004_2710⟩, ⟨0x058, 1, .rws, 0x00C8_0064⟩,
      ⟨0x05C, 3, .rws, 0⟩, ⟨0x068, 1, .rws, 0x0064_0000⟩, ⟨0x06C, 1, .wo, 0⟩, ⟨0x070, 4, .ro, 0⟩, ⟨0x0F0, 2, .rw, 0⟩,
      ⟨0x100, 9, .rws, 0⟩, ⟨0x130, 1, .ro, 0⟩]
  | .shape _ => [⟨0x040, 1, .rws, 0x0200_0000⟩, ⟨0x044, 6, .rws, 0⟩, ⟨0x05C, 3, .rws, 0x3F80_0000⟩, ⟨0x068, 3, .rws, 0⟩,
      ⟨0x0C0, 2, .rw, 0⟩]
  | .sieve => [⟨0x040, 1, .ro, 0⟩, ⟨0x044, 1, .wo, 0⟩, ⟨0x280, 2, .rw, 0⟩] ++
      (List.range 8).flatMap (fun p => [⟨0x080 + 0x40 * p, 3, .ro, 0⟩, ⟨0x090 + 0x40 * p, 2, .ro, 0⟩, ⟨0x098 + 0x40 * p, 1, .rw, 0⟩])
  | .disp => [⟨0x040, 1, .rws, 0x0200_0000⟩, ⟨0x044, 1, .ro, 0⟩, ⟨0x048, 1, .wo, 0⟩, ⟨0x080, 16, .rws, 0x80FF_0000⟩,
      ⟨0x0C0, 2, .rw, 0⟩] ++ (List.range 4).flatMap (fun s => streamRows (0x100 + 0x80 * s))
  | .instar => [⟨0x040, 1, .ro, 0⟩, ⟨0x044, 1, .rw, 0⟩, ⟨0x048, 8, .ro, 0⟩, ⟨0x068, 1, .wo, 0⟩, ⟨0x0C0, 1, .rw, 0⟩]
  | .part _ => [⟨0x040, 2, .rws, 0⟩, ⟨0x048, 1, .rws, 33333⟩, ⟨0x04C, 1, .rws, 30000⟩, ⟨0x050, 6, .rws, 0⟩, ⟨0x068, 1, .wo, 0⟩,
      ⟨0x06C, 3, .rw, 0⟩, ⟨0x078, 8, .ro, 0⟩, ⟨0x098, 1, .rws, 1⟩, ⟨0x09C, 1, .wo, 0⟩, ⟨0x0E0, 11, .ro, 0⟩]
  | .tallyW _ => [⟨0x040, 1, .rw, 0⟩, ⟨0x044, 1, .wo, 0⟩, ⟨0x400, 256, .ro, 0⟩]
  | .safe => [⟨0x040, 10, .ro, 0⟩, ⟨0x068, 2, .wo, 0⟩, ⟨0x0C0, 2, .rw, 0⟩]
  | .proof => [⟨0x040, 2, .ro, 0⟩, ⟨0x048, 1, .wo, 0⟩, ⟨0x0C0, 1, .rw, 0⟩]
  | .dl => [⟨0x040, 1, .ro, 0⟩, ⟨0x100, 1, .rw, 0⟩] ++
      (List.range 8).flatMap (fun p => [⟨0x080 + 0x10 * p, 2, .rws, 0⟩, ⟨0x088 + 0x10 * p, 1, .ro, 0⟩])
  | .pair _ => [⟨0x040, 2, .ro, 0⟩, ⟨0x048, 1, .wo, 0⟩, ⟨0x0C0, 2, .rw, 0⟩]
  | .st => [⟨0x040, 1, .ro, 0⟩, ⟨0x044, 1, .rws, 800⟩, ⟨0x048, 1, .wo, 0⟩, ⟨0x04C, 1, .rw, 0⟩, ⟨0x050, 3, .ro, 0⟩, ⟨0x05C, 1, .rw, 0⟩,
      ⟨0x060, 1, .ro, 0⟩, ⟨0x064, 1, .wo, 0⟩, ⟨0x0F0, 2, .rw, 0⟩]
  | .dev => [⟨0x040, 6, .ro, 0⟩, ⟨0x058, 1, .rw, 0⟩, ⟨0x05C, 1, .wo, 0⟩, ⟨0x060, 2, .ro, 0⟩, ⟨0x068, 1, .wo, 0⟩, ⟨0x06C, 1, .rws, 200⟩,
      ⟨0x070, 2, .ro, 0⟩, ⟨0x078, 1, .wo, 0⟩]
  | .host => [⟨0x040, 4, .ro, 0⟩, ⟨0x050, 2, .rws, 0x8000_0000⟩, ⟨0x058, 1, .ro, 0⟩, ⟨0x060, 1, .wo, 0⟩, ⟨0x0C0, 2, .rw, 0⟩]
  | .time => [⟨0x040, 1, .rws, 0x0008_0000⟩, ⟨0x044, 1, .rws, 0x01F4_03E8⟩, ⟨0x048, 7, .ro, 0⟩, ⟨0x064, 2, .rws, 0⟩,
      ⟨0x06C, 1, .rws, 33333⟩, ⟨0x070, 2, .ro, 0⟩, ⟨0x078, 2, .rws, 0⟩, ⟨0x080, 1, .wo, 0⟩, ⟨0x0C0, 1, .rw, 0⟩]
  | .aon => [⟨0x040, 5, .ro, 0⟩, ⟨0x054, 1, .rws, 0⟩, ⟨0x058, 2, .ro, 0⟩, ⟨0x060, 4, .rw, 0⟩, ⟨0x0C0, 1, .rw, 0⟩]
  | .boot => [⟨0x040, 4, .ro, 0⟩, ⟨0x050, 1, .wo, 0⟩, ⟨0x054, 1, .rw, 0⟩, ⟨0x058, 4, .ro, 0⟩, ⟨0x068, 1, .wo, 0⟩, ⟨0x0C0, 1, .rw, 0⟩]
  | .proc _ => [⟨0x040, 2, .ro, 0⟩, ⟨0x048, 1, .wo, 0⟩, ⟨0x04C, 1, .ro, 0⟩, ⟨0x050, 1, .wo, 0⟩, ⟨0x0C0, 1, .rw, 0⟩]
  | .pwr => [⟨0x040, 1, .ro, 0⟩, ⟨0x044, 1, .rws, 0x0005_00A0⟩, ⟨0x048, 1, .rws, 0x8000_0019⟩, ⟨0x04C, 6, .ro, 0⟩, ⟨0x064, 1, .wo, 0⟩,
      ⟨0x068, 8, .rws, 0x0000_1030⟩, ⟨0x088, 1, .rw, 0⟩, ⟨0x08C, 1, .ro, 0⟩, ⟨0x0C0, 2, .rw, 0⟩]
  | .therm => [⟨0x040, 1, .ro, 0⟩, ⟨0x044, 1, .rws, 95⟩, ⟨0x048, 11, .ro, 0⟩, ⟨0x074, 1, .wo, 0⟩, ⟨0x0C0, 1, .rw, 0⟩]
  | .sirris => [⟨0x040, 1, .rws, 0⟩, ⟨0x044, 1, .rw, 0⟩, ⟨0x048, 1, .rws, 0⟩, ⟨0x050, 4, .ro, 0⟩, ⟨0x060, 1, .wo, 0⟩, ⟨0x180, 2, .rw, 0⟩] ++
      (List.range 16).flatMap (fun w => [⟨0x200 + 0x20 * w, 7, .rws, 0⟩, ⟨0x400 + 0x10 * w, 4, .rws, 0⟩])
  | .stally => [⟨0x040, 1, .rw, 0⟩, ⟨0x044, 2, .rws, 0⟩, ⟨0x04C, 1, .rw, 0⟩, ⟨0x050, 2, .ro, 0⟩, ⟨0x058, 1, .wo, 0⟩, ⟨0x0C0, 1, .rw, 0⟩]
  | .port i => [⟨0x040, 1, .rws, if i < 10 then 0x8000_0000 else 0⟩, ⟨0x044, 2, .ro, 0⟩, ⟨0x04C, 1, .wo, 0⟩, ⟨0x0C0, 2, .rw, 0⟩]
  | .sntw => [⟨0x040, 2, .ro, 0⟩, ⟨0x048, 1, .wo, 0⟩, ⟨0x0C0, 1, .rw, 0⟩]

/-- The 64-bit counters of a block: offset of the first low register, how many follow one another. -/
def cntRows : Block → List (Nat × Nat)
  | .core _ => [(0x058, 10)]
  | .engine _ => [(0x050, 6)]
  | .press => [(0x050, 4)]
  | .pressP _ => [(0x070, 7)]
  | .felt => [(0x048, 1)]
  | .dram => [(0x050, 3)]
  | .chan _ => [(0x080, 14)]
  | .sieve => (0x050, 4) :: (List.range 8).map (fun p => (0x0A0 + 0x40 * p, 4))
  | .disp => [(0x050, 4)]
  | .instar => [(0x070, 3)]
  | .part _ => [(0x0A0, 8)]
  | .safe => [(0x070, 4)]
  | .proof => [(0x050, 3)]
  | .pair _ => [(0x050, 3)]
  | .st => [(0x080, 13), (0x100, 3)]
  | .dev => [(0x080, 3)]
  | .host => [(0x080, 8)]
  | .time => [(0x088, 3)]
  | .boot => [(0x080, 5)]
  | .proc _ => [(0x080, 3)]
  | .pwr => [(0x0A0, 4)]
  | .therm => [(0x080, 2)]
  | .sirris => (0x068, 1) :: (List.range 4).map (fun n => (0x080 + 0x40 * n, 6))
  | .stally => [(0x080, 5)]
  | .port _ => [(0x050, 6)]
  | .sntw => [(0x050, 3)]
  | _ => []

/-- The counter clear register of a block. -/
def clearOff : Block → Option Nat
  | .core _ => some 0x050
  | .engine _ => some 0x048
  | .press => some 0x04C
  | .pressP _ => some 0x06C
  | .felt => some 0x044
  | .dram => some 0x048
  | .sieve => some 0x044
  | .disp => some 0x048
  | .instar => some 0x068
  | .part _ => some 0x09C
  | .safe => some 0x06C
  | .proof => some 0x048
  | .pair _ => some 0x048
  | .st => some 0x064
  | .dev => some 0x078
  | .host => some 0x060
  | .time => some 0x080
  | .boot => some 0x068
  | .proc _ => some 0x050
  | .pwr => some 0x064
  | .therm => some 0x074
  | .sirris => some 0x060
  | .stally => some 0x058
  | .port _ => some 0x04C
  | .sntw => some 0x048
  | _ => none

/-- Offset of the register that holds CNT_EN in bit 0 and STEP_CLEAR in bit 1 (R86, R153, R190, R320). -/
def cntCtrlOff : Block → Option Nat
  | .core _ => some 0x04C
  | .engine _ => some 0x044
  | .pressP _ => some 0x068
  | .part _ => some 0x098
  | _ => none

/-- The row that holds an offset. -/
def findRow : List RegRow → Nat → Option RegRow
  | [], _ => none
  | r :: rest, off => if r.off ≤ off ∧ off < r.off + 4 * r.n then some r else findRow rest off

/-- Whether an offset lies in a 64-bit counter: offset of its low register. -/
def findCnt : List (Nat × Nat) → Nat → Option Nat
  | [], _ => none
  | (o, n) :: rest, off => if o ≤ off ∧ off < o + 8 * n then some (o + (off - o) / 8 * 8) else findCnt rest off

/-- Address of a register (R397). -/
def addr (page off : Nat) : Nat := page * 4096 + off

/-- Base of the keys of an indexed register's entry (SIR_ROUTE, STALLY_BIND). -/
def indexedKey (a idx : Nat) : Nat := a + 2 ^ 28 * (idx + 1)

/-- Access code at an offset of a page beyond the common header; reserved offsets included (R397). -/
def accOf (b : Block) (off : Nat) : Acc :=
  match findRow (regRows b) off with
  | some r => r.acc
  | none => match findCnt (cntRows b) off with
    | some _ => .ro
    | none => .reserved

/-- Reset value of the register at a key; indexed entries reset to 0 (R508, R509). -/
def resetOf (key : Nat) : Nat :=
  if 2 ^ 28 ≤ key then 0
  else match blockOf (key / 4096) with
    | none => 0
    | some (b, _) => match findRow (regRows b) (key % 4096) with
      | some r => r.reset
      | none => 0

/-- Whether a page has RWS fields (PAGE_CAPS SHADOW, R412). -/
def hasShadow (b : Block) : Bool := (regRows b).any (fun r => r.acc == .rws)

/-- Offsets of the RWS registers of a page, in increasing order as the rows stand. -/
def rwsOffsets (b : Block) : List Nat :=
  ((regRows b).filter (fun r => r.acc == .rws)).flatMap (fun r => (List.range r.n).map (fun i => r.off + 4 * i))

end Sys2Proof.Machine
end

