-- ==== Sys2Proof/Machine/Ops.lean ====
section
/-! DEFINITION. The named operations over the state: sparse tables, memory, units, registers, counters, errors, the log, free values
and the clocks. Every meaning is written over these.
Readings: log entry 1 (DESIGN CHOICE), log entry 2 (DESIGN CHOICE), log entry 5 (DESIGN CHOICE). -/

namespace Sys2Proof.Machine

/-! ### Sparse tables -/

/-- The entry at a key, or the default. -/
def sget {α : Type} (d : α) : List (Nat × α) → Nat → α
  | [], _ => d
  | (j, v) :: r, k => if j = k then v else sget d r k

/-- Set the entry at a key; the keys stay rising and no default is listed. -/
def sput {α : Type} [DecidableEq α] (d : α) (l : List (Nat × α)) (k : Nat) (v : α) : List (Nat × α) :=
  l.filter (fun e => decide (e.1 < k)) ++ (if v = d then [] else [(k, v)]) ++ l.filter (fun e => decide (k < e.1))

/-! ### Memory (R155, R156, R426, R452) -/

/-- DRAM lies from 0: 56 GiB of usable frames. -/
def feltBase : Nat := 56 * 2 ^ 30
/-- Sheet stores follow the felt slices. -/
def sheetBase : Nat := feltBase + 4 * 384 * 65536
/-- The flash follows the sheet stores. -/
def flashBase : Nat := sheetBase + 40 * 64 * 65536
/-- First address beyond all memories. The dump SRAMs are held as dumps (R453). -/
def memEnd : Nat := flashBase + 2 ^ 28

/-- Physical address of DRAM frame f, of felt frame f of slice q, of sheet frame f of core c. -/
def dramFrame (f : Nat) : Nat := f * 65536
def feltFrame (q f : Nat) : Nat := feltBase + (q * 384 + f) * 65536
def sheetFrame (c f : Nat) : Nat := sheetBase + (c * 64 + f) * 65536

/-- What a byte reads as that nothing has written: erased flash reads 0xFF (R403), the others 0 (DESIGN CHOICE, log entry 5). -/
def blank (a : Nat) : Byte := if flashBase ≤ a then 0xFF else 0

/-- The byte at an address of a memory. -/
def memGet : List Host.Cell → Nat → Byte
  | [], a => blank a
  | (j, v) :: r, a => if j = a then v else memGet r a

/-- Write one byte: the addresses stay rising and no entry equals what an unlisted address reads as. -/
def memPut : List Host.Cell → Nat → Byte → List Host.Cell
  | [], a, v => if v = blank a then [] else [(a, v)]
  | (j, w) :: r, a, v =>
    if a < j then (if v = blank a then (j, w) :: r else (a, v) :: (j, w) :: r)
    else if a = j then (if v = blank a then r else (a, v) :: r)
    else (j, w) :: memPut r a v

/-- The canonical form of memory: addresses strictly rising above a bound and inside the memories, no entry equal to what an
unlisted address reads as. -/
def memFrom : List Host.Cell → Nat → Bool
  | [], _ => true
  | (a, v) :: r, lo => decide (lo ≤ a) && decide (v ≠ blank a) && memFrom r (a + 1)

/-- Memory is in canonical form. -/
def Memory.wf (m : List Host.Cell) : Bool := memFrom m 0

/-- Read and write one byte of the machine's memories. -/
def State.rd (s : State) (a : Nat) : Byte := memGet s.mem a
def State.wr (s : State) (a : Nat) (v : Byte) : State := { s with mem := memPut s.mem a v }

/-- Read n bytes. -/
def State.rdN (s : State) (a n : Nat) : Bytes := (List.range n).map (fun i => s.rd (a + i))

/-- Write bytes from an address on. -/
def State.wrN (s : State) (a : Nat) : Bytes → State
  | [] => s
  | b :: r => (s.wr a b).wrN (a + 1) r

/-- Every byte of a range reads as nothing has written it: the entries are dropped. -/
def State.wipe (s : State) (a n : Nat) : State :=
  { s with mem := s.mem.filter (fun c => !(decide (a ≤ c.1) && decide (c.1 < a + n))) }

/-! ### Tables of the state -/

def State.core (s : State) (n : Nat) : CoreSt := sget CoreSt.reset s.units.cores n
def State.setCore (s : State) (n : Nat) (c : CoreSt) : State :=
  { s with units := { s.units with cores := sput CoreSt.reset s.units.cores n c } }
def State.pair (s : State) (n : Nat) : PairSt := sget PairSt.reset s.units.pairs n
def State.setPair (s : State) (n : Nat) (c : PairSt) : State :=
  { s with units := { s.units with pairs := sput PairSt.reset s.units.pairs n c } }
def State.engine (s : State) (n : Nat) : EngineSt := sget EngineSt.reset s.units.engines n
def State.setEngine (s : State) (n : Nat) (c : EngineSt) : State :=
  { s with units := { s.units with engines := sput EngineSt.reset s.units.engines n c } }
def State.part (s : State) (p : Nat) : PartSt := sget PartSt.reset s.plans.parts p
def State.setPart (s : State) (p : Nat) (c : PartSt) : State :=
  { s with plans := { s.plans with parts := sput PartSt.reset s.plans.parts p c } }
/-- Change a partition. -/
def State.modPart (s : State) (p : Nat) (f : PartSt → PartSt) : State := s.setPart p (f (s.part p))
def State.instarAt (s : State) (i : Nat) : InstarEntry := sget InstarEntry.reset s.plans.instar i
def State.setInstar (s : State) (i : Nat) (e : InstarEntry) : State :=
  { s with plans := { s.plans with instar := sput InstarEntry.reset s.plans.instar i e } }
def State.tally (s : State) (t : Nat) : Nat := sget 0 s.plans.tallies t
/-- A tally and its second copy, the bitwise complement of the count (R328). -/
def State.setTally (s : State) (t v : Nat) : State :=
  { s with plans := { s.plans with tallies := sput 0 s.plans.tallies t v, talliesDup := sput (2 ^ 32 - 1) s.plans.talliesDup t (2 ^ 32 - 1 - v) } }
def State.queue (s : State) (q : Nat) : List QItem := sget [] s.plans.queues q
def State.setQueue (s : State) (q : Nat) (l : List QItem) : State :=
  { s with plans := { s.plans with queues := sput [] s.plans.queues q l } }
def State.run (s : State) (q : Nat) : Option Running := s.plans.running.lookup q
def State.setRun (s : State) (q : Nat) (r : Option Running) : State :=
  { s with plans := { s.plans with running :=
      (let cut := s.plans.running.filter (fun e => e.1 != q)
       match r with
       | none => cut
       | some x => cut.filter (fun e => e.1 < q) ++ (q, x) :: cut.filter (fun e => q < e.1)) } }
def State.chan (s : State) (n : Nat) : ChanSt := sget ChanSt.reset s.vat.chans n
def State.setChan (s : State) (n : Nat) (c : ChanSt) : State :=
  { s with vat := { s.vat with chans := sput ChanSt.reset s.vat.chans n c } }
def State.disp (s : State) (n : Nat) : DispSt := sget DispSt.reset s.vat.display n
def State.setDisp (s : State) (n : Nat) (c : DispSt) : State :=
  { s with vat := { s.vat with display := sput DispSt.reset s.vat.display n c } }
def State.proc (s : State) (n : Nat) : ProcSt := sget ProcSt.reset s.procs n
def State.setProc (s : State) (n : Nat) (c : ProcSt) : State := { s with procs := sput ProcSt.reset s.procs n c }
def State.sir (s : State) (n : Nat) : SirLink := sget SirLink.reset s.net.sirris n
def State.setSir (s : State) (n : Nat) (c : SirLink) : State :=
  { s with net := { s.net with sirris := sput SirLink.reset s.net.sirris n c } }
/-- Credits that a message takes (R489). -/
def sirCost (msg : Bytes) : Nat := (20 + msg.length + 63) / 64
/-- The buffer of a link is free of a frame of a class: its credits are owed to the sender (R489). -/
def State.sirOwe (s : State) (n : Option Nat) (cls : Nat) (msg : Bytes) : State :=
  match n with
  | none => s
  | some n =>
    let l := s.sir n
    s.setSir n { l with
      owedReq := if cls = 0 then l.owedReq + sirCost msg else l.owedReq, owedRsp := if cls = 0 then l.owedRsp else l.owedRsp + sirCost msg }
/-- A link ends: what it kept and what waited for it is lost, which frees the buffers of other links (R488–R490). -/
def State.endSir (s : State) (n : Nat) (x : SirLink) : State :=
  let w := (s.sir n).waiting.filter (fun e => e.2.2 != some n)
  w.foldl (fun s e => s.sirOwe e.2.2 e.1 e.2.1) (s.setSir n x)
def State.stally (s : State) (n : Nat) : SysTally := sget SysTally.reset s.net.stallies n
def State.setStally (s : State) (n : Nat) (c : SysTally) : State :=
  { s with net := { s.net with stallies := sput SysTally.reset s.net.stallies n c } }
def State.optical (s : State) (n : Nat) : PortSt := sget PortSt.reset s.net.ports n
def State.setOptical (s : State) (n : Nat) (c : PortSt) : State :=
  { s with net := { s.net with ports := sput PortSt.reset s.net.ports n c } }
def State.hdrOf (s : State) (page : Nat) : PageHdr := sget PageHdr.reset s.regs.hdr page
def State.setHdr (s : State) (page : Nat) (h : PageHdr) : State :=
  { s with regs := { s.regs with hdr := sput PageHdr.reset s.regs.hdr page h } }

/-! ### Registers (R413) -/

/-- The value in force of a written register. -/
def State.inForce (s : State) (key : Nat) : Nat := (sget (BitVec.ofNat 32 (resetOf key)) s.regs.force key).toNat
/-- The shadow of an RWS register; where the host wrote none it equals the value in force. -/
def State.shadowOf (s : State) (key : Nat) : Nat := (sget (BitVec.ofNat 32 (resetOf key)) s.regs.shadow key).toNat
def State.setForce (s : State) (key v : Nat) : State :=
  { s with regs := { s.regs with force := sput (BitVec.ofNat 32 (resetOf key)) s.regs.force key (BitVec.ofNat 32 v) } }
def State.setShadow (s : State) (key v : Nat) : State :=
  { s with regs := { s.regs with shadow := sput (BitVec.ofNat 32 (resetOf key)) s.regs.shadow key (BitVec.ofNat 32 v) } }
/-- Both, as at a start. -/
def State.setBoth (s : State) (key v : Nat) : State := (s.setForce key v).setShadow key v
/-- A 64-bit setting in two registers. -/
def State.inForce64 (s : State) (lo hi : Nat) : Nat := s.inForce lo + 2 ^ 32 * s.inForce hi

/-! ### Page errors (R412) -/

/-- Record an error on a page: the first since clearing stands, a further one sets OVERFLOW. SOURCE 0 commit, 1 write, 2 command, 3 plan
load, 4 block event. -/
def State.pageErr (s : State) (page source code info : Nat) : State :=
  let h := s.hdrOf page
  if h.errValid then s.setHdr page { h with errOverflow := true }
  else s.setHdr page { h with errValid := true, errSource := source, errCode := code, errInfo := BitVec.ofNat 32 info }

/-! ### Counters (R86, R87) -/

/-- Whether the counters of a page count. -/
def State.counting (s : State) (page : Nat) : Bool :=
  match blockOf page with
  | none => false
  | some (b, _) => match cntCtrlOff b with
    | none => true
    | some o => bit (s.inForce (addr page o)) 0

/-- A 64-bit counter by the address of its low register. -/
def State.counter (s : State) (page off : Nat) : Nat := sget 0 s.regs.counters (addr page off)

/-- Set what an index register shows. -/
def setLatch (s : State) (a v : Nat) : State :=
  { s with regs := { s.regs with latches := sput 0 s.regs.latches a (BitVec.ofNat 32 v) } }

/-- Advance a counter. -/
def State.bump (s : State) (page off n : Nat) : State :=
  if s.counting page then
    { s with regs := { s.regs with counters := sput 0 s.regs.counters (addr page off) ((s.counter page off + n) % 2 ^ 64) } }
  else s

/-- Take back what a counter has counted in this cycle, unless it was cleared since. -/
def State.unbump (s : State) (page off n : Nat) : State :=
  if s.counting page then
    { s with regs := { s.regs with counters := sput 0 s.regs.counters (addr page off) (s.counter page off - n) } }
  else s

/-- Clear every counter of a page. -/
def State.clearCounters (s : State) (page : Nat) : State :=
  { s with regs := { s.regs with counters := s.regs.counters.filter (fun e => e.1 / 4096 != page) } }

/-! ### Free values and outputs -/

/-- The next free value (DESIGN CHOICE, log entry 2), below n when n is not 0. -/
def State.freeVal (s : State) (n : Nat) : Nat := if n = 0 then Config.free s.fresh else Config.free s.fresh % n
def State.tick (s : State) : State := { s with fresh := s.fresh + 1 }
/-- k free bytes. -/
def freeBytes (fresh k : Nat) : Bytes := (List.range k).map (fun i => BitVec.ofNat 8 (Config.free (fresh + i)))

/-- Something leaves the module. -/
def State.emit (s : State) (o : Output) : State := { s with out := s.out ++ [o] }

/-! ### The log (R454) -/

/-- Form a log entry at its event. INFO is "as PAGE_ERRINFO for the code", which no chapter defines for a log code: a free value. While
MP restarts the hardware keeps 256 entries and loses those beyond (R450). -/
def State.logEntryOf (s : State) (code part unit step : Nat) (spot : Option (Option Nat × Nat)) : State :=
  if (s.proc 0).st ≠ .run ∧ 256 ≤ s.log.queue.length then
    { s.bump 0x003 0x0A0 1 with log := { s.log with lost := true } }
  else
    { s with log := { s.log with queue := s.log.queue ++ [⟨s.clk.dev, code, part, unit, step, s.freeVal (2 ^ 32), spot⟩] }, fresh := s.fresh + 1 }
def State.logEntry (s : State) (code part unit step : Nat) : State := s.logEntryOf code part unit step none

/-- Form a log entry that its rule limits to one per second of device time in a scope. -/
def State.logLimited (s : State) (code scope part unit step : Nat) : State :=
  match s.log.holdoff.lookup (code, scope) with
  | some t =>
    if s.clk.dev < t + 1000000000 then s
    else let s := s.logEntry code part unit step
         { s with log := { s.log with holdoff := ((code, scope), s.clk.dev) :: s.log.holdoff.filter (fun e => e.1 != (code, scope)) } }
  | none =>
    let s := s.logEntry code part unit step
    { s with log := { s.log with holdoff := ((code, scope), s.clk.dev) :: s.log.holdoff } }

/-- A block event recorded in PAGE_ERR; no chapter defines its INFO: a free value. -/
def State.blockErr (s : State) (page code : Nat) : State := (s.pageErr page 4 code (s.freeVal (2 ^ 32))).tick

/-! ### Clocks (R17, R423, R424) -/

/-- The rate correction in force while an offset is slewed away, in 0.001 ppm (R424, R425). -/
def slewRate (slew : Int) : Int := if slew = 0 then 0 else if slew < 0 then -100000 else 100000

/-- Device time advances d ns of the reference clock, an offset still to correct being slewed away at 100 ppm: 1 ns in every 10,000. -/
def slewed (t : TimeSt) (d : Nat) : TimeSt × Nat :=
  let room : Int := ((d + t.slewPart : Nat) : Int) / 10000
  let c : Int := if t.slew < 0 then -(min room (-t.slew)) else min room t.slew
  let left := t.slew - c
  ({ t with slew := left, slewPart := if left = 0 then 0 else (d + t.slewPart) % 10000, rate := slewRate left
            deferred := t.deferred && decide (left ≠ 0) }, ((d : Int) + c).toNat)

/-- The clocks at an instant of the reference clock: in SLEEP and without supply the time counter stands still (R17, R424). -/
def nextClk (t : Nat) (s : State) : Clk :=
  let d := t - s.clk.clock
  if d = 0 then s.clk
  else if s.phase = .off ∨ s.phase = .sleep then { s.clk with clock := t }
  else
    let (tm, dd) := slewed s.clk.time d
    { clock := t, dev := s.clk.dev + dd, time := tm, opTime := if s.phase = .up then s.clk.opTime + d else s.clk.opTime }

/-- The state at instant t of the reference clock; the clock never goes back. The time counter, of the fabric domain, stands still while the device is in
SLEEP or without supply (R17). -/
def atTime (t : Nat) (s : State) : State := { s with clk := nextClk t s }

/-- AON ticks of 32.768 kHz since the supply came within range (R460). -/
def State.aonTicks (s : State) : Nat := (s.clk.clock - s.aon.base) * 32768 / 1000000000
/-- AON time in ns. -/
def State.aonTime (s : State) : Nat := s.clk.clock - s.aon.base

/-- What happens only while the device is IDLE or ACTIVE (R19). -/
def whenUp (f : State → State) (s : State) : State := if s.phase = .up then f s else s

/-! ### Pages by number (R13, R418) -/

def pgCore (n : Nat) : Nat := 0x100 + n
def pgPair (n : Nat) : Nat := 0x140 + n
def pgEngine (q : Nat) : Nat := 0x170 + q
def pgPressP (p : Nat) : Nat := 0x181 + p
def pgPart (p : Nat) : Nat := 0x1A1 + p
def pgTally (p : Nat) : Nat := 0x1A9 + p
def pgChan (n : Nat) : Nat := 0x030 + n
def pgShape (n : Nat) : Nat := 0x050 + n
def pgPort (n : Nat) : Nat := 0x010 + n

/-- EN of a port (R523). -/
def portOn (s : State) (n : Nat) : Bool := bit (s.inForce (addr (pgPort n) 0x040)) 31

/-- Codes of the queues: core n, engine q, Sieve of partition p. -/
def qCore (n : Nat) : Nat := n
def qSpec (q : Nat) : Nat := 64 + q
def qSieve (p : Nat) : Nat := 128 + p
def queueCode : QueueId → Nat
  | .core n => n.val
  | .spec q => 64 + q.val
  | .sieve p => 128 + p.val

/-- Every queue of the device. -/
def allQueues : List Nat := List.range 40 ++ (List.range 4).map qSpec ++ (List.range 8).map qSieve

/-! ### Facts of the device -/

/-- Whether a pair, a core or its page is fused off (R3). -/
def State.pairFused (s : State) (p : Nat) : Bool := !(s.fuses.pairs.toNat.testBit p)
def State.coreFused (s : State) (n : Nat) : Bool := s.pairFused (n / 2)

/-- Registers of a partition page (R320). -/
def State.partReg (s : State) (p off : Nat) : Nat := s.inForce (addr (pgPart p) off)
/-- RT and SAFETY of a partition (R289). -/
def State.isRT (s : State) (p : Nat) : Bool := bit (s.partReg p 0x040) 0
def State.isSafety (s : State) (p : Nat) : Bool := bit (s.partReg p 0x040) 1
/-- RUNNING or STOPPING (R291). -/
def State.active (s : State) (p : Nat) : Bool := (s.part p).st == .running || (s.part p).st == .stopping
/-- The partition page's settings in the units the rules use: PERIOD and BUDGET in ns. -/
def State.periodNs (s : State) (p : Nat) : Nat := bits (s.partReg p 0x048) 17 0 * 1000
def State.budgetNs (s : State) (p : Nat) : Nat := bits (s.partReg p 0x04C) 17 0 * 1000

end Sys2Proof.Machine
end

