-- ==== Sys2Proof/Machine/PressMem.lean ====
section
/-! DEFINITION. The Press as memory: translation, allocation, residency, eviction and recovery of pages (R155–R179).
Readings: log entry 52 (DEDUCED), log entry 72 (DESIGN CHOICE). -/

namespace Sys2Proof.Machine

/-- A page-table entry of a page that lies in no region instance. -/
def Pte.reset : Pte :=
  { valid := false, res := 0, pin := false, holds := 0, dirty := false, poison := false, ro := false, wt := false, source := 0
    written := false, loc := 0, backing := none, frame := 0, src := 0, used := 0, filling := false }

def State.pte (s : State) (p key : Nat) : Pte := sget Pte.reset (s.part p).ptes key
def State.setPte (s : State) (p key : Nat) (e : Pte) : State :=
  s.modPart p (fun x => { x with ptes := sput Pte.reset x.ptes key e })

/-- Time of access with 1 µs resolution (R169). -/
def State.usNow (s : State) : Nat := s.clk.clock / 1000

/-! ### Bulk moves of RAM -/

/-- The entries of an address range. -/
def memRange (m : List Host.Cell) (a n : Nat) : List Host.Cell := m.filter (fun c => decide (a ≤ c.1) && decide (c.1 < a + n))

/-- Copy n bytes of RAM (not flash); what the target held is lost. The ranges do not overlap. A byte equal to what its new address reads
as unwritten is not listed. -/
def State.copyRam (s : State) (src dst n : Nat) : State :=
  let seg := ((memRange s.mem src n).map (fun c => (c.1 - src + dst, c.2))).filter (fun c => decide (c.2 ≠ blank c.1))
  let lo := s.mem.filter (fun c => decide (c.1 < dst))
  let hi := s.mem.filter (fun c => decide (dst + n ≤ c.1))
  { s with mem := lo ++ seg ++ hi }

/-! ### Where a page lies -/

/-- Addresses of the copies of a page's frame: on a SAFE pair a sheet page has one in both cores' stores (R162). -/
def frameBases (s : State) (e : Pte) : List Nat :=
  if e.res = 1 then
    sheetFrame e.loc e.frame :: (if (s.pair (e.loc / 2)).safe then [sheetFrame (e.loc + 1) e.frame] else [])
  else if e.res = 2 then [feltFrame e.loc e.frame]
  else if e.res = 3 then [dramFrame e.frame]
  else match e.backing with
    | some b => [dramFrame b]
    | none => []

/-- All frames that a write reaches: with WT the backing frame too (R178). -/
def writeBases (s : State) (e : Pte) : List Nat :=
  frameBases s e ++ (if e.wt && e.res == 2 then (match e.backing with | some b => [dramFrame b] | none => []) else [])

/-! ### Free frames -/

/-- Insert into a rising list without repeats. -/
def insNat (x : Nat) : List Nat → List Nat
  | [] => [x]
  | y :: r => if x < y then x :: y :: r else if x = y then y :: r else y :: insNat x r
/-- A rising list without repeats. -/
def sortNat (l : List Nat) : List Nat := l.foldr insNat []

/-- The number reached by passing over the used ones, from a candidate on. -/
def skipUsed : List Nat → Nat → Nat
  | [], c => c
  | u :: us, c => if u ≤ c then skipUsed us (c + 1) else c

/-- A free number of [base, base + n) outside a rising list of used ones, which one a free value (R162: placement changes
latency only). -/
def pickFree (s : State) (base n : Nat) (used : List Nat) : Option Nat :=
  let us := used.filter (fun u => decide (base ≤ u) && decide (u < base + n))
  if n ≤ us.length then none else some (skipUsed us (base + s.freeVal (n - us.length)))

def allPtes (s : State) : List Pte := s.plans.parts.flatMap (fun e => e.2.ptes.map (·.2))

/-- Frames in use, over every partition. -/
def feltUsed (s : State) (q : Nat) : List Nat :=
  sortNat (((allPtes s).filterMap (fun e => if (e.res == 2 || e.filling) && e.loc == q then some e.frame else none)
    ++ s.aon.retiredFelt.filterMap (fun r => if r.1 = q then some r.2 else none)).eraseDups)
/-- Sheet frames of a core that hold a page. -/
def sheetTaken (s : State) (c : Nat) : List Nat :=
  (allPtes s).filterMap (fun e => if e.res = 1 ∧ (e.loc = c ∨ (e.loc + 1 = c ∧ (s.pair (c / 2)).safe = true)) then some e.frame else none)
def sheetUsed (s : State) (c : Nat) : List Nat :=
  sortNat ((sheetTaken s c ++ s.aon.retiredSheet.filterMap (fun r => if r.1 = c then some r.2 else none)).eraseDups)
def imageFrames (s : State) : List Nat :=
  s.plans.parts.flatMap (fun e => match e.2.plan with | some pl => pl.image | none => [])
/-- DRAM frames that hold a page, a backing copy or a plan's image. -/
def dramAllocated (s : State) : List Nat :=
  (allPtes s).flatMap (fun e => (if e.res = 3 then [e.frame] else []) ++ (match e.backing with | some b => [b] | none => [])) ++ imageFrames s
def dramUsed (s : State) : List Nat := sortNat ((dramAllocated s ++ s.press.dramRetired).eraseDups)

/-- Allocatable felt frames of a slice that nothing uses (R155). -/
def feltFree (s : State) (q : Nat) : Nat := 376 - ((feltUsed s q).filter (· < 376)).length

def pickFelt (s : State) (q : Nat) : Option Nat := pickFree s 0 376 (feltUsed s q)
def pickDram (s : State) : Option Nat := pickFree s 32768 884736 (dramUsed s)
/-- On a SAFE pair a frame free in both cores (R162). -/
def pickSheet (s : State) (c : Nat) : Option Nat :=
  pickFree s 0 62 (if (s.pair (c / 2)).safe then sortNat (sheetUsed s c ++ sheetUsed s (c + 1)) else sheetUsed s c)

/-- The slice with the most free frames, the lowest on a tie. -/
def roomiest (s : State) : Nat :=
  (List.range 4).foldl (fun b q => if feltFree s b < feltFree s q then q else b) 0

/-- The slice that takes a felt page: the affinity quadrant, then the following ones; without affinity the roomiest (R162). -/
def feltSlice (s : State) (aff : Option Nat) : Option Nat :=
  match aff with
  | some q => ((List.range 4).map (fun i => (q + i) % 4)).find? (fun x => decide (0 < feltFree s x))
  | none => if feltFree s (roomiest s) = 0 then none else some (roomiest s)

/-! ### Use and quotas (R165, R190) -/

def feltResident (s : State) (p : Nat) : Nat := ((s.part p).ptes.filter (fun e => e.2.res == 2 || e.2.filling)).length
def feltPinned (s : State) (p : Nat) : Nat := ((s.part p).ptes.filter (fun e => e.2.res == 2 && e.2.pin)).length
def dramHeld (s : State) (p : Nat) : Nat :=
  ((s.part p).ptes.filter (fun e => e.2.res == 3)).length + ((s.part p).ptes.filter (fun e => e.2.backing.isSome)).length
  + (match (s.part p).plan with | some pl => pl.image.length | none => 0)
def sheetHeld (s : State) (p c : Nat) : Nat := ((s.part p).ptes.filter (fun e => e.2.res == 1 && e.2.loc == c)).length
/-- The largest number of sheet frames on any one bound core. -/
def sheetMost (s : State) (p : Nat) : Nat :=
  (List.range 40).foldl (fun m c => max m (sheetHeld s p c)) 0

def State.quota (s : State) (p off : Nat) : Nat := s.inForce (addr (pgPressP p) off)
def quotaSheet (s : State) (p : Nat) : Nat := bits (s.quota p 0x04C) 7 0
def quotaFelt (s : State) (p : Nat) : Nat := bits (s.quota p 0x050) 10 0
def quotaDram (s : State) (p : Nat) : Nat := bits (s.quota p 0x054) 19 0

/-! ### Regions and windows -/

/-- Key of page k of instance i of a region: its virtual page number. -/
def Region.key (r : Region) (i k : Nat) : Nat := r.vaBase / 65536 + i * r.pages + k
/-- Key of page k of the pad instance of class c, which no address names but through a window (R301). -/
def padKey (c k : Nat) : Nat := 2 ^ 32 + c * 2 ^ 22 + k

/-- Where an address of a state window leads in the step in progress: key and whether read only (R301). -/
def windowPage (s : State) (ps : PartSt) (pl : Plan) (ci : Nat) (c : SClass) (vpn : Nat) : Option (Nat × Bool) :=
  match pl.regions[c.region]? with
  | none => none
  | some r =>
    let off := vpn - c.winVa / 65536
    let pos := off / r.pages
    let k := off % r.pages
    let half := r.pages / 2
    match ps.step with
    | none => none
    | some st =>
      match st.batches.find? (fun b => b.1 == ci && b.2.1 == pos / c.batch) with
      | none => none
      | some b =>
        let idx := b.2.2[pos % c.batch]?
        let h := match idx with | some i => b2n (s.instarAt i).h | none => 0
        let page := if k < half then h * half + k else (1 - h) * half + (k - half)
        some (match idx with | some i => r.key i page | none => padKey ci page, decide (k < half))

/-- Whether a virtual page lies in a class's window. -/
def inWindow (pl : Plan) (c : SClass) (vpn : Nat) : Bool :=
  match pl.regions[c.region]? with
  | none => false
  | some r => decide (c.winVa / 65536 ≤ vpn) && decide (vpn < c.winVa / 65536 + c.maxBatches * c.batch * r.pages)

/-- First class whose window holds a page, with its number. -/
def findWindow (pl : Plan) (vpn : Nat) : Nat → List SClass → Option (Nat × SClass)
  | _, [] => none
  | i, c :: r => if inWindow pl c vpn then some (i, c) else findWindow pl vpn (i + 1) r

/-- The page that an address names, and whether the way there is read only; none: unmapped. No region reaches 2^48 (R159). -/
def resolve (s : State) (p va : Nat) : Option (Nat × Bool) :=
  let ps := s.part p
  let vpn := va / 65536
  if 2 ^ 48 ≤ va then none
  else match ps.plan with
  | none => some (vpn, false)
  | some pl => match findWindow pl vpn 0 pl.classes with
    | none => some (vpn, false)
    | some (ci, c) => windowPage s ps pl ci c vpn

/-- An access: the page's key and entry, or why it cannot be served (R167). -/
def access (s : State) (p va : Nat) (write : Bool) : Except AccessErr (Nat × Pte) :=
  match resolve s p va with
  | none => .error (.translation va write)
  | some (key, ro) =>
    let e := s.pte p key
    if !e.valid then .error (.translation va write)
    else if write && (ro || e.ro) then .error (.translation va write)
    else if e.poison then .error (.poisoned va)
    else .ok (key, e)

/-- A byte of a page where the page now lies; a SOURCE NONE page holds free values (R161, DESIGN CHOICE, log entry 2). -/
def pageByte (s : State) (e : Pte) (va : Nat) : Byte :=
  if e.source = 2 then BitVec.ofNat 8 (Config.free (2 ^ 64 * (s.fresh + 1) + va))
  else match frameBases s e with
    | b :: _ => s.rd (b + va % 65536)
    | [] => 0

/-- The port of a partition's work (R157). -/
def portOf (s : State) (p : Nat) : Port :=
  { rd := fun va => match access s p va false with
      | .ok (_, e) => .ok (pageByte s e va)
      | .error x => .error x
    wr := fun va => match access s p va true with
      | .ok _ => .ok ()
      | .error x => .error x }

/-- One byte of a partition's memory as a device block reads it; none where unmapped or poisoned. -/
def partByte (s : State) (p va : Nat) : Option Byte :=
  match access s p va false with
  | .ok (_, e) => some (pageByte s e va)
  | .error _ => none

/-- n bytes of a partition's memory, unmapped ones as 0. -/
def partBytes (s : State) (p va n : Nat) : Bytes := (List.range n).map (fun i => (partByte s p (va + i)).getD 0)

/-- A write lands in every frame that holds the page; DIRTY and WRITTEN are set (R158). -/
def partWrite (s : State) (p va : Nat) (b : Byte) : State :=
  match access s p va true with
  | .error _ => s
  | .ok (key, e) =>
    let s := (writeBases s e).foldl (fun s a => s.wr (a + va % 65536) b) s
    s.setPte p key { e with dirty := !e.wt, written := true, used := s.usNow }

/-- A store of a work item lands: of a nibble the other one keeps what it holds by then (R75). -/
def landPut (s : State) (p : Nat) (w : Put) : State :=
  match access s p w.va true with
  | .error _ => s
  | .ok (_, e) =>
    let old : Byte := match frameBases s e with | b :: _ => s.rd (b + w.va % 65536) | [] => 0
    partWrite s p w.va (w.on old)
/-- Stores of a work item in order. -/
def partWrites (s : State) (p : Nat) (ws : List Put) : State := ws.foldl (fun s w => landPut s p w) s
/-- A run of bytes. -/
def partStore (s : State) (p va : Nat) (bs : Bytes) : State :=
  (bs.zipIdx).foldl (fun s w => partWrite s p (va + w.2) w.1) s
/-! ### Filling -/

/-- Copy bytes of the plan's image copy (R296). -/
def fromImage (s : State) (image : List Nat) (off dst : Nat) : State :=
  let first := 65536 - off % 65536
  let s := s.copyRam (dramFrame (nth image (off / 65536)) + off % 65536) dst first
  if first = 65536 then s else s.copyRam (dramFrame (nth image (off / 65536 + 1))) (dst + first) (65536 - first)

/-- The contents that R161 gives a page, into one frame. -/
def initFrame (s : State) (image : List Nat) (e : Pte) (dst : Nat) : State :=
  if e.source = 1 then fromImage s image e.src dst else s.wipe dst 65536

/-! ### Arbitration (R187) -/

/-- WEIGHT of a class: that of its partition, SYS_WEIGHT for class 15, none for the classes nobody uses. -/
def classWeight (s : State) (c : Nat) : Nat :=
  if c < 8 then bits (s.inForce (addr (pgPressP c) 0x058)) 7 0
  else if c = 15 then bits (s.inForce (addr 0x180 0x048)) 7 0 else 0

/-- New rounds until a waiting class has credit: idle classes bank nothing. -/
def newRounds (waits : Nat → Bool) (w : Nat → Nat) : Nat → List Int → List Int
  | 0, c => c
  | n + 1, c =>
    if c.zipIdx.any (fun e => waits e.2 && decide (0 < e.1)) then c
    else newRounds waits w n (c.zipIdx.map (fun e => if waits e.2 then e.1 + w e.2 else 0))

/-- Take one request of a class and an uplink, the oldest. -/
def takeReq (port cls up : Nat) : List Req → List Req
  | [] => []
  | r :: rs => if r.port = port ∧ r.cls = cls ∧ r.up = up then (if r.n ≤ 1 then rs else { r with n := r.n - 1 } :: rs) else r :: takeReq port cls up rs

/-- grant() of R187 at one arbiter: the class by round robin among those that wait with credit, after new rounds where there is none; of its requests
the oldest one of the uplink whose turn it is. -/
def grantOne (s : State) (port : Nat) : State :=
  let a := sget Arb.reset s.press.arbs port
  let mine := s.press.waiting.filter (fun r => r.port == port)
  let waits (k : Nat) : Bool := mine.any (fun r => r.cls == k)
  let c := newRounds waits (classWeight s) 17 a.credit
  match ((List.range 16).map (fun i => (a.last + 1 + i) % 16)).find? (fun k => waits k && decide (0 < c.getD k 0)) with
  | none => s
  | some k =>
    match ((List.range 5).map (fun i => (a.lastUp.getD k 4 + 1 + i) % 5)).findSome? (fun u => mine.find? (fun r => r.cls == k && r.up == u)) with
    | none => s
    | some r =>
      let a' : Arb := ⟨c.set k (c.getD k 0 - r.beats), k, a.lastUp.set k r.up⟩
      let s := { s with press := { s.press with
        arbs := sput Arb.reset s.press.arbs port a', waiting := takeReq port k r.up s.press.waiting } }
      if port = 0 ∧ k < 8 then s.bump (pgPressP k) 0x0A0 r.beats else s

/-- Grant at an arbiter as long as a request waits there. -/
def grantAll (port : Nat) : Nat → State → State
  | 0, s => s
  | n + 1, s => grantAll port n (grantOne s port)

/-- Every request that waits is granted: the arbiters grant whenever one does (R187). -/
def serveArbs (s : State) : State :=
  if s.press.waiting.isEmpty then s
  else
    let s := (List.range 5).foldl (fun s port =>
      grantAll port ((s.press.waiting.filter (fun r => r.port == port)).foldl (fun n r => n + max r.n 1) 0) s) s
    { s with press := { s.press with waiting := [] } }

/-- The DRAM controller and a quadrant's inbound port as arbiters. -/
def arbDram : Nat := 0
def arbIn (q : Nat) : Nat := 1 + q

/-- Requests reach an arbiter. Those of one instant wait together; what was made before it has been granted by then (DESIGN CHOICE, log entry 72: how long
a request waits is timing, R188). -/
def request (s : State) (r : Req) : State :=
  let s := if s.press.waitAt = s.clk.clock then s else serveArbs s
  { s with press := { s.press with waiting := s.press.waiting ++ [r], waitAt := s.clk.clock } }

/-- The requests of a page that the Press fills into felt or a sheet store of a quadrant from DRAM, of the class of its partition (R185): 64 of 16 beats at
the DRAM controller and at the quadrant's inbound port. -/
def requestFill (s : State) (p q : Nat) : State := request (request s ⟨arbDram, p, q, 16, 64⟩) ⟨arbIn q, p, 4, 16, 64⟩
/-- Those of a page that the Press writes to DRAM, from a quadrant's uplink or, where the page does not come from one, its own traffic. -/
def requestBack (s : State) (cls up : Nat) : State := request s ⟨arbDram, cls, up, 16, 64⟩

/-- The requests that filling a frame of a new page makes (R161, R185): it is read from the image where it comes from there, and written where it goes;
SOURCE NONE fills nothing. -/
def requestInit (s : State) (p : Nat) (e : Pte) (into : Option Nat) : State :=
  if e.source = 2 then s
  else match into with
    | some q => if e.source = 1 then requestFill s p q else request s ⟨arbIn q, p, 4, 16, 64⟩
    | none => requestBack (if e.source = 1 then requestBack s p 4 else s) p 4

/-- The uplink of the unit of a queue: of its quadrant, and of the Sieve, a device block, none. -/
def uplinkOf (q : Nat) : Nat := if q < 40 then q / 10 else if q < 68 then q - 64 else 4

/-- The requests of one class to one page from outside its quadrant: a free number of them of 1–16 beats, the spec giving no sizes (DESIGN CHOICE, log
entry 72). A page of a sheet store passes neither arbiter. -/
def grantAccess (s : State) (cls up : Nat) (e : Pte) : State :=
  if e.res = 1 then s
  else request (s.tick.tick) ⟨if e.res = 2 then arbIn e.loc else arbDram, cls, up, 1 + s.tick.freeVal 16, 1 + s.freeVal 1024⟩

/-- A page is accessed now (R169) by requests of a class (R185). -/
def touchPage (s : State) (p cls up va : Nat) : State :=
  match resolve s p va with
  | some (key, _) =>
    let e := s.pte p key
    if e.valid then (grantAccess s cls up e).setPte p key { e with used := s.usNow } else s
  | none => s
/-- The pages that a work item touches, with its partition's class, by its unit's uplink. -/
def touchPages (s : State) (p up : Nat) (vpns : List Nat) : State := vpns.foldl (fun s v => touchPage s p p up (v * 65536)) s
/-- The pages of a range that a device block reads or writes with requests of a class: the partition's, or 15, SYSTEM (R185). -/
def touchRange (s : State) (p cls va n : Nat) : State :=
  (List.range (if n = 0 then 0 else (va % 65536 + n - 1) / 65536 + 1)).foldl (fun s i => touchPage s p cls 4 (va / 65536 * 65536 + i * 65536)) s
/-- A device block's requests to the device reserve in DRAM: class 15 (R185), their number and sizes open. -/
def sysAccess (s : State) : State := request s.tick.tick ⟨arbDram, 15, 4, 1 + s.tick.freeVal 16, 1 + s.freeVal 1024⟩

/-- Victims of a partition (R169): key and time of last access. -/
def victims (s : State) (p : Nat) (ok : Pte → Bool) : List (Nat × Nat) :=
  let ps := s.part p
  ps.ptes.filterMap (fun e =>
    if ok e.2 = true ∧ e.2.res = 2 ∧ e.2.pin = false ∧ e.2.holds = 0 ∧ e.2.filling = false ∧
       (ps.prefetch.any (fun f => f.1 == e.1 && f.2.2)) = false
    then some (e.1, e.2.used) else none)

/-- The least recently used victim, the lowest page on a tie. -/
def victim (s : State) (p : Nat) (ok : Pte → Bool) : Option Nat :=
  match victims s p ok with
  | [] => none
  | v :: r => some (r.foldl (fun b x => if x.2 < b.2 then x else b) v).1

/-- Evict a page: a dirty one is written to its backing frame first. -/
def evict (s : State) (p key : Nat) : State :=
  let e := s.pte p key
  let s := s.bump (pgPressP p) 0x078 1
  let s := match e.backing with
    | some b => if e.dirty && !e.wt then (requestBack (s.copyRam (feltFrame e.loc e.frame) (dramFrame b) 65536) p e.loc).bump (pgPressP p) 0x080 1 else s
    | none => s
  s.setPte p key { e with res := 0, loc := 0, frame := 0, dirty := false }

/-- A felt frame of the slice that a rule names, within the partition's quota. -/
def freeFelt (s : State) (p : Nat) (slice : State → Option Nat) : Option (Nat × Nat × State) :=
  if feltResident s p < quotaFelt s p then
    match slice s with
    | some q => match pickFelt s q with
      | some f => some (q, f, s.tick)
      | none => none
    | none => none
  else none

/-- A felt frame for a page of a partition, within its quota, a victim giving way where needed: slice, frame and the state after it. -/
def takeFelt (s : State) (p : Nat) (aff : Option Nat) : Option (Nat × Nat × State) :=
  match freeFelt s p (fun s => feltSlice s aff) with
  | some r => some r
  | none => match victim s p (fun _ => true) with
    | none => none
    | some v => freeFelt (evict s p v) p (fun s => feltSlice s aff)

/-- A felt frame of one slice and no other, as a retired frame's page takes it (R178). -/
def takeFeltIn (s : State) (p q : Nat) : Option (Nat × Nat × State) :=
  match freeFelt s p (fun _ => some q) with
  | some r => some r
  | none => match victim s p (fun e => e.loc == q) with
    | none => none
    | some v => freeFelt (evict s p v) p (fun _ => some q)

/-- Evict until the felt quota is met or no victim is left (R166); pending fills complete first (R173). -/
def shrinkFelt : Nat → State → Nat → State
  | 0, s, _ => s
  | n + 1, s, p =>
    if quotaFelt s p < feltResident s p ∧ ((s.part p).ptes.any (fun e => e.2.filling)) = false then
      match victim s p (fun _ => true) with
      | some v => shrinkFelt n (evict s p v) p
      | none => s
    else s

/-! ### Allocation (R161–R163) -/

/-- The quadrant of an affinity core by the binding, none without affinity. -/
def affQuad (bind : List (Option Nat)) (aff : Nat) : Option Nat :=
  match bind[aff]? with
  | some (some c) => some (c / 10)
  | _ => none

/-- Allocate one page of a region under a key and fill it; none when no frame is free. -/
def allocPage (s : State) (p : Nat) (image : List Nat) (bind : List (Option Nat)) (r : Region) (key src : Nat) : Option State :=
  let e : Pte := { Pte.reset with
    valid := true, pin := r.pin && r.home == 1, ro := r.ro, wt := r.wt, source := r.source, src := src, used := s.usNow }
  if r.home = 0 then
    match pickDram s with
    | none => none
    | some f => let s := requestInit (initFrame s.tick image e (dramFrame f)) p e none
                some (s.setPte p key { e with res := 3, frame := f })
  else if r.home = 2 then
    match bind[r.affinity]? with
    | some (some c) => match pickSheet s c with
      | none => none
      | some f =>
        let e := { e with res := 1, loc := c, frame := f }
        let s := (frameBases s e).foldl (fun s a => requestInit (initFrame s image e a) p e (some (c / 10))) s.tick
        some (s.setPte p key e)
    | _ => none
  else
    let back : Option (Option Nat × State) :=
      if !e.pin || r.wt then
        match pickDram s with
        | none => none
        | some b => some (some b, requestInit (initFrame s.tick image e (dramFrame b)) p e none)
      else some (none, s)
    match back with
    | none => none
    | some (b, s) =>
      -- the backing frame counts as used before a felt frame is looked for
      let s := s.setPte p key { e with backing := b }
      if e.pin then
        match takeFelt s p (affQuad bind r.affinity) with
        | none => none
        | some (q, f, s) =>
          let s := requestInit (initFrame s image e (feltFrame q f)) p e (some q)
          some (s.setPte p key { e with res := 2, loc := q, frame := f, backing := b })
      else some s

/-- Allocate pages k, k + 1, … of an instance. -/
def allocPages (s : State) (p : Nat) (image : List Nat) (bind : List (Option Nat)) (r : Region) (keyOf : Nat → Nat) : List Nat → Option State
  | [] => some s
  | k :: ks => match allocPage s p image bind r (keyOf k) (r.srcOffset + k * 65536) with
    | some s => allocPages s p image bind r keyOf ks
    | none => none

/-- Allocate every non-SEQ region of a plan and the pad instances of its classes (R161, R301). -/
def allocRegions (s : State) (p : Nat) (image : List Nat) (bind : List (Option Nat)) : List Region → Option State
  | [] => some s
  | r :: rs =>
    if r.seq then allocRegions s p image bind rs
    else match allocPages s p image bind r (r.key 0) (List.range r.pages) with
      | some s => allocRegions s p image bind rs
      | none => none
def allocPads (s : State) (p : Nat) (image : List Nat) (bind : List (Option Nat)) (regions : List Region) : Nat → List SClass → Option State
  | _, [] => some s
  | i, c :: cs => match regions[c.region]? with
    | none => none
    | some r =>
      -- the pad instance is zero-filled and never flipped
      match allocPages s p image bind { r with source := 0 } (padKey i) (List.range r.pages) with
      | some s => allocPads s p image bind regions (i + 1) cs
      | none => none

/-- Free pages by key. -/
def freeKeys (s : State) (p : Nat) (dead : Nat → Bool) : State :=
  s.modPart p (fun x => { x with ptes := x.ptes.filter (fun e => !(dead e.1)), prefetch := x.prefetch.filter (fun f => !(dead f.1)) })

/-- Frames that one instance of a region needs: felt pinned, DRAM, sheet (R160). -/
def Region.needFelt (r : Region) : Nat := if r.home = 1 ∧ r.pin = true then r.pages else 0
def Region.needDram (r : Region) : Nat :=
  if r.home = 0 then r.pages else if r.home = 1 ∧ (r.pin = false ∨ r.wt = true) then r.pages else 0
def sumNat (l : List Nat) : Nat := l.foldl (· + ·) 0

/-- Allocate the SEQ instances of the sequence at an Instar index; none when a quota would be exceeded (R163). -/
def allocSequence (s : State) (p idx : Nat) : Option State :=
  match (s.part p).plan with
  | none => none
  | some pl =>
    let seqs := pl.regions.filter (·.seq)
    if quotaFelt s p < feltPinned s p + sumNat (seqs.map Region.needFelt) then none
    else if quotaDram s p < dramHeld s p + sumNat (seqs.map Region.needDram) then none
    else
      seqs.foldl (fun o r => match o with
        | some s => allocPages s p pl.image (s.part p).bind r (r.key idx) (List.range r.pages)
        | none => none) (some s)

/-- Free the SEQ instances of an Instar index. -/
def freeSequence (s : State) (p idx : Nat) : State :=
  match (s.part p).plan with
  | none => s
  | some pl => freeKeys s p (fun k => (pl.regions.filter (·.seq)).any (fun r => decide (r.key idx 0 ≤ k) && decide (k < r.key idx 0 + r.pages)))

/-- Rebuild the SHEET regions of a logical core in the unit now bound to it (R295): the old frames are dropped. Whether every
page found a frame. -/
def rebuildSheets (s : State) (p logical : Nat) : State × Bool :=
  match (s.part p).plan with
  | none => (s, true)
  | some pl =>
    let rs := pl.regions.filter (fun r => r.home == 2 && r.affinity == logical)
    let s := freeKeys s p (fun k => rs.any (fun r => decide (r.key 0 0 ≤ k) && decide (k < r.key 0 0 + r.pages)))
    rs.foldl (fun (a : State × Bool) r =>
      match allocPages a.1 p pl.image (a.1.part p).bind r (r.key 0) (List.range r.pages) with
      | some s => (s, a.2)
      | none => (a.1, false)) (s, true)

/-! ### Holds (R170) -/

/-- The pages of the region that holds an address. -/
def regionPages (pl : Plan) (va : Nat) : List Nat :=
  match pl.regions.find? (fun r => !r.seq && decide (r.vaBase ≤ va) && decide (va < r.vaBase + r.pages * 65536)) with
  | some r => (List.range r.pages).map (r.key 0)
  | none => []

def placeHold (s : State) (p key : Nat) : State :=
  let e := s.pte p key
  if e.valid then s.setPte p key { e with holds := e.holds + 1 } else s
def releaseHold (s : State) (p key : Nat) : State :=
  let e := s.pte p key
  if e.valid then s.setPte p key { e with holds := e.holds - 1 } else s

/-! ### Recovery (R178, R179) -/

/-- What recovery came to. -/
inductive Recovery where
  | good | abort | poisoned | fence
deriving DecidableEq, Repr

/-- A new DRAM frame replaces the retired one, or the page is poisoned (R179). -/
def poisonPage (s : State) (p key : Nat) : State × Recovery :=
  (s.setPte p key { s.pte p key with poison := true }, .poisoned)

/-- Recover a page whose backing frame was retired. -/
def recoverBacking (s : State) (p key : Nat) : State × Recovery :=
  let e := s.pte p key
  let image := match (s.part p).plan with | some pl => pl.image | none => []
  match pickDram s with
  | none => poisonPage s p key
  | some b =>
    let s := s.tick.setPte p key { e with backing := some b }
    if e.res = 2 then (s.copyRam (feltFrame e.loc e.frame) (dramFrame b) 65536, .good)
    else if e.written = false ∧ (e.source = 0 ∨ e.source = 1) then (initFrame s image e (dramFrame b), .good)
    else poisonPage s p key

/-- The loads of a recovery carry the class of the page's partition (R185). -/
def grantRecovery (s : State) (p key : Nat) : State :=
  let e := s.pte p key
  if e.res = 1 then requestFill s p (e.loc / 10) else if e.res = 2 then requestFill s p e.loc else if e.res = 3 then requestBack s p 4 else s

/-- Recover a page whose own frame was retired; the page's entry still names that frame. -/
def recoverOwn (s : State) (p key : Nat) : State × Recovery :=
  let e := s.pte p key
  let image := match (s.part p).plan with | some pl => pl.image | none => []
  let fill : State → Pte → State × Recovery := fun s e =>
    let put : (State → Nat → State) → State := fun f => (frameBases s e).foldl f s
    match e.backing with
    | some b =>
      if e.wt || !e.dirty then (put (fun s a => s.copyRam (dramFrame b) a 65536), .good)
      else if e.written = false ∧ (e.source = 0 ∨ e.source = 1) then (put (fun s a => initFrame s image e a), .good)
      else if e.source = 2 then (s, .abort)
      else poisonPage s p key
    | none =>
      if e.written = false ∧ (e.source = 0 ∨ e.source = 1) then (put (fun s a => initFrame s image e a), .good)
      else if e.source = 2 then (s, .abort)
      else poisonPage s p key
  if e.res = 1 then
    match pickSheet s e.loc with
    | none => (s, .fence)
    | some f => let e := { e with frame := f }; fill (s.tick.setPte p key e) e
  else if e.res = 2 ∨ e.filling = true then
    -- the retired frame no longer counts for the page while another is looked for
    let s0 := s.setPte p key { e with res := 0, filling := false }
    match takeFeltIn s0 p e.loc with
    | none => poisonPage s p key
    | some (q, f, s) =>
      let e := { e with loc := q, frame := f }
      if e.filling then (s.setPte p key e, .good) else fill (s.setPte p key e) e
  else if e.res = 3 then
    match pickDram s with
    | none => poisonPage s p key
    | some f => let e := { e with frame := f }; fill (s.tick.setPte p key e) e
  else (s, .good)

/-- The page that a frame holds: partition and key, and whether as its backing frame. -/
def pageOfSheet (s : State) (c f : Nat) : Option (Nat × Nat) :=
  s.plans.parts.findSome? (fun e => (e.2.ptes.find? (fun t =>
    t.2.res == 1 && t.2.frame == f && (t.2.loc == c || (t.2.loc + 1 == c && (s.pair (c / 2)).safe)))).map (fun t => (e.1, t.1)))
def pageOfFelt (s : State) (q f : Nat) : Option (Nat × Nat) :=
  s.plans.parts.findSome? (fun e => (e.2.ptes.find? (fun t =>
    (t.2.res == 2 || t.2.filling) && t.2.frame == f && t.2.loc == q)).map (fun t => (e.1, t.1)))
def pageOfDram (s : State) (f : Nat) : Option (Nat × Nat × Bool) :=
  s.plans.parts.findSome? (fun e => (e.2.ptes.find? (fun t => (t.2.res == 3 && t.2.frame == f) || t.2.backing == some f)).map
    (fun t => (e.1, t.1, t.2.backing == some f)))

/-- The entry as R158 lays it out. -/
def pteWord (e : Pte) : Nat :=
  b2n e.valid * 2 ^ 63 + e.res % 8 * 2 ^ 60 + b2n e.pin * 2 ^ 59 + b2n (decide (0 < e.holds)) * 2 ^ 58 + b2n e.dirty * 2 ^ 57
  + b2n e.poison * 2 ^ 56 + b2n e.ro * 2 ^ 55 + b2n e.wt * 2 ^ 54 + e.source % 4 * 2 ^ 52 + b2n e.written * 2 ^ 51
  + (if e.res = 0 then 0 else e.loc % 256) * 2 ^ 40 + (match e.backing with | some b => b % 2 ^ 20 | none => 0xFFFFF) * 2 ^ 20
  + (if e.res = 0 then 0 else e.frame % 2 ^ 20)

end Sys2Proof.Machine
end

