-- ==== Sys2Proof/Machine/Account.lean ====
section
/-! DEFINITION. What the units count: a core's slots in RUN and an engine's cycles, up to the instant at which they are read, cleared or switched
(R64, R65, R85–R87, R153, R154).
Readings: log entry 25 (DEDUCED), log entry 66 (DESIGN CHOICE). -/

namespace Sys2Proof.Machine

/-! ### Units (R290) -/

/-- The unit that a core belongs to: the even core of a SAFE pair. -/
def unitOf (s : State) (n : Nat) : Nat := if (s.pair (n / 2)).safe then n / 2 * 2 else n
/-- The cores of a unit. -/
def unitCores (s : State) (u : Nat) : List Nat := if (s.pair (u / 2)).safe then [u / 2 * 2, u / 2 * 2 + 1] else [u]

/-! ### Slots -/

/-- Free amounts, none above what the whole item would have counted and all together not above a total, and the state after they
are taken. -/
def freeUpTo (s : State) : Nat → List Nat → List Nat × State
  | _, [] => ([], s)
  | total, a :: r =>
    let v := s.freeVal (min a total + 1)
    let (l, s') := freeUpTo s.tick (total - v) r
    (v :: l, s')

/-- Advance counters at consecutive offsets from one on. -/
def bumpRow (s : State) (page off : Nat) : List Nat → State
  | [] => s
  | a :: r => bumpRow (s.bump page off a) page (off + 8) r

/-- Amounts in order, each as far as a total allows. -/
def fitTo : Nat → List Nat → List Nat
  | _, [] => []
  | n, a :: r => min a n :: fitTo (n - min a n) r

/-- The slots of a core in RUN (R65): RUN the cycles that passed; VALID, SWITCH, FMT, PLANE, BANK, DRY as given, as far as those cycles allow; BUB_IDLE
the rest. -/
def slotCounts (amounts : List Nat) (cycles : Nat) : List Nat :=
  let l := fitTo cycles (amounts.take 6)
  cycles :: l ++ [cycles - sumNat l]

/-- Both cores of a unit change. -/
def modUnit (s : State) (u : Nat) (f : CoreSt → CoreSt) : State :=
  (unitCores s u).foldl (fun s n => s.setCore n (f (s.core n))) s

/-- A core of a unit whose clock runs, uncounted cycles behind it: both of a SAFE pair do (R18). -/
def runCoreOf (s : State) (u : Nat) : Option Nat := (unitCores s u).find? (fun n => (s.core n).clk == .run)
/-- Whether a unit is in RUN. -/
def unitRun (s : State) (u : Nat) : Bool := (runCoreOf s u).isSome
/-- The cores of a unit that are in RUN. -/
def runCores (s : State) (u : Nat) : List Nat := (unitCores s u).filter (fun n => (s.core n).clk == .run)

/-- Whether a core is in RUN now: one whose array is idle by now has stopped (R85). -/
def State.inRun (s : State) (n : Nat) : Bool := (s.core n).clk == .run && !(s.core n).stopAt.any (fun t => decide (t ≤ s.clk.clock))

/-- The clock up to which a core in RUN has cycles: it ends where its array is idle and it stops (R85). -/
def State.runTo (s : State) (c : CoreSt) : Nat := match c.stopAt with | some t => min t s.clk.clock | none => s.clk.clock

/-- The whole cycles of a unit in RUN since they were last counted, at the pair's frequency, and the thousandths left over (R65, R86). -/
def newCycles (s : State) (u : Nat) : Nat × Nat :=
  let c := s.core ((runCoreOf s u).getD u)
  let k := (s.runTo c - c.runAt) * ((s.pair (u / 2)).freq * 25) + c.milli
  (k / 1000, k % 1000)

/-- The array of a core item in time. -/
def Running.line (r : Running) : Timeline := lineOf r.step (freeWaits r.seed) r.stop 0 r.shape startLine

/-- Whether a structural chunk runs on a unit. -/
def unitTesting (s : State) (u : Nat) : Bool := (unitCores s u).any (fun n => (s.core n).testing || s.boot.coverage.elem n)

/-- Count what a unit in RUN has done up to now (R65, R85–R87): a core item's slots by its timeline, those of a chunk, a coverage run or a proof tile,
which the spec does not name, as free numbers, and otherwise idle bubbles. -/
def account (s : State) (u : Nat) : State :=
  let c := s.core ((runCoreOf s u).getD u)
  if !unitRun s u then s
  else
    let (n, m) := newCycles s u
    let (l, s) : List Nat × State := match s.run (qCore u) with
      | some r =>
        if r.item.proof then freeUpTo s n (List.replicate 6 n)
        else
          let z := r.line
          ((z.counts (c.pos + n)).zip (z.counts c.pos) |>.map (fun e => e.1 - e.2), s)
      | none => if unitTesting s u then freeUpTo s n (List.replicate 6 n) else (List.replicate 6 0, s)
    let s := (runCores s u).foldl (fun s k => bumpRow s (pgCore k) 0x058 (slotCounts l n)) s
    modUnit s u (fun c => { c with runAt := s.runTo c, milli := m, pos := c.pos + n })

/-- Count the last cycles of a core item that is complete: every pass has been made, and no more slots than the cycles that it took (R65). Where its free
waits do not fit that time, what was not yet counted is counted without waits, as far as the time allows (DESIGN CHOICE, log entry 66). Words and tokens
that are still in the array by the timeline that fits stay there (R85). -/
def accountDone (s : State) (u : Nat) (r : Running) : State :=
  let c := s.core u
  let (n, m) := newCycles s u
  let at' := c.pos + n
  let z := r.line
  let z' := if z.done ≤ at' then z else lineOf r.step noWaits none 0 r.shape startLine
  let l := ((z'.counts (max at' z'.done)).zip (z.counts c.pos)).map (fun e => e.1 - e.2)
  let till (k : Nat) : Nat := if z'.done ≤ at' then s.clk.clock + ceilDiv ((k - at') * 1000) ((s.pair (u / 2)).freq * 25) else s.clk.clock
  let s := (unitCores s u).foldl (fun s k => bumpRow s (pgCore k) 0x058 (slotCounts l n)) s
  modUnit s u (fun c => { c with runAt := s.clk.clock, milli := m, pos := at', wordsTill := till z'.wordsTill, tokensTill := till z'.tokensTill })

/-- How much of each of an engine's counters its cycles so far allow: free numbers, at most 64 butterflies and 256 multiply-accumulates a cycle (R147). -/
def accountEngine (s : State) (q : Nat) : State :=
  match s.run (qSpec q) with
  | none => s
  | some r =>
    let n := s.clk.clock - r.counted
    let caps := [64 * n, 256 * n, n]
    let (l, s) := freeUpTo s (sumNat r.advance) ((r.advance.zip caps).map (fun e => min e.1 e.2))
    let s := bumpRow s (pgEngine q) 0x050 (n :: l)
    s.setRun (qSpec q) (some { r with counted := s.clk.clock, advance := (r.advance.zip l).map (fun e => e.1 - e.2) })

/-- Count what a page's counters show up to now. -/
def accountPage (s : State) (b : Block) : State :=
  match b with
  | .core n => account s (unitOf s n)
  | .engine q => accountEngine s q
  | .pressP _ => serveArbs s
  | .press => serveArbs s
  | _ => s

/-- Count everything up to now, before counters are read, cleared or switched. -/
def accountAll (s : State) : State :=
  let s := (List.range 40).foldl (fun s n => if unitOf s n = n then account s n else s) s
  serveArbs ((List.range 4).foldl accountEngine s)

end Sys2Proof.Machine
end

