-- ==== Sys2Proof/Machine/Owner.lean ====
section
/-! DEFINITION. Who owns what (R289), and the settings of the Vat's channel and shaping pages (R229, R255). -/

namespace Sys2Proof.Machine

/-- Owner of a channel: the partition whose PART_CHANNELS in force names it (R288, R289). -/
def chanOwner (s : State) (n : Nat) : Option Nat := (List.range 8).find? (fun p => bit (s.partReg p 0x058) n)
/-- Owner of the display page: the partition with DISP = 1. -/
def dispOwner (s : State) : Option Nat := (List.range 8).find? (fun p => bit (s.partReg p 0x040) 3)
/-- Owner of a pair and of an engine, 0xF for none. -/
def pairOwner (s : State) (n : Nat) : Nat := (s.pair n).owner
def engineOwner (s : State) (q : Nat) : Nat := (s.engine q).owner

/-- PAGE_OWNER of a page (R412, R418). -/
def pageOwner (s : State) (b : Block) : Nat :=
  match b with
  | .core n => pairOwner s (n / 2)
  | .pair p => pairOwner s p
  | .engine q => engineOwner s q
  | .chan n => (chanOwner s n).getD 0xF
  | .shape n => (chanOwner s n).getD 0xF
  | .pressP p => p
  | .part p => p
  | .tallyW p => p
  | .disp => (dispOwner s).getD 0xF
  | _ => 0xFF

/-- The registers of a page as a function of the offset: the values in force. -/
def State.regsOf (s : State) (page : Nat) : Nat → Nat := fun off => s.inForce (addr page off)

/-- Channel settings from the registers of a channel page (R229). -/
def chanCfgOf (g : Nat → Nat) : ChanCfg :=
  { en := bit (g 0x040) 31, kind := bits (g 0x040) 11 8, hold := bit (g 0x040) 1, chkrec := bit (g 0x040) 0
    port := bits (g 0x044) 19 16, vlanEn := bit (g 0x044) 12, vid := bits (g 0x044) 11 0
    stream := g 0x048 * 2 ^ 32 + g 0x04C, w := bits (g 0x050) 31 16, h := bits (g 0x050) 15 0
    nslots := bits (g 0x054) 19 16, budgetUs := bits (g 0x054) 15 0
    maxAge := bits (g 0x058) 31 16, maxLead := bits (g 0x058) 15 0, ptOffset := sext 32 (g 0x05C)
    alignOff := g 0x060, alignTol := g 0x064
    absentLimit := bits (g 0x068) 31 24, holdLimit := bits (g 0x068) 23 16, fgroup := bits (g 0x068) 11 8, member := bits (g 0x068) 4 0
    recBytes := bits (g 0x100) 7 0, nfields := bits (g 0x100) 11 8
    fields := (List.range 8).map (fun i => g (0x104 + 4 * i)) }

def State.chanCfg (s : State) (n : Nat) : ChanCfg := chanCfgOf (s.regsOf (pgChan n))

/-- Shaping settings from the registers of a shaping page (R255). -/
def shapeCfgOf (g : Nat → Nat) : ShapeCfg :=
  { levels := bits (g 0x040) 27 25, pyr := bits (g 0x040) 24 24, rot := bits (g 0x040) 23 22, pat := bits (g 0x040) 21 20
    range := bits (g 0x040) 19 19, cmode := bits (g 0x040) 18 16
    cropX := bits (g 0x044) 31 16, cropY := bits (g 0x044) 15 0, cropW := bits (g 0x048) 31 16, cropH := bits (g 0x048) 15 0
    outW := bits (g 0x04C) 31 16, outH := bits (g 0x04C) 15 0
    mean := (List.range 3).map (fun i => BitVec.ofNat 32 (g (0x050 + 4 * i)))
    scale := (List.range 3).map (fun i => BitVec.ofNat 32 (g (0x05C + 4 * i)))
    augEn := bit (g 0x068) 31, flipP := bits (g 0x068) 23 16, bri := bits (g 0x068) 15 8, con := bits (g 0x068) 7 0
    shift := bits (g 0x06C) 31 24, noise := bits (g 0x06C) 15 0
    occP := bits (g 0x070) 31 24, occW := bits (g 0x070) 23 12, occH := bits (g 0x070) 11 0 }

def State.shapeCfg (s : State) (n : Nat) : ShapeCfg := shapeCfgOf (s.regsOf (pgShape n))

/-- Pixel kinds (R229): MJPEG, RAW10, RAW12, RAW16, YUV422. -/
def pixelKind (k : Nat) : Bool := decide (1 ≤ k) && decide (k ≤ 5)
/-- Raw kinds: RAW10, RAW12, RAW16, YUV422, POINTS carry the Himir header (R195). -/
def himirKind (k : Nat) : Bool := (decide (2 ≤ k) && decide (k ≤ 5)) || k == 8
/-- Column alignment of a kind (R199). -/
def kindAlign (k : Nat) : Nat := match k with | 2 => 4 | 3 => 2 | 5 => 2 | _ => 1
/-- Bits per pixel on the wire (R199). -/
def kindBits (k : Nat) : Nat := match k with | 2 => 10 | 3 => 12 | _ => 16

/-- Whether a CMODE suits a pixel kind (R232): 0 GREY, 1 BAYER_BILINEAR, 2 BAYER_EDGE, above them the YUV modes. -/
def cmodeSuits (cmode kind : Nat) : Bool :=
  if cmode = 0 then kind != 5
  else if cmode ≤ 2 then decide (2 ≤ kind) && decide (kind ≤ 4)
  else kind == 1 || kind == 5

/-- Sizes of the areas of a frame slot (R217, R218). -/
def roundPage (n : Nat) : Nat := ceilDiv n 65536 * 65536
def recvBytes (c : ChanCfg) : Nat :=
  if c.kind = 8 then c.w * c.h * c.recBytes
  else if c.kind = 1 then c.w * c.h * 2
  else c.h * ceilDiv (c.w * kindBits c.kind) 8
def slotBytes (c : ChanCfg) (sh : ShapeCfg) : Nat :=
  roundPage (recvBytes c) + roundPage (if c.kind = 8 then c.w * c.h * 32 else c.w * c.h * 2)
  + (if pixelKind c.kind then
      roundPage (sampleLayout (shapeC sh) 16 (levelSizes sh.levels (level0Size sh c.w c.h).1 (level0Size sh c.w c.h).2)).2
     else 0)

/-- Bytes of the slots of every enabled channel, one channel having given settings. -/
def slotsTotal (s : State) (n : Nat) (c : ChanCfg) (sh : ShapeCfg) : Nat :=
  sumNat ((List.range 32).map (fun i =>
    let c' := if i = n then c else s.chanCfg i
    let h' := if i = n then sh else s.shapeCfg i
    if c'.en then c'.nslots * slotBytes c' h' else 0))

/-- Members of a fusion group: channel numbers in MEMBER order (R219). -/
def groupMembers (s : State) (p group : Nat) : List Nat :=
  let chs := (List.range 32).filter (fun n =>
    let c := s.chanCfg n
    chanOwner s n == some p && c.en && c.fgroup == group)
  (List.range 32).flatMap (fun m => chs.filter (fun n => (s.chanCfg n).member == m))

/-- Every loaded plan's input records that a channel belongs to: partition, record number, record, position (R247). -/
def inputsFor (s : State) (n : Nat) : Option (Nat × Nat × InputRec × Nat) :=
  match chanOwner s n with
  | none => none
  | some p => match (s.part p).plan with
    | none => none
    | some pl =>
      let c := s.chanCfg n
      (pl.inputs.zipIdx.find? (fun (r, _) => r.fgroup == c.fgroup && decide (r.memberFirst ≤ c.member)
        && decide (c.member < r.memberFirst + r.members))).map (fun (r, i) => (p, i, r, c.member - r.memberFirst))

/-- The Sieve descriptors of a plan. -/
def planSieves (pl : Plan) : List SieveDesc :=
  (pl.steps ++ pl.classes.flatMap (fun c => c.items)).filterMap (fun i => i.sieve)

/-- The largest record of a Sieve descriptor (R268), the members of its group counted with a channel's settings replaced. -/
def largestFor (pl : Plan) (d : SieveDesc) (membersOf : Nat → Nat) : Nat :=
  match pl.inputs.find? (fun r => r.inVa == d.hdrVa) with
  | some r => largestRecord d (membersOf r.fgroup) r.batch
  | none => 0

end Sys2Proof.Machine
end

