-- ==== Sys2Proof/Machine/CommitChecks.lean ====
section
/-! DEFINITION. The refusal rules of every page's commit (R414): checks in the order of their tables, each with its code and the
offset of the field that fails (PAGE_ERRINFO, R412).
Readings: log entry 22 (DEDUCED), log entry 47 (DEDUCED). -/

namespace Sys2Proof.Machine

/-- One check: whether it fails, its code, the offset of the field. -/
abbrev Check := Bool × Nat × Nat

/-- The first failing check. -/
def firstBad : List Check → Option (Nat × Nat)
  | [] => none
  | (b, c, o) :: r => if b then some (c, o) else firstBad r

/-- A snapshot as a function of the key, other registers at their value in force. -/
def snapAt (s : State) (snap : List (Nat × Word)) (key : Nat) : Nat :=
  match snap.lookup key with
  | some v => v.toNat
  | none => s.inForce key
def snapOff (s : State) (snap : List (Nat × Word)) (page : Nat) : Nat → Nat := fun off => snapAt s snap (addr page off)

/-- Whether a core or pair is fenced: a SAFE pair whole with either core, a SPLIT pair shows FENCED with either core (R364, R383). -/
def pairFenced (s : State) (p : Nat) : Bool :=
  (s.core (2 * p)).fenced || (s.core (2 * p + 1)).fenced || s.boot.coverage.any (fun n => n / 2 == p)
/-- Whether a core is OFF because it is fenced: with its whole pair in SAFE mode (R383, R384). -/
def coreOut (s : State) (n : Nat) : Bool :=
  if (s.pair (n / 2)).safe then (s.core (n / 2 * 2)).fenced || (s.core (n / 2 * 2 + 1)).fenced else (s.core n).fenced
def coreFenced (s : State) (n : Nat) : Bool :=
  if (s.pair (n / 2)).safe then pairFenced s (n / 2) else (s.core n).fenced || s.boot.coverage.any (fun c => c / 2 == n / 2)

/-! ### Vat channel page (R228) -/

/-- Whether two enabled channels would match a common frame (R194). -/
def chanConflict (a b : ChanCfg) : Bool :=
  a.en && b.en && a.port == b.port && a.stream == b.stream && (!a.vlanEn || !b.vlanEn || a.vid == b.vid)

/-- Members of a group with a channel's settings replaced. -/
def membersWith (s : State) (p group n : Nat) (c : ChanCfg) : Nat :=
  ((List.range 32).filter (fun i =>
    let c' := if i = n then c else s.chanCfg i
    chanOwner s i == some p && c'.en && c'.fgroup == group)).length

def fieldBytes (f : Nat) : Nat := match bits f 15 14 with | 0 => 1 | 1 => 2 | _ => 4

def chanChecks (s : State) (n : Nat) (g : Nat → Nat) : List Check :=
  let c := chanCfgOf g
  if !c.en then [(decide (7 < c.port), 0x3002, 0x044)]
  else
    let owner := chanOwner s n
    let rt := match owner with | some p => s.isRT p | none => false
    let sf := match owner with | some p => s.isSafety p | none => false
    let others := (List.range 32).filter (· != n)
    let sh := s.shapeCfg n
    [ (!(pixelKind c.kind || c.kind == 8), 0x3001, 0x040),
      (c.w == 0 || c.h == 0 || decide (8192 < c.w) || decide (8192 < c.h)
        || (himirKind c.kind && c.kind != 8 && c.w % kindAlign c.kind != 0), 0x3001, 0x050),
      (decide (7 < c.port), 0x3002, 0x044),
      (others.any (fun i => chanConflict c (s.chanCfg i)), 0x3003, 0x044),
      ((c.kind == 1 && !c.chkrec && sf) || (c.hold && rt), 0x3004, 0x040),
      (c.budgetUs == 0 || decide (c.nslots < 2) || decide (8 < c.nslots), 0x3005, 0x054),
      (decide (1000000 < c.alignOff), 0x3005, 0x060),
      (c.alignTol == 0 || decide (1000000 < c.alignTol), 0x3005, 0x064),
      (c.holdLimit == 0, 0x3005, 0x068),
      (c.kind == 8 && (decide (c.recBytes < 4) || decide (64 < c.recBytes) || c.nfields == 0 || decide (8 < c.nfields)), 0x3006, 0x100),
      (c.kind == 8 && ((c.fields.take c.nfields).any (fun f =>
        bits f 15 14 == 3 || decide (c.recBytes < bits f 5 0 + fieldBytes f))), 0x3006, 0x104),
      (pixelKind c.kind && !cmodeSuits sh.cmode c.kind, 0x300D, 0x040),
      (decide (1280 * 2 ^ 20 < slotsTotal s n c sh), 0x3007, 0x054),
      (owner.isSome && others.any (fun i => let c' := s.chanCfg i
        c'.en && chanOwner s i == owner && c'.fgroup == c.fgroup && c'.member == c.member), 0x3008, 0x068),
      ((match owner with
        | none => false
        | some p => match (s.part p).plan with
          | none => false
          | some pl => match pl.ring with
            | none => false
            | some r => (planSieves pl).any (fun d =>
                decide (r.slotBytes < largestFor pl d (fun grp => membersWith s p grp n c)))), 0x300E, 0x068) ]

/-! ### Shaping page (R254) -/

/-- Whether an FP32 word is finite. -/
def finite32 (w : Word) : Bool := bits w.toNat 30 23 != 255

def shapeChecks (s : State) (n : Nat) (g : Nat → Nat) : List Check :=
  let h := shapeCfgOf g
  let c := s.chanCfg n
  let old := s.shapeCfg n
  let sf := match chanOwner s n with | some p => s.isSafety p | none => false
  let l0 := level0Size h c.w c.h
  [ (h.augEn && (sf || (c.kind == 1 && !c.chkrec) || c.kind == 8), 0x3009, 0x068),
    (decide (4 < h.cmode) || (c.en && pixelKind c.kind && !cmodeSuits h.cmode c.kind) || h.levels == 0 || decide (6 < h.levels), 0x300B, 0x040),
    (decide (c.w < h.cropX + h.cropW) || decide (c.h < h.cropY + h.cropH), 0x300B, 0x044),
    ((h.cropW == 0) != (h.cropH == 0), 0x300B, 0x048),
    ((h.outW == 0) != (h.outH == 0), 0x300B, 0x04C),
    (h.mean.any (fun w => !finite32 w), 0x300B, 0x050),
    (h.scale.any (fun w => !finite32 w), 0x300B, 0x05C),
    (decide (l0.1 < h.occW) || decide (l0.2 < h.occH), 0x300B, 0x070),
    ((inputsFor s n).isSome && (l0 != level0Size old c.w c.h || shapeC h != shapeC old || h.levels != old.levels), 0x300C, 0x040),
    (c.en && decide (1280 * 2 ^ 20 < slotsTotal s n c h), 0x3007, 0x040) ]

/-! ### Press pages (R166, R189, R191) -/

def quotaSum (s : State) (p off hi : Nat) (v : Nat) : Nat :=
  sumNat ((List.range 8).map (fun i => if i = p then v else bits (s.quota i off) hi 0))

/-- What the partitions claim of the sheet level (R166): every one's quota per core times the cores of its pairs, bound or still to be bound, both of a
SAFE pair, which hold the same frames (R162; DEDUCED, log entry 52: R165 gives the quota per bound core and no rule sums it). -/
def sheetClaim (s : State) (p v : Nat) : Nat :=
  sumNat ((List.range 8).map (fun i =>
    (if i = p then v else quotaSheet s i) * ((List.range 40).filter (fun c => !s.coreFused c && pairOwner s (c / 2) == i)).length))
/-- The sheet frames that can be allocated: 62 for each enabled core without its retired ones (R155, R179). -/
def sheetTotal (s : State) : Nat :=
  sumNat ((List.range 40).map (fun c => if s.coreFused c then 0
    else 62 - ((s.aon.retiredSheet.filter (fun r => r.1 == c && decide (r.2 < 62))).eraseDups).length))
/-- The felt and DRAM frames that can be allocated (R155, R156, R179). -/
def feltTotal (s : State) : Nat := 1504 - ((s.aon.retiredFelt.filter (fun r => decide (r.2 < 376))).eraseDups).length
def dramTotal (s : State) : Nat := 884736 - (s.press.dramRetired.filter (fun f => decide (32768 ≤ f))).length

def pressPChecks (s : State) (p : Nat) (g : Nat → Nat) : List Check :=
  let qs := bits (g 0x04C) 7 0
  let qf := bits (g 0x050) 10 0
  let qd := bits (g 0x054) 19 0
  [ (decide (62 < qs), 0x200B, 0x04C), (decide (1504 < qf), 0x200B, 0x050), (decide (884736 < qd), 0x200B, 0x054),
    (bits (g 0x058) 7 0 == 0, 0x200C, 0x058),
    (decide (sheetTotal s < sheetClaim s p qs), 0x2009, 0x04C),
    (decide (feltTotal s < quotaSum s p 0x050 10 qf), 0x2009, 0x050),
    (decide (dramTotal s < quotaSum s p 0x054 19 qd), 0x2009, 0x054),
    (decide (qs < sheetMost s p), 0x200A, 0x04C), (decide (qf < feltPinned s p), 0x200A, 0x050), (decide (qd < dramHeld s p), 0x200A, 0x054) ]

/-! ### Partition page (R292, R322) -/

/-- Whether two ranges overlap. -/
def rangesMeet (b1 n1 b2 n2 : Nat) : Bool := decide (0 < n1) && decide (0 < n2) && decide (b1 < b2 + n2) && decide (b2 < b1 + n1)

def partChecks (s : State) (p : Nat) (g : Nat → Nat) : List Check :=
  let st := (s.part p).st
  let early := st == .empty || st == .ready
  let idle := early || st == .loaded
  -- reserved bits are not interpreted (R8): a change is one of a field
  let differs (off mask : Nat) : Bool := (g off &&& mask) != (s.partReg p off &&& mask)
  let ch (off : Nat) : Bool := differs off (match off with
    | 0x040 => 0xF | 0x044 => 0xFFFFF | 0x048 => 0x3FFFF | 0x04C => 0x3FFFF | 0x054 => 0x0FFF1FFF | 0x05C => 0xF | _ => 0xFFFFFFFF)
  let ctrl := g 0x040
  let rt := bit ctrl 0
  let sf := bit ctrl 1
  let lend := bit ctrl 2
  let disp := bit ctrl 3
  let pairs := (List.range 20).filter (fun i => bit (g 0x044) i)
  let others := (List.range 8).filter (· != p)
  let tb := bits (g 0x050) 31 16
  let tn := bits (g 0x050) 15 0
  let ib := bits (g 0x054) 27 16
  let inn := bits (g 0x054) 12 0
  let period := bits (g 0x048) 17 0
  let budget := bits (g 0x04C) 17 0
  let chans := (List.range 32).filter (fun i => bit (g 0x058) i)
  [ (!early && ch 0x040, 0x5003, 0x040), (!early && ch 0x044, 0x5003, 0x044), (!idle && ch 0x048, 0x5003, 0x048),
    (!idle && ch 0x04C, 0x5003, 0x04C), (!early && ch 0x050, 0x5003, 0x050), (!early && ch 0x054, 0x5003, 0x054),
    (!early && ch 0x058, 0x5003, 0x058), (!early && ch 0x05C, 0x5003, 0x05C), (!idle && ch 0x060, 0x5003, 0x060),
    (!idle && ch 0x064, 0x5003, 0x064),
    (pairs.any (fun i => pairOwner s i != 0xF && pairOwner s i != p), 0x5004, 0x044),
    (pairs.any (fun i => s.pairFused i || pairFenced s i), 0x5005, 0x044),
    ((pairs.any (fun i => (s.pair i).safe) && pairs.any (fun i => !(s.pair i).safe))
      || (sf && (!rt || pairs.any (fun i => !(s.pair i).safe))) || (lend && rt), 0x5006, 0x040),
    (decide (65536 < tb + tn) || others.any (fun o => rangesMeet tb tn (bits (s.partReg o 0x050) 31 16) (bits (s.partReg o 0x050) 15 0)), 0x5007, 0x050),
    (decide (4096 < ib + inn) || others.any (fun o => rangesMeet ib inn (bits (s.partReg o 0x054) 27 16) (bits (s.partReg o 0x054) 12 0)), 0x5007, 0x054),
    (decide (period < 10000) || decide (200000 < period), 0x5008, 0x048),
    (decide (budget < 1000) || decide (period < budget + 100), 0x5008, 0x04C),
    (others.any (fun o => (s.partReg o 0x058) &&& (g 0x058) != 0), 0x5009, 0x058),
    ((List.range 4).any (fun q => bit (g 0x05C) q && engineOwner s q != 0xF && engineOwner s q != p), 0x5009, 0x05C),
    (disp && (sf || others.any (fun o => bit (s.partReg o 0x040) 3)), 0x500A, 0x040),
    (chans.any (fun n => let c := s.chanCfg n
      (sf && c.kind == 1 && !c.chkrec) || (rt && c.hold)), 0x3004, 0x058),
    (sf && chans.any (fun n => (s.shapeCfg n).augEn), 0x3009, 0x058) ]

/-! ### Deadline page (R363) -/

def dlChecks (s : State) (g : Nat → Nat) : List Check :=
  (List.range 8).flatMap (fun p =>
    let budget := bits (s.partReg p 0x04C) 17 0
    let rep := bits (g (0x080 + 0x10 * p)) 17 0
    let shed := bits (g (0x084 + 0x10 * p)) 17 0
    [ (decide (budget < rep), 0x6003, 0x080 + 0x10 * p),
      (shed != 0 && (s.isRT p || decide (budget ≤ shed)), 0x6003, 0x084 + 0x10 * p) ])

/-! ### Display page (R286) -/

def dispChecks (s : State) (g : Nat → Nat) : List Check :=
  let en := (List.range 4).filter (fun i => bit (g 0x040) i)
  let b (i : Nat) : Nat := 0x100 + 0x80 * i
  let ownerBad := match dispOwner s with | none => true | some p => s.isSafety p
  let thick := bits (g 0x040) 27 24
  let size (i : Nat) : Nat × Nat := (bits (g (b i + 0x0C)) 31 16, bits (g (b i + 0x0C)) 15 0)
  let bad16 (v : Nat) : Bool := v % 16 != 0 || decide (v < 16) || decide (2032 < v)
  let allViews (i : Nat) : List Nat := (List.range 4).map (fun v => b i + 0x20 + 0x10 * v)
  let views (i : Nat) : List Nat := (allViews i).filter (fun o => bit (g o) 31)
  let viewChan (o : Nat) : ChanCfg := s.chanCfg (bits (g o) 28 24)
  let viewOut (i o : Nat) : Bool :=
    decide ((size i).1 < bits (g (o + 8)) 31 16 + bits (g (o + 12)) 31 16) || decide ((size i).2 < bits (g (o + 8)) 15 0 + bits (g (o + 12)) 15 0)
  [(!en.isEmpty && ownerBad, 0x4011, 0x040)] ++
  en.flatMap (fun i =>
    [ (thick == 0 || decide (8 < thick), 0x4012, 0x040),
      (decide (7 < bits (g (b i)) 19 16), 0x4012, b i),
      (bad16 (size i).1 || bad16 (size i).2, 0x4012, b i + 0x0C),
      (bits (g (b i + 0x10)) 30 24 == 0 || decide (99 < bits (g (b i + 0x10)) 30 24), 0x4012, b i + 0x10) ] ++
    (views i).flatMap (fun o =>
      [ (!(viewChan o).en || !pixelKind (viewChan o).kind, 0x4012, o), (viewOut i o, 0x4012, o + 8) ])) ++
  [ (en.any (fun i => en.any (fun j => i != j && bits (g (b i)) 19 16 == bits (g (b j)) 19 16
      && g (b i + 4) == g (b j + 4) && g (b i + 8) == g (b j + 8))), 0x4013, 0x100) ] ++
  (List.range 4).flatMap (fun i => (allViews i).map (fun o => (bit (g o) 30 && (s.shapeCfg (bits (g o) 28 24)).rot != 0, 0x4014, o)))

/-! ### Sirris and system tally pages (R508, R509) -/

/-- Whether an address lies in a region that an outbound window may map: of the partition's plan, with RO 0, SEQ 0 and HOME FELT or DRAM (R494). Without a
plan none does (DEDUCED, log entry 45). -/
def windowPageOk (s : State) (p v : Nat) : Bool :=
  match (s.part p).plan with
  | none => false
  | some pl => pl.regions.any (fun r => !r.ro && !r.seq && r.home != 2 && decide (r.vaBase ≤ v) && decide (v < r.vaBase + r.pages * 65536))

def sirChecks (s : State) (snap : List (Nat × Word)) (g : Nat → Nat) : List Check :=
  let en := bits (g 0x040) 3 0
  let routes := (List.range 1024).map (fun i => snapAt s snap (indexedKey (addr 0x1F0 0x048) i))
  let owBase (w : Nat) : Nat := 0x200 + 0x20 * w
  let iwBase (w : Nat) : Nat := 0x400 + 0x10 * w
  let va (o : Nat) : Nat := g o + 2 ^ 32 * g (o + 4)
  let badSpan (v n : Nat) : Bool := n == 0 || v % 65536 != 0 || decide (2 ^ 48 < v + n * 65536)
  let regionBad (p v n : Nat) : Bool := (List.range n).any (fun k => !windowPageOk s p (v + k * 65536))
  -- reserved bits are not interpreted (R8)
  let changed (o : Nat) (masks : List Nat) : Bool :=
    masks.zipIdx.any (fun m => (g (o + 4 * m.2) &&& m.1) != (s.inForce (addr 0x1F0 (o + 4 * m.2)) &&& m.1))
  let owMasks := [0xF0000000, 0xFFFFFFFF, 0xFFFFFFFF, 0x000FFFFF, 0xFFF80000, 0xFFFFFFFF, 0xFFFFFFFF]
  let iwMasks := [0xF80003FF, 0xFFFFFFFF, 0xFFFFFFFF, 0x000FFFFF]
  let oldPart (o : Nat) : Nat := bits (s.inForce (addr 0x1F0 o)) 30 28
  let oldEn (o : Nat) : Bool := bit (s.inForce (addr 0x1F0 o)) 31
  [ (routes.any (fun r => bit r 2 && !bit en (bits r 1 0)), 0xA001, 0x048) ] ++
  (List.range 16).flatMap (fun w =>
    let o := owBase w
    let p := bits (g o) 30 28
    [ (bit (g o) 31 && (badSpan (va (o + 4)) (bits (g (o + 0x0C)) 19 0) || badSpan (va (o + 0x14)) (bits (g (o + 0x0C)) 19 0)
        || regionBad p (va (o + 4)) (bits (g (o + 0x0C)) 19 0)), 0xA002, o),
      (bit (g o) 31 && s.isSafety p, 0xA002, o),
      (changed o owMasks && ((bit (g o) 31 && s.active p) || (oldEn o && s.active (oldPart o))), 0xA002, o) ]) ++
  (List.range 16).flatMap (fun w =>
    let o := iwBase w
    let p := bits (g o) 30 28
    [ (bit (g o) 31 && badSpan (va (o + 4)) (bits (g (o + 0x0C)) 19 0), 0xA002, o),
      (bit (g o) 31 && s.isSafety p, 0xA002, o),
      (changed o iwMasks && ((bit (g o) 31 && s.active p) || (oldEn o && s.active (oldPart o))), 0xA002, o) ])

/-- Entries of the binding table: (enabled, partition, T, home, S) of A and B words (R509). -/
structure Binding where
  en : Bool
  part : Nat
  t : Nat
  home : Nat
  sys : Nat
deriving DecidableEq, Repr

def bindingOf (a b : Nat) : Binding := ⟨bit a 31, bits a 30 28, bits a 15 0, bits b 31 22, bits b 11 0⟩
def State.bindings (s : State) : List Binding :=
  (List.range 256).map (fun i => bindingOf (s.inForce (indexedKey (addr 0x1F1 0x044) i)) (s.inForce (indexedKey (addr 0x1F1 0x048) i)))

def stallyChecks (s : State) (snap : List (Nat × Word)) : List Check :=
  let new := (List.range 256).map (fun i =>
    bindingOf (snapAt s snap (indexedKey (addr 0x1F1 0x044) i)) (snapAt s snap (indexedKey (addr 0x1F1 0x048) i)))
  let on := new.filter (·.en)
  let pairsOf := on.map (fun b => (b.part, b.t))
  let homes := (on.map (fun b => (b.sys, b.home))).eraseDups
  [ (on.any (fun b => s.isSafety b.part), 0xA003, 0x044),
    (on.any (fun b => decide (bits (s.partReg b.part 0x050) 15 0 ≤ b.t)), 0xA004, 0x044),
    (pairsOf.eraseDups.length != pairsOf.length, 0xA004, 0x044),
    ((homes.map (·.1)).eraseDups.length != homes.length, 0xA004, 0x048),
    ((new.zip s.bindings).any (fun (a, b) => a != b && ((a.en && s.active a.part) || (b.en && s.active b.part))), 0xA004, 0x044) ]

/-! ### The other pages -/

/-- Port page number of a TIME source: S0-S7, H0, H1 (R425). -/
def srcPort (src : Nat) : Nat := pgPort src

/-- Whether a claimed session arrives on host port i (R411). -/
def sessionOn (s : State) (i : Nat) : Bool := s.link.session != 0 && s.link.port == i

def pageChecks (s : State) (b : Block) (page : Nat) (snap : List (Nat × Word)) : List Check :=
  let g := snapOff s snap page
  match b with
  | .chan n => chanChecks s n g
  | .shape n => shapeChecks s n g
  | .press => [(bits (g 0x048) 7 0 == 0, 0x200C, 0x048)]
  | .pressP p => pressPChecks s p g
  | .dram => [(bits (g 0x044) 4 0 == 0 || decide (24 < bits (g 0x044) 4 0), 0x200B, 0x044)]
  | .part p => partChecks s p g
  | .dl => dlChecks s g
  | .disp => dispChecks s g
  | .st => [(decide (bits (g 0x044) 9 0 < 100) || decide (800 < bits (g 0x044) 9 0), 0x6217, 0x044)]
  | .dev => [(decide (bits (g 0x06C) 13 0 < 20) || decide (10000 < bits (g 0x06C) 13 0), 0x9014, 0x06C)]
  | .host => [(!bit (g 0x050) 31 && sessionOn s 0, 0x9015, 0x050), (!bit (g 0x054) 31 && sessionOn s 1, 0x9015, 0x054)]
  | .time =>
    let src := bits (g 0x040) 19 16
    [(src != 0xF && (decide (9 < src) || !bit (s.inForce (addr (srcPort src) 0x040)) 31), 0x9030, 0x040),
     (decide (127 < bits (g 0x040) 6 0), 0x9030, 0x040)]
  | .pwr =>
    let pl := bits (g 0x044) 7 0
    let w := bits (g 0x044) 19 16
    let sl := bits (g 0x048) 7 0
    [(decide (pl < 40) || decide (160 < pl) || w == 0 || decide (10 < w), 0x8001, 0x044),
     (decide (sl < 5) || decide (200 < sl), 0x8002, 0x048)] ++
    (List.range 8).map (fun i =>
      let fl := bits (g (0x068 + 4 * i)) 15 8
      let tg := bits (g (0x068 + 4 * i)) 7 0
      (decide (fl < 16) || decide (48 < fl) || decide (tg < 16) || decide (48 < tg) || decide (tg < fl), 0x8003, 0x068 + 4 * i))
  | .therm => [(decide (bits (g 0x044) 7 0 < 60) || decide (100 < bits (g 0x044) 7 0), 0x8011, 0x044)]
  | .sirris => sirChecks s snap g
  | .stally => stallyChecks s snap
  | .port i => [(!bit (g 0x040) 31 && (i == 8 || i == 9) && sessionOn s (i - 8), 0x9015, 0x040)]
  | _ => []

end Sys2Proof.Machine
end

