-- ==== Sys2Proof/Machine/Commit.lean ====
section
/-! DEFINITION. Commits (R412–R416): the snapshot, the safe point, and what applying a snapshot does beside the registers.
Readings: log entry 47 (DEDUCED). -/

namespace Sys2Proof.Machine

/-- The keys of indexed entries of a page that are written anywhere (R508, R509). -/
def indexedKeys (s : State) (page : Nat) : List Nat :=
  ((s.regs.shadow.map (·.1) ++ s.regs.force.map (·.1)).filter (fun k => decide (2 ^ 28 ≤ k) && k % 2 ^ 28 / 4096 == page)).eraseDups

/-- Every shadow of a page (R414). -/
def snapshotOf (s : State) (b : Block) (page : Nat) : List (Nat × Word) :=
  ((rwsOffsets b).map (addr page) ++ indexedKeys s page).map (fun k => (k, BitVec.ofNat 32 (s.shadowOf k)))

/-- Put a snapshot into force. -/
def forceAll (s : State) (snap : List (Nat × Word)) : State := snap.foldl (fun s e => s.setForce e.1 e.2.toNat) s

/-- REVERT: every shadow takes the value in force (R412). -/
def revertPage (s : State) (b : Block) (page : Nat) : State :=
  ((rwsOffsets b).map (addr page) ++ indexedKeys s page).foldl (fun s k => s.setShadow k (s.inForce k)) s

/-! ### What an applied commit does (R289, R291, R225–R227, R207, R166, R425, R523, R488) -/

/-- Owners after a partition page's commit (R289), and EMPTY or READY (R291). Outside EMPTY and READY the pairs do not change. -/
def applyPart (s : State) (p : Nat) : State :=
  let x := s.part p
  if x.st == .empty || x.st == .ready then
    let pairs := s.partReg p 0x044
    let engs := s.partReg p 0x05C
    let s := (List.range 20).foldl (fun s i =>
      let w := s.pair i
      if bit pairs i then s.setPair i { w with owner := p } else if w.owner = p then s.setPair i { w with owner := 0xF } else s) s
    let s := (List.range 4).foldl (fun s q =>
      let w := s.engine q
      if bit engs q then s.setEngine q { w with owner := p } else if w.owner = p then s.setEngine q { w with owner := 0xF } else s) s
    s.modPart p (fun x => { x with pairsNow := BitVec.ofNat 20 pairs, st := if bits pairs 19 0 = 0 then .empty else .ready })
  else s

/-- A channel page's commit took effect; the settings before it are given. -/
def applyChan (s : State) (n : Nat) (old : ChanCfg) : State :=
  let c := s.chanCfg n
  let x := s.chan n
  let x := if !c.en && old.en then
      { x with rx := none, discard := false, endLatched := false
               slots := x.slots.filter (fun e => match x.rx with | some r => r.slot != some e.1 | none => true) }
    else x
  let x := if !c.hold then { x with endLatched := false } else x
  let x := if (c.en && !old.en) || c.port != old.port || c.stream != old.stream then { x with lastCount := none } else x
  s.setChan n x

/-- A Sirris link that is not enabled is OFF (R488, R523); PEER stays that of the last good HELLO (R508). -/
def sirEnabled (s : State) (n : Nat) : Bool :=
  bit (s.inForce (addr 0x1F0 0x040)) n && portOn s (10 + n)
def dropOffLinks (s : State) : State :=
  (List.range 4).foldl (fun s n => if sirEnabled s n then s else s.endSir n { SirLink.reset with peer := (s.sir n).peer }) s

/-- A port page's commit: setting EN starts link training, clearing it takes the link down and darkens the
transmitter (R523). -/
def applyPort (s : State) (i : Nat) (oldEn : Bool) : State :=
  let en := portOn s i
  let s := if en && !oldEn then s.setOptical i { s.optical i with link := 1 }
    else if !en && oldEn then
      let s := if (s.optical i).link = 2 then s.bump (pgPort i) 0x078 1 else s
      s.setOptical i { s.optical i with link := 0, txPower := 0x8000 }
    else s
  dropOffLinks s

/-- Whether the last eight measured offsets lie within ±LOCK_NS (R423). -/
def inLock (s : State) (offs : List Int) : Bool :=
  decide (offs.length = 8) && offs.all (fun o => decide (o.natAbs ≤ bits (s.inForce (addr 0x020 0x044)) 15 0))

/-- A TIME page's commit: another source or domain starts the engine afresh, and LOCK_NS counts at once (R423). -/
def applyTime (s : State) (old : Nat) : State :=
  let c := s.inForce (addr 0x020 0x040)
  let x := s.clk.time
  if bits c 19 16 = bits old 19 16 ∧ bits c 6 0 = bits old 6 0 then
    if x.st = 1 ∨ x.st = 2 then { s with clk := { s.clk with time := { x with st := if inLock s x.offsets then 2 else 1 } } } else s
  else { s with clk := { s.clk with time :=
      { s.clk.time with st := if bits c 19 16 = 0xF then 0 else 1, offsets := [], slew := 0, slewPart := 0, rate := 0, deferred := false } } }

/-- Apply a snapshot whole and do what its page does with it. -/
def applySnapshot (s : State) (b : Block) (page : Nat) (snap : List (Nat × Word)) : State :=
  -- what was counted under the old setting stands (R86)
  let s := accountPage s b
  let s' := forceAll s snap
  match b with
  | .part p => applyPart s' p
  | .chan n => applyChan s' n (s.chanCfg n)
  | .pressP p => shrinkFelt 1504 s' p
  | .port i => applyPort s' i (bit (s.inForce (addr page 0x040)) 31)
  | .time => applyTime s' (s.inForce (addr page 0x040))
  | .sirris => dropOffLinks s'
  | _ => s'

/-! ### Safe points (R414, R415) -/

/-- The partition whose step boundary is the page's safe point. -/
def boundaryOf (s : State) (b : Block) : Option Nat :=
  match b with
  | .part p => some p
  | .pressP p => some p
  | .core n => let o := pairOwner s (n / 2); if o < 8 then some o else none
  | .engine q => let o := engineOwner s q; if o < 8 then some o else none
  | .disp => dispOwner s
  | _ => none

/-- Pages whose commit takes effect within 1 µs or 1 ms, at COMMIT_SAFE_POINT (R415). -/
def genericPage (b : Block) : Bool :=
  match b with
  | .dev | .aon | .host | .time | .port _ | .press | .pwr | .therm | .sirris | .stally => true
  | _ => false

/-- Whether the snapshot of a page can be applied at this instant without its own occasion: where that is the step boundary of a partition that is not
RUNNING (R415). The DRAM page waits for the next patrol pass. -/
def readyNow (s : State) (b : Block) (snap : List (Nat × Word)) : Bool :=
  match b with
  | .part _ | .pressP _ | .core _ | .engine _ | .disp => match boundaryOf s b with
    | some p => (s.part p).st != .running
    | none => true
  | .chan n => (s.chan n).rx.isNone || !(chanCfgOf (snapOff s snap (pgChan n))).en
  | .shape n => (s.chan n).rx.isNone
  | _ => false

/-- At the safe point: check the snapshot, apply it whole or refuse it (R414). -/
def settle (s : State) (b : Block) (page : Nat) : State :=
  let h := s.hdrOf page
  if h.cstate ≠ .pending then s
  else match firstBad (pageChecks s b page h.snapshot) with
    | some (code, off) => (s.setHdr page { h with cstate := .refused, snapshot := [] }).pageErr page 0 code off
    | none => (applySnapshot s b page h.snapshot).setHdr page { h with cstate := .applied, snapshot := [] }

def pgDl : Nat := 0x1D2

/-- A safe point with an occasion of its own: one in the cycle of the commit write does not count (R416). -/
def settleTimed (s : State) (b : Block) (page : Nat) : State :=
  if (s.hdrOf page).at? < s.clk.clock then settle s b page else s

/-- The deadline page (R363): the fields of each partition take effect at that partition's boundary, those of partitions that are not RUNNING at once;
the commit is APPLIED when all have. It is checked where its first fields take effect, so that a refused one applies none. -/
def settleDl (s : State) (ready : Nat → Bool) : State :=
  let page := pgDl
  let h := s.hdrOf page
  let now := h.snapshot.filter (fun e => ready ((e.1 - addr page 0x080) / 0x10))
  let rest := h.snapshot.filter (fun e => !ready ((e.1 - addr page 0x080) / 0x10))
  let begun := decide (h.snapshot.length < (rwsOffsets .dl).length)
  if h.cstate ≠ .pending ∨ now.isEmpty = true then s
  else match (if begun then none else firstBad (pageChecks s .dl page h.snapshot)) with
    | some (code, off) => (s.setHdr page { h with cstate := .refused, snapshot := [] }).pageErr page 0 code off
    | none =>
      (forceAll s now).setHdr page { h with cstate := if rest.isEmpty then .applied else .pending, snapshot := rest }

/-- A non-zero TOKEN written to PAGE_COMMIT (R414). -/
def commitWrite (s : State) (page : Nat) (token : BitVec 16) : State :=
  match blockOf page with
  | none => s
  | some (b, _) =>
    let h := s.hdrOf page
    if token = 0 then s.pageErr page 0 0x9006 0x010
    else if h.cstate = .pending then s.pageErr page 0 0x9005 0x010
    else if !hasShadow b then s.setHdr page { h with cstate := .applied, token := token }
    else
      let snap := snapshotOf s b page
      let s := s.setHdr page { h with cstate := .pending, token := token, snapshot := snap, at? := s.clk.clock }
      if b = .dl then settleDl s (fun p => (s.part p).st != .running)
      else if readyNow s b snap then settle s b page else s

/-- MP answers an emulated page while it runs (R416, R417). -/
def mpUp (s : State) : Bool := (s.proc 0).st == .run

/-- COMMIT_SAFE_POINT of a page: the pages that have no other occasion, and those whose occasion no longer keeps them waiting. A safe
point in the cycle of the commit write does not count (R416). -/
def commitSafePoint (s : State) (page : Nat) : State :=
  match blockOf page with
  | none => s
  | some (b, _) =>
    let h := s.hdrOf page
    if h.cstate = .pending ∧ h.at? < s.clk.clock ∧ (emulated page → mpUp s = true) then
      if b = .dl then settleDl s (fun p => (s.part p).st != .running)
      else if genericPage b || readyNow s b h.snapshot then settle s b page else s
    else s

/-- The commits timed to a partition's step boundary take effect (R317). -/
def boundaryCommits (s : State) (p : Nat) : State :=
  let pages := pgPart p :: pgPressP p :: ((List.range 40).filter (fun n => pairOwner s (n / 2) == p)).map pgCore
    ++ ((List.range 4).filter (fun q => engineOwner s q == p)).map pgEngine
  let s := pages.foldl (fun s page => match blockOf page with | some (b, _) => settleTimed s b page | none => s) s
  if (s.hdrOf pgDl).at? < s.clk.clock then settleDl s (fun q => q == p || (s.part q).st != .running) else s

end Sys2Proof.Machine
end

