-- ==== Sys2Proof/Machine/SirrisNet.lean ====
section
/-! DEFINITION. Sirris frames and links (R486–R492), and the tallies: plan tallies, and system tallies where a binding makes a plan
tally their proxy (R311, R497, R498).
Readings: log entry 45 (DEDUCED), log entry 58 (DEDUCED). -/

namespace Sys2Proof.Machine

def pgSir : Nat := 0x1F0
def pgStally : Nat := 0x1F1

/-- This device's DEV_ID (R492). -/
def devId (s : State) : Nat := bits (s.inForce (addr pgSir 0x040)) 31 22

/-- A frame (R486). -/
def sirFrame (typ cls seq ackseq creq crsp : Nat) (msg : Bytes) : Bytes :=
  let body := toBE 1 1 ++ toBE 1 typ ++ toBE 1 cls ++ toBE 1 0 ++ toBE 2 seq ++ toBE 2 ackseq ++ toBE 2 creq ++ toBE 2 crsp
    ++ toBE 2 msg.length ++ toBE 2 0 ++ msg
  body ++ toBE 4 (crc32c body)

/-- Offset of a link's counters: TX, RX, RETX, CRCERR, NACK, DOWN. -/
def sirCnt (n i : Nat) : Nat := 0x080 + 0x40 * n + 8 * i

/-- Frames of a Sirris port are counted on its port page too (R525). -/
def sirTx (s : State) (n : Nat) (frame : Bytes) : State :=
  let s := s.setSir n { s.sir n with lastTx := s.clk.clock }
  ((s.emit (.sirris n frame)).bump pgSir (sirCnt n 0) 1).bump (pgPort (10 + n)) 0x058 1

/-- Send a control frame: ACKSEQ and the owed credits go with it. -/
def sirControl (s : State) (n typ seq : Nat) (msg : Bytes) : State :=
  let l := s.sir n
  let f := sirFrame typ 0 seq l.expected l.owedReq l.owedRsp msg
  sirTx (s.setSir n { l with owedReq := 0, owedRsp := 0, ackOwed := false }) n f

/-- Whether a message of a class can be sent at once. -/
def sirCan (l : SirLink) (cls : Nat) (msg : Bytes) : Bool :=
  decide (l.kept.length < 256) && decide (sirCost msg ≤ if cls = 0 then l.credReq else l.credRsp)

/-- Send a DATA frame: it is kept until acknowledged. -/
def sirSendNow (s : State) (n cls : Nat) (msg : Bytes) : State :=
  let l := s.sir n
  let f := sirFrame 1 cls l.nextSeq l.expected l.owedReq l.owedRsp msg
  let l := { l with
    owedReq := 0, owedRsp := 0, ackOwed := false
    credReq := if cls = 0 then l.credReq - sirCost msg else l.credReq
    credRsp := if cls = 0 then l.credRsp else l.credRsp - sirCost msg
    lastProgress := if l.kept.isEmpty then s.clk.clock else l.lastProgress
    kept := l.kept ++ [⟨l.nextSeq, f⟩], nextSeq := (l.nextSeq + 1) % 65536 }
  sirTx (s.setSir n l) n f

/-- Send on a link, or wait for credits behind the messages of the same class. A message that is forwarded leaves the buffer of the link `src` when it
is sent (R489). -/
def sirSend (s : State) (n cls : Nat) (msg : Bytes) (src : Option Nat) : State :=
  let l := s.sir n
  if sirCan l cls msg && !(l.waiting.any (fun w => w.1 == cls)) then (sirSendNow s n cls msg).sirOwe src cls msg
  else s.setSir n { l with waiting := l.waiting ++ [(cls, msg, src)] }

/-- Send the messages that wait, in order within each class, while credits and the replay buffer last. -/
def sirDrain (n : Nat) : List (Nat × Bytes × Option Nat) → State → State
  | [], s => s
  | (cls, msg, src) :: r, s => sirDrain n r (sirSend s n cls msg src)
def sirFlush (s : State) (n : Nat) : State :=
  let w := (s.sir n).waiting
  sirDrain n w (s.setSir n { s.sir n with waiting := [] })

/-- The link that a destination's route names, when it is UP (R492). -/
def routeTo (s : State) (dst : Nat) : Option Nat :=
  let r := s.inForce (indexedKey (addr pgSir 0x048) dst)
  if bit r 2 && (s.sir (bits r 1 0)).up then some (bits r 1 0) else none

/-- Send a message that came by a link, or one of this device, towards another device, or drop it. -/
def sirPass (s : State) (cls dst : Nat) (msg : Bytes) (src : Option Nat) : State :=
  match routeTo s dst with
  | some n => sirSend s n cls msg src
  | none => ((s.bump pgSir 0x068 1).logLimited 0xA106 0 0xFF 0xFF 0).sirOwe src cls msg
/-- Send a message of this device. -/
def sirForward (s : State) (cls dst : Nat) (msg : Bytes) : State := sirPass s cls dst msg none

/-- A message header (R487) and its data. -/
def sirMsg (kind status dst src part tag step arg : Nat) (data : Bytes) : Bytes :=
  toBE 1 kind ++ toBE 1 status ++ toBE 2 dst ++ toBE 2 src ++ toBE 1 part ++ toBE 1 0 ++ toBE 4 tag ++ toBE 4 step ++ toBE 8 arg ++ data

/-! ### System tallies -/

/-- Whether step a is newer than step b, of which only 32 bits are named. -/
def newer (a b : Nat) : Bool := a % 2 ^ 32 != b % 2 ^ 32 && decide ((a + 2 ^ 32 - b % 2 ^ 32) % 2 ^ 32 < 2 ^ 31)

/-- The counts after a message that names a step; none when the message is discarded (R498). -/
def nameStep (counts : List (Nat × Nat)) (step : Nat) : Option (List (Nat × Nat)) :=
  match counts with
  | [] => some [(step, 0)]
  | [(a, x)] => if a = step then some [(a, x)] else if newer step a then some [(step, 0), (a, x)] else some [(a, x), (step, 0)]
  | (a, x) :: (b, y) :: _ =>
    if a = step ∨ b = step then some [(a, x), (b, y)]
    else if newer step a then some [(step, 0), (a, x)]
    else none

/-- The count of a step held for a system tally. -/
def sysCount (s : State) (sys step : Nat) : Nat := ((s.stally sys).counts.lookup (step % 2 ^ 32)).getD 0

/-- A TALLY_WAKE (R498): the item that sent its TALLY_WAIT has the wait satisfied. -/
def sirWake (s : State) (tag : Nat) : State :=
  allQueues.foldl (fun s q => match s.queue q with
    | [] => s
    | x :: r => match x.sent.lookup tag with
      | some i => s.setQueue q ({ x with woken := x.woken ++ [i] } :: r)
      | none => s) s

/-- Waiters whose step's count has reached their value are answered (R498); an answer to this device itself is taken in (R492). -/
def sysWake (s : State) (sys : Nat) : State :=
  let t := s.stally sys
  let met (w : Nat × Nat × Nat × Nat × Nat) : Bool := match t.counts.lookup w.1 with | some c => decide (w.2.1 ≤ c) | none => false
  let due := t.waiters.filter met
  -- waits on a dropped count are never woken
  let keep := t.waiters.filter (fun w => !met w && (t.counts.lookup w.1).isSome)
  let s := s.setStally sys { t with waiters := keep }
  due.foldl (fun s w =>
    let c := (t.counts.lookup w.1).getD 0
    let m := sirMsg 5 0 w.2.2.1 (devId s) w.2.2.2.1 w.2.2.2.2 w.1 (sys * 2 ^ 48 + c) []
    (if w.2.2.1 = devId s then sirWake s w.2.2.2.2 else sirForward s 1 w.2.2.1 m).bump pgStally 0x098 1) s

/-- An ADD applied at HOME. -/
def sysAdd (s : State) (sys step n : Nat) : State :=
  let t := s.stally sys
  match nameStep t.counts (step % 2 ^ 32) with
  | none => s.bump pgStally 0x0A0 1
  | some cs =>
    let cs := cs.map (fun e => if e.1 = step % 2 ^ 32 then (e.1, min (e.2 + n) (2 ^ 32 - 1)) else e)
    sysWake (s.setStally sys { t with counts := cs }) sys

/-- A WAIT registered at HOME. -/
def sysWait (s : State) (sys step v src part tag : Nat) : State :=
  let t := s.stally sys
  match nameStep t.counts (step % 2 ^ 32) with
  | none => s.bump pgStally 0x0A0 1
  | some cs => sysWake (s.setStally sys { counts := cs, waiters := t.waiters ++ [(step % 2 ^ 32, v, src, part, tag)] }) sys

/-! ### Remote page writes (R494, R495) -/

/-- The inbound window that a WRITE falls within (R495). -/
def inboundFor (s : State) (p src a len : Nat) : Bool :=
  (List.range 16).any (fun w =>
    let g (o : Nat) : Nat := s.inForce (addr pgSir (0x400 + 0x10 * w + o))
    let c := g 0
    let va := g 4 + 2 ^ 32 * g 8
    bit c 31 && bits c 30 28 == p && (bit c 27 || bits c 9 0 == src) && decide (va ≤ a) && decide (a + len ≤ va + bits (g 0x0C) 19 0 * 65536))

/-- A WRITE at its destination (R495): what it does there, and its STATUS, 0 OK, 1 NO_WINDOW, 2 FAULT. -/
def takeWrite (s : State) (src p a : Nat) (data : Bytes) : State × Nat :=
  let can (v : Nat) : Bool := match access s p v true with | .ok _ => true | .error _ => false
  let status := if !inboundFor s p src a data.length then 1 else if !(can a && can (a + data.length - 1)) then 2 else 0
  (if status = 0 then partStore (touchRange s p 15 a data.length) p a data else s.logEntry 0xA103 (if p < 8 then p else 0xFF) 0xFF 0, status)

/-- The outbound windows of a partition. -/
def outboundOf (s : State) (p : Nat) : List Nat :=
  (List.range 16).filter (fun w => let c := s.inForce (addr pgSir (0x200 + 0x20 * w)); bit c 31 && bits c 30 28 == p)

/-- The 64-byte lines of an outbound window in which written addresses lie, and where they go (R494): device, partition, address there, line. -/
def remoteLines (s : State) (p : Nat) (vas : List Nat) : List (Nat × Nat × Nat × Nat) :=
  (outboundOf s p).flatMap (fun w =>
    let g (o : Nat) : Nat := s.inForce (addr pgSir (0x200 + 0x20 * w + o))
    let va := g 0x04 + 2 ^ 32 * g 0x08
    let dva := g 0x14 + 2 ^ 32 * g 0x18
    let inside (a : Nat) : Bool := decide (va ≤ a) && decide (a < va + bits (g 0x0C) 19 0 * 65536) && windowPageOk s p a
    let lines := ((vas.filter inside).map (· / 64)).eraseDups
    lines.map (fun l => (bits (g 0x10) 31 22, bits (g 0x10) 21 19, dva + (l * 64 - va), l * 64)))

/-- Send one line as a WRITE, noting that a queue's item awaits its answer (R496). One whose DEVICE is this device is taken in (R492). Whether it is
answered with a STATUS other than OK already. -/
def sendLine (s : State) (p : Nat) (q : Option Nat) (e : Nat × Nat × Nat × Nat) : State × Bool :=
  let data := partBytes s p e.2.2.2 64
  let s := touchRange s p 15 e.2.2.2 64
  if e.1 = devId s then let (s, status) := takeWrite s (devId s) e.2.1 e.2.2.1 data; (s, status != 0)
  else
    let tag := s.net.tag % 2 ^ 32
    let m := sirMsg 1 0 e.1 (devId s) e.2.1 tag 0 e.2.2.1 data
    let s := { s with net := { s.net with
      tag := s.net.tag + 1, remote := match q with | some q => s.net.remote ++ [(tag, q)] | none => s.net.remote } }
    (sirForward s 0 e.1 m, false)

/-- Send what a partition's work has written into outbound windows (R494). -/
def sendWritten (s : State) (p : Nat) (q : Option Nat) (vas : List Nat) : State × Bool :=
  (remoteLines s p vas).foldl (fun (a : State × Bool) e => let (s, bad) := sendLine a.1 p q e; (s, a.2 || bad)) (s, false)

/-! ### Plan tallies (R311) -/

/-- The bindings that a partition holds: with SAFETY = 1 none, also those that were in force before (R497; DEDUCED, log entry 45). -/
def heldBindings (s : State) (p : Nat) : List Binding := if s.isSafety p then [] else s.bindings.filter (fun b => b.en && b.part == p)
/-- The binding of a plan tally of a partition. -/
def bindingFor (s : State) (p t : Nat) : Option Binding := (heldBindings s p).find? (fun b => b.t == t)
/-- Whether a partition holds a binding or writes through an outbound window (R499). -/
def sysBound (s : State) (p : Nat) : Bool := !(heldBindings s p).isEmpty || !(outboundOf s p).isEmpty

/-- Number of the step in progress, or of the last one. -/
def stepNumber (x : PartSt) : Nat := x.stepNo - 1

/-- Device number of a plan tally. -/
def devTally (s : State) (p t : Nat) : Nat := bits (s.partReg p 0x050) 31 16 + t

/-- ADD n to a plan tally, or to the system tally it is bound to. -/
def tallyAdd (s : State) (p t n : Nat) : State :=
  match bindingFor s p t with
  | none => let d := devTally s p t; s.setTally d (min (s.tally d + n) (2 ^ 32 - 1))
  | some b =>
    let step := stepNumber (s.part p) % 2 ^ 32
    if b.home = devId s then sysAdd s b.sys step n
    else
      let m := sirMsg 3 0 b.home (devId s) p (s.net.tag % 2 ^ 32) step (b.sys * 2 ^ 48 + n) []
      let s := { s with net := { s.net with tag := s.net.tag + 1 } }
      (sirForward s 0 b.home m).bump pgStally 0x080 1

/-- An ADD of the host: one made in the very cycle of a RESET comes after it (R313). -/
def hostAdd (s : State) (p t n : Nat) : State :=
  let s' := tallyAdd s p t n
  if (bindingFor s p t).isSome then s'
  else { s' with plans := { s'.plans with hostAdds := s'.plans.hostAdds.filter (fun a => a.1 == s.clk.clock) ++ [(s.clk.clock, devTally s p t, n)] } }

def tallyAdds (s : State) (p : Nat) (adds : List (Nat × Nat)) : State := adds.foldl (fun s a => tallyAdd s p a.1 a.2) s

/-- Whether wait number i of an item is satisfied. -/
def waitMet (s : State) (x : QItem) (i : Nat) (w : Nat × Nat) : Bool :=
  match bindingFor s x.part w.1 with
  | none => decide (w.2 ≤ s.tally (devTally s x.part w.1))
  | some b => if b.home = devId s then decide (w.2 ≤ sysCount s b.sys (stepNumber (s.part x.part))) else x.woken.elem i
def waitsMet (s : State) (x : QItem) : Bool := x.proof || (x.item.waits.zipIdx.all (fun (w, i) => waitMet s x i w))

/-- The head of a queue sends the TALLY_WAITs of its bound waits, once (R498). -/
def sendWaits (s : State) (q : Nat) : State :=
  match s.queue q with
  | [] => s
  | x :: rest =>
    if x.proof || !x.sent.isEmpty then s
    else
      let due := x.item.waits.zipIdx.filterMap (fun (w, i) => match bindingFor s x.part w.1 with
        | some b => if b.home = devId s then none else some (i, b, w.2)
        | none => none)
      if due.isEmpty then s
      else
        let (s, sent) := due.foldl (fun (a : State × List (Nat × Nat)) d =>
          let tag := a.1.net.tag % 2 ^ 32
          let m := sirMsg 4 0 d.2.1.home (devId a.1) x.part tag (stepNumber (a.1.part x.part) % 2 ^ 32) (d.2.1.sys * 2 ^ 48 + d.2.2) []
          let s := { a.1 with net := { a.1.net with tag := a.1.net.tag + 1 } }
          ((sirForward s 0 d.2.1.home m).bump pgStally 0x090 1, a.2 ++ [(tag, d.1)])) (s, [])
        s.setQueue q ({ x with sent := sent } :: rest)

/-- RESET of the partition's tallies; bound ones are left (R311, R498). The host's adds of this cycle come after it (R313; DEDUCED,
log entry 67). -/
def resetTallies (s : State) (p : Nat) : State :=
  let base := bits (s.partReg p 0x050) 31 16
  let n := bits (s.partReg p 0x050) 15 0
  let dead (e : Nat × Nat) : Bool := decide (base ≤ e.1) && decide (e.1 < base + n) && (bindingFor s p (e.1 - base)).isNone
  let s : State := { s with plans := { s.plans with
    tallies := s.plans.tallies.filter (fun e => !dead e), talliesDup := s.plans.talliesDup.filter (fun e => !dead e) } }
  (s.plans.hostAdds.filter (fun a => a.1 == s.clk.clock && dead (a.2.1, 0))).foldl
    (fun s a => s.setTally a.2.1 (min (s.tally a.2.1 + a.2.2) (2 ^ 32 - 1))) s

end Sys2Proof.Machine
end

