-- ==== Sys2Proof/Machine/StepOps.lean ====
section
/-! DEFINITION. What may befall a step while it runs: publication (R267–R273), abort (R84), failure and its attribution (R337–R339),
fences and moves of logical cores and engines (R294, R295, R382–R385), declarations and the safe state (R343–R346).
Readings: log entry 18 (DEDUCED), log entry 20 (DEDUCED), log entry 21 (DEDUCED), log entry 22 (DEDUCED), log entry 24 (DEDUCED), log entry 67 (DEDUCED). -/

namespace Sys2Proof.Machine

def pgSieve : Nat := 0x1C0
def pgSafe : Nat := 0x1D0
def pgProof : Nat := 0x1D1
def pgSt : Nat := 0x1D3
def pgInstar : Nat := 0x1A0
def pgPress : Nat := 0x180

/-! ### Units (R290) -/

/-- The units of a pair. -/
def pairUnits (s : State) (i : Nat) : List Nat := if (s.pair i).safe then [2 * i] else [2 * i, 2 * i + 1]
/-- The units of a partition in increasing core number. -/
def unitsOf (s : State) (p : Nat) : List Nat :=
  (List.range 20).flatMap (fun i => if !s.pairFused i && pairOwner s i == p then pairUnits s i else [])
/-- A unit is OVERDUE when a core of it is (R376). -/
def unitOverdue (s : State) (u : Nat) : Bool := (unitCores s u).any (fun n => (s.core n).overdue)
/-- Whether a unit is enabled: not fused off, not fenced, not held for a post-start coverage run (R439). -/
def unitUp (s : State) (u : Nat) : Bool := !s.coreFused u && !coreFenced s u
/-- Whether a partition may bind a unit: safety-relevant ones take no OVERDUE unit (R293, R376). -/
def usable (s : State) (p u : Nat) : Bool := unitUp s u && !(s.isSafety p && unitOverdue s u)

/-- Units of a partition that nothing is bound to. -/
def unboundUnits (s : State) (p : Nat) : List Nat :=
  (unitsOf s p).filter (fun u => usable s p u && !(s.part p).bind.elem (some u))
/-- Units of the device spare pool of a mode (R294): enabled, unfenced pairs that no partition owns; those of a quadrant first. -/
def poolUnits (s : State) (p : Nat) (safe : Bool) (quad : Nat) : List Nat :=
  let us := (List.range 20).flatMap (fun i =>
    if !s.pairFused i && pairOwner s i == 0xF && !pairFenced s i && (s.pair i).safe == safe then pairUnits s i else [])
  let us := us.filter (fun u => usable s p u)
  us.filter (fun u => u / 10 == quad) ++ us.filter (fun u => u / 10 != quad)
/-- Units that BEST_EFFORT partitions lend (R294): highest partition first. -/
def lendUnits (s : State) (p : Nat) (safe : Bool) : List Nat :=
  if s.isRT p then
    [7, 6, 5, 4, 3, 2, 1, 0].flatMap (fun q =>
      if q != p && !s.isRT q && bit (s.partReg q 0x040) 2 then
        (unitsOf s q).filter (fun u => (s.pair (u / 2)).safe == safe && usable s p u)
      else [])
  else []
/-- The units that a logical core may move to, in the order of R294, and the first. -/
def spareUnits (s : State) (p : Nat) (safe : Bool) (quad : Nat) : List Nat := unboundUnits s p ++ poolUnits s p safe quad ++ lendUnits s p safe
def findUnit (s : State) (p : Nat) (safe : Bool) (quad : Nat) : Option Nat := (spareUnits s p safe quad).head?

/-- The replacement of each bound logical core as QP records it (R450). -/
def sparesNow (s : State) : List ((Nat × Nat) × Nat) :=
  (List.range 8).flatMap (fun p => (s.part p).bind.zipIdx.filterMap (fun b =>
    b.1.bind (fun u => (findUnit s p (s.pair (u / 2)).safe (u / 10)).map (fun v => ((p, b.2), v)))))

/-- The unit that a logical core of a lost unit moves to: QP finds it (R294), and while QP restarts it is the one that QP last recorded (R450), as long as
that one can still be taken (DEDUCED, log entry 21). -/
def replacement (s : State) (p l old : Nat) : Option Nat :=
  if (s.proc 2).st = .run then findUnit s p (s.pair (old / 2)).safe (old / 10)
  else (s.plans.spares.lookup (p, l)).filter (fun u => (spareUnits s p (s.pair (old / 2)).safe (old / 10)).elem u)

/-! ### The work of a step -/

/-- Batch instances in use of class ci. -/
def usedBatches (st : StepRec) (ci : Nat) : Nat := (st.batches.filter (fun b => b.1 == ci)).length
/-- Items of the used instances of a class, and of the unused ones (R308). -/
def classItems (c : SClass) (nb : Nat) : List WorkItem := c.items.take (nb * c.nitems)
def unusedItems (c : SClass) (nb : Nat) : List WorkItem := c.items.drop (nb * c.nitems)
/-- The items of the step in emission order (R308). -/
def stepItems (s : State) (p : Nat) : List WorkItem :=
  match (s.part p).plan, (s.part p).step with
  | some pl, some st =>
    pl.steps.filter (fun i => !i.after)
    ++ (pl.classes.zipIdx.flatMap (fun (c, ci) => classItems c (usedBatches st ci)))
    ++ pl.steps.filter (fun i => i.after)
  | _, _ => []

/-- Insert by OUTPUT. -/
def insOutput (d : SieveDesc) : List SieveDesc → List SieveDesc
  | [] => [d]
  | e :: r => if d.output < e.output then d :: e :: r else e :: insOutput d r
/-- The Sieve descriptors of the step (R256) in increasing OUTPUT. -/
def stepOutputs (s : State) (p : Nat) : List SieveDesc := ((stepItems s p).filterMap (fun i => i.sieve)).foldr insOutput []

/-- Change the step in progress. -/
def State.modStep (s : State) (p : Nat) (f : StepRec → StepRec) : State :=
  s.modPart p (fun x => { x with step := x.step.map f })

/-- The publication deadline in device time (R315, R318). -/
def deadlineOf (s : State) (p : Nat) (st : StepRec) : Nat := st.start + s.budgetNs p
/-- Whether the deadline has come: what completes in its cycle counts as not complete (R275). -/
def pastDeadline (s : State) (p : Nat) : Bool :=
  match (s.part p).step with
  | some st => st.built && decide (deadlineOf s p st ≤ s.clk.dev)
  | none => false

/-! ### Publication (R267–R273) -/

/-- Whether the record that one of number seq overwrites is LOST for a HOST_RD (R273). -/
def overLost (slots seq hostRd : Nat) : Bool := decide (slots ≤ seq) && decide ((seq - slots + 2 ^ 32 - hostRd) % 2 ^ 32 < 2 ^ 31)

/-- HOST_RD is written: the overwrites of this cycle are judged against the new value (R275; DEDUCED, log entry 67). -/
def judgeOvers (s : State) (p hostRd : Nat) : State :=
  let x := s.part p
  if x.overAt ≠ s.clk.clock then s
  else match x.plan.bind (·.ring) with
    | none => s
    | some ring =>
      let c := 0x080 + 0x40 * p + 0x38
      let s := x.overs.foldl (fun s o =>
        let now := overLost (2 ^ ring.slotsLog2) o.1 hostRd
        if now && !o.2 then s.bump pgSieve c 1 else if o.2 && !now then s.unbump pgSieve c 1 else s) s
      s.modPart p (fun x => { x with overs := x.overs.map (fun o => (o.1, overLost (2 ^ ring.slotsLog2) o.1 hostRd)) })

/-- Publish a record of a descriptor: VALIDITY 1 VALID with its result, 2 LATE, 3 INVALID (R270). Where the ring lies in an outbound window the record is
sent too, and the item of a queue awaits the answers; whether one is refused already (R494, R496). -/
def publishFor (s : State) (p : Nat) (d : SieveDesc) (validity : Nat) (shed integrity : Bool) (res : Option SieveResult) (q : Option Nat) : State × Bool :=
  let x := s.part p
  match x.plan, x.step with
  | some pl, some st => match pl.ring with
    | none => (s, false)
    | some ring =>
      let h := partBytes s p d.hdrVa 64
      let batch := le h 1 1
      let entries := (List.range (le h 3 1)).map (fun m => partBytes s p (d.hdrVa + 64 + 32 * batch + 24 * m) 24)
      let valid := validity == 1
      let r := if valid then res.getD ⟨0, [], 0, 0, 0, false⟩ else ⟨0, [], 0, 0, 0, false⟩
      let bytes := recordBytes
        { validity := validity, shed := shed, integrity := integrity, safeState := validity == 3 && x.safe.isSome
          capped := decide (0 < r.capped), replayed := valid && st.replay, partition := p, output := d.output, op := d.op
          seq := x.wrSeq, step := st.n, publishNs := s.clk.dev, count := r.count, mask := le h 16 8, presel := r.presel
          entries := entries, payload := r.payload }
      let slots := 2 ^ ring.slotsLog2
      let c := 0x080 + 0x40 * p
      let hostRd := s.inForce (addr pgSieve (c + 0x18))
      let s := touchRange (touchRange s p p d.hdrVa (64 + 32 * batch + 24 * entries.length)) p p (ring.ringVa + x.wrSeq % slots * ring.slotBytes) bytes.length
      let at? := ring.ringVa + x.wrSeq % slots * ring.slotBytes
      let (s, bad) := sendWritten (partStore s p at? bytes) p q ((List.range bytes.length).map (at? + ·))
      let s := s.bump pgSieve (c + 0x20) 1
      let s := if validity = 2 then (s.bump pgSieve (c + 0x28) 1).logLimited 0x4101 p p 0xFF st.n else s
      let s := if validity = 3 then (s.bump pgSieve (c + 0x30) 1).logLimited 0x4102 p p 0xFF st.n else s
      let lost := overLost slots x.wrSeq hostRd
      let s := if lost then s.bump pgSieve (c + 0x38) 1 else s
      let s := s.modPart p (fun x => { x with wrSeq := x.wrSeq + 1, overAt := s.clk.clock
                                              overs := (if x.overAt = s.clk.clock then x.overs else []) ++ [(x.wrSeq, lost)] })
      (s.modStep p (fun st => { st with published := st.published ++ [(d.output, valid)] }), bad)
  | _, _ => (s, false)
/-- Publish a record that no item waits for. -/
def publish (s : State) (p : Nat) (d : SieveDesc) (validity : Nat) (shed integrity : Bool) (res : Option SieveResult) : State :=
  (publishFor s p d validity shed integrity res none).1

/-- Publish a LATE or INVALID record for every descriptor of the step that has none, in increasing OUTPUT (R272). -/
def publishMissing (s : State) (p validity : Nat) : State :=
  (stepOutputs s p).foldl (fun s d =>
    match (s.part p).step with
    | some st => if st.published.any (fun o => o.1 == d.output) then s else publish s p d validity false false none
    | none => s) s

/-! ### Abort (R84, R90, R149, R338) -/

/-- Prefetched pages that an item named are no longer protected (R172). -/
def dropPrefetch (s : State) (p id : Nat) : State :=
  s.modPart p (fun x => { x with prefetch := x.prefetch.filter (fun f => !(f.2.1 == id && f.2.2)) })

/-- A unit meets the stop condition (R22): once its array is idle too it stops, and until then it stays in RUN (R85). -/
def stopUnit (s : State) (u : Nat) : State :=
  let s := account s u
  let till := max s.clk.clock (max (s.core u).wordsTill (s.core u).tokensTill)
  modUnit s u (fun c => { c with clk := if c.clk = .run ∧ s.clk.clock < till then .run else if c.clk = .off then .off else .stopped, stopAt := some till })

/-- A unit whose array has become idle by now has stopped (R85). -/
def lapse (s : State) (u : Nat) : State :=
  if (s.core u).clk == .run && !s.inRun u then
    modUnit (account s u) u (fun c => { c with clk := if c.clk = .run then .stopped else c.clk })
  else s

/-- Whether the item at the head of a unit's queue can start (R22, R23). -/
def headReady (s : State) (u : Nat) : Bool := match s.queue (qCore u) with | x :: _ => waitsMet s x | [] => false

/-- Whether a unit has nothing to do (R22): no item, chunk, filler or coverage run is on it, and no item can start. -/
def unitIdle (s : State) (u : Nat) : Bool :=
  (s.run (qCore u)).isNone && !unitTesting s u && (s.core u).filler == 0 && !headReady s u

/-- A core stays in RUN when the next item can start at once, and stops otherwise (R22, R24). -/
def settleCore (s : State) (u : Nat) : State :=
  let s := lapse s u
  if unitRun s u && unitIdle s u && (s.core u).stopAt.isNone then stopUnit s u else s

/-- A pair is STOPPED when neither of its cores is in RUN (R25). -/
def pairStopped (s : State) (i : Nat) : Bool := !s.inRun (2 * i) && !s.inRun (2 * i + 1)

/-- A unit enters RUN: a wake, unless it met the stop condition in this very cycle (R24; DEDUCED, log entry 67) or its array is not idle yet (R85). A
pair that was STOPPED takes the frequency chosen for it (R25, R467). -/
def wakeUnit (s : State) (u : Nat) : State :=
  let s := lapse s u
  if unitRun s u then modUnit s u (fun c => { c with stopAt := none })
  else
    let same := (s.core u).stopAt == some s.clk.clock
    let s := if same then s else (unitCores s u).foldl (fun s n => s.bump (pgCore n) 0x098 1) s
    let i := u / 2
    let s := if pairStopped s i && !same then s.setPair i { s.pair i with freq := (s.pair i).next } else s
    modUnit s u (fun c => { c with clk := .run, stopAt := none, woke := !same, runAt := s.clk.clock, milli := if same then c.milli else 0, pos := 0 })

/-- The frequency that MP or the hardware chooses for a pair: a STOPPED pair takes it at its next wake (R25, R467). -/
def chooseFreq (s : State) (i f : Nat) : State :=
  if pairStopped s i then s.setPair i { s.pair i with next := f }
  else
    let s := (pairUnits s i).foldl account s
    s.setPair i { s.pair i with freq := f, next := f }

/-- A unit after something has changed what its queue can start: one that has nothing to do stops (R22), and one that met the stop condition in this
cycle stays in RUN where it has (R24). -/
def settleUnit (s : State) (u : Nat) : State :=
  let s := lapse s u
  if unitRun s u then if unitIdle s u then settleCore s u else modUnit s u (fun c => { c with stopAt := none })
  else if (s.core u).stopAt == some s.clk.clock && headReady s u && (s.core u).clk == .stopped then wakeUnit s u
  else s

/-- Every unit after something has changed what its queue can start. -/
def settleUnits (s : State) : State :=
  (List.range 40).foldl (fun s n =>
    if unitOf s n == n then settleUnit s n else s) s

/-- The contents of a unit's planes, banks and hawk state are undefined: free values (R71, R84, R90). -/
def undefUnit (s : State) (u : Nat) (active1 : Bool) : State :=
  let k := 2 ^ 64 * (s.fresh + 1)
  (modUnit s u (fun c => { c with array := freeArray k active1, hawk := freeHawk (k + 2 ^ 20), wordsTill := 0, tokensTill := 0 })).tick

/-- Filler on a unit ends: its slots count as idle, and planes and banks are undefined (R477, R478). -/
def endFiller (s : State) (u : Nat) : State :=
  if (s.core u).filler = 0 then s
  else
    let s := account s u
    let s := undefUnit s u (s.freeVal 2 == 1)
    modUnit s u (fun c => { c with filler := 0 })

/-- What the Sieve counts for an item: the positions capped and the candidates dropped, or the failed check (R260, R285). -/
def sieveCounts (s : State) (p : Nat) (res : SieveResult) : State :=
  if res.integrity then (s.bump pgSieve 0x068 1).logEntry 0x4103 p 0xFF (stepNumber (s.part p))
  else (s.bump pgSieve 0x058 res.capped).bump pgSieve 0x060 res.dropped

/-- Note that a Sieve item was taken out in this cycle, with what it would still have counted (R275). -/
def cutSieve (s : State) (q capped dropped : Nat) : State := { s with plans := { s.plans with sieveCut := some (s.clk.clock, q, capped, dropped) } }

/-- Output rows, or hawk stores, of an item. -/
def Running.rows (r : Running) (hawk : Bool) : Nat := (r.writes.filter (fun w => w.hawk == hawk)).foldl (fun m w => max m (w.row + 1)) 0

/-- Abort what a unit is running (R84, R90, R149): whole rows that its drain can have written by this cycle stay, and hawk stores that had reached the
sheet store; how many of each are free numbers, one for the array and one for the hawk path, and one for the outputs of a spectral item, which land in
the order in which the engine computes them (DEDUCED, log entry 75). The bytes of a spectral work buffer are undefined in any case (R150). Planes,
banks and hawk state are undefined after it; the active plane is the one that the tokens issued so far leave (DEDUCED, log entry 75). -/
def abortUnit (s : State) (q : Nat) : State :=
  match s.run q with
  | none => s
  | some r =>
    let p := r.item.part
    let s := if q < 40 then account s q else if q < 128 then accountEngine s (q - 64) else s
    let ka := s.freeVal ((if q < 40 then min (r.rows false) (r.line.rowsBy r.step (s.core q).pos) else r.rows false) + 1)
    let kh := s.tick.freeVal (r.rows true + 1)
    let s := touchPages s p (uplinkOf q) r.pages
    let put := r.writes.filter (fun w => if w.hawk then decide (40 ≤ q) || decide (w.row < kh) else decide (w.row < ka))
    let s := if r.landed || 128 ≤ q then s else (sendWritten (partWrites s p put).tick.tick p none (put.map (·.va))).1
    let s := { s.setRun q none with net := { s.net with remote := s.net.remote.filter (fun e => e.2 != q) } }
    let s := dropPrefetch s p r.item.id
    if q < 40 then
      let c := s.core q
      let tokens := ((r.line.tokens).filter (fun t => decide (t < c.pos))).length
      let s := undefUnit s q (if r.item.proof then s.freeVal 2 == 1 else c.array.active1 ^^ (tokens % 2 == 1))
      settleCore s q
    else if q < 128 then s
    else match r.result with
      -- what the Sieve had counted by then stands (R285)
      | some res =>
        if res.integrity then cutSieve (sieveCounts s p res) q 0 0
        else
          let (c, d) := (s.freeVal (res.capped + 1), s.tick.freeVal (res.dropped + 1))
          cutSieve ((s.tick.bump pgSieve 0x058 c).tick.bump pgSieve 0x060 d) q (res.capped - c) (res.dropped - d)
      | none => s

/-- Abort every item of a partition's step still queued or running. -/
def abortStep (s : State) (p : Nat) : State :=
  let s := (s.plans.running.filter (fun e => e.2.item.part == p)).foldl (fun s e => abortUnit s e.1) s
  settleUnits (allQueues.foldl (fun s q =>
    let l := s.queue q
    if l.any (fun x => x.part == p) then
      (l.filter (fun x => x.part == p)).foldl (fun s x => dropPrefetch s p x.id) (s.setQueue q (l.filter (fun x => x.part != p)))
    else s) s)

/-- The item a unit runs is aborted alone: the step can no longer complete. -/
def abortItem (s : State) (q : Nat) : State :=
  match s.run q with
  | none => s
  | some r => (abortUnit s q).modStep r.item.part (fun st => { st with lost := true })

/-! ### The safe state and declarations (R343–R346) -/

/-- A partition with SAFETY = 1 enters the safe state (R344): the cause's log code and the step. -/
def enterSafe (s : State) (p code : Nat) : State :=
  let x := s.part p
  if s.isSafety p && x.safe.isNone then
    let n := stepNumber x
    (((s.setPart p { x with safe := some (code, n), clearing := false }).bump pgSafe 0x070 1).logEntry 0x6107 p 0xFF n)
  else s

/-- The device safe state (R346): every safety-relevant partition enters the safe state. -/
def deviceSafe (s : State) (cause code : Nat) : State :=
  let s := if s.safety.dev = 0 then { s with safety := { s.safety with dev := cause } } else s
  (List.range 8).foldl (fun s p => enterSafe s p code) s

/-- A partition becomes SUSPENDED (R291): its step cannot go on. -/
def suspend (s : State) (p code : Nat) : State :=
  let s := s.modPart p (fun x => { x with st := .suspended })
  let s := (abortStep s p).modStep p (fun st => { st with lost := true })
  enterSafe s p code

/-! ### Moves (R294, R295, R341, R385) -/

/-- A running chunk of a unit aborts when work reaches it, and the core is reinitialised (R373); one granted in this very cycle has not started,
and its wake has not been (R377). A chunk of the set that was active before is not
taken up again: the next one is chunk 0 of the new list (R380). -/
def abortChunk (s : State) (u : Nat) : State :=
  let ns := (unitCores s u).filter (fun n => (s.core n).testing)
  if ns.isEmpty then s
  else
    let s := account s u
    let same := ns.all (fun n => (s.core n).chunkFrom == s.clk.clock)
    let s := if same && (s.core u).woke then
        let s := ns.foldl (fun s n => s.unbump (pgCore n) 0x098 1) s
        modUnit s u (fun c => { c with clk := .stopped, woke := false })
      else if same then s
      else undefUnit (s.bump pgSt 0x0A8 1) u (s.freeVal 2 == 1)
    let old (n : Nat) : Bool := s.selftest.coreBank.any (fun e => e.1 == n) && ns.elem n
    let s := modUnit s u (fun c => { c with testing := false })
    let s := ns.foldl (fun s n => if old n then s.setCore n { s.core n with progress := 0, suspect := false } else s) s
    let s := { s with selftest := { s.selftest with coreBank := s.selftest.coreBank.filter (fun e => !ns.elem e.1) } }
    settleCore s u

/-- A partition takes a unit: a pair of the pool or of a lender passes to it whole (DEDUCED, log entry 21). A lender whose bound unit is
taken becomes SUSPENDED. -/
def takeUnit (s : State) (p u code : Nat) : State :=
  let i := u / 2
  let o := pairOwner s i
  if o = p then s
  else
    let s := s.setPair i { s.pair i with owner := p }
    let s := s.modPart p (fun x => { x with pairsNow := x.pairsNow ||| BitVec.ofNat 20 (2 ^ i) })
    if o < 8 then
      let x := s.part o
      let hit := x.bind.any (fun b => match b with | some c => c / 2 == i | none => false)
      let s := s.setPart o { x with
        pairsNow := x.pairsNow &&& ~~~(BitVec.ofNat 20 (2 ^ i))
        bind := x.bind.map (fun b => match b with | some c => if c / 2 = i then none else some c | none => none)
        lost := x.lost ++ x.bind.zipIdx.filterMap (fun b => match b.1 with | some c => if c / 2 = i then some ⟨false, b.2, c, code⟩ else none | none => none) }
      if hit && (x.st == .loaded || x.st == .running || x.st == .stopping) then suspend s o code else s
    else s

/-- Put a logical core on a unit. -/
def bindCore (s : State) (p l u : Nat) : State :=
  (modUnit s u (fun c => { c with logical := l })).modPart p (fun x => { x with bind := x.bind.set l (some u) })

/-- A logical core goes on in a unit, its SHEET regions rebuilt there (R294, R295). -/
def placeCore (s : State) (p l u code : Nat) : State := settleUnit (endFiller (abortChunk (bindCore (takeUnit s p u code) p l u) u) u) u

/-- Move a logical core from its lost unit to the first unit of R294, with its queue; without one, a RUNNING or STOPPING partition
becomes SUSPENDED. -/
def moveCore (s : State) (p l old code : Nat) : State :=
  let s := modUnit s old (fun c => { c with logical := 0xFF })
  match replacement s p l old with
  | none =>
    let s := s.modPart p (fun x => { x with bind := x.bind.set l none, lost := x.lost ++ [⟨false, l, old, code⟩] })
    if s.active p then suspend s p code else s
  | some u =>
    let s := placeCore s p l u code
    let q := s.queue (qCore old)
    let s := (s.setQueue (qCore u) (s.queue (qCore u) ++ q.filter (fun x => x.part == p))).setQueue (qCore old) (q.filter (fun x => x.part != p))
    settleUnits (rebuildSheets s p l).1

/-- The logical core bound to a unit of a partition. -/
def logicalOf (s : State) (p u : Nat) : Option Nat := (s.part p).bind.findIdx? (fun b => b == some u)
def elogicalOf (s : State) (p q : Nat) : Option Nat := (s.part p).ebind.findIdx? (fun b => b == some q)

/-- Whether an instance is still to be tested in a rotation: those of a fenced unit or engine, which is OFF, are not (R367). -/
def stillTested (s : State) (c : Checker) : Bool :=
  match c with
  | .comparator i => !pairFenced s i.val
  | .entryDup i => !pairFenced s i.val
  | .coreParity n => !coreFenced s n.val
  | .pairClock i => !(pairUnits s i.val).all (fun u => coreFenced s u)
  | .crcCore n => !coreFenced s n.val
  | .engineChecked q => !(s.engine q.val).fenced
  | .frameTag i => decide (40 ≤ i) || !coreOut s i
  | _ => true

/-- A rotation completes when its last instance has passed (R366); what a fence takes away is tested no more. -/
def endRotation (s : State) : State :=
  let x := s.selftest
  let left := x.remaining.filter (stillTested s)
  let s := { s with selftest := { x with remaining := left } }
  if x.rotating && left.isEmpty then
    let last := min ((s.clk.dev - x.rotStart.getD 0) / 100000) 0xFFFF
    { s with selftest := { s.selftest with rotating := false, late := false, rotLast := last } }.bump pgSt 0x080 1
  else s

/-- Fenced cores go OFF: array, hawk state and sheet store lose their contents (R21); the sheet store then reads as unwritten memory
does (DESIGN CHOICE, log entry 5). -/
def powerOff (s : State) (ns : List Nat) : State :=
  ns.foldl (fun s n => (s.wipe (sheetFrame n 0) (64 * 65536)).setCore n
    { s.core n with fenced := true, clk := .off, filler := 0, stopAt := none, wordsTill := 0, tokensTill := 0, array := emptyArray, hawk := emptyHawk }) s

/-- Fence a core, or a whole SAFE pair, for a fault of a core where it is known which (R382–R384). -/
def fenceCore (s : State) (n cause : Nat) (faulty : Option Nat) : State :=
  if s.coreFused n || coreFenced s n then s
  else
    let u := unitOf s n
    let p := pairOwner s (n / 2)
    let s := endFiller (abortChunk (abortItem s (qCore u)) u) u
    let s := powerOff (account s u) (unitCores s u)
    -- the partner in a SPLIT pair is to run alone: it wakes, and stops again where it has no work (R22, R23)
    let o := if n % 2 = 0 then n + 1 else n - 1
    let s := if (s.pair (n / 2)).safe || (s.core o).clk == .off || s.inRun o then s else settleCore (wakeUnit s o) o
    let s := { s with aon := { s.aon with faults := s.aon.faults ++ [(⟨n / 2, if (s.pair (n / 2)).safe then faulty else some n, cause⟩ : FaultRec)] } }
    let x := s.part p
    let s := (s.bump pgSt 0x0B8 1).logEntry cause (if p < 8 then p else 0xFF) n (if p < 8 then stepNumber x else 0)
    let s := endRotation s
    if p < 8 then
      match logicalOf s p u with
      | some l => moveCore s p l u cause
      | none => s
    else s

/-- The engine that a logical engine moves to (R385). -/
def findEngine (s : State) (p : Nat) : Option Nat :=
  let up := (List.range 4).filter (fun q => !(s.engine q).fenced && !(s.engine q).off)
  (up.filter (fun q => engineOwner s q == p && !(s.part p).ebind.elem (some q)) ++ up.filter (fun q => engineOwner s q == 0xF)).head?

/-- A logical engine goes on in an engine (R385). -/
def placeEngine (s : State) (p l e : Nat) : State :=
  (s.setEngine e { s.engine e with owner := p }).modPart p (fun x => { x with ebind := x.ebind.set l (some e) })

/-- Find units and engines for what has none, as LAUNCH needs (R291, R294, R385); a partition for which none can be found is SUSPENDED. -/
def restoreUnits (s : State) (p : Nat) : State :=
  let find (s : State) (w : LostUnit) : State :=
    if !s.active p then s
    else if w.engine then
      match findEngine s p with
      | some e => placeEngine s p w.logical e
      | none => suspend s p w.code
    else match findUnit s p (s.pair (w.old / 2)).safe (w.old / 10) with
      | some u => (rebuildSheets (placeCore s p w.logical u w.code) p w.logical).1
      | none => suspend s p w.code
  let s := (s.part p).lost.foldl find s
  s.modPart p (fun x => { x with lost := x.lost.filter (fun w =>
    if w.engine then (x.ebind.getD w.logical none).isNone else (x.bind.getD w.logical none).isNone) })

/-- Fence a spectral engine (R385). -/
def fenceEngine (s : State) (q cause : Nat) : State :=
  let e := s.engine q
  if e.fenced then s
  else
    let p := e.owner
    let s := abortItem s (qSpec q)
    let s := s.setEngine q { s.engine q with fenced := true }
    let s := endRotation ((s.bump pgSt 0x0B8 1).logEntry cause (if p < 8 then p else 0xFF) (0x40 + q) (if p < 8 then stepNumber (s.part p) else 0))
    if p < 8 then
      match elogicalOf s p q with
      | none => s
      | some l => match findEngine s p with
        | none =>
          let s := s.modPart p (fun x => { x with ebind := x.ebind.set l none, lost := x.lost ++ [⟨true, l, q, cause⟩] })
          if s.active p then suspend s p cause else s
        | some e' =>
          let s := placeEngine s p l e'
          let w := s.queue (qSpec q)
          (s.setQueue (qSpec e') (s.queue (qSpec e') ++ w)).setQueue (qSpec q) []
    else s

/-! ### Failures (R337–R339) -/

/-- Strikes of the last 60 s of device time. -/
def recent (s : State) (ts : List Nat) : List Nat := ts.filter (fun t => decide (s.clk.dev < t + 60000000000))

/-- Record a strike; a unit or engine that already had one is fenced (R339 step 1). -/
def strike (s : State) (u : UnitId) : State :=
  match u with
  | .core n =>
    let k := unitOf s n
    let c := s.core k
    let s' := (s.setCore k { c with strikes := s.clk.dev :: recent s c.strikes }).bump (pgPair (k / 2)) 0x058 1
    if (recent s c.strikes).isEmpty then s' else fenceCore s' k 0x6111 none
  | .engine q =>
    let e := s.engine q
    let s' := s.setEngine q { e with strikes := s.clk.dev :: recent s e.strikes }
    if (recent s e.strikes).isEmpty then s' else fenceEngine s' q 0x6111

/-- Whether SP decides: it runs (R450, R355). -/
def spUp (s : State) : Bool := (s.proc 1).st == .run

/-- A failure is attributed: SP records the strike, or does when it is back (R339, R450). -/
def oweStrike (s : State) (u : UnitId) : State :=
  if spUp s then strike s u else { s with safety := { s.safety with owed := s.safety.owed ++ [u] } }
/-- SP is back: it records the strikes that it owes. -/
def payStrikes (s : State) : State :=
  let us := s.safety.owed
  us.foldl strike { s with safety := { s.safety with owed := [] } }

/-- The strike that a failed attempt owes, where SP has not decided on it (R339). -/
def claimStrike (s : State) (p : Nat) : State :=
  match (s.part p).step with
  | none => s
  | some st => match st.fail with
    | none => s
    | some f => match f.unit with
      | none => s
      | some u => oweStrike (s.modStep p (fun st => { st with fail := some { f with unit := none } })) u

/-- The step's outputs are declared invalid: its items stay aborted, the missing records are INVALID. A strike that SP has not recorded yet stands. -/
def declareInvalid (s : State) (p code : Nat) : State :=
  match (s.part p).step with
  | none => s
  | some st =>
    if st.declared then s
    else
      let s := claimStrike s p
      let s := abortStep (s.modStep p (fun st => { st with declared := true, fail := none })) p
      let s := (s.bump pgSafe 0x078 1).logEntry 0x6106 p 0xFF st.n
      publishMissing (enterSafe s p code) p 3

/-- A failure of a step: every item of it is aborted and SP is told (R338). Where no step can fail any more — none is in progress,
an attempt has already failed, its outputs are declared invalid, or the partition is in the safe state — it is only recorded and
attributed. -/
def failStep (s : State) (p code : Nat) (replayable : Bool) (u : Option UnitId) : State :=
  let attributed : State := match u with
    | some u => oweStrike s u
    | none => s
  match (s.part p).step with
  | none => attributed
  | some st =>
    if st.fail.isNone && !st.declared && (s.part p).safe.isNone then
      abortStep (s.modStep p (fun st => { st with fail := some ⟨s.clk.dev, code, replayable, u⟩ })) p
    else attributed

/-- Fence a core for a cause other than a second strike: a step that runs on it fails first, so that it is handled under R337 to R340 also where no
unit is left (R337, R383). SP fences nothing while it restarts
(R450). -/
def fenceUnit (s : State) (n cause : Nat) (faulty : Option Nat) : State :=
  let p := pairOwner s (n / 2)
  let bound := p < 8 ∧ (logicalOf s p (unitOf s n)).isSome ∧ coreFenced s n = false ∧ s.coreFused n = false
  if !spUp s then s
  else fenceCore (if bound ∧ (s.part p).step.isSome then failStep s p cause true none else s) n cause faulty
def fenceEngineUnit (s : State) (q cause : Nat) : State :=
  let p := engineOwner s q
  let bound := p < 8 ∧ (elogicalOf s p q).isSome ∧ (s.engine q).fenced = false
  if !spUp s then s
  else fenceEngine (if bound ∧ (s.part p).step.isSome then failStep s p cause true none else s) q cause

/-- Allocatable frames left of a core's sheet store. -/
def sheetLeft (s : State) (c : Nat) : Nat := 62 - (s.aon.retiredSheet.filter (fun r => r.1 == c && decide (r.2 < 62))).length

/-- Whether R179 fences a core: fewer frames than its partition's quota, or a retired frame in the device reserve. -/
def sheetShort (s : State) (c : Nat) : Bool :=
  let p := pairOwner s (c / 2)
  (decide (p < 8) && decide (sheetLeft s c < quotaSheet s p)) || s.aon.retiredSheet.any (fun r => r.1 == c && decide (62 ≤ r.2))

/-- The fences of R179 that are due: after a start's SRAM test, a quota or an owner in force, and when SP is back (R382, R450). -/
def dueFences (s : State) : State :=
  if s.aon.retiredSheet.isEmpty then s
  else
    let s := (List.range 40).foldl (fun s c =>
      if (sheetShort s c || s.safety.owedFences.elem c) && !coreFenced s c && !s.coreFused c then fenceUnit s c 0x620B (some c) else s) s
    if spUp s then { s with safety := { s.safety with owedFences := [] } } else s

/-- The partition whose item a queue's unit runs. -/
def runPart (s : State) (q : Nat) : Option Nat := (s.run q).map (fun r => r.item.part)
/-- The unit of a queue. -/
def unitIdOf (q : Nat) : Option UnitId :=
  if h : q < 40 then some (.core ⟨q, h⟩) else if h : q - 64 < 4 then (if 64 ≤ q then some (.engine ⟨q - 64, h⟩) else none) else none

/-- The UNIT of a log entry for a queue (R454). -/
def queueUnit (q : Nat) : Nat := if q < 40 then q else if q < 128 then 0x40 + (q - 64) else 0xFF

/-- An item is refused before it starts, because its CRC is wrong on arrival: a replayable failure that blames no unit (R328, R337). -/
def crcRefuse (s : State) (q : Nat) (x : QItem) : State :=
  let s := (s.setQueue q ((s.queue q).filter (fun y => y.id != x.id))).modStep x.part (fun st => { st with lost := true })
  let s := dropPrefetch s x.part x.id
  settleUnits (failStep ((s.bump pgSt 0x0D8 1).logEntry 0x610E x.part (queueUnit q) (stepNumber (s.part x.part))) x.part 0x610E true none)

/-- The item that a queue's unit runs is aborted and its step fails. -/
def failItem (s : State) (q code : Nat) (replayable : Bool) (u : Option UnitId) : State :=
  match s.run q with
  | none => s
  | some r => failStep (abortItem s q) r.item.part code replayable u

end Sys2Proof.Machine
end

