-- ==== Sys2Proof/Machine/VatSlots.lean ====
section
/-! DEFINITION. Frame slots, outcomes and watermarks of the Vat (R207–R218), position buffers and handover (R249–R253), and the
assembly of frame sets (R219–R225).
Readings: log entry 50 (DEDUCED). -/

namespace Sys2Proof.Machine

/-! ### Slots -/

/-- The slot of a channel, none when FREE. -/
def slotOf (x : ChanSt) (k : Nat) : Option Slot := x.slots.lookup k
/-- Put or free a slot; the numbers rise. -/
def setSlot (x : ChanSt) (k : Nat) (v : Option Slot) : ChanSt :=
  let cut := x.slots.filter (fun e => e.1 != k)
  match v with
  | none => { x with slots := cut }
  | some z => { x with slots := cut.filter (fun e => e.1 < k) ++ (k, z) :: cut.filter (fun e => k < e.1) }
def State.slot (s : State) (ch k : Nat) : Option Slot := slotOf (s.chan ch) k
def State.setSlot (s : State) (ch k : Nat) (v : Option Slot) : State := s.setChan ch (Machine.setSlot (s.chan ch) k v)

/-- The slot for a frame that starts: a FREE one, or the READY one with the oldest capture time (R217). Slots that a lower NSLOTS has cut off keep
their frames and take no new ones (DEDUCED, log entry 50). -/
def takeSlot (x : ChanSt) (nslots : Nat) : Option Nat :=
  match (List.range nslots).find? (fun k => (slotOf x k).isNone) with
  | some k => some k
  | none =>
    let ready := x.slots.filter (fun e => e.1 < nslots && e.2.st == .ready && e.2.holders.isEmpty)
    match ready with
    | [] => none
    | e :: r => some (r.foldl (fun b z => if z.2.wm.captureNs < b.2.wm.captureNs then z else b) e).1

/-! ### Watermarks and outcomes -/

/-- The 32 bytes of a watermark (R211). -/
def wmBytes (w : Watermark) : Bytes :=
  let b := toLE 8 w.devFrame ++ toLE 8 (w.captureNs.emod (2 ^ 64)).toNat ++ toLE 4 w.sensorCount ++ toLE 1 w.channel ++ toLE 1 w.flags
    ++ toLE 1 w.stage ++ toLE 1 1 ++ toLE 4 w.dataCrc
  b ++ toLE 4 (crc32c b)

/-- Record the outcome of a frame (R210): history of the last 16 frames, status, counter, log code. `ends`: the frame's reception ends with it, which
makes it the channel's last frame; a later outcome changes LAST_STATUS only when it is that frame's (R229). -/
def outcome (s : State) (ch status : Nat) (capture : Option Int) (devFrame : Nat) (ends : Bool) : State :=
  let x := s.chan ch
  let keep := if status = 0 then x.history
    else x.history.filter (fun h => !(h.status == 0 && h.capture == capture && h.devFrame == devFrame && capture.isSome))
  let last := ends || x.lastDev == some devFrame
  let s := s.setChan ch
    { x with history := (⟨capture, status, devFrame, none⟩ :: keep).take 16, lastStatus := if last then status else x.lastStatus
             lastDev := if ends then (if status = 0 then some devFrame else none) else x.lastDev }
  if status = 0 then s.bump (pgChan ch) 0x080 1
  else
    let p := (chanOwner s ch).getD 0xFF
    let step := if p < 8 then stepNumber (s.part p) else 0
    (s.bump (pgChan ch) (0x088 + 8 * status) 1).logLimited (0x3100 + status) ch p (0x80 + ch) step

/-- A frame in a slot ends with a status other than ACCEPTED: the slot is FREE. -/
def dropSlot (s : State) (ch k status : Nat) : State :=
  match s.slot ch k with
  | none => s
  | some z => outcome (s.setSlot ch k none) ch status (some z.wm.captureNs) z.wm.devFrame false

/-- An accepted frame has been shaped: its outcome notes it (R220). -/
def noteShaped (s : State) (ch dev : Nat) : State :=
  let x := s.chan ch
  s.setChan ch { x with history := x.history.map (fun h =>
    if h.status = 0 ∧ h.devFrame = dev ∧ h.shapedAt = none then { h with shapedAt := some s.clk.clock } else h) }

/-- A stage completes in the very cycle in which its budget expired, which has been reported first: it has completed (R215). The frame is in its slot
again, where that is still FREE, and its outcome ACCEPTED. -/
def reviveSlot (s : State) (ch k : Nat) : State :=
  match s.vat.expired with
  | some (t, c, j, z) =>
    if t = s.clk.clock ∧ c = ch ∧ j = k ∧ (s.slot ch k).isNone = true then
      let s := s.setSlot ch k (some z)
      let x := s.chan ch
      let s := s.setChan ch { x with
        history := x.history.map (fun h => if h.status = 7 ∧ h.devFrame = z.wm.devFrame then { h with status := 0 } else h)
        lastStatus := if x.lastDev = some z.wm.devFrame then 0 else x.lastStatus }
      let s := s.unbump (pgChan ch) (0x088 + 8 * 7) 1
      let mine (e : LogEntry) : Bool := e.code == 0x3107 && e.unit == 0x80 + ch && e.time == s.clk.dev
      let s := if s.log.queue.any mine then
          { s with log := { s.log with
              queue := s.log.queue.filter (fun e => !mine e), holdoff := s.log.holdoff.filter (fun e => e.1 != (0x3107, ch)) } }
        else s
      { s with vat := { s.vat with expired := none } }
    else s
  | none => s

/-- SP's reaction to an INTEGRITY frame (R386): three of one channel within 1 s declare the current step of a safety-relevant
partition invalid. -/
def integrityReport (s : State) (ch : Nat) : State :=
  let x := s.chan ch
  let l := s.clk.dev :: x.integrity.filter (fun t => decide (s.clk.dev < t + 1000000000))
  let s := s.setChan ch { x with integrity := l.take 3 }
  match chanOwner s ch with
  | none => s
  | some p =>
    if s.isSafety p && decide (3 ≤ l.length) && spUp s then
      match (s.part p).step with
      | some st => if st.declared then s else declareInvalid s p 0x3109
      | none => enterSafe s p 0x3109
    else s

/-- A watermark check fails (R212): the frame becomes INTEGRITY. -/
def integritySlot (s : State) (ch k : Nat) : State := integrityReport (dropSlot s ch k 9) ch

/-! ### Position buffers (R247–R251) -/

/-- Where position s of an input record begins. -/
def posVa (r : InputRec) (pos : Nat) : Nat := r.inVa + 65536 + pos * r.sampleBytes

/-- Whether the buffers of an input record are LOCKED: the step in progress has assembled its group. -/
def locked (ps : PartSt) (r : InputRec) : Bool :=
  match ps.step with
  | some st => st.sets.any (fun f => f.group == r.fgroup)
  | none => false

/-- The sample of a frame for an input record: stage 9's result, or the records of a POINTS frame (R242). -/
def sampleFor (z : Slot) (r : InputRec) : Option (List SampleCell) :=
  match z.decoded with
  | some (.points recs) => some (pointsSample r.dims (recs.take r.dims))
  | _ => z.sample

/-- Whether a frame has been shaped: stage 9 complete, or parsed for POINTS. -/
def shaped (z : Slot) : Bool :=
  z.st == .ready && (z.sample.isSome || (match z.decoded with | some (.points _) => true | _ => false))

/-- Write one cell: all its bits, or one nibble (R31). -/
def writeCell (s : State) (p va : Nat) (c : SampleCell) : State :=
  let a := va + c.off
  let old := ((partByte s p a).getD 0).toNat
  let v := if c.mask = 0x0F then old / 16 * 16 + c.val % 16
    else if c.mask = 0xF0 then c.val / 16 * 16 + old % 16
    else c.val
  partWrite s p a (BitVec.ofNat 8 v)

/-- Zero a range of a partition's memory page by page. -/
def zeroPages : Nat → State → Nat → Nat → Nat → State
  | 0, s, _, _, _ => s
  | fuel + 1, s, p, va, n =>
    if n = 0 then s
    else
      let len := min n (65536 - va % 65536)
      let s := match access s p va true with
        | .ok (key, e) =>
          let s := (writeBases s e).foldl (fun s a => s.wipe (a + va % 65536) len) s
          s.setPte p key { e with dirty := !e.wt, written := true, used := s.usNow }
        | .error _ => s
      zeroPages fuel s p (va + len) (n - len)

/-- Put the buffer of a position: the watermark of the frame it holds, none. -/
def setBuffer (s : State) (p i pos : Nat) (w : Option Watermark) : State :=
  s.modPart p (fun x => { x with
    buffers := (match w with | some w => [((i, pos), w)] | none => []) ++ x.buffers.filter (fun b => b.1 != (i, pos))
    handovers := x.handovers.filter (fun b => b.1 != (i, pos)) })

/-- Write a slot's sample into a position buffer and its watermark as stage 10. -/
def copySample (s : State) (p i pos : Nat) (r : InputRec) (z : Slot) : State :=
  match sampleFor z r with
  | none => s
  | some cells =>
    let s := touchRange s p 15 (posVa r pos) r.sampleBytes
    let s := cells.foldl (fun s c => writeCell s p (posVa r pos) c) s
    setBuffer s p i pos (some { z.wm with stage := 10, dataCrc := crc32c (sampleBytes cells) })

/-- Begin a stage-10 write unless the buffer is LOCKED or holds a frame with a later capture time (R249). The buffer holds no frame
until the write completes. -/
def startHandover (s : State) (p i pos ch k : Nat) : State :=
  let x := s.part p
  match x.plan, s.slot ch k with
  | some pl, some z => match pl.inputs[i]? with
    | none => s
    | some r =>
      let held := match x.buffers.lookup (i, pos) with
        | some w => decide (z.wm.captureNs ≤ w.captureNs)
        | none => false
      let busy := match x.handovers.lookup (i, pos) with
        | some (c, j, f) => (match s.slot c j with
            | some y => y.wm.devFrame == f && decide (z.wm.captureNs ≤ y.wm.captureNs)
            | none => false)
        | none => false
      if locked x r || held || busy then s
      else s.setPart p { x with
        buffers := x.buffers.filter (fun b => b.1 != (i, pos))
        handovers := ((i, pos), (ch, k, z.wm.devFrame)) :: x.handovers.filter (fun b => b.1 != (i, pos)) }
  | _, _ => s

/-- A frame of a channel has been shaped: stage 10 begins. -/
def handover (s : State) (ch k : Nat) : State :=
  match inputsFor s ch with
  | some (p, i, _, pos) => startHandover s p i pos ch k
  | none => s

/-- The newest shaped frame of a channel: slot number. -/
def newestShaped (s : State) (ch : Nat) : Option Nat :=
  match (s.chan ch).slots.filter (fun e => shaped e.2) with
  | [] => none
  | e :: r => some (r.foldl (fun b z => if b.2.wm.captureNs < z.2.wm.captureNs then z else b) e).1

/-- The channel that is position pos's member (R247, R219). -/
def posChannel (s : State) (p : Nat) (r : InputRec) (pos : Nat) : Option Nat :=
  if pos < r.members then (groupMembers s p r.fgroup).find? (fun ch => (s.chanCfg ch).member == r.memberFirst + pos) else none

/-- On release each buffer takes the newest shaped frame of its member (R251). The step is over: nothing is LOCKED. -/
def refreshBuffers (s : State) (p : Nat) (sets : List FrameSet) : State :=
  match (s.part p).plan with
  | none => s
  | some pl => (pl.inputs.zipIdx.filter (fun e => sets.any (fun f => f.group == e.1.fgroup))).foldl (fun s e =>
      (List.range e.1.members).foldl (fun s pos => match posChannel s p e.1 pos with
        | some ch => (match newestShaped s ch with
            | some k => startHandover s p e.2 pos ch k
            | none => s)
        | none => s) s) s

/-- Slots that a step holds are released (R217). -/
def releaseSlots (s : State) (p n : Nat) : State :=
  (List.range 32).foldl (fun s ch =>
    let x := s.chan ch
    if x.slots.any (fun e => e.2.holders.elem (p, n)) then
      s.setChan ch { x with slots := x.slots.map (fun e => (e.1, { e.2 with holders := e.2.holders.filter (fun h => h != (p, n)) })) }
    else s) s

/-! ### Assembly (R219–R225) -/

/-- The window of a channel at tick T (R219). -/
def window (c : ChanCfg) (t : Nat) : Int × Int :=
  let mid : Int := (t : Int) - c.alignOff * 1000
  (mid - c.alignTol * 1000, mid + c.alignTol * 1000)
def inside (w : Int × Int) (t : Int) : Bool := decide (w.1 ≤ t) && decide (t ≤ w.2)

/-- The frame that a member selects: the candidate with the latest capture time; shaping was complete before this cycle. -/
def select (s : State) (ch t : Nat) : Option (Nat × Slot) :=
  let w := window (s.chanCfg ch) t
  let cand := (s.chan ch).slots.filter (fun e => shaped e.2 && inside w e.2.wm.captureNs
    && (match e.2.readyAt with | some r => decide (r < s.clk.clock) | none => false))
  match cand with
  | [] => none
  | e :: r => some (r.foldl (fun b z => if b.2.wm.captureNs < z.2.wm.captureNs then z else b) e)

/-- CAUSE of an ABSENT member (R220): the outcome with the latest capture time in the window, the one recorded last of equal ones. -/
def absentCause (s : State) (ch t : Nat) : Nat :=
  let w := window (s.chanCfg ch) t
  let hs := (s.chan ch).history.filterMap (fun h => match h.capture with
    | some c => if inside w c then some (c, h) else none
    | none => none)
  match hs with
  | [] => 0xF
  | h :: r =>
    let b := (r.foldl (fun (b : Int × History) z => if b.1 < z.1 then z else b) h).2
    if b.status ≠ 0 then b.status
    else if b.shapedAt.any (fun t => decide (t < s.clk.clock)) then 0 else 0xE

/-- The 24 bytes of a frame-set entry (R221). -/
def entryBytes (e : FrameEntry) : Bytes :=
  let f := match e.wm with | some w => w.flags % 8 | none => 0
  (match e.wm with
    | some w => toLE 8 (w.captureNs.emod (2 ^ 64)).toNat ++ toLE 8 w.devFrame ++ toLE 4 w.sensorCount
    | none => List.replicate 20 0)
  ++ toLE 1 e.ch ++ toLE 1 (e.cause * 16 + e.status) ++ toLE 1 (8 * b2n e.timeout + f) ++ toLE 1 0

/-- Select for every member of a group (R219, R220). -/
def selectGroup (s : State) (p group t : Nat) (timeouts : List Nat) : List FrameEntry :=
  let prev := ((s.part p).lastSets.lookup group).getD []
  (groupMembers s p group).map (fun ch =>
    let m := (s.chanCfg ch).member
    let late := timeouts.elem ch
    match select s ch t with
    | some (k, z) => ⟨m, ch, some k, some z.wm, if prev.elem (ch, z.wm.devFrame) then 1 else 0, 0, late⟩
    | none => ⟨m, ch, none, none, 2, absentCause s ch t, late⟩)

/-- Copy the selected samples into buffers that do not hold them; a failed check makes the entry ABSENT with CAUSE INTEGRITY (R250). -/
def fillRecord (s : State) (p i : Nat) (r : InputRec) (es : List FrameEntry) : State × List FrameEntry :=
  (List.range r.members).foldl (fun (a : State × List FrameEntry) pos =>
    match a.2.find? (fun e => e.member == r.memberFirst + pos) with
    | none => a
    | some e => match e.slot, e.wm with
      | some k, some w =>
        let s := a.1
        if ((s.part p).buffers.lookup (i, pos)).any (fun b => b.devFrame == w.devFrame) then a
        else match s.slot e.ch k with
          | none => a
          | some z =>
            if z.corrupt then
              (integritySlot s e.ch k, a.2.map (fun x => if x.ch = e.ch then { x with slot := none, wm := none, status := 2, cause := 9 } else x))
            else (copySample s p i pos r z, a.2)
      | _, _ => a) (s, es)

/-- Zero positions, batch header and tally add of one input record (R250, R252). -/
def headRecord (s : State) (p i step gm : Nat) (r : InputRec) (es : List FrameEntry) : State :=
  let sel (pos : Nat) : Bool := decide (pos < r.members) && es.any (fun e => e.member == r.memberFirst + pos && e.wm.isSome)
  let s := (List.range r.batch).foldl (fun s pos =>
    if sel pos then s else setBuffer (zeroPages (r.sampleBytes / 65536 + 2) s p (posVa r pos) r.sampleBytes) p i pos none) s
  let mask := sumNat ((List.range r.batch).map (fun pos => if sel pos then 2 ^ pos else 0))
  let marks := (List.range r.batch).flatMap (fun pos =>
    if sel pos then (match (s.part p).buffers.lookup (i, pos) with | some w => wmBytes w | none => List.replicate 32 0)
    else List.replicate 32 0)
  let head := toLE 1 1 ++ toLE 1 r.batch ++ toLE 1 r.members ++ toLE 1 gm ++ toLE 4 0 ++ toLE 8 step ++ toLE 8 mask
    ++ List.replicate 40 0
  let bytes := head ++ marks ++ es.flatMap entryBytes
  let s := partStore (touchRange s p 15 r.inVa bytes.length) p r.inVa bytes
  tallyAdd s p r.tally 1

/-- What an assembly does with a member's channel: HELD slot, LAST_MEMBER, ABSENT_RUN and the lost-stream report (R217, R223). -/
def noteMember (s : State) (p n : Nat) (e : FrameEntry) : State :=
  let s := match e.slot with
    | some k => (match s.slot e.ch k with
        | some z => s.setSlot e.ch k (some { z with holders := z.holders ++ [(p, n)] })
        | none => s)
    | none => s
  let x := s.chan e.ch
  let run := if e.status = 2 then min (x.absentRun + 1) 255 else 0
  let lim := (s.chanCfg e.ch).absentLimit
  let lost := e.status == 2 && lim != 0 && decide (lim ≤ run) && !x.lostReported
  let s := s.setChan e.ch { x with lastMember := e.status, absentRun := run
                                   lostReported := if e.status = 0 then false else x.lostReported || lost }
  let s := if e.status = 2 then s.bump (pgChan e.ch) 0x0E0 1 else s
  if lost then s.logEntry 0x3110 p (0x80 + e.ch) n else s

/-- Assemble a group for the step in progress (R219–R224, R250): `timeouts` are the members resolved by HOLD_LIMIT. -/
def assembleGroup (s : State) (p group : Nat) (timeouts : List Nat) : State :=
  match (s.part p).step with
  | none => s
  | some st =>
    let recs : List (InputRec × Nat) := match (s.part p).plan with
      | some pl => pl.inputs.zipIdx.filter (fun e => e.1.fgroup == group)
      | none => []
    let es := selectGroup s p group st.tick timeouts
    let (s, es) := recs.foldl (fun (a : State × List FrameEntry) e => fillRecord a.1 p e.2 e.1 a.2) (s, es)
    let s := es.foldl (fun s e => noteMember s p st.n e) s
    let s := recs.foldl (fun s e => headRecord s p e.2 st.n es.length e.1 es) s
    let s := s.modStep p (fun st => { st with sets := st.sets ++ [⟨group, es⟩], waits := st.waits.filter (fun w => w.group != group) })
    s.modPart p (fun x => { x with
      lastSets := (group, es.filterMap (fun e => e.wm.map (fun w => (e.ch, w.devFrame)))) :: x.lastSets.filter (fun l => l.1 != group) })

/-- The groups of a partition: those with members, and those of its input records. -/
def groupsOf (s : State) (p : Nat) : List Nat :=
  (List.range 16).filter (fun g => !(groupMembers s p g).isEmpty
    || (match (s.part p).plan with | some pl => pl.inputs.any (fun r => r.fgroup == g) | none => false))

/-- Members with HOLD = 1 of a group (R224). -/
def holdMembers (s : State) (p group : Nat) : List Nat := (groupMembers s p group).filter (fun ch => (s.chanCfg ch).hold)

/-- First condition of R224: every frame of the member in the window has finished, and a later one has passed check 1. -/
def settledMember (s : State) (ch t : Nat) : Bool :=
  let w := window (s.chanCfg ch) t
  let x := s.chan ch
  let open_ := x.slots.any (fun e => inside w e.2.wm.captureNs && (e.2.st == .decoding || e.2.st == .shaping
      || (match e.2.readyAt with | some r => decide (s.clk.clock ≤ r) | none => false)))
    || (match x.rx with | some f => (match f.capture with | some c => inside w c | none => false) | none => false)
  (match x.newestSeen with | some c => decide (w.2 < c) | none => false) && !open_

/-- Whether every waited-for member of a group is resolved: marked, or by the first condition, as it holds at this instant and not as it once held (R224;
DEDUCED, log entry 50); one that is disabled meanwhile is a member no more. -/
def holdResolved (s : State) (w : HoldWait) (t : Nat) : Bool :=
  w.members.all (fun m => m.2 != 0 || settledMember s m.1 t || !((s.chanCfg m.1).en && (s.chanCfg m.1).hold))

end Sys2Proof.Machine
end

