-- ==== Sys2Proof/Machine/Display.lean ====
section
/-! DEFINITION. The display encoder (R277–R284): composition at the owner's tick, the display watermark, the packets.
Readings: log entry 13 (PRESUMED), log entry 74 (DESIGN CHOICE), log entry 26 (PRESUMED), log entry 51 (DEDUCED). -/

namespace Sys2Proof.Machine

def pgDisp : Nat := 0x1C1

/-- A register of stream n. -/
def dispReg (s : State) (n off : Nat) : Nat := s.inForce (addr pgDisp (0x100 + 0x80 * n + off))

/-- The ring of a partition's loaded plan. -/
def ringOf (s : State) (p : Nat) : Option RingRec :=
  match (s.part p).plan with
  | some pl => pl.ring
  | none => none
/-- The record that lies i records behind the newest one. -/
def ringBack (s : State) (p : Nat) (ring : RingRec) (i : Nat) : Nat := ring.ringVa + ((s.part p).wrSeq - 1 - i) % 2 ^ ring.slotsLog2 * ring.slotBytes
/-- The tick at which the display composes: that of its owner's step. -/
def dispTick (s : State) : Nat :=
  match dispOwner s with
  | some p => (match (s.part p).step with | some st => st.tick | none => s.clk.dev)
  | none => s.clk.dev
/-- How far back the newest record of an output that was published VALID before the tick lies in the ring's reach (R281, R282). -/
def newestAt (s : State) (p output op : Nat) (ring : RingRec) : Option Nat :=
  (List.range (min (s.part p).wrSeq (2 ^ ring.slotsLog2))).find? (fun i =>
    let h := partBytes s p (ringBack s p ring i) 64
    le h 1 1 == 1 && le h 4 2 == output && le h 6 1 == op && decide (le h 24 8 < dispTick s))
def newestValid (s : State) (p output op : Nat) : Option Bytes :=
  match ringOf s p with
  | none => none
  | some ring => (newestAt s p output op ring).map (fun i => let va := ringBack s p ring i; partBytes s p va (le (partBytes s p va 64) 36 4))

/-- The pages that the search for a record reads: every header up to the record, and the record (R169, R185). -/
def touchNewest (s : State) (p output op : Nat) : State :=
  match ringOf s p with
  | none => s
  | some ring =>
    let headers (n : Nat) : State := (List.range n).foldl (fun s i => touchRange s p 15 (ringBack s p ring i) 64) s
    match newestAt s p output op ring with
    | some i => touchRange (headers (i + 1)) p 15 (ringBack s p ring i) (le (partBytes s p (ringBack s p ring i) 64) 36 4)
    | none => headers (min (s.part p).wrSeq (2 ^ ring.slotsLog2))

/-- A colour image of R, G and B in 8 bits (R279). -/
abbrev Rgb := Nat × Nat × Nat

/-- A view's registers. -/
structure ViewCfg where
  en : Bool
  boxEn : Bool
  maskEn : Bool
  ch : Nat
  ovPart : Nat
  ovPos : Nat
  boxOut : Nat
  maskOut : Nat
  x : Nat
  y : Nat
  w : Nat
  h : Nat
deriving DecidableEq, Repr

def viewCfg (s : State) (n v : Nat) : ViewCfg :=
  let a := dispReg s n (0x20 + 0x10 * v)
  let o := dispReg s n (0x24 + 0x10 * v)
  let q := dispReg s n (0x28 + 0x10 * v)
  let z := dispReg s n (0x2C + 0x10 * v)
  ⟨bit a 31, bit a 30, bit a 29, bits a 28 24, bits a 23 20, bits a 19 14, bits o 31 16, bits o 15 0,
   bits q 31 16, bits q 15 0, bits z 31 16, bits z 15 0⟩

/-- The newest frame of a channel whose colour stage completed before the tick (R278). -/
def viewFrame (s : State) (ch : Nat) : Option (Nat × Slot) :=
  if !(s.chanCfg ch).en then none
  else
    match (s.chan ch).slots.filter (fun e => e.2.colour.isSome && decide (e.2.colourAt < s.clk.clock)) with
    | [] => none
    | e :: r => some (r.foldl (fun b z => if b.2.wm.captureNs < z.2.wm.captureNs then z else b) e)

/-- Palette entry: ALPHA, R, G, B. -/
def palette (s : State) (k : Nat) : Nat × Nat × Nat × Nat :=
  let w := s.inForce (addr pgDisp (0x080 + 4 * (k % 16)))
  (bits w 31 24, bits w 23 16, bits w 15 8, bits w 7 0)

/-- A detection to draw, in picture columns and rows (R280), and its class. -/
structure Outline where
  x1 : Int
  y1 : Int
  x2 : Int
  y2 : Int
  cls : Nat
deriving DecidableEq, Repr

/-- The outlines of a box record at a position. -/
def outlines (v : ViewCfg) (z : Slot) (rec : Bytes) : List Outline :=
  let sh := z.shape
  let (wg, hg) := (z.cfg.w, z.cfg.h)
  let (wc, hc) := if sh.cropW = 0 then (wg, hg) else (sh.cropW, sh.cropH)
  let (cx, cy) := if sh.cropW = 0 then (0, 0) else (sh.cropX, sh.cropY)
  let (w0, h0) := level0Size sh wg hg
  let base := 64 + 24 * le rec 7 1
  ((List.range (le rec 32 4)).map (fun i => slice rec (base + 48 * i) 48)).filterMap (fun d =>
    if le d 0 1 = v.ovPos then
      let c (o : Nat) : Int := sext 32 (le d o 4)
      let fx (t : Int) : Int := (v.x : Int) + ((((cx * w0 * 65536 : Nat) : Int) + t * wc) * v.w).fdiv ((w0 * 65536 * wg : Nat) : Int)
      let fy (t : Int) : Int := (v.y : Int) + ((((cy * h0 * 65536 : Nat) : Int) + t * hc) * v.h).fdiv ((h0 * 65536 * hg : Nat) : Int)
      some ⟨fx (c 12), fy (c 16), fx (c 20), fy (c 24), le d 1 1⟩
    else none)

/-- Whether a pixel lies on an outline of a depth. -/
def onOutline (thick : Nat) (x y : Int) (o : Outline) : Bool :=
  decide (o.x1 ≤ x) && decide (x ≤ o.x2) && decide (o.y1 ≤ y) && decide (y ≤ o.y2)
  && (decide (x < o.x1 + thick) || decide (o.x2 - thick < x) || decide (y < o.y1 + thick) || decide (o.y2 - thick < y))

/-- The mask of a view: MW, MH and the class bytes of the newest COPY record; none where it cannot be drawn (R282). -/
def viewMask (s : State) (v : ViewCfg) : Option (Nat × Nat × Bytes) :=
  match newestValid s v.ovPart v.maskOut 1 with
  | none => none
  | some r =>
    -- COPY_BYTES comes from the plan's descriptor of that output
    let n := match (s.part v.ovPart).plan with
      | some pl => (match (planSieves pl).find? (fun d => d.output == v.maskOut) with | some d => d.locs | none => 0)
      | none => 0
    let m := slice r (64 + 24 * le r 7 1 + v.ovPos * n) n
    let (mw, mh) := (le m 0 2, le m 2 2)
    if mw = 0 ∨ mh = 0 ∨ n < mw * mh + 4 then none else some (mw, mh, m.drop 4)

/-- A view's part of the watermark (R283). -/
def viewMark (capture step ch : Nat) (none_ stale noframe : Bool) : Bytes :=
  toBE 8 capture ++ toBE 4 step ++ toBE 1 ch ++ toBE 1 (4 * b2n none_ + 2 * b2n stale + b2n noframe) ++ [0, 0]

/-- A view as it is drawn: its pixels row by row, and the 16 bytes of its part of the watermark (R279–R283). Without a frame it is black, and its overlay
records are looked for all the same. -/
def drawView (s : State) (thick : Nat) (v : ViewCfg) : List Rgb × Bytes × Option (Nat × Nat) :=
  let box := if v.boxEn then newestValid s v.ovPart v.boxOut 0 else none
  let cells := if v.maskEn then viewMask s v else none
  let none_ := (v.boxEn && box.isNone) || (v.maskEn && cells.isNone)
  let step := match box with | some r => le r 16 4 | none => 0
  match viewFrame s v.ch with
  | none => (List.replicate (v.w * v.h) (0, 0, 0), viewMark 0 step v.ch none_ false true, none)
  | some (k, z) =>
    let img := resizeStage { z.shape with outW := v.w, outH := v.h } (z.colour.getD ⟨0, 0, 0, []⟩)
    let os := match box with | some r => outlines v z r | none => []
    let stale := match box with
      | some r => ((List.range (le r 7 1)).map (fun m => slice r (64 + 24 * m) 24)).any
          (fun e => le e 20 1 == v.ch && le e 8 8 != z.wm.devFrame)
      | none => false
    let px := (List.range v.h).flatMap (fun y => (List.range v.w).map (fun x =>
      let g (c : Nat) : Nat := min 255 ((img.at y x (if img.c = 1 then 0 else c) + 128) / 256)
      let base : Rgb := (g 0, g 1, g 2)
      let p : Rgb := match cells with
        | none => base
        | some (mw, mh, m) =>
          let k := (m.getD (y * mh / v.h * mw + x * mw / v.w) 0).toNat
          if k % 16 = 0 then base
          else
            let (al, r, gg, b) := palette s k
            let mix (a c : Nat) : Nat := (a * (256 - al) + c * al + 128) / 256
            (mix base.1 r, mix base.2.1 gg, mix base.2.2 b)
      match os.find? (fun o => onOutline thick ((v.x + x : Nat) : Int) ((v.y + y : Nat) : Int) o) with
      | some o => (palette s o.cls).2
      | none => p))
    (px, viewMark (z.wm.captureNs.emod (2 ^ 64)).toNat step v.ch none_ stale false, some (v.ch, k))

/-- Cut data into fragments with their offsets. -/
def fragments : Nat → Nat → Bytes → List (Nat × Bytes)
  | 0, _, _ => []
  | fuel + 1, off, b =>
    if b.length ≤ 1468 then [(off, b)] else (off, b.take 1468) :: fragments fuel (off + 1468) (b.drop 1468)

/-- One CVF MJPEG packet (R284; PRESUMED, log entry 26). -/
def cvfPacket (stream ts seq q w h : Nat) (last : Bool) (off : Nat) (data : Bytes) : Bytes :=
  toBE 1 0x03 ++ toBE 1 0x81 ++ toBE 1 (seq % 256) ++ toBE 1 0 ++ toBE 8 stream ++ toBE 4 (ts % 2 ^ 32)
  ++ toBE 1 0x02 ++ toBE 1 0 ++ toBE 2 0 ++ toBE 2 (8 + data.length) ++ toBE 1 (16 * b2n last) ++ toBE 1 0
  ++ toBE 1 0 ++ toBE 3 off ++ toBE 1 1 ++ toBE 1 q ++ toBE 1 (w / 8) ++ toBE 1 (h / 8) ++ data

/-- The slots that a picture held are released. -/
def releasePicture (s : State) (n : Nat) : State :=
  let d := s.disp n
  let s := d.holding.foldl (fun s e => match s.slot e.1 e.2 with
    | some z => s.setSlot e.1 e.2 (some { z with holders := z.holders.filter (fun h => h != (16 + n, d.pics)) })
    | none => s) s
  s.setDisp n { d with busy := false, holding := [], tag := none, port := 0, packets := [], bytes := 0 }

/-- Compose the picture of a stream at a tick (R278, R279, R283, R284). -/
def composeStream (s : State) (tick n : Nat) : State :=
  let d := s.disp n
  if d.busy then s.bump pgDisp 0x058 1
  else
    let thick := bits (s.inForce (addr pgDisp 0x040)) 27 24
    let tx := dispReg s n 0
    let size := dispReg s n 0x0C
    let jp := dispReg s n 0x10
    let (w, h) := (bits size 31 16, bits size 15 0)
    let q := bits jp 30 24
    let views := (List.range 4).map (viewCfg s n)
    let drawn := views.map (fun v => if v.en then some (drawView s thick v) else none)
    let pixel (x y : Nat) : Rgb := (views.zip drawn).foldl (fun (a : Rgb) e => match e.2 with
      | some (px, _, _) =>
        if e.1.x ≤ x ∧ x < e.1.x + e.1.w ∧ e.1.y ≤ y ∧ y < e.1.y + e.1.h then
          px.getD ((y - e.1.y) * e.1.w + (x - e.1.x)) (0, 0, 0) else a
      | none => a) (0, 0, 0)
    let rgb := (List.range h).flatMap (fun y => (List.range w).map (fun x => pixel x y))
    let wmBody := toBE 1 1 ++ toBE 1 n ++ toBE 1 (b2n (bit jp 31)) ++ toBE 1 0 ++ toBE 8 d.pics ++ toBE 8 tick
      ++ drawn.flatMap (fun e => match e with | some (_, b, _) => b | none => List.replicate 16 0)
    let wm := wmBody ++ toBE 4 (crc32c wmBody)
    let jpeg := jpegFile q w h wm rgb
    let data := if bit jp 31 then jpeg ++ toBE 4 d.pics ++ toBE 4 (crc32c jpeg) else jpeg
    let frags := fragments (data.length + 1) 0 data
    let stream := dispReg s n 0x04 * 2 ^ 32 + dispReg s n 0x08
    let ts := tick + 1000 * bits jp 15 0
    let packets := frags.zipIdx.map (fun (f, i) => cvfPacket stream ts (d.seq + i) q w h (i + 1 == frags.length) f.1 f.2)
    let s := sysAccess s
    let s := (views.filter (·.en)).foldl (fun s v =>
      let s := if v.boxEn then touchNewest s v.ovPart v.boxOut 0 else s
      if v.maskEn then touchNewest s v.ovPart v.maskOut 1 else s) s
    let hold := drawn.filterMap (fun e => match e with | some (_, _, o) => o | none => none)
    let s := hold.foldl (fun s e => match s.slot e.1 e.2 with
      | some z => s.setSlot e.1 e.2 (some { z with holders := z.holders ++ [(16 + n, d.pics)] })
      | none => s) s
    let noframe := (drawn.filter (fun e => match e with | some (_, _, none) => true | _ => false)).length
    let s := if noframe = 0 then s else s.bump pgDisp 0x060 noframe
    -- a stream whose port is not enabled is not sent (R524)
    let s := s.setDisp n { d with
      busy := true, holding := hold, seq := (d.seq + frags.length) % 256, port := bits tx 19 16
      tag := if bit tx 12 then some (bits tx 15 13, bits tx 11 0) else none, packets := packets, bytes := jpeg.length }
    if portOn s (bits tx 19 16) then s else releasePicture s n

/-- At the owner's tick a pending commit takes effect and every enabled stream composes (R278, R415). -/
def displayTick (s : State) (p : Nat) : State :=
  if dispOwner s = some p then
    let s := settleTimed s .disp pgDisp
    let tick := match (s.part p).step with | some st => st.tick | none => s.clk.dev
    (List.range 4).foldl (fun s n => if bit (s.inForce (addr pgDisp 0x040)) n then composeStream s tick n else s) s
  else s

/-- DISPLAY_PICTURE_SENT (R278): the picture has left its port; the stream is free for the next tick. While the port's EN is
0 nothing is sent and nothing counts (R524). -/
def displaySent (s : State) (n : Nat) : State :=
  let d := s.disp n
  if d.busy && !portOn s d.port then releasePicture s n
  else if d.busy then
    let s := d.packets.foldl (fun s b => s.emit (.display d.port d.tag b)) s
    let s := ((s.bump pgDisp 0x050 1).bump pgDisp 0x068 d.bytes).bump (pgPort d.port) 0x058 d.packets.length
    let s := releasePicture s n
    s.setDisp n { s.disp n with pics := d.pics + 1 }
  else s

/-- DISPLAY_ENCODER_FAULT (R277): the picture is dropped. -/
def displayFault (s : State) (n : Nat) : State :=
  if (s.disp n).busy then
    let p := (dispOwner s).getD 0xFF
    ((releasePicture s n).bump pgDisp 0x058 1).logEntry 0x4112 p 0xFF (if p < 8 then stepNumber (s.part p) else 0)
  else s

/-- DISPLAY_PICTURE_SENT. -/
def execDisplayPictureSent (t : Nat) (stream : Fin 4) (s : State) : Host.Outcome State Fault Refusal :=
  .next (displaySent (atTime t s) stream.val)
/-- DISPLAY_ENCODER_FAULT. -/
def execDisplayEncoderFault (t : Nat) (stream : Fin 4) (s : State) : Host.Outcome State Fault Refusal :=
  .next (displayFault (atTime t s) stream.val)

end Sys2Proof.Machine
end

