-- ==== Sys2Proof/Machine/Claim.lean ====
section
/-! DEFINITION. Sessions: what a claim grants (R405–R407) and the end of a claim's reset (R410).
Readings: log entry 33 (DEDUCED). -/

namespace Sys2Proof.Machine

def pgDev : Nat := 0x000

/-- DEV_GRANT's word (R421). -/
def grantWord (result kind port version : Nat) : Word := BitVec.ofNat 32 (result * 2 ^ 28 + kind * 2 ^ 24 + port * 2 ^ 16 + version)

/-- The version that a claim grants, major · 256 + minor: the highest within the host's range and the TK1's 1.0, or the version
already granted in a warm claim; none where it does not fit (R406). -/
def claimVersion (s : State) (warm : Bool) : Option Nat :=
  let r := s.inForce (addr pgDev 0x058)
  let hi := bits r 31 16
  let lo := bits r 15 0
  let v := if warm ∧ s.link.version ≠ 0 then s.link.version else min hi 0x0100
  if 0x0100 ≤ v ∧ lo ≤ v ∧ v ≤ hi then some v else none

/-- A session number, never 0 (R405). -/
def nextSession (a : Nat) : Nat := if (a + 1) % 2 ^ 32 = 0 then 1 else (a + 1) % 2 ^ 32

/-- Flash address of the record of session n: the spec gives the record's sectors and not its layout; the model keeps one number at the start of each of
the sectors 2 to 15 in turn (R428; DESIGN CHOICE, log entry 70). -/
def sessionAt (n : Nat) : Nat := flashBase + (2 + n % 14) * 65536
/-- MP records a session number before its grant takes effect: the sector is erased and written (R403, R428). -/
def recordSession (s : State) (n : Nat) : State := (s.wipe (sessionAt n) 65536).wrN (sessionAt n) (toLE 4 n)
/-- The highest session number recorded, 0 where none is. -/
def recordedSession (s : State) : Nat :=
  (List.range 14).foldl (fun m k => let n := le (s.rdN (sessionAt k) 4) 0 4; if n = 2 ^ 32 - 1 then m else max m n) 0

/-- A grant: a new session, which is recorded, heartbeat age 0 (R407, R428). -/
def grantClaim (s : State) (port version : Nat) (warm : Bool) : State :=
  let n := nextSession s.aon.session
  let s := recordSession { s with aon := { s.aon with session := n } } n
  let s := { s with link := { s.link with
    host := .claimed, session := BitVec.ofNat 32 n, port := port, hbAt := s.clk.dev, version := version, resetting := none
    grant := grantWord 1 (if warm then 2 else 1) port version } }
  s.bump pgDev 0x080 1

/-- A claim's reset is over once no partition is left to stop: PART_PAIRS of every partition is cleared and the claim granted as a
cold one. -/
def finishReset (s : State) : State :=
  match s.link.resetting with
  | none => s
  | some port =>
    if (List.range 8).any (fun p => (s.part p).resetting && (s.active p || (s.part p).st == .suspended)) then s
    else
      let s := (List.range 8).foldl (fun s p => applyPart (s.setBoth (addr (pgPart p) 0x044) 0) p) s
      grantClaim s port ((claimVersion s false).getD 0x0100) false

end Sys2Proof.Machine
end

