-- ==== Sys2Proof/Machine/Boundary.lean ====
section
/-! DEFINITION. Sequences opening and retiring (R303–R305), the plan's end (R291), the step boundary (R317) and a step's end (R315).
Readings: log entry 11 (DESIGN CHOICE), log entry 23 (DEDUCED), log entry 56 (DEDUCED). -/

namespace Sys2Proof.Machine

/-! ### Sequences -/

/-- The Instar indices of a partition (R288). -/
def instarRange (s : State) (p : Nat) : List Nat :=
  (List.range (bits (s.partReg p 0x054) 12 0)).map (fun i => bits (s.partReg p 0x054) 27 16 + i)

/-- An open is refused (R304). -/
def refuseOpen (s : State) (p : Nat) : State :=
  (s.bump (pgPart p) 0x0D8 1).logLimited 0x5102 p p 0xFF (stepNumber (s.part p))

/-- An open takes effect with a first step: the index and SID it took, or the code that refuses it (R304). -/
def openSeq (s : State) (p : Nat) (o : PendingOpen) (first : Nat) : State × Except Nat (Nat × Nat) :=
  match (instarRange s p).find? (fun i => (s.instarAt i).st == 0) with
  | none => (refuseOpen s p, .error 0x5103)
  | some i => match allocSequence s p i with
    | none => (refuseOpen s p, .error 0x2006)
    | some s' =>
      let sid := (s.part p).sid
      let s' := s'.setInstar i ⟨sid, 1, p, o.sclass, true, false, o.member, o.user, first, 0, 0⟩
      ((s'.modPart p (fun x => { x with sid := sid + 1 })).bump pgInstar 0x078 1, .ok (i, sid))

/-- An open of the host: PART_OPEN_RESULT tells its outcome where it is the last SEQ_OPEN (R320). -/
def hostOpen (s : State) (p : Nat) (o : PendingOpen) (first : Nat) : State :=
  match openSeq s p o first with
  | (s, .ok (i, sid)) =>
    s.modPart p (fun x => { x with openResult := if o.last then BitVec.ofNat 32 (2 ^ 31 + sid % 2 ^ 18 * 2 ^ 12 + i) else x.openResult })
  | (s, .error code) =>
    (s.modPart p (fun x => { x with openResult := if o.last then 0xC0000000#32 else x.openResult })).pageErr (pgPart p) 2 code 5

/-- A sequence is retired: its entry is FREE, its instances are freed (R163). -/
def retireSeq (s : State) (p i : Nat) : State :=
  (freeSequence (s.setInstar i InstarEntry.reset) p i).bump pgInstar 0x080 1

/-- The entries of a partition that are not FREE. -/
def openIndices (s : State) (p : Nat) : List Nat :=
  s.plans.instar.filterMap (fun e => if e.2.st ≠ 0 ∧ e.2.part = p then some e.1 else none)

/-- The sequences whose last step has ended before step m are retired. -/
def retireDue (s : State) (p m : Nat) : State :=
  (openIndices s p).foldl (fun s i => if (s.instarAt i).st = 2 ∧ (s.instarAt i).retireAt ≤ m then retireSeq s p i else s) s

/-- The host opens named for step m or an earlier one take effect in the order of acceptance. -/
def opensDue (s : State) (p m : Nat) : State :=
  let due := (s.part p).opens.filter (fun o => decide (o.atStep ≤ m))
  let s := s.modPart p (fun x => { x with opens := x.opens.filter (fun o => !decide (o.atStep ≤ m)) })
  due.foldl (fun s o => hostOpen s p o m) s

/-- One entry of a request page (R305): a RETIRE marks its sequence, an OPEN is kept for its turn. -/
def readRequest (s : State) (p m ci : Nat) (c : SClass) (e : Bytes) (opens : List PendingOpen) : State × List PendingOpen :=
  let op := le e 0 1
  let member := le e 1 1
  if op = 1 then
    if member < 32 ∨ (c.bind = false ∧ member = 0xFF) then (s, opens ++ [⟨ci, member, le e 4 4, m, false⟩])
    else (s.bump (pgPart p) 0x0D8 1, opens)
  else if op = 2 then
    match (openIndices s p).find? (fun i => (s.instarAt i).sid == le e 8 8) with
    | some i => let x := s.instarAt i; (s.setInstar i { x with st := 2, retireAt := m }, opens)
    | none => (s.bump (pgPart p) 0x0D8 1, opens)
  else (s.bump (pgPart p) 0x0D8 1, opens)

/-- Read the request pages class by class (R305). -/
def readRequests (s : State) (p m : Nat) : State × List PendingOpen :=
  match (s.part p).plan with
  | none => (s, [])
  | some pl => pl.classes.zipIdx.foldl (fun (a : State × List PendingOpen) e =>
      if e.1.reqVa = 0 then a
      else
        let n := min (le (partBytes a.1 p e.1.reqVa 4) 0 4) 255
        let a := (touchRange a.1 p p e.1.reqVa (64 + 16 * n), a.2)
        let (s, os) := (List.range n).foldl (fun (b : State × List PendingOpen) k =>
          readRequest b.1 p m e.2 e.1 (partBytes b.1 p (e.1.reqVa + 64 + 16 * k) 16) b.2) a
        (partStore s p e.1.reqVa (List.replicate 4 0), os)) (s, [])

/-- A batched sequence flips (R317). -/
def flipSeq (s : State) (i : Nat) : State :=
  let x := s.instarAt i
  if x.st = 0 then s else s.setInstar i { x with h := !x.h, isNew := false, steps := min (x.steps + 1) (2 ^ 32 - 1) }

/-! ### The plan's end (R164, R291) -/

/-- UNLOAD: every frame, sequence and ring of the plan is freed; the partition is READY. -/
def unloadPart (s : State) (p : Nat) : State :=
  let s := abortStep s p
  let x := s.part p
  let s := match x.step with | some st => releaseSlots s p st.n | none => s
  let s := (x.bind.filterMap id).foldl (fun s u => modUnit s u (fun c => { c with logical := 0xFF })) s
  let s := (openIndices s p).foldl (fun s i => s.setInstar i InstarEntry.reset) s
  let s := (List.range 32).foldl (fun s ch =>
    if chanOwner s ch = some p then
      let c := s.chan ch
      s.setChan ch { c with slots := c.slots.map (fun e => (e.1, { e.2 with sample := none })) }
    else s) s
  s.modPart p (fun x => { x with
    st := .ready, plan := none, bind := [], ebind := [], lost := [], step := none, opens := [], ptes := [], prefetch := []
    buffers := [], handovers := [], lastSets := [], launchNs := none, resetting := false })

/-! ### The boundary (R317) -/

/-- Step boundaries clear the counters of the pages with STEP_CLEAR = 1 (R87, R154, R192, R320). -/
def stepClear (s : State) (p : Nat) : State :=
  let pages := pgPart p :: pgPressP p :: ((List.range 40).filter (fun n => pairOwner s (n / 2) == p)).map pgCore
    ++ ((List.range 4).filter (fun q => engineOwner s q == p)).map pgEngine
  pages.foldl (fun s page =>
    let hit := match blockOf page with
      | some (b, _) => (match cntCtrlOff b with | some o => bit (s.inForce (addr page o)) 1 | none => false)
      | none => false
    if hit then
      let s := (match blockOf page with | some (b, _) => accountPage s b | none => s).clearCounters page
      if page = pgPart p then s.modPart p (fun x => { x with buildMax := 0, finishMax := 0 }) else s
    else s) s

/-- An accepted CLEAR takes effect (R347); nothing ends the device safe state (R346). -/
def endSafe (s : State) (p : Nat) : State :=
  let x := s.part p
  if x.clearing && decide (s.safety.dev = 0) then
    (s.setPart p { x with safe := none, clearing := false }).logEntry 0x6108 p 0xFF (stepNumber x)
  else s

/-- The OVERDUE units of a safety-relevant partition are withdrawn (R376, R377). -/
def withdrawOverdue (s : State) (p : Nat) : State :=
  if s.isSafety p then
    (s.part p).bind.zipIdx.foldl (fun s e => match e.1 with
      | some u => if unitOverdue s u then moveCore s p e.2 u 0x6207 else s
      | none => s) s
  else s

/-- A partition whose step has ended while STOPPING becomes LOADED; what is pending takes effect as in LOADED (R317 step 7). A
partition that a claim resets is unloaded (R410). -/
def stopAtEnd (s : State) (p : Nat) : State :=
  if (s.part p).st == .stopping then
    let s := s.modPart p (fun x => { x with st := .loaded, launchNs := none })
    let s := (openIndices s p).foldl (fun s i => if (s.instarAt i).st = 2 then retireSeq s p i else s) s
    let os := (s.part p).opens
    let s := s.modPart p (fun x => { x with opens := [] })
    let s := os.foldl (fun s o => hostOpen s p o 0) s
    if (s.part p).resetting && s.link.resetting.isSome then finishReset (unloadPart s p) else s
  else s

/-- The step boundary, in the order of R317. -/
def stepBoundary (s : State) (p : Nat) (st : StepRec) (complete : Bool) : State :=
  let m := st.n + 1
  let s := if complete then (st.batches.flatMap (fun b => b.2.2)).foldl flipSeq s else s
  let (s, asked) := if complete then readRequests s p m else (s, [])
  let s := retireDue s p m
  let s := asked.foldl (fun s o => (openSeq s p o m).1) s
  let s := opensDue s p m
  let s := st.holds.foldl (fun s k => releaseHold s p k) s
  let s := releaseSlots s p st.n
  let s := s.modPart p (fun x => { x with step := none, relAt := s.clk.clock, rels := st.holds })
  let s := refreshBuffers s p st.sets
  let s := resetTallies s p
  let s := dueFences (boundaryCommits (stepClear s p) p)
  stopAtEnd (withdrawOverdue (endSafe s p) p) p

/-- Step n ends with an outcome: 1 COMPLETE, 2 PARTIAL, 3 MISSED, 4 INVALID (R315, R318, R320, R363). -/
def endStep (s : State) (p outcome : Nat) (missed : Bool) : State :=
  match (s.part p).step with
  | none => s
  | some st =>
    let page := pgPart p
    let s := match outcome with
      | 1 =>
        let s := s.bump page 0x0A8 1
        if st.replay then (s.bump page 0x0B0 1).logEntry 0x6105 p 0xFF st.n else s
      | 2 => s.bump page 0x0B8 1
      | 3 => s.bump page 0x0C0 1
      | _ => let s := s.bump page 0x0C8 1
             if missed then s.bump page 0x0C0 1 else s
    let fin := (s.clk.dev - st.tick) / 1000
    let margin := if missed then 0 else min ((deadlineOf s p st - s.clk.dev) / 1000) (2 ^ 18 - 1)
    let s := s.modPart p (fun x => { x with
      outcome := outcome, finish := fin, finishMax := max x.finishMax fin, margin := margin
      notBefore := if st.tick < st.start then s.clk.dev + 100000 else x.notBefore })
    stepBoundary s p st (outcome == 1)

/-- Whether anything of a partition is queued or running. -/
def busyWork (s : State) (p : Nat) : Bool :=
  s.plans.queues.any (fun q => q.2.any (fun x => x.part == p)) || s.plans.running.any (fun r => r.2.item.part == p)

/-- The step ends once its last item is complete before the deadline (R315). In the safe state no step is COMPLETE (R344). -/
def checkEnd (s : State) (p : Nat) : State :=
  match (s.part p).step with
  | none => s
  | some st =>
    if st.built && st.fail.isNone && !st.declared && !st.lost && st.proofs.isEmpty && !busyWork s p && !pastDeadline s p then
      endStep s p (if (s.part p).safe.isSome then 4 else if st.shed then 2 else 1) false
    else s

end Sys2Proof.Machine
end

