-- ==== Sys2Proof/Machine/Steps.lean ====
section
/-! DEFINITION. Steps: the tick and what the step builder does at it (R305–R310, R314), HOLD mode (R224, R225, R318), the deadline
(R316), shedding (R342) and the replay (R340).
Readings: log entry 11 (DESIGN CHOICE), log entry 17 (DEDUCED), log entry 18 (DEDUCED). -/

namespace Sys2Proof.Machine

/-! ### Emission (R308) -/

/-- The queue of a work item: by the binding of its TARGET. -/
def queueFor (x : PartSt) (p : Nat) (it : WorkItem) : Option Nat :=
  if it.kind = 0 then (x.bind[it.target]?).join.map qCore
  else if it.kind = 1 then (x.ebind[it.target]?).join.map qSpec
  else some (qSieve p)

/-- Place an item in a queue; filler and a running chunk on the unit end (R373, R478). A unit that met the stop condition in this cycle stays in RUN for
an item that can start (R24). Items are told apart by their order of arrival. -/
def enqueue (s : State) (p q : Nat) (proof : Bool) (it : WorkItem) : State :=
  let s := if q < 40 then endFiller (abortChunk s q) q else s
  let k := s.plans.arrival
  let s := { s with plans := { s.plans with arrival := k + 1 } }
  let s := s.setQueue q (s.queue q ++ [⟨p, proof, it, k, k, s.clk.clock, [], []⟩])
  if q < 40 then settleUnit s q else s

/-- What a proof tile's entry holds: it is no item of the plan. -/
def proofItem : WorkItem := ⟨1, 0, false, false, 0, 0, 0, 0, 0, [], [], 0, 0, 0, none, [], 0, 0⟩

/-- The bound units of a partition. -/
def boundUnits (x : PartSt) : List Nat := x.bind.filterMap id

/-- The pages that an item's prefetch list names (R172). -/
def prefetchKeys (s : State) (p : Nat) (it : WorkItem) : List Nat :=
  ((List.range it.npf).map (fun i => le (partBytes s p (it.pfAddr + 8 * i) 8) 0 8)).filterMap
    (fun v => (resolve s p (v * 65536)).map (·.1))

/-- Emit one work item with its prefetches. -/
def emitItem (s : State) (p : Nat) (it : WorkItem) : State :=
  match queueFor (s.part p) p it with
  | none => s
  | some q =>
    let id := s.plans.arrival
    let s := touchRange (enqueue s p q false it) p p it.pfAddr (8 * it.npf)
    let ks := (prefetchKeys s p it).map (fun k => (k, id, false))
    s.modPart p (fun x => { x with prefetch := x.prefetch ++ ks })

/-- Whether the step has passed its SHED instant (R342). -/
def pastShed (s : State) (p : Nat) (st : StepRec) : Bool :=
  let us := bits (s.inForce (addr pgDl (0x084 + 0x10 * p))) 17 0
  us != 0 && !s.isRT p && decide (st.tick + us * 1000 ≤ s.clk.dev)

/-- Shed items: their adds are made, the records of SIEVE items are LATE with SHED, in increasing OUTPUT (R272, R308, R342). -/
def shedItems (s : State) (p : Nat) (items : List WorkItem) : State :=
  if items.isEmpty then s
  else
    let s := items.foldl (fun s i => tallyAdds s p i.adds) s
    let s := ((items.filterMap (fun i => i.sieve)).foldr insOutput []).foldl (fun s d =>
      match (s.part p).step with
      | some st => if st.published.any (fun o => o.1 == d.output) then s else publish s p d 2 true false none
      | none => s) s
    s.modStep p (fun st => { st with shed := true })

/-- The adds of the unused batch instances (R308). -/
def unusedAdds (s : State) (p : Nat) : State :=
  match (s.part p).plan, (s.part p).step with
  | some pl, some st => pl.classes.zipIdx.foldl (fun s e =>
      (unusedItems e.1 (usedBatches st e.2)).foldl (fun s i => tallyAdds s p i.adds) s) s
  | _, _ => s

/-- Emit the step's work: proof tiles first, then the items in the order of R308; past the SHED instant the sheddable ones are shed. -/
def emitStep (s : State) (p : Nat) : State :=
  match (s.part p).step with
  | none => s
  | some st =>
    let us := boundUnits (s.part p)
    let s := s.modStep p (fun st => { st with proofs := us })
    let s := { s with safety := { s.safety with proofVariant := st.n % 16 } }
    let s := us.foldl (fun s u => enqueue s p (qCore u) true proofItem) s
    let items := stepItems s p
    let late := pastShed s p st
    let s := (items.filter (fun i => !(late && i.shed))).foldl (fun s i => emitItem s p i) s
    let s := unusedAdds s p
    let s := shedItems s p (items.filter (fun i => late && i.shed))
    let qs := allQueues.filter (fun q => (s.queue q).any (fun x => x.part == p))
    settleUnits (checkEnd (qs.foldl sendWaits s) p)

/-! ### Building (R307, R310, R314) -/

/-- Insert an Instar index by SID. -/
def insSid (s : State) (i : Nat) : List Nat → List Nat
  | [] => [i]
  | j :: r => if (s.instarAt i).sid < (s.instarAt j).sid then i :: j :: r else j :: insSid s i r

/-- The ready sequences of a class in increasing SID (R306). -/
def readySeqs (s : State) (p ci : Nat) (c : SClass) (st : StepRec) : List Nat :=
  let ready := (openIndices s p).filter (fun i =>
    let x := s.instarAt i
    x.sclass == ci && (!c.bind || (st.sets.any (fun f => f.group == c.fgroup && f.entries.any (fun e =>
      e.member == x.member && (e.status == 0 || (e.status == 1 && c.rpt)))))))
  ready.foldr (insSid s) []

/-- Put the ready sequences of every class into batches; those beyond MAX_BATCHES do not run (R307 step 2). -/
def batchClasses (s : State) (p : Nat) (pl : Plan) (st : StepRec) : State × List (Nat × Nat × List Nat) :=
  pl.classes.zipIdx.foldl (fun (a : State × List (Nat × Nat × List Nat)) e =>
    let (c, ci) := e
    let ready := readySeqs a.1 p ci c st
    let nb := min c.maxBatches (ceilDiv ready.length c.batch)
    let extra := ready.length - c.maxBatches * c.batch
    let s := if extra = 0 then a.1 else (a.1.bump (pgPart p) 0x0D0 extra).logLimited 0x5104 p p 0xFF st.n
    (s, a.2 ++ (chunks c.batch nb ready).zipIdx.map (fun (l, b) => (ci, b, l)))) (s, [])

/-- The pages that the step holds: input regions, the read halves, the used header pages (R170, R307 step 3). -/
def stepHolds (s : State) (pl : Plan) (batches : List (Nat × Nat × List Nat)) : List Nat :=
  pl.inputs.flatMap (fun r => regionPages pl r.inVa) ++
  batches.flatMap (fun b => match pl.classes[b.1]? with
    | none => []
    | some c => (c.hdrVa / 65536 + b.2.1) :: (match pl.regions[c.region]? with
      | none => []
      | some r => b.2.2.flatMap (fun i =>
          let half := r.pages / 2
          (List.range half).map (fun k => r.key i (b2n (s.instarAt i).h * half + k)))))

/-- The batch header of an instance (R310). -/
def batchHeader (s : State) (c : SClass) (ci n : Nat) (seqs : List Nat) : Bytes :=
  let mask := 2 ^ seqs.length - 1
  let head : Bytes := toLE 1 1 ++ toLE 1 c.batch ++ toLE 1 seqs.length ++ toLE 1 ci ++ toLE 4 0 ++ toLE 8 n ++ toLE 8 mask ++ toLE 40 0
  head ++ (List.range c.batch).flatMap (fun k => match seqs[k]? with
    | none => toLE 16 0
    | some i =>
      let x := s.instarAt i
      toLE 8 x.sid ++ toLE 2 i ++ toLE 1 x.member ++ toLE 1 (2 * b2n x.isNew + b2n x.h) ++ toLE 4 x.user)

/-- The hints of a step go to MP with the tick time (R314). -/
def passHints (s : State) (p tick : Nat) (pl : Plan) : State :=
  let keep := s.power.windows.filter (fun w => w.part != p || decide (s.clk.dev < w.endNs))
  { s with power := { s.power with windows := keep ++ pl.hints.map (fun h =>
      ⟨p, tick + h.startUs * 1000, tick + (h.startUs + h.durUs) * 1000, h.level, false⟩) } }

/-- Steps 2 to 6 of R307; the first emission falls a free time, at most 40 µs, after the last assembly. -/
def buildStep (s : State) (p : Nat) : State :=
  match (s.part p).plan, (s.part p).step with
  | some pl, some st =>
    let (s, batches) := batchClasses s p pl st
    let holds := stepHolds s pl batches
    let s := s.modStep p (fun st => { st with built := true, batches := batches, holds := holds })
    let s := holds.foldl (fun s k => placeHold s p k) s
    let s := batches.foldl (fun s b => match pl.classes[b.1]? with
      | some c =>
        let h := batchHeader s c b.1 st.n b.2.2
        partStore (touchRange s p p (c.hdrVa + b.2.1 * 65536) h.length) p (c.hdrVa + b.2.1 * 65536) h
      | none => s) s
    let s := passHints s p st.tick pl
    let last := min ((s.clk.dev - st.tick) / 10 + s.freeVal 4001) 0xFFFF
    let s := s.tick.modPart p (fun x => { x with build := last, buildMax := max x.buildMax last })
    -- a step that failed or was declared invalid in its HOLD wait emits nothing now (R338); of the declared one every record is INVALID (R256, R343)
    let s := s.bump pgInstar 0x070 1
    let s := if st.declared then publishMissing s p 3 else if st.fail.isSome then s else emitStep s p
    -- SP repeats the declaration until a start once a shared checker has failed (R369)
    if s.safety.shared && s.isSafety p then declareInvalid s p 0x6202 else s
  | _, _ => s

/-! ### The tick (R307) -/

/-- Start the HOLD wait of a group; a held END resolves its member and is consumed (R224, R225). -/
def startWait (s : State) (p group : Nat) : State :=
  let ms := holdMembers s p group
  let w := ms.map (fun ch => (ch, if (s.chan ch).endLatched then 1 else 0))
  let s := ms.foldl (fun s ch => s.setChan ch { s.chan ch with endLatched := false }) s
  s.modStep p (fun st => { st with waits := st.waits ++ [⟨group, w⟩] })

/-- Instant of the next tick of a partition in device time (R307, R318, R501). -/
def nextTick (s : State) (p : Nat) : Option Nat :=
  let x := s.part p
  if x.st == .running && x.step.isNone then x.launchNs.map (fun l => max (l + x.stepNo * s.periodNs p) x.notBefore) else none

/-- STEP_TICK. -/
def stepTickOp (s : State) (p : Nat) : State :=
  match nextTick s p with
  | none => s
  | some t =>
    if s.phase ≠ .up ∨ s.clk.dev < t then s
    else
      let n := (s.part p).stepNo
      let st : StepRec := { n := n, tick := t, start := t, built := false, replay := false, fail := none, declared := false
                            published := [], shed := false, sets := [], waits := [], batches := [], proofs := [], holds := [], lost := false }
      let s := (s.modPart p (fun x => { x with step := some st, stepNo := n + 1 })).bump (pgPart p) 0x0A0 1
      let s := if n = 0 then opensDue (retireDue s p 0) p 0 else s
      let s := displayTick s p
      let gs := groupsOf s p
      let s := gs.foldl (fun s g => if (holdMembers s p g).isEmpty then assembleGroup s p g [] else startWait s p g) s
      match (s.part p).step with
      | some st => if st.waits.isEmpty then buildStep s p else s
      | none => s

/-- HOLD_ASSEMBLY: a group whose waited-for members are all resolved assembles; the last one starts the step (R224, R318). A member that
HOLD_LIMIT resolved keeps HOLD_TIMEOUT though it settle before the assembly. -/
def holdAssemblyOp (s : State) (p group : Nat) : State :=
  match (s.part p).step with
  | none => s
  | some st => match st.waits.find? (fun w => w.group == group) with
    | none => s
    | some w =>
      if holdResolved s w st.tick then
        let late := w.members.filterMap (fun m => if m.2 = 2 then some m.1 else none)
        let s := assembleGroup s p group late
        match (s.part p).step with
        | some st => if st.waits.isEmpty then buildStep (s.modStep p (fun st => { st with start := max st.tick s.clk.dev })) p else s
        | none => s
      else s

/-- Change how a member of a HOLD wait is resolved. -/
def markMember (s : State) (p ch v : Nat) : State :=
  s.modStep p (fun st => { st with waits := st.waits.map (fun w =>
    { w with members := w.members.map (fun m => if m.1 = ch then (ch, v) else m) }) })

/-- How a member stands in the HOLD wait of its group, none when no wait of it is in progress: partition, tick, mark. -/
def waitOf (s : State) (ch : Nat) : Option (Nat × Nat × Nat) :=
  match chanOwner s ch with
  | none => none
  | some p => match (s.part p).step with
    | none => none
    | some st => (st.waits.findSome? (fun w => w.members.find? (fun m => m.1 == ch))).map (fun m => (p, st.tick, m.2))

/-- HOLD_LIMIT_EXPIRY (R224): HOLD_LIMIT is in ms. -/
def holdLimitOp (s : State) (ch : Nat) : State :=
  match waitOf s ch with
  | some (p, tick, mark) =>
    if mark = 0 ∧ settledMember s ch tick = false ∧ tick + (s.chanCfg ch).holdLimit * 1000000 ≤ s.clk.dev then markMember s p ch 2 else s
  | none => s

/-- END of VAT_CH_CMD (R225, R226): an END in the cycle in which HOLD_LIMIT elapses resolves the member. -/
def endOp (s : State) (ch : Nat) : State :=
  let c := s.chanCfg ch
  if !c.hold then s
  else match waitOf s ch with
    | some (p, tick, mark) =>
      if mark = 0 ∨ (mark = 2 ∧ s.clk.dev = tick + c.holdLimit * 1000000) then markMember s p ch 1 else s
    | none => s.setChan ch { s.chan ch with endLatched := true }

/-! ### Deadline, shedding, replay -/

/-- PUBLICATION_DEADLINE (R316, R343). -/
def deadlineOp (s : State) (p : Nat) : State :=
  match (s.part p).step with
  | none => s
  | some st =>
    if !pastDeadline s p then s
    else
    let s := claimStrike s p
    if st.declared then endStep (abortStep s p) p 4 false
    else
      let s := s.logLimited 0x5101 p p 0xFF st.n
      if s.isSafety p then endStep (declareInvalid s p 0x5101) p 4 true
      else endStep (abortStep (publishMissing s p 2) p) p 3 true

/-- SHED_TIMEOUT (R342). -/
def shedOp (s : State) (p : Nat) : State :=
  match (s.part p).step with
  | none => s
  | some st =>
    if !(st.built && pastShed s p st) then s
    else
      let hit (x : QItem) : Bool := x.part == p && !x.proof && x.item.shed
      let gone := allQueues.flatMap (fun q => (s.queue q).filter hit)
      let s := allQueues.foldl (fun s q => if (s.queue q).any hit then s.setQueue q ((s.queue q).filter (fun x => !hit x)) else s) s
      let s := gone.foldl (fun s x => dropPrefetch s p x.id) s
      let s := shedItems s p (gone.map (·.item))
      settleUnits (checkEnd (allQueues.foldl sendWaits s) p)

/-- A replay (R340): tallies reset, the tick's adds made again, the items emitted again. A step that is still in its HOLD wait has emitted none: it is
built once its groups have assembled. -/
def replayStep (s : State) (p : Nat) : State :=
  match (s.part p).plan, (s.part p).step with
  | some pl, some st =>
    let s := resetTallies s p
    let s := st.sets.foldl (fun s f => (pl.inputs.filter (fun r => r.fgroup == f.group)).foldl (fun s r => tallyAdd s p r.tally 1) s) s
    let s := s.modStep p (fun st => { st with replay := true, fail := none, lost := false })
    let s := (s.bump pgSafe 0x080 1).logEntry 0x6104 p 0xFF st.n
    if st.built then emitStep s p else s
  | _, _ => s

/-! ### Commands -/

/-- STEP_TICK. -/
def execStepTick (t : Nat) (p : Fin 8) (s : State) : Host.Outcome State Fault Refusal := .next (stepTickOp (atTime t s) p.val)
/-- HOLD_ASSEMBLY. -/
def execHoldAssembly (t : Nat) (p : Fin 8) (group : Fin 16) (s : State) : Host.Outcome State Fault Refusal :=
  .next (holdAssemblyOp (atTime t s) p.val group.val)
/-- HOLD_LIMIT_EXPIRY. -/
def execHoldLimitExpiry (t : Nat) (ch : Fin 32) (s : State) : Host.Outcome State Fault Refusal :=
  .next (holdLimitOp (atTime t s) ch.val)
/-- PUBLICATION_DEADLINE. -/
def execPublicationDeadline (t : Nat) (p : Fin 8) (s : State) : Host.Outcome State Fault Refusal :=
  .next (deadlineOp (atTime t s) p.val)
/-- SHED_TIMEOUT. -/
def execShedTimeout (t : Nat) (p : Fin 8) (s : State) : Host.Outcome State Fault Refusal := .next (shedOp (atTime t s) p.val)

end Sys2Proof.Machine
end

