-- ==== Sys2Proof/Machine/Items.lean ====
section
/-! DEFINITION. Work items: WORK_ITEM_START and WORK_ITEM_COMPLETE (R22, R23, R256, R308, R312), what they compute, their remote writes
(R494, R496) and proof tiles (R333–R336).
Readings: log entry 8 (DEDUCED), log entry 17 (DEDUCED), log entry 25 (DEDUCED), log entry 58 (DEDUCED), log entry 60 (DEDUCED). -/

namespace Sys2Proof.Machine

/-! ### What an item computes -/

/-- The descriptor list of an item: TYPE and descriptor (R298). -/
def readDescs (s : State) (p : Nat) : Nat → Nat → List (Nat × Bytes)
  | 0, _ => []
  | n + 1, va =>
    let tag := partBytes s p va 8
    let len := le tag 0 4
    (le tag 7 1, partBytes s p (va + 8) len) :: readDescs s p n (va + 8 + len)

/-- The array part of a CORE item: its descriptors in list order. -/
def runDescs (P : Port) : ArraySt × List DrainedEntry → List (Nat × Bytes) → Comp (ArraySt × List DrainedEntry)
  | st, [] => pure st
  | st, (ty, b) :: r => do
    let st ← if ty = 2 then runLayers P st (parseStripe b).convs else runPasses P st [passOfDesc P (parseArrayDesc b)]
    runDescs P st r

/-- A CORE item on the array and the hawk state that the core holds: the array, and the hawk program beside it (R68, R89, R97). The model runs the
whole array part first and the hawk program after it (DESIGN CHOICE, log entry 63: a row function's store to ADDR2 is no store that check 0x1047
names, so that a plan may read by an array descriptor what such a store writes). -/
def runCore (P : Port) (a : ArraySt) (h : HawkSt) (ds : List (Nat × Bytes)) (hawk : Nat) : Comp (ArraySt × HawkSt) := do
  let (a, drn) ← runDescs P ({ a with fill0 := false, fill1 := false }, []) ds
  if hawk = 0 then return (a, h)
  else do
    asHawk
    let pr ← rdProgram P hawk
    let (h, _) ← runHawk P (h, drn) pr.body
    return (a, h)

/-- The shapes of the passes and pooling layers of a CORE item, in order. -/
def itemShapes (P : Port) (ds : List (Nat × Bytes)) : List PassShape :=
  ds.flatMap (fun d => if d.1 = 2 then stripeShapes P (parseStripe d.2).convs else [(passOfDesc P (parseArrayDesc d.2)).shape])

/-- The first error of a computation. -/
def compErr {α : Type} (r : Except AccessErr α) : Option AccessErr := match r with | .error e => some e | .ok _ => none

/-- The pages of an address range. -/
def rangePages (va n : Nat) : List Nat := (List.range ((va + n - 1) / 65536 - va / 65536 + 1)).map (va / 65536 + ·)
/-- The first access to an item's descriptor list that cannot be served. -/
def listErr (P : Port) (it : WorkItem) : Option AccessErr :=
  (rangePages it.descAddr it.listBytes).findSome? (fun v => match P.rd (max it.descAddr (v * 65536)) with | .error e => some e | .ok _ => none)

/-- An item in progress that does nothing. -/
def idleRun (x : QItem) (t : Nat) : Running :=
  { item := x, since := t, counted := t, writes := [], pages := [], landed := false, err := none, result := none, advance := []
    shape := [], stop := none, seed := 0, step := 0, array := emptyArray, hawk := emptyHawk }

/-- The reads of a proof tile in the felt reserve of another quadrant, which VARIANT picks (R334), as requests of the partition's class at that quadrant's
inbound port, their number and sizes open; those in its own quadrant pass no arbiter. -/
def proofReads (s : State) (p u : Nat) : State :=
  let v := stepNumber (s.part p) % 16 % 4
  let o := if v = u / 10 then (v + 1) % 4 else v
  request s.tick.tick ⟨arbIn o, p, u / 10, 1 + s.tick.freeVal 16, 1 + s.freeVal 1024⟩

/-- A core item starts on a unit: the unit wakes where it was STOPPED. What it leaves in planes, banks and hawk state stands when it is complete
(DEDUCED, log entry 8). -/
def startCore (s : State) (q : Nat) (x : QItem) : State :=
  let s := wakeUnit (endFiller (account s q) q) q
  let s := modUnit s q (fun c => { c with pos := 0 })
  let c := s.core q
  if x.proof then (proofReads s x.part q).setRun q (some (idleRun x s.clk.clock))
  else
    let P := portOf s x.part
    let ds := readDescs s x.part x.item.ndesc x.item.descAddr
    let (r, d) := runComp (runCore P c.array (freeHawk (2 ^ 64 * (s.fresh + 1))) ds x.item.hawkAddr)
    let (a, h) := match r with | .ok v => v | .error _ => (c.array, c.hawk)
    let pages := d.pages ++ rangePages x.item.descAddr x.item.listBytes
    let s := touchPages s x.part (uplinkOf q) pages
    s.tick.setRun q (some { idleRun x s.clk.clock with
      writes := d.writes, pages := pages, err := compErr r, shape := itemShapes P ds
      stop := if (compErr r).isSome then some (d.passes, d.prog) else none, seed := 2 ^ 64 * (s.fresh + 1) + 2 ^ 62, step := (s.pair (q / 2)).freq
      array := a, hawk := h })

/-- A spectral item starts on an engine. The work buffer's bytes are free values afterwards (R150); CHECKED mode computes every tile
twice (R148). -/
def startSpec (s : State) (q : Nat) (x : QItem) : State :=
  let P := portOf s x.part
  let d := parseSpec ((readDescs s x.part 1 x.item.descAddr).headD (0, [])).2
  let junk (i : Nat) : Byte := BitVec.ofNat 8 (Config.free (2 ^ 64 * (s.fresh + 1) + 2 ^ 60 + i))
  let (r, o) := runComp (runSpectral P d)
  let k := if s.isSafety x.part then 2 else 1
  let pages := o.pages ++ rangePages x.item.descAddr x.item.listBytes ++ rangePages d.wbAddr (workBufferBytes d)
  let s := touchPages s x.part (uplinkOf q) pages
  s.tick.setRun q (some { idleRun x s.clk.clock with
    writes := o.writes ++ bufferPuts P junk d, pages := pages, err := match compErr r with | some e => some e | none => bufferErr P d
    advance := [k * d.tileCount * tileButterflies d, k * d.tileCount * tileCmacs d, d.tileCount] })

/-- Whether every proof tile of the step's attempt has passed, so that the Sieve may publish (R336). -/
def provedStep (s : State) (p : Nat) : Bool := match (s.part p).step with | some st => st.proofs.isEmpty | none => false

/-- An item is complete: its adds are made (R312), and the step may be over. -/
def retireItem (s : State) (r : Running) : State :=
  let p := r.item.part
  let s := tallyAdds (dropPrefetch s p r.item.id) p r.item.item.adds
  settleUnits (checkEnd (allQueues.foldl (fun s q => if (s.queue q).any (fun x => x.part == p) then sendWaits s q else s) s) p)

/-- A failed check of R260: the Sieve reads nothing more, the record is INVALID with INTEGRITY, and the step fails. Where the descriptor has its record
already, or the deadline has come, nothing is published (R271, R275). In the safe state nothing else follows (R338): the item is complete. -/
def sieveFault (s : State) (q : Nat) (r : Running) (d : SieveDesc) (res : SieveResult) : State :=
  let p := r.item.part
  let s := dropPrefetch (s.setRun q none) p r.item.id
  let known := match (s.part p).step with | some st => st.published.any (fun o => o.1 == d.output) | none => true
  let s := if known || pastDeadline s p then s.bump pgSieve 0x050 1 else publish s p d 3 false true none
  let s := sieveCounts s p res
  if (s.part p).safe.isSome && !pastDeadline s p then retireItem s r
  else failStep (s.modStep p (fun st => { st with lost := true })) p 0x4103 false none

/-- A Sieve item starts. Its check of the watermarks comes before it reads any input (R260): where it fails, the fault is reported at once, or, while
nothing may be published yet, when the item ends (DEDUCED, log entry 68). -/
def startSieve (s : State) (q : Nat) (x : QItem) : State :=
  match x.item.sieve with
  | none => s
  | some d =>
    let (r, o) := runComp (runSieve (portOf s x.part) d)
    let pages := o.pages ++ rangePages x.item.descAddr x.item.listBytes
    let s := touchPages s x.part (uplinkOf q) pages
    let run := { idleRun x s.clk.clock with
      pages := pages, err := compErr r, result := match r with | .ok v => some v | .error _ => none }
    let s := s.tick.setRun q (some run)
    match r with
    | .ok v => if v.integrity && provedStep s x.part then sieveFault s q run d v else s
    | .error _ => s

/-! ### Starting -/

/-- The Sieve queue that is served next: of the heads whose waits are satisfied the one that arrived first, the lower partition's of
equals (R256). -/
def sieveNext (s : State) : Option Nat :=
  let heads := (List.range 8).filterMap (fun p => match s.queue (qSieve p) with
    | x :: _ => if waitsMet s x then some (x.emitted, qSieve p) else none
    | [] => none)
  match heads with
  | [] => none
  | h :: r => some (r.foldl (fun (b : Nat × Nat) z => if z.1 < b.1 then z else b) h).2

/-- Whether the unit of a queue can start an item. -/
def unitFree (s : State) (q : Nat) : Bool :=
  (s.run q).isNone &&
  (if q < 40 then !coreFenced s q && !(unitCores s q).any (fun n => (s.core n).testing)
   else if q < 128 then !(s.engine (q - 64)).fenced && !(s.engine (q - 64)).off
   else !(s.plans.running.any (fun r => decide (128 ≤ r.1))) && sieveNext s == some q)

/-- Whether an item's CRC-32C no longer holds over its 96 bytes and its descriptor list (R328); a list that cannot be read stops it at its first
access. -/
def itemCorrupt (s : State) (x : QItem) : Bool :=
  (listErr (portOf s x.part) x.item).isNone && crc32c (x.item.raw ++ partBytes s x.part x.item.descAddr x.item.listBytes) != x.item.crc

/-- WORK_ITEM_START (R308): the head of a queue starts once its waits are satisfied; its CRC is checked before it starts (R328). -/
def startOp (s : State) (q : Nat) : State :=
  match s.queue q with
  | [] => s
  | x :: rest =>
    if s.phase == .up && unitFree s q && waitsMet s x then
      if !x.proof && itemCorrupt s x then crcRefuse s q x else
      let s := s.setQueue q rest
      let s := if q < 40 then startCore s q x else if q < 128 then startSpec s q x else startSieve s q x
      sendWaits s q
    else s

/-! ### Completing -/

/-- A proof tile ends on its unit; SP's verdict follows (R335, R362). One that has not ended 60 µs after its emission is a proof
timeout, after which it only runs on in the safe state (R338). The tile leaves
planes, banks and hawk state undefined (R334). -/
def endProof (s : State) (u : Nat) : State :=
  match s.run (qCore u) with
  | none => s
  | some r =>
    let awaited := match (s.part r.item.part).step with | some st => st.proofs.elem u | none => false
    if awaited && decide (r.item.emitted + 60000 ≤ s.clk.clock) then s
    else
      let long := min ((s.clk.clock - r.since) / 10) 0xFFFF
      let s := (unitCores s u).foldl (fun s n => s.bump (pgCore n) 0x0A0 1) ((account s u).bump pgProof 0x050 1)
      let s := undefUnit s u (s.freeVal 2 == 1)
      let s := { s with safety := { s.safety with proofMax := max s.safety.proofMax long } }
      checkEnd (settleCore (s.setRun (qCore u) none) u) r.item.part

/-- A CORE or SPEC item is complete: what it has done is counted, its array and hawk state stand, its adds are made (R312). -/
def finishUnit (s : State) (q : Nat) (r : Running) : State :=
  let s := if q < 40 then
      let s := accountDone s q r
      let s := modUnit s q (fun c => { c with array := r.array, hawk := r.hawk })
      (unitCores s q).foldl (fun s n => s.bump (pgCore n) 0x0A0 1) s
    else bumpRow s (pgEngine (q - 64)) 0x050 ((s.clk.clock - r.counted) :: r.advance)
  retireItem (s.setRun q none) r

/-- A WRITE of an item was answered with a STATUS other than OK (R495): the item is aborted. -/
def remoteFail (s : State) (q p : Nat) : State := failItem (s.blockErr (pgPressP p) 0xA104) q 0xA104 false none

/-- Whether answers to an item's WRITEs are still awaited (R496). -/
def awaits (s : State) (q : Nat) : Bool := s.net.remote.any (fun e => e.2 == q)

/-- Completion of a CORE or SPEC item: its writes land; those into an outbound window are sent, and the item is complete only when every
one has its answer (R494, R496). -/
def completeUnit (s : State) (q : Nat) (r : Running) : State :=
  let p := r.item.part
  if r.landed then if awaits s q then s else finishUnit s q r
  else
    let s := touchPages (partWrites s p r.writes) p (uplinkOf q) r.pages
    let (s, bad) := sendWritten (s.setRun q (some { r with landed := true })) p (some q) (r.writes.map (·.va))
    if bad then remoteFail s q p else if awaits s q then s else finishUnit s q r

/-- Completion of a Sieve item: its record is published (R269–R271), unless the descriptor has its record already. A failed check of
R260 gives an INVALID record and a failure of the step. A record that lies in an outbound window is sent, and the item is complete when it is answered
(R496). -/
def completeSieve (s : State) (q : Nat) (r : Running) (d : SieveDesc) (res : SieveResult) (st : StepRec) : State :=
  let p := r.item.part
  let s := touchPages s p (uplinkOf q) r.pages
  let known := st.published.any (fun o => o.1 == d.output)
  if res.integrity then sieveFault s q r d res
  else
    let s := (sieveCounts s p res).setRun q (some { r with landed := true, result := none })
    let (s, bad) := if known then (s.bump pgSieve 0x050 1, false)
      else publishFor s p d (if (s.part p).safe.isSome then 3 else 1) false false (some res) (some q)
    if bad then remoteFail s q p else if awaits s q then s else retireItem (s.setRun q none) r

/-- WORK_ITEM_COMPLETE (R312). What completes at or after the deadline counts as not complete; a Sieve result is then discarded (R271,
R275). The Sieve publishes nothing before every proof tile of the attempt has passed (R336). -/
def completeOp (s : State) (q : Nat) : State :=
  match s.run q with
  | none => match s.plans.sieveCut with
    -- the deadline of this cycle takes precedence, and the result is discarded (R271, R275)
    | some (t, k, c, d) =>
      if t = s.clk.clock ∧ k = q then
        { (((s.bump pgSieve 0x050 1).bump pgSieve 0x058 c).bump pgSieve 0x060 d) with plans := { s.plans with sieveCut := none } }
      else s
    | none => s
  | some r =>
    let p := r.item.part
    if r.item.proof then endProof s q
    else if r.err.isSome then s
    else match (s.part p).step with
      | none => s
      | some st =>
        if pastDeadline s p then
          if q < 128 || r.landed then s
          else match r.item.item.sieve, r.result with
            | some d, some res =>
              if res.integrity then sieveFault s q r d res
              else ((sieveCounts (dropPrefetch (s.setRun q none) p r.item.id) p res).bump pgSieve 0x050 1).modStep p (fun st => { st with lost := true })
            | _, _ => s
        else if q < 128 then completeUnit s q r
        else if r.landed then if awaits s q then s else retireItem (s.setRun q none) r
        else match r.item.item.sieve, r.result with
          | some d, some res => if st.proofs.isEmpty then completeSieve s q r d res st else s
          | _, _ => s

/-- WORK_ITEM_START. -/
def execWorkItemStart (t : Nat) (q : QueueId) (s : State) : Host.Outcome State Fault Refusal := .next (startOp (atTime t s) (queueCode q))
/-- WORK_ITEM_COMPLETE. -/
def execWorkItemComplete (t : Nat) (q : QueueId) (s : State) : Host.Outcome State Fault Refusal :=
  .next (completeOp (atTime t s) (queueCode q))

end Sys2Proof.Machine
end

