-- ==== Sys2Proof/Machine/PlanCheck.lean ====
section
/-! DEFINITION. The plan image (R296), its records, and the checks that LOAD makes of it (R297, R299, R302, R532, R533).
Readings: log entry 48 (DEDUCED). -/

namespace Sys2Proof.Machine

/-! ### Records of the image -/

/-- n bytes of an image. -/
def imgBytes (img : Nat → Byte) (off n : Nat) : Bytes := (List.range n).map (fun i => img (off + i))

/-- The plan header (R296). -/
structure PlanHead where
  version : Nat
  gytrix : Nat
  imageBytes : Nat
  crc : Nat
  lcores : Nat
  lmode : Bool
  lengines : Nat
  ninput : Nat
  nsclass : Nat
  nhint : Nat
  tallies : Nat
  nregions : Nat
  nstep : Nat
  regionOff : Nat
  inputOff : Nat
  ringOff : Nat
  stepOff : Nat
  sclassOff : Nat
  hintOff : Nat
deriving DecidableEq, Repr

/-- The fields of its words. -/
def parseHead (b : Bytes) : PlanHead :=
  let w := word b
  { version := bits (w 0) 31 24, gytrix := bits (w 0) 23 8, imageBytes := w 1, crc := w 2
    lcores := bits (w 3) 31 24, lmode := bit (w 3) 23, lengines := bits (w 3) 22 20, ninput := bits (w 3) 19 16
    nsclass := bits (w 3) 15 8, nhint := bits (w 3) 7 0, tallies := bits (w 4) 31 16, nregions := bits (w 4) 15 0
    nstep := bits (w 5) 31 16, regionOff := w 6, inputOff := w 7, ringOff := w 8, stepOff := w 9, sclassOff := w 10, hintOff := w 11 }

/-- A region record (R159). -/
def parseRegion (b : Bytes) : Region :=
  let w := word b 0
  { version := bits w 31 24, home := bits w 23 22, pin := bit w 21, seq := bit w 20, ro := bit w 19, wt := bit w 18
    source := bits w 17 16, affinity := bits w 15 8, pages := word b 1, vaBase := le b 8 8, srcOffset := le b 16 8 }

/-- An input record (R247). -/
def parseInput (b : Bytes) : InputRec :=
  let w := word b
  { version := bits (w 0) 31 24, kind := bits (w 0) 23 22, fgroup := bits (w 0) 19 16, batch := bits (w 0) 15 8
    memberFirst := bits (w 0) 4 0, members := bits (w 1) 31 24, levels := bits (w 1) 23 20, c := bits (w 1) 19 16
    tally := bits (w 1) 15 0, dims := w 2
    pat := ⟨bits (w 3) 31 16, bits (w 3) 15 0, bits (w 5) 15 8, bits (w 5) 7 0⟩
    sampleBytes := w 4, inVa := le b 24 8, rqAddr := le b 32 8 }

/-- A ring record (R266). -/
def parseRing (b : Bytes) : RingRec := ⟨bits (word b 0) 31 24, bits (word b 0) 20 16, word b 1, le b 8 8⟩

/-- A hint record (R314). -/
def parseHint (b : Bytes) : HintRec := ⟨word b 0, bits (word b 1) 31 16, bits (word b 1) 15 8⟩

/-- A work item (R298); its Sieve descriptor is read beside it, and its list's length and CRC follow once it has passed its checks. Waits and adds
beyond NWAIT and NADD are not used. -/
def parseItem (b : Bytes) : WorkItem :=
  let w := word b
  let nw := bits (w 0) 19 17
  let na := bits (w 0) 16 14
  { version := bits (w 0) 31 24, kind := bits (w 0) 23 22, shed := bit (w 0) 21, after := bit (w 0) 20, nwait := nw, nadd := na
    target := bits (w 1) 31 24, ndesc := bits (w 1) 15 0, npf := bits (w 2) 31 16
    waits := (List.range (min nw 4)).map (fun i => (le b (16 + 8 * i + 6) 2, le b (16 + 8 * i) 4))
    adds := (List.range (min na 4)).map (fun i => (bits (word b (12 + i)) 31 16, bits (word b (12 + i)) 15 0))
    descAddr := le b 64 8, hawkAddr := le b 72 8, pfAddr := le b 80 8, sieve := none, raw := b, listBytes := 0, crc := 0 }

/-- A sequence class record (R300), its items apart. -/
def parseClass (b : Bytes) : SClass :=
  let w := word b
  { version := bits (w 0) 31 24, batch := bits (w 0) 23 16, maxBatches := bits (w 0) 15 8, bind := bit (w 0) 7, rpt := bit (w 0) 6
    fgroup := bits (w 1) 31 28, nitems := bits (w 1) 15 0, region := w 2, itemsOff := w 3
    winVa := le b 16 8, hdrVa := le b 24 8, reqVa := le b 32 8, items := [] }

/-- A byte as the plan's regions hold it once R161 has been applied (R533). -/
def loadedByte (img : Nat → Byte) (rs : List Region) (va : Nat) : Byte :=
  match rs.find? (fun r => !r.seq && decide (r.vaBase ≤ va) && decide (va < r.vaBase + r.pages * 65536)) with
  | some r => if r.source = 1 then img (r.srcOffset + (va - r.vaBase)) else 0
  | none => 0
def loadedBytes (img : Nat → Byte) (rs : List Region) (va n : Nat) : Bytes := (List.range n).map (fun i => loadedByte img rs (va + i))

/-- Offset in the image of what lies at an address, 0 for what does not come from it. -/
def imageOff (rs : List Region) (va : Nat) : Nat :=
  match rs.find? (fun r => !r.seq && decide (r.vaBase ≤ va) && decide (va < r.vaBase + r.pages * 65536)) with
  | some r => if r.source = 1 then r.srcOffset + (va - r.vaBase) else 0
  | none => 0

/-- The descriptor list of an item at load: TYPE, length, address and bytes of each entry. -/
def loadDescs (bytes : Nat → Nat → Bytes) : Nat → Nat → List (Nat × Nat × Nat × Bytes)
  | 0, _ => []
  | n + 1, va =>
    let tag := bytes va 8
    let len := le tag 0 4
    (le tag 7 1, len, va + 8, bytes (va + 8) (min len 800)) :: loadDescs bytes n (va + 8 + len)

/-- An item with its Sieve descriptor. -/
def withSieve (bytes : Nat → Nat → Bytes) (it : WorkItem) : WorkItem :=
  if it.kind = 2 then { it with sieve := some (parseSieve (bytes (it.descAddr + 8) 128)) } else it

/-- The whole image as a plan. The image's DRAM frames are given when it has been copied. -/
def parsePlan (img : Nat → Byte) (h : PlanHead) : Plan :=
  let rs := (List.range h.nregions).map (fun i => parseRegion (imgBytes img (h.regionOff + 32 * i) 32))
  let bytes := loadedBytes img rs
  let item (off : Nat) : WorkItem := withSieve bytes (parseItem (imgBytes img off 96))
  { imageBytes := h.imageBytes, lcores := h.lcores, lmode := h.lmode, lengines := h.lengines, tallies := h.tallies, regions := rs
    inputs := (List.range h.ninput).map (fun i => parseInput (imgBytes img (h.inputOff + 64 * i) 64))
    ring := if h.ringOff = 0 then none else some (parseRing (imgBytes img h.ringOff 16))
    classes := (List.range h.nsclass).map (fun i =>
      let c := parseClass (imgBytes img (h.sclassOff + 64 * i) 64)
      { c with items := (List.range (c.maxBatches * c.nitems)).map (fun k => item (c.itemsOff + 96 * k)) })
    hints := (List.range h.nhint).map (fun i => parseHint (imgBytes img (h.hintOff + 8 * i) 8))
    steps := (List.range h.nstep).map (fun i => item (h.stepOff + 96 * i)), image := [] }

/-! ### Checks -/

/-- A load goes on, or is refused with a code and the byte offset in the image of what failed (R412). -/
abbrev Loading := Except (Nat × Nat)

/-- One check. -/
def refuseIf (b : Bool) (code off : Nat) : Loading Unit := if b then .error (code, off) else .ok ()
/-- A structure's checks in order. -/
def refuseFirst (l : List (Bool × Nat)) (off : Nat) : Loading Unit :=
  match firstFailure l with
  | some code => .error (code, off)
  | none => .ok ()

/-- Whether a range lies in one region with a property. -/
def inRegionOf (rs : List Region) (va n : Nat) (ok : Region → Bool) : Bool :=
  rs.any (fun r => ok r && decide (r.vaBase ≤ va) && decide (va + n ≤ r.vaBase + r.pages * 65536))
/-- Whether every page of a byte range, or any, lies in a region with a property. -/
def pagesOf (r : Nat × Nat) : List Nat := if r.1 < r.2 then (List.range ((r.2 - 1) / 65536 - r.1 / 65536 + 1)).map (r.1 / 65536 + ·) else []
def pageIn (rs : List Region) (vpn : Nat) (ok : Region → Bool) : Bool :=
  rs.any (fun r => ok r && decide (r.vaBase / 65536 ≤ vpn) && decide (vpn < r.vaBase / 65536 + r.pages))

/-- The addresses that a region takes: all 4,096 instances of a SEQ one (R160). -/
def Region.extent (r : Region) : Nat × Nat := (r.vaBase, r.vaBase + r.pages * 65536 * (if r.seq then 4096 else 1))

/-- A region record (R160), 0x2004 apart. -/
def regionCheck (s : State) (p : Nat) (h : PlanHead) (rs : List Region) (i : Nat) (r : Region) : Loading Unit := do
  let off := h.regionOff + 32 * i
  refuseIf (r.version != 1) 0x2001 off
  refuseIf (r.home == 3 || r.source == 3 || r.pages == 0 || r.vaBase % 65536 != 0 || decide (2 ^ 48 ≤ r.vaBase)
    || (r.source == 2 && r.home != 2) || (r.wt && r.home != 1) || (r.ro && r.source != 1) || (r.seq && r.home == 2)
    || (r.home == 2 && decide (h.lcores ≤ r.affinity))) 0x2002 off
  refuseIf (decide (2 ^ 48 < r.extent.2) || rs.zipIdx.any (fun e => e.2 != i && overlaps e.1.extent r.extent)) 0x2003 off
  refuseIf (r.source == 1 && decide (h.imageBytes < r.srcOffset + r.pages * 65536)) 0x2002 off
  refuseIf (s.isSafety p && r.home == 1 && !r.pin) 0x2005 off

/-- The regions that LOAD allocates one instance of: those without SEQ, and the pad instance of each class (R160, R301). -/
def loadRegions (pl : Plan) : List Region :=
  pl.regions.filter (fun r => !r.seq) ++ pl.classes.filterMap (fun c => pl.regions[c.region]?)

/-- The quota check of the whole plan (0x2004); the image counts as DRAM. -/
def quotaExceeded (s : State) (p : Nat) (pl : Plan) : Bool :=
  let rs := loadRegions pl
  decide (quotaFelt s p < sumNat (rs.map Region.needFelt))
  || decide (quotaDram s p < sumNat (rs.map Region.needDram) + ceilDiv pl.imageBytes 65536)
  || (List.range pl.lcores).any (fun l =>
      decide (quotaSheet s p < sumNat ((rs.filter (fun r => r.home == 2 && r.affinity == l)).map (fun r => r.pages))))

/-- The channel that an input record's member names: enabled, of the partition's fusion group (R219). -/
def memberChan (s : State) (p : Nat) (r : InputRec) (m : Nat) : Option Nat :=
  (groupMembers s p r.fgroup).find? (fun n => (s.chanCfg n).member == m)

/-- An input record (R248), with R52 at its place. -/
def inputCheck (s : State) (p : Nat) (h : PlanHead) (pl : Plan) (bytes : Nat → Nat → Bytes) (i : Nat) (r : InputRec) : Loading Unit := do
  let off := h.inputOff + 64 * i
  let pix := r.kind == 0
  let rq := parseRequant (bytes r.rqAddr 48)
  let w0 := bits r.dims 31 16
  let h0 := bits r.dims 15 0
  let need := if pix then (sampleLayout r.c (outFmtOf rq).bits (levelSizes r.levels w0 h0)).2 else 8 + 32 * r.dims
  let members := (List.range r.members).map (r.memberFirst + ·)
  let chans := members.map (memberChan s p r)
  refuseIf (r.version != 1) 0x3011 off
  refuseIf (decide (1 < r.kind) || r.batch == 0 || decide (64 < r.batch) || r.members == 0 || decide (r.batch < r.members)
    || decide (pl.tallies ≤ r.tally) || r.sampleBytes % 65536 != 0
    || (pix && (r.levels == 0 || decide (6 < r.levels) || !(r.c == 1 || r.c == 3)
      || decide (r.pat.last < r.pat.first) || decide (h0 ≤ r.pat.last)))
    || r.pat.period == 0 || r.pat.run == 0 || decide (r.pat.period < r.pat.run)
    || decide (r.sampleBytes < need)) 0x3012 off
  refuseIf (chans.any (fun c => match c with
    | none => true
    | some n => let k := (s.chanCfg n).kind; if pix then !pixelKind k else k != 8)) 0x3013 off
  refuseIf (chans.any (fun c => match c with
    | none => true
    | some n =>
      let cc := s.chanCfg n
      let sh := s.shapeCfg n
      if pix then level0Size sh cc.w cc.h != (w0, h0) || shapeC sh != r.c || sh.levels != r.levels
      else decide (r.dims < cc.w * cc.h))) 0x3014 off
  refuseIf (!inRegionOf pl.regions r.inVa (65536 + r.batch * r.sampleBytes) (fun g => g.home == 1 && g.wt && g.source == 0 && !g.seq)) 0x3015 off
  if pix then refuseFirst (requantChecks rq) off
  refuseIf (pix && (rq.inFmt != 9 || decide (rq.channels < r.c) || rq.outFmt == 3 || rq.outFmt == 9)) 0x3016 off
  refuseIf ((pl.inputs.take i).any (fun o => o.fgroup == r.fgroup
    && members.any (fun m => decide (o.memberFirst ≤ m) && decide (m < o.memberFirst + o.members)))) 0x3017 off
  refuseIf (badVa r.inVa || badVa r.rqAddr) 0x1007 off

/-- Every work item in the order of R532: the classes', then the step list's, with its offset and whether the list holds it. -/
def orderedItems (h : PlanHead) (pl : Plan) : List (Nat × Bool × WorkItem) :=
  pl.classes.flatMap (fun c => c.items.zipIdx.map (fun e => (c.itemsOff + 96 * e.2, false, e.1)))
  ++ pl.steps.zipIdx.map (fun e => (h.stepOff + 96 * e.2, true, e.1))

/-- The ring record (R266). -/
def ringCheck (h : PlanHead) (pl : Plan) : Loading Unit :=
  match pl.ring with
  | none => refuseIf ((orderedItems h pl).any (fun e => e.2.2.kind == 2)) 0x4008 0
  | some r => do
    refuseIf (r.version != 1 || r.slotsLog2 == 0 || decide (16 < r.slotsLog2) || r.slotBytes % 64 != 0 || decide (r.slotBytes < 128)
      || decide (1048576 < r.slotBytes)) 0x4007 h.ringOff
    refuseIf (!inRegionOf pl.regions r.ringVa (2 ^ r.slotsLog2 * r.slotBytes) (fun g => g.home == 0 && g.source == 0 && !g.seq && !g.ro)) 0x4008 h.ringOff

/-- What the checks of work items share: the image as the regions hold it, and every stripe descriptor of the plan by item offset and
entry, in the order of R532. -/
structure ItemEnv where
  bytes : Nat → Nat → Bytes
  stripes : List ((Nat × Nat) × StripeDesc)
  inputs : List (Nat × Nat × Nat)
  outputs : List Nat
  slotBytes : Nat
  quota : Nat

/-- The requantisation descriptor of a convolution or array descriptor. -/
def rqAt (e : ItemEnv) (va : Nat) : Requant := parseRequant (e.bytes va 48)

/-- The array descriptors of a CORE item in list order: what was before each and those after it within the work item (R71, R82). -/
def arrayCheck (e : ItemEnv) (c : ArrayCtx) (d : ArrayDesc) (later : List ArrayDesc) (off : Nat) : Loading ArrayCtx := do
  refuseFirst (arrayChecks c d later (if d.last ∧ d.outPath = 0 then some (rqAt e d.rqAddr) else none)) off
  return nextCtx c d

/-- A stripe descriptor (R129): its header, its layers under R122, its own checks, and with the last stripe of its group the group's. -/
def stripeCheck (e : ItemEnv) (pl : Plan) (target : Nat) (key : Nat × Nat) (d : StripeDesc) (off : Nat) : Loading Unit := do
  refuseFirst (stripeHeaderChecks d) off
  let rqs := d.convs.map (fun c => if c.op = 0 ∧ c.outPath = 0 then some (rqAt e c.rqAddr) else none)
  (d.convs.zip rqs).zipIdx.forM (fun (x, i) => refuseFirst (convChecks x.1 x.2) (if off = 0 then 0 else off + 32 + 96 * i))
  let sheet (t : Option Nat) (r : Region) : Bool := r.home == 2 && (match t with | some l => r.affinity == l | none => true)
  let own := (stripeChecks d rqs [] (fun r => (pagesOf r).all (fun v => pageIn pl.regions v (sheet (some target))))
    (fun r => (pagesOf r).any (fun v => pageIn pl.regions v (sheet none))) e.quota).filter (fun x => x.2 != 0x1024)
  refuseFirst own off
  let grp := e.stripes.filter (fun x => x.2.groupId == d.groupId)
  refuseIf (((grp.getLast?).map (·.1)) == some key && groupBad d (grp.map (·.2))) 0x1024 off

/-- Byte ranges that a pass reads (R97), of vectors at given addresses. -/
def passReads (p : Pass) (vecs : List (Nat × Nat)) : List (Nat × Nat) :=
  let pr := (pairOf p.aFmt p.wFmt).getD .int8
  vecs ++ (if p.wmode = 1 then (p.wAddr, p.wAddr + p.rows * pr.rowBytes)
    :: (if pr = .b4 then [(p.sAddr, p.sAddr + p.rows / 16 * 128)] else []) else [])

/-- Byte ranges that a pass's drain writes. -/
def passDrains (e : ItemEnv) (p : Pass) : List (Nat × Nat) :=
  if p.last && decide (p.outPath < 2) then
    let b := if p.outPath = 0 then (outFmtOf (rqAt e p.rqAddr)).bits else 32
    (List.range p.vectors).map (fun i => let o := p.out i; (o.1 + o.2 * b / 8, o.1 + ceilDiv ((o.2 + p.cols) * b) 8))
  else []

/-- A port that reads nothing: passes are laid out without running them. -/
def noPort : Port := ⟨fun va => .error (.translation va false), fun va => .error (.translation va true)⟩

/-- Byte ranges that a layer reads: of each input row that a tap addresses the columns that a tap addresses (R109, R111), the weight planes and the block
scales (R118). -/
def convReads (d : ConvDesc) : List (Nat × Nat) :=
  let n := ceilDiv (d.cin * (convFmt d).bits) 8
  let cols := colsRead d
  let whole := d.aPixStride == n && decide (cols.length = d.inW)
  (rowsRead d).eraseDups.flatMap (fun y =>
    let a := d.aAddr + (y - d.inRowFirst) * d.aRowStride
    if whole then [(a, a + d.inW * n)] else cols.map (fun x => (a + x * d.aPixStride, a + x * d.aPixStride + n)))
  ++ (if d.op = 0 then weightRegion d :: (if convPair d = .b4 then [scaleRegion d] else []) else [])

/-- What the array part of a CORE item gives the checks of its hawk program. -/
def hawkEnv (e : ItemEnv) (descs : List (Nat × Nat × Nat × Bytes)) : HawkEnv :=
  let parts : List (List Pass × List (Nat × Nat)) := descs.map (fun d =>
    if d.1 = 2 then
      let st := parseStripe d.2.2.2
      (stripePasses noPort st, st.convs.flatMap convReads)
    else
      let a := parseArrayDesc d.2.2.2
      let ps := passOfDesc noPort a
      let pr := (pairOf a.aFmt a.wFmt).getD .int8
      let n := ceilDiv (a.rows * pr.perRow * ((fmtOf a.aFmt).getD .int8).bits) 8
      ([ps], passReads ps ((List.range a.vectors).map (fun i => (a.aAddr + i * a.aStride, a.aAddr + i * a.aStride + n)))))
  let passes := parts.flatMap (·.1)
  let tiles := passes.filter (·.last)
  { entryCols := tiles.flatMap (fun p => if p.outPath = 2 then List.replicate p.vectors p.cols else [])
    tiles := tiles.length, reads := parts.flatMap (·.2)
    drains := tiles.zipIdx.flatMap (fun t => (passDrains e t.1).map (fun r => (t.2, r))), bytes := e.bytes }

/-- The program at an address at load. -/
def loadProgram (bytes : Nat → Nat → Bytes) (va : Nat) : HProgram :=
  let h := bytes va 16
  let n := bits (word h 0) 12 0
  ⟨bits (word h 0) 31 24, n, (List.range n).map (fun i => parseHInstr (bytes (va + 16 + 32 * i) 32))⟩

/-- Length of a descriptor of a TYPE; a stripe's is that of its layers (R298). -/
def descLength (ty : Nat) (b : Bytes) : Nat :=
  match ty with
  | 1 => 64
  | 2 => 32 + 96 * bits (word b 0) 19 16
  | 3 => 96
  | _ => 128

/-- What a stripe's passes leave for the array descriptors after them: each loads the shadow plane and switches (R115); a tile that is open stays open. -/
def stripeCtx (c : ArrayCtx) (st : StripeDesc) : ArrayCtx :=
  (st.convs.flatMap (fun d =>
    if d.op = 1 then []
    else
      let one := (segPasses d).map (fun q => passRows d (packOf d q.1) q.2.2)
      if 512 < d.outRowCount * (outW d).toNat then one ++ one else one)).foldl
    (fun c rows => { c with active := some rows, shadow := c.active }) c

/-- The entries of a CORE item's list one by one. -/
def coreEntries (e : ItemEnv) (pl : Plan) (it : WorkItem) (key : Nat) :
    ArrayCtx → Nat → List (Nat × Nat × Nat × Bytes) → Loading Unit
  | _, _, [] => .ok ()
  | c, k, (ty, _, va, b) :: r => do
    let off := imageOff pl.regions va
    if ty = 2 then
      stripeCheck e pl it.target (key, k) (parseStripe b) off
      coreEntries e pl it key (stripeCtx c (parseStripe b)) (k + 1) r
    else
      let later := (r.filter (fun x => x.1 == 1)).map (fun x => parseArrayDesc x.2.2.2)
      let c ← arrayCheck e c (parseArrayDesc b) later off
      coreEntries e pl it key c (k + 1) r

/-- A work item (R299) and everything it names, in the order of R532. -/
def itemCheck (e : ItemEnv) (pl : Plan) (off : Nat) (listed : Bool) (it : WorkItem) : Loading Unit := do
  refuseIf (it.version != 1 || it.kind == 3 || (it.after && !listed)) 0x5030 off
  refuseIf (decide ((if it.kind = 0 then pl.lcores else if it.kind = 1 then pl.lengines else 1) ≤ it.target)) 0x5031 off
  refuseIf (decide (4 < it.nwait) || decide (4 < it.nadd) || decide (256 < it.npf)
    || (it.waits ++ it.adds).any (fun w => decide (pl.tallies ≤ w.1)) || it.adds.any (fun a => a.2 == 0)) 0x5032 off
  let descs := loadDescs e.bytes it.ndesc it.descAddr
  let suits (ty : Nat) : Bool := if it.kind = 0 then ty == 1 || ty == 2 else ty == it.kind + 2
  refuseIf (it.ndesc == 0 || (it.kind != 0 && it.ndesc != 1)
    || descs.any (fun d => !suits d.1 || d.2.1 != descLength d.1 d.2.2.2)) 0x5033 off
  refuseIf (badVa it.descAddr || (it.kind == 0 && badVa it.hawkAddr) || (it.npf != 0 && badVa it.pfAddr)) 0x1007 off
  match it.kind, descs with
  | 0, _ =>
    coreEntries e pl it off startCtx 0 descs
    if it.hawkAddr ≠ 0 then refuseFirst (hawkChecks (hawkEnv e descs) (loadProgram e.bytes it.hawkAddr)) (imageOff pl.regions it.hawkAddr)
  | 1, d :: _ =>
    let sp := parseSpec d.2.2.2
    refuseFirst (specChecks sp (if sp.outPath = 0 then some (rqAt e sp.rqAddr) else none) e.bytes) (imageOff pl.regions d.2.2.1)
  | _, d :: _ =>
    let sv := parseSieve d.2.2.2
    let dup := decide (1 < (e.outputs.filter (· == sv.output)).length)
    refuseFirst (sieveChecks sv e.inputs (if dup then [sv.output] else []) e.slotBytes e.bytes) (imageOff pl.regions d.2.2.1)
  | _, [] => return ()

/-- The window of a class (R301), none when REGION names no region. -/
def windowOf (pl : Plan) (c : SClass) : Option (Nat × Nat) :=
  (pl.regions[c.region]?).map (fun r => (c.winVa, c.winVa + c.maxBatches * c.batch * r.pages * 65536))

/-- A sequence class and its items (R302). -/
def classCheck (e : ItemEnv) (h : PlanHead) (pl : Plan) (i : Nat) (c : SClass) : Loading Unit := do
  let off := h.sclassOff + 64 * i
  refuseIf (c.version != 1 || c.batch == 0 || decide (64 < c.batch) || c.maxBatches == 0 || decide (64 < c.maxBatches)
    || c.nitems == 0 || decide (4096 < c.nitems)) 0x5040 off
  refuseIf (match pl.regions[c.region]? with | some r => !r.seq || r.pages % 2 == 1 | none => true) 0x5041 off
  refuseIf (match windowOf pl c with
    | none => true
    | some w => pl.regions.any (fun r => overlaps w r.extent)
      || pl.classes.zipIdx.any (fun o => o.2 != i && (match windowOf pl o.1 with | some v => overlaps w v | none => false))) 0x5042 off
  let zeros (r : Region) : Bool := r.source == 0 && !r.seq && !r.ro
  refuseIf (!inRegionOf pl.regions c.hdrVa (c.maxBatches * 65536) zeros
    || (c.reqVa != 0 && !inRegionOf pl.regions c.reqVa 65536 zeros)) 0x5043 off
  c.items.zipIdx.forM (fun (it, k) => itemCheck e pl (c.itemsOff + 96 * k) false it)

/-- The queue capacities (R309): one proof tile in each core queue, every item of a step that can be placed. -/
def queuesExceeded (h : PlanHead) (pl : Plan) : Bool :=
  let items := (orderedItems h pl).map (·.2.2)
  let count (kind target : Nat) : Nat := (items.filter (fun it => it.kind == kind && it.target == target)).length
  (List.range pl.lcores).any (fun l => decide (4096 < count 0 l + 1)) || (List.range pl.lengines).any (fun l => decide (1024 < count 1 l))
  || decide (1024 < count 2 0)

/-- Whether a header field is out of range or a table passes the image (R296, R297). -/
def headBad (h : PlanHead) : Bool :=
  let tabs : List (Nat × Nat × Nat) :=
    [(0, 128, 1), (h.regionOff, 32, h.nregions), (h.inputOff, 64, h.ninput), (h.ringOff, 16, if h.ringOff = 0 then 0 else 1),
     (h.stepOff, 96, h.nstep), (h.sclassOff, 64, h.nsclass), (h.hintOff, 8, h.nhint)]
  h.lcores == 0 || decide (40 < h.lcores) || decide (4 < h.lengines) || decide (15 < h.ninput) || decide (8 < h.nsclass)
  || decide (16 < h.nhint) || h.nregions == 0 || h.nstep == 0
  || tabs.any (fun t => t.1 % 64 != 0 || (t.2.2 != 0 && decide (h.imageBytes < t.1 + t.2.1 * t.2.2)))

/-- Units that LOAD can bind, in the order of R293 and R294. -/
def loadUnits (s : State) (p : Nat) (safe : Bool) : List Nat :=
  (((unitsOf s p).filter (usable s p)) ++ poolUnits s p safe 4 ++ lendUnits s p safe).eraseDups
/-- Engines that LOAD can bind (R293). -/
def loadEngines (s : State) (p : Nat) : List Nat :=
  (List.range 4).filter (fun q => engineOwner s q == p && !(s.engine q).fenced && !(s.engine q).off)

/-- What every item check of a plan shares. -/
def itemEnv (s : State) (p : Nat) (h : PlanHead) (pl : Plan) (bytes : Nat → Nat → Bytes) : ItemEnv :=
  { bytes := bytes
    stripes := (orderedItems h pl).flatMap (fun x =>
      if x.2.2.kind = 0 then (loadDescs bytes x.2.2.ndesc x.2.2.descAddr).zipIdx.filterMap (fun d =>
        if d.1.1 = 2 then some ((x.1, d.2), parseStripe d.1.2.2.2) else none) else [])
    inputs := pl.inputs.map (fun r => (r.inVa, r.batch, (groupMembers s p r.fgroup).length))
    outputs := (planSieves pl).map (·.output)
    slotBytes := match pl.ring with | some r => r.slotBytes | none => 0
    quota := quotaSheet s p * 65536 }

/-- The image that LOAD names, a function of the byte's offset in it. -/
def planImage (s : State) (arg0 arg1 i : Nat) : Byte := if i < arg1 then s.rd (dramFrame 4096 + arg0 + i) else 0

/-- The first checks of LOAD: window, versions, length and CRC (R297). -/
def headCheck (s : State) (img : Nat → Byte) (arg0 arg1 : Nat) : Loading Unit := do
  refuseIf (decide (2 ^ 29 < arg0 + arg1)) 0x5023 0
  let h := parseHead (imgBytes img 0 128)
  refuseIf (h.version != 1) 0x5020 0
  refuseIf (h.gytrix != s.link.version) 0x5021 0
  refuseIf (h.imageBytes != arg1
    || h.crc != crc32c (imgBytes (fun i => if 8 ≤ i ∧ i < 12 then 0 else img i) 0 arg1)) 0x5022 0

/-- The checks of an image's contents (R297, R532), and its plan. -/
def planCheck (s : State) (p : Nat) (img : Nat → Byte) : Loading Plan := do
  let h := parseHead (imgBytes img 0 128)
  refuseIf (headBad h) 0x5029 0
  let pl := parsePlan img h
  pl.classes.zipIdx.forM (fun (c, i) => refuseIf (c.itemsOff % 64 != 0
    || decide (h.imageBytes < c.itemsOff + 96 * (c.maxBatches * c.nitems))) 0x5029 (h.sclassOff + 64 * i))
  let pairs := (List.range 20).filter (fun i => pairOwner s i == p)
  refuseIf (pairs.any (fun i => (s.pair i).safe != h.lmode)) 0x5024 0
  refuseIf (decide ((loadUnits s p h.lmode).length < h.lcores)) 0x5025 0
  refuseIf (decide ((loadEngines s p).length < h.lengines)) 0x5026 0
  refuseIf (decide (bits (s.partReg p 0x050) 15 0 < h.tallies)) 0x5027 0
  let bytes := loadedBytes img pl.regions
  pl.regions.zipIdx.forM (fun (r, i) => regionCheck s p h pl.regions i r)
  refuseIf (quotaExceeded s p pl) 0x2004 0
  pl.inputs.zipIdx.forM (fun (r, i) => inputCheck s p h pl bytes i r)
  ringCheck h pl
  let e := itemEnv s p h pl bytes
  pl.classes.zipIdx.forM (fun (c, i) => classCheck e h pl i c)
  pl.hints.zipIdx.forM (fun (t, i) => refuseIf (decide (bits (s.partReg p 0x048) 17 0 < t.startUs) || t.durUs == 0 || t.level == 0)
    0x5044 (h.hintOff + 8 * i))
  pl.steps.zipIdx.forM (fun (it, i) => itemCheck e pl (h.stepOff + 96 * i) true it)
  refuseIf (queuesExceeded h pl) 0x5034 0
  return pl

/-- The checks of LOAD (R297, R532): the plan, or the refusal. -/
def loadCheck (s : State) (p arg0 arg1 : Nat) : Loading Plan := do
  headCheck s (planImage s arg0 arg1) arg0 arg1
  planCheck s p (planImage s arg0 arg1)

/-! ### Loading -/

/-- LOAD stores with an item the CRC-32C over its 96 bytes and its descriptor list (R328). -/
def sealItem (bytes : Nat → Nat → Bytes) (it : WorkItem) : WorkItem :=
  let n := (loadDescs bytes it.ndesc it.descAddr).foldl (fun n d => n + 8 + d.2.1) 0
  { it with listBytes := n, crc := crc32c (it.raw ++ bytes it.descAddr n) }
def sealPlan (bytes : Nat → Nat → Bytes) (pl : Plan) : Plan :=
  { pl with classes := pl.classes.map (fun c => { c with items := c.items.map (sealItem bytes) }), steps := pl.steps.map (sealItem bytes) }

/-- Copy the image into DRAM frames of the partition, page by page; the frames taken so far count as used. -/
def copyImage (s : State) (p src bytes : Nat) (pl : Plan) : List Nat → Option State
  | [] => some s
  | k :: ks => match pickDram s with
    | none => none
    | some f =>
      let n := min 65536 (bytes - k * 65536)
      -- read from the device reserve with class 15, written with the partition's (R185)
      let s := requestBack (requestBack ((s.tick.wipe (dramFrame f) 65536).copyRam (src + k * 65536) (dramFrame f) n) 15 4) p 4
      let s := s.modPart p (fun x => { x with plan := x.plan.map (fun q => { q with image := q.image ++ [f] }) })
      copyImage s p src bytes pl ks

/-- LOAD of a plan that passed its checks (R161, R293, R294, R296, R304, R311); none where no frame is left. -/
def installPlan (s : State) (p src : Nat) (pl : Plan) : Option State :=
  let us := (loadUnits s p pl.lmode).take pl.lcores
  let es := (loadEngines s p).take pl.lengines
  let s := us.foldl (fun s u => takeUnit s p u 0) s
  let s := s.modPart p (fun x => { x with
    plan := some { pl with image := [] }, bind := us.map some, ebind := es.map some, lost := [], step := none, opens := [], ptes := []
    prefetch := [], wrSeq := 0, sid := 1, buffers := [], handovers := [], lastSets := [], launchNs := none, stepNo := 0 })
  match copyImage s p src pl.imageBytes pl (List.range (ceilDiv pl.imageBytes 65536)) with
  | none => none
  | some s =>
    let image := match (s.part p).plan with | some q => q.image | none => []
    let bind := (s.part p).bind
    match allocRegions s p image bind pl.regions with
    | none => none
    | some s => match allocPads s p image bind pl.regions 0 pl.classes with
      | none => none
      | some s =>
        let s := (us.zipIdx).foldl (fun s e => modUnit s e.1 (fun c => { c with logical := e.2 })) s
        some (resetTallies (s.modPart p (fun x => { x with st := .loaded })) p)

/-- LOAD: a refused one allocates nothing and leaves the partition READY (R297). -/
def loadPlan (s : State) (p arg0 arg1 : Nat) : State :=
  match loadCheck s p arg0 arg1 with
  | .error (code, off) => s.pageErr (pgPart p) 3 code off
  | .ok pl => match installPlan s p (dramFrame 4096 + arg0) (sealPlan (loadedBytes (planImage s arg0 arg1) pl.regions) pl) with
    | some s' => s'
    | none => s.pageErr (pgPart p) 3 0x2004 0

end Sys2Proof.Machine
end

