-- ==== Sys2Proof/Machine/PartOps.lean ====
section
/-! DEFINITION. The partition commands of PART_CMD (R305, R321, R502), served by QP (R450).
Readings: log entry 19 (DEDUCED), log entry 23 (DEDUCED). -/

namespace Sys2Proof.Machine

/-- The next step at the acceptance of a command (R305): the lowest m whose boundary before it has not begun. -/
def nextStep (x : PartSt) : Nat :=
  match x.step with
  | some st => st.n + 1
  | none => if x.stepNo = 0 then 0 else x.stepNo + 1

/-- The step that the low 32 bits of AT name, none for one before the next step. -/
def stepAt (x : PartSt) (lo : Nat) : Option Nat :=
  let next := nextStep x
  let ahead := (lo + 2 ^ 32 - next % 2 ^ 32) % 2 ^ 32
  if ahead < 2 ^ 31 then some (next + ahead) else none

/-- A refused command (SOURCE 2): INFO holds the value written (R412). -/
def refuseCmd (s : State) (p code value : Nat) : State := s.pageErr (pgPart p) 2 code value

/-- LAUNCH (R321, R501, R502). A logical core or engine that lost its unit while LOADED is found another one, or the partition is SUSPENDED (R291). -/
def launchOp (s : State) (p arg0 arg1 arg2 value : Nat) : State :=
  let all := bit arg2 0
  let g := s.regsOf 0x020
  let at? := if all then (g 0x064 + 2 ^ 32 * g 0x068) + (g 0x078 + 2 ^ 32 * g 0x07C) * bits (g 0x06C) 17 0 * 1000
    else arg0 + 2 ^ 32 * arg1
  if all && s.clk.time.st != 2 then refuseCmd s p 0xA005 value
  else if at? < s.clk.dev + 1000000 then refuseCmd s p 0x500B value
  else
    let s := s.modPart p (fun x => { x with
      st := .running, launchNs := some at?, launchGlobal := all, stepNo := 0, notBefore := 0 })
    restoreUnits s p

/-- STOP (R291, R321): with no step in progress the current step has ended already. -/
def stopOp (s : State) (p : Nat) : State :=
  let s := s.modPart p (fun x => { x with st := .stopping })
  if (s.part p).step.isNone then stopAtEnd s p else s

/-- A refused SEQ_OPEN: PART_OPEN_RESULT tells it too (R320). -/
def refuseSeqOpen (s : State) (p code value : Nat) : State :=
  refuseCmd (s.modPart p (fun x => { x with openResult := 0xC0000000#32, opens := x.opens.map (fun o => { o with last := false }) })) p code value

/-- SEQ_OPEN (R305, R321). -/
def seqOpenOp (s : State) (p arg0 arg1 arg2 value : Nat) : State :=
  let x := s.part p
  let ci := bits arg0 7 0
  let m := bits arg0 15 8
  match (match x.plan with | some pl => pl.classes[ci]? | none => none) with
  | none => refuseSeqOpen s p 0x5045 value
  | some c =>
    if !(decide (m < 32) || (!c.bind && m == 0xFF)) then refuseSeqOpen s p 0x5045 value
    else if x.st == .loaded then hostOpen (s.modPart p (fun x => { x with openResult := 0 })) p ⟨ci, m, arg1, 0, true⟩ 0
    else match stepAt x arg2 with
      | none => refuseSeqOpen s p 0x500B value
      | some n => s.modPart p (fun x => { x with openResult := 0, opens := x.opens.map (fun o => { o with last := false }) ++ [⟨ci, m, arg1, n, true⟩] })

/-- SEQ_RETIRE (R305, R321). -/
def seqRetireOp (s : State) (p arg0 arg2 value : Nat) : State :=
  let x := s.part p
  let i := bits arg0 11 0
  let e := s.instarAt i
  if e.st ≠ 1 ∨ e.part ≠ p then refuseCmd s p 0x5045 value
  else if x.st == .loaded then retireSeq s p i
  else match stepAt x arg2 with
    | none => refuseCmd s p 0x500B value
    | some n => s.setInstar i { e with st := 2, retireAt := n }

/-- A command in a state that allows it; any other sets 0x5002 (R321). -/
def partCommand (s : State) (p value arg0 arg1 arg2 : Nat) : State :=
  match bits value 3 0, (s.part p).st with
  | 1, .ready => loadPlan s p arg0 arg1
  | 2, .loaded => unloadPart s p
  | 2, .suspended => unloadPart s p
  | 3, .loaded => launchOp s p arg0 arg1 arg2 value
  | 4, .running => stopOp s p
  | 5, .loaded => seqOpenOp s p arg0 arg1 arg2 value
  | 5, .running => seqOpenOp s p arg0 arg1 arg2 value
  | 6, .loaded => seqRetireOp s p arg0 arg2 value
  | 6, .running => seqRetireOp s p arg0 arg2 value
  | 5, _ => refuseSeqOpen s p 0x5002 value
  | _, _ => refuseCmd s p 0x5002 value

/-- A write of PART_CMD: the arguments are read now; while QP restarts the command waits with CMD_BUSY set (R321, R450). -/
def partCmdWrite (s : State) (p value : Nat) : State :=
  let x := s.part p
  let a (i : Nat) : Nat := s.partReg p (0x06C + 4 * i)
  if x.cmd.isSome then refuseCmd s p 0x5001 value
  else if (s.proc 2).st == .run then partCommand s p value (a 0) (a 1) (a 2)
  else s.setPart p { x with cmd := some (value, BitVec.ofNat 32 (a 0), BitVec.ofNat 32 (a 1), BitVec.ofNat 32 (a 2)) }

/-- The commands that waited for QP, in partition order. -/
def servePartCmds (s : State) : State :=
  (List.range 8).foldl (fun s p => match (s.part p).cmd with
    | none => s
    | some (v, a, b, c) => partCommand (s.modPart p (fun x => { x with cmd := none })) p v a.toNat b.toNat c.toNat) s

/-- PART_STATUS STATE (R320). -/
def PState.code : PState → Nat
  | .empty => 0 | .ready => 1 | .loaded => 2 | .running => 3 | .stopping => 4 | .suspended => 5

end Sys2Proof.Machine
end

