-- ==== Sys2Proof/Machine/PressCmds.lean ====
section
/-! DEFINITION. The Press's commands: faults, fills and prefetches (R167–R173), translation errors (R171), parity, ECC and the patrol
(R176–R184).
Readings: log entry 10 (DESIGN CHOICE), log entry 52 (DEDUCED), log entry 53 (DEDUCED), log entry 54 (DEDUCED). -/

namespace Sys2Proof.Machine

def pgFelt : Nat := 0x190
def pgDram : Nat := 0x191

/-! ### Faults, fills, prefetches -/

/-- The slice where a page's region wants it. -/
def pageQuad (s : State) (p key : Nat) : Option Nat :=
  match (s.part p).plan with
  | none => none
  | some pl =>
    let r := if 2 ^ 32 ≤ key then (pl.classes[(key - 2 ^ 32) / 2 ^ 22]?).bind (fun c => pl.regions[c.region]?)
      else pl.regions.find? (fun r => decide (r.vaBase / 65536 ≤ key) && decide (key * 65536 < (Region.extent r).2))
    match r with
    | some r => affQuad (s.part p).bind r.affinity
    | none => none

/-- Start the fill of a page that is not resident: a felt frame within the quota, a victim giving way; none where there is neither. -/
def startFill (s : State) (p key : Nat) : Option State :=
  match takeFelt s p (pageQuad s p key) with
  | none => none
  | some (q, f, s) => some (s.setPte p key { s.pte p key with loc := q, frame := f, filling := true })

/-- PAGE_FAULT (R167): an access to a page that is not resident. One whose fill is in progress joins it (R173); without a frame or a
victim the access goes to the backing frame. -/
def pageFaultOp (s : State) (p vpn : Nat) : State :=
  match resolve s p (vpn * 65536) with
  | none => s
  | some (key, _) =>
    let e := s.pte p key
    if e.valid && e.res == 0 && !e.filling && !e.poison then
      -- a hold released in this cycle still stands: the fault is served first (R173)
      let held := if (s.part p).relAt = s.clk.clock then (s.part p).rels else []
      let free (s : State) : State := held.foldl (fun s k => releaseHold s p k) s
      match startFill (held.foldl (fun s k => placeHold s p k) s) p key with
      | some s' => (free s').bump (pgPressP p) 0x070 1
      | none => s.bump (pgPressP p) 0x088 1
    else s

/-- PAGE_FILL_COMPLETE (R168): the page is resident, as its backing frame holds it. The end of a fill, a prefetched page's too, counts as an access to it
(R169; DEDUCED, log entry 52). -/
def pageFillOp (s : State) (p vpn : Nat) : State :=
  match resolve s p (vpn * 65536) with
  | none => s
  | some (key, _) =>
    let e := s.pte p key
    match e.backing with
    | some b =>
      if e.filling then
        let s := requestFill (s.copyRam (dramFrame b) (feltFrame e.loc e.frame) 65536) p e.loc
        -- evictions that a quota commit asked for follow the last fill (R173)
        shrinkFelt 1504 (s.setPte p key { e with res := 2, filling := false, dirty := false, used := s.usNow }) p
      else s
    | none => s

/-- Whether an item of an order is still queued or running. -/
def itemLive (s : State) (id : Nat) : Bool :=
  s.plans.queues.any (fun q => q.2.any (fun x => x.id == id)) || s.plans.running.any (fun r => r.2.item.id == id)

/-- Serve the first of a partition's prefetches that has not been served. -/
def serveList (s : State) (p : Nat) (pre : List (Nat × Nat × Bool)) : List (Nat × Nat × Bool) → State
  | [] => s
  | (key, id, true) :: r => serveList s p (pre ++ [(key, id, true)]) r
  | (key, id, false) :: r =>
    let with_ (s : State) (l : List (Nat × Nat × Bool)) : State := s.modPart p (fun x => { x with prefetch := l })
    let keep := pre ++ (key, id, true) :: r
    let e := s.pte p key
    if !(itemLive s id) || !e.valid then with_ s (pre ++ r)
    else if e.res != 0 || e.filling then with_ s keep
    else match startFill s p key with
      | some s' => with_ s' keep
      | none => (with_ s (pre ++ r)).bump (pgPressP p) 0x090 1

/-- PREFETCH_SERVE (R172): in the order emitted; dropped when no frame and no victim is left. -/
def prefetchOp (s : State) (p : Nat) : State := serveList s p [] (s.part p).prefetch

/-! ### Errors of a work item -/

/-- TRANSLATION_ERROR (R171): the work item is aborted and the step fails without replay (R337). -/
def translationOp (s : State) (q va : Nat) (write : Bool) : State :=
  match s.run q with
  | none => s
  | some r =>
    let p := r.item.part
    match access s p va write with
    | .error (.translation _ _) =>
      let s := (s.blockErr (pgPressP p) 0x2007).bump (pgPressP p) 0x098 1
      failItem (s.logEntry 0x2007 p (if q < 40 then q else if q < 128 then 0x40 + (q - 64) else 0xFF) (stepNumber (s.part p))) q 0x2007 false none
    | _ => s

/-- POISONED_ACCESS (R176). -/
def poisonedOp (s : State) (q va : Nat) : State :=
  match s.run q with
  | none => s
  | some r =>
    let p := r.item.part
    match access s p va false with
    | .error (.poisoned _) =>
      let s := (s.blockErr (pgPressP p) 0x210A).bump pgPress 0x068 1
      let spot := match resolve s p va with
        | some (key, _) => some (some key, (frameBases s (s.pte p key)).headD 0)
        | none => none
      failItem (s.logEntryOf 0x210A p (if q < 40 then q else if q < 128 then 0x40 + (q - 64) else 0xFF) (stepNumber (s.part p)) spot) q 0x210A true none
    | _ => s

/-! ### Parity and ECC -/

/-- Log a memory event with the partition and virtual page, if a page lies there, and the physical frame, by its address (R184, R454). How the
entry's INFO carries both is open: it stays a free value (DEDUCED, log entry 24). -/
def memLog (s : State) (code unit : Nat) (pg : Option (Nat × Nat)) (frame : Nat) : State :=
  s.logEntryOf code (match pg with | some e => e.1 | none => 0xFF) unit (match pg with | some e => stepNumber (s.part e.1) | none => 0)
    (some (pg.map (·.2), frame))

/-- What a recovery came to is counted and logged; a scratch page's work item is aborted; the failure is attributed to the unit
whose sheet store failed, and to none where a felt or DRAM frame did (R178, R327, R337). -/
def settleRecovery (s : State) (p key unit code : Nat) (q : Option Nat) (frame : Nat) (r : Recovery) : State :=
  match r with
  | .good => memLog (grantRecovery s p key) code unit (some (p, key)) frame
  | .abort =>
    let s := memLog s 0x2105 unit (some (p, key)) frame
    match q with
    | some q => failItem s q 0x2105 true (if unit < 40 then unitIdOf (unitOf s unit) else none)
    | none => s
  | .poisoned => (memLog s 0x2106 unit (some (p, key)) frame).bump pgPress 0x068 1
  | .fence => s

/-- A sheet frame fails twice: it is retired and its page recovered; the core is fenced where R179 says so. -/
def retireSheet (s : State) (c f : Nat) (q : Option Nat) : State :=
  if s.aon.retiredSheet.elem (c, f) then s
  else
    let pg := pageOfSheet s c f
    let s := { s with aon := { s.aon with retiredSheet := s.aon.retiredSheet ++ [(c, f)] } }
    let s := s.bump pgPress 0x060 1
    let (s, r) := match pg with
      | some (p, key) =>
        let (s, r) := recoverOwn s p key
        (settleRecovery s p key c 0x2104 q (sheetFrame c f) r, r)
      | none => (memLog s 0x2104 c none (sheetFrame c f), .good)
    let s : State := if r = .fence ∧ spUp s = false then { s with safety := { s.safety with owedFences := s.safety.owedFences ++ [c] } } else s
    if sheetShort s c || r = .fence then fenceUnit s c 0x620B (some c) else s

/-- A felt frame fails twice. -/
def retireFelt (s : State) (sl f : Nat) (q : Option Nat) : State :=
  if s.aon.retiredFelt.elem (sl, f) then s
  else
    let pg := pageOfFelt s sl f
    let s := { s with aon := { s.aon with retiredFelt := s.aon.retiredFelt ++ [(sl, f)] } }
    let s := s.bump pgPress 0x060 1
    match pg with
    | some (p, key) => let (s, r) := recoverOwn s p key; settleRecovery s p key 0xFF 0x2104 q (feltFrame sl f) r
    | none => memLog s 0x2104 0xFF none (feltFrame sl f)

/-- SRAM_PARITY_ERROR (R177). A transient error is counted and logged with the code that R387 gives it (R454: DEDUCED, log entry 24). -/
def sramParityOp (s : State) (fr : SramFrame) (second : Bool) (q : Option Nat) : State :=
  match fr with
  | .sheet c f =>
    if second then retireSheet s c.val f.val q
    else memLog (s.bump pgPress 0x050 1) 0x2101 c.val (pageOfSheet s c.val f.val) (sheetFrame c.val f.val)
  | .felt sl f =>
    if second then retireFelt s sl.val f.val q
    else memLog (s.bump pgFelt 0x048 1) 0x2102 0xFF (pageOfFelt s sl.val f.val) (feltFrame sl.val f.val)

/-- The page and the source frame of a fabric transfer, which the command does not name: one of the pages of the item that it serves, else a frame alone,
free values (R184; DEDUCED, log entry 24). -/
def transferSpot (s : State) (q : Option Nat) : Option (Nat × Nat) × Nat :=
  match q.bind s.run with
  | none => (none, 65536 * s.freeVal (flashBase / 65536))
  | some r => match r.pages[s.freeVal r.pages.length]? with
    | none => (none, 65536 * s.freeVal (flashBase / 65536))
    | some v => match resolve s r.item.part (v * 65536) with
      | some (key, _) => (some (r.item.part, key), (frameBases s (s.pte r.item.part key)).headD 0)
      | none => (none, 65536 * s.freeVal (flashBase / 65536))

/-- FABRIC_PARITY_ERROR (R180): a second failure is an uncorrectable event of the transfer's work item, logged with page and frame (R184). -/
def fabricParityOp (s : State) (second : Bool) (q : Option Nat) : State :=
  let s := s.bump pgPress 0x058 1
  let p := match q with | some q => runPart s q | none => none
  let spot := transferSpot s q
  let s := s.logEntryOf (if second then 0x2107 else 0x2103) (p.getD 0xFF) 0xFF (match p with | some p => stepNumber (s.part p) | none => 0)
    (if second then some (spot.1.map (·.2), spot.2) else none)
  if second then
    match q with
    | some q => failItem s q 0x2107 true none
    | none => s
  else s

/-- Every slot in use, by channel. -/
def slotsInUse (s : State) : List (Nat × Nat) := s.vat.chans.flatMap (fun c => c.2.slots.map (fun e => (c.1, e.1)))

/-- A double-bit error in the Vat's slot area spoils one of the slots in use, which one being open (R212). -/
def spoilSlot (s : State) : State :=
  match (slotsInUse s)[s.freeVal (slotsInUse s).length]? with
  | none => s
  | some (ch, k) =>
    let x := s.chan ch
    (s.setChan ch { x with slots := x.slots.map (fun e => if e.1 = k then (k, { e.2 with corrupt := true }) else e) }).tick

/-- A double-bit error: the frame is retired and its page recovered (R182). -/
def retireDram (s : State) (f : Nat) (q : Option Nat) : State :=
  let s := s.bump pgDram 0x058 1
  if s.press.dramRetired.elem f then s
  else
    let pg := pageOfDram s f
    let s := { s with press := { s.press with dramRetired := insNat f s.press.dramRetired } }
    let s := s.bump pgPress 0x060 1
    match pg with
    | some (p, key, back) =>
      let (s, r) := if back then recoverBacking s p key else recoverOwn s p key
      settleRecovery s p key 0xFF 0x2109 q (dramFrame f) r
    | none =>
      let s := memLog s 0x2109 0xFF none (dramFrame f)
      if 12288 ≤ f ∧ f < 32768 then spoilSlot s else s

/-- A DRAM error found by an access or by the patrol (R182, R183); there are 917,504 frames. -/
def dramError (s : State) (f : Nat) (double : Bool) (q : Option Nat) : State :=
  if 917504 ≤ f then s
  else if double then retireDram s f q
  else memLog (s.bump pgDram 0x050 1) 0x2108 0xFF ((pageOfDram s f).map (fun e => (e.1, e.2.1))) (dramFrame f)

/-- The next allocated DRAM frame from one on: the device reserve and what partitions hold, without the retired ones (R156, R183). -/
def nextAllocated (s : State) (f : Nat) : Option Nat :=
  let k := skipUsed (s.press.dramRetired.filter (fun r => decide (f ≤ r))) f
  if k < 32768 then some k
  else (sortNat ((dramAllocated s).filter (fun u => decide (32768 ≤ u) && decide (f ≤ u) && !(s.press.dramRetired.elem u)))).head?

/-- PATROL_SCRUB (R183): the next allocated line; a pass begins where none is in progress, after a pending commit of DRAM_PATROL, and
ends after the last line. -/
def patrolOp (s : State) (err : LineError) : State :=
  let s := if s.press.patrolBusy then s else
    let s := settleTimed s .dram pgDram
    if bit (s.inForce (addr pgDram 0x044)) 31 then { s with press := { s.press with patrolBusy := true, patrolAt := 0 } } else s
  if !s.press.patrolBusy then s
  else
    let last (s : State) : State :=
      { s with press := { s.press with patrolBusy := false, patrolAt := 0 } }.bump pgDram 0x060 1
    match nextAllocated s (s.press.patrolAt / 1024) with
    | none => last s
    | some f =>
      let line := max s.press.patrolAt (f * 1024)
      let s := request s ⟨arbDram, 15, 4, 1, 1⟩
      let s := match err with
        | .none => s
        | .single => dramError s f false none
        | .double => dramError s f true none
      if (nextAllocated s ((line + 1) / 1024)).isNone then last s
      else { s with press := { s.press with patrolAt := line + 1 } }

/-- HAWK_PARITY_ERROR (R90): the work item is aborted, its unit striking (R337). -/
def hawkParityOp (s : State) (c : Nat) : State :=
  let u := unitOf s c
  match s.run (qCore u) with
  | none => s
  | some r =>
    let p := r.item.part
    let s := (s.bump pgSt 0x0C0 1).logEntry 0x6112 p c (stepNumber (s.part p))
    failItem s (qCore u) 0x6112 true (unitIdOf u)

/-- The queue that an access served. -/
def byQueue (b : Option QueueId) : Option Nat := b.map queueCode

/-- PAGE_FAULT. -/
def execPageFault (t : Nat) (p : Fin 8) (vpn : Nat) (s : State) : Host.Outcome State Fault Refusal := .next (pageFaultOp (atTime t s) p.val vpn)
/-- PAGE_FILL_COMPLETE. -/
def execPageFillComplete (t : Nat) (p : Fin 8) (vpn : Nat) (s : State) : Host.Outcome State Fault Refusal := .next (pageFillOp (atTime t s) p.val vpn)
/-- PREFETCH_SERVE. -/
def execPrefetchServe (t : Nat) (p : Fin 8) (s : State) : Host.Outcome State Fault Refusal := .next (prefetchOp (atTime t s) p.val)
/-- TRANSLATION_ERROR. -/
def execTranslationError (t : Nat) (q : QueueId) (va : Nat) (write : Bool) (s : State) : Host.Outcome State Fault Refusal :=
  .next (translationOp (atTime t s) (queueCode q) va write)
/-- SRAM_PARITY_ERROR. -/
def execSramParityError (t : Nat) (frame : SramFrame) (second : Bool) (by_ : Option QueueId) (s : State) : Host.Outcome State Fault Refusal :=
  .next (whenUp (fun s => sramParityOp s frame second (byQueue by_)) (atTime t s))
/-- FABRIC_PARITY_ERROR. -/
def execFabricParityError (t : Nat) (second : Bool) (by_ : Option QueueId) (s : State) : Host.Outcome State Fault Refusal :=
  .next (whenUp (fun s => fabricParityOp s second (byQueue by_)) (atTime t s))
/-- DRAM_ECC_ERROR. -/
def execDramEccError (t : Nat) (frame : Nat) (double : Bool) (by_ : Option QueueId) (s : State) : Host.Outcome State Fault Refusal :=
  .next (whenUp (fun s => dramError s frame double (byQueue by_)) (atTime t s))
/-- POISONED_ACCESS. -/
def execPoisonedAccess (t : Nat) (q : QueueId) (va : Nat) (s : State) : Host.Outcome State Fault Refusal :=
  .next (poisonedOp (atTime t s) (queueCode q) va)
/-- PATROL_SCRUB. -/
def execPatrolScrub (t : Nat) (err : LineError) (s : State) : Host.Outcome State Fault Refusal := .next (whenUp (fun s => patrolOp s err) (atTime t s))
/-- HAWK_PARITY_ERROR. -/
def execHawkParityError (t : Nat) (core : Fin 40) (s : State) : Host.Outcome State Fault Refusal := .next (hawkParityOp (atTime t s) core.val)

end Sys2Proof.Machine
end

