-- ==== Sys2Proof/Machine/SafetyCmds.lean ====
section
/-! DEFINITION. The failures that checkers find (R328–R336), SP's decision and the backstop (R339), strikes (R339), SP's hold (R355), the
sentinel lane (R352–R356) and the safe state's clear (R347).
Readings: log entry 20 (DEDUCED), log entry 27 (DEDUCED), log entry 28 (DEDUCED), log entry 29 (DEDUCED). -/

namespace Sys2Proof.Machine

/-! ### Checkers -/

/-- Log an event of a partition's step, or of none. -/
def unitLog (s : State) (code p unit : Nat) : State :=
  s.logEntry code (if p < 8 then p else 0xFF) unit (if p < 8 then stepNumber (s.part p) else 0)

/-- A failure of a unit that serves a partition's plan fails its step, whose items are all aborted; in the safe state nothing is (R338). Any other
failure is only attributed (R337, R339). -/
def failUnit (s : State) (u code : Nat) (att : Option UnitId) : State :=
  let p := pairOwner s (u / 2)
  if p < 8 ∧ (logicalOf s p u).isSome then failStep s p code true att
  else match att with
    | some a => if spUp s then strike s a else s
    | none => s

/-- COMPARATOR_MISMATCH (R330, R331, R364): only a SAFE pair compares. -/
def mismatchOp (s : State) (i cls : Nat) : State :=
  let u := 2 * i
  if s.pairFused i || !(s.pair i).safe || coreFenced s u then s
  else
    let p := pairOwner s i
    let s := s.setPair i { s.pair i with lastClass := cls, lastPart := p }
    failUnit (unitLog (s.bump (pgPair i) 0x050 1) 0x6101 p u) u 0x6101 (unitIdOf u)

/-- Whether a queue holds or runs a proof tile. -/
def proofPending (s : State) (q : Nat) : Bool :=
  (s.queue q).any (fun x => x.proof) || (match s.run q with | some r => r.item.proof | none => false)

/-- No verdict on a unit's proof tile is awaited any more. -/
def proofGiven (s : State) (p u : Nat) : State := s.modStep p (fun st => { st with proofs := st.proofs.erase u })

/-- A unit's proof has failed: LAST_FAIL, and the step's failure (R335, R362). In the safe state, where nothing else follows (R338), the step goes on as
after a verdict that passed (DEDUCED, log entry 18). -/
def proofFailed (s : State) (u core code cnt : Nat) : State :=
  let p := pairOwner s (u / 2)
  let s := { s with safety := { s.safety with proofFail := core } }
  let s := failUnit (unitLog (s.bump pgProof cnt 1) code p u) u code (unitIdOf u)
  if (s.part p).safe.isSome then checkEnd (proofGiven s p u) p else s

/-- The proof tile's result block lies in sheet frame 62 of the unit's cores: it writes only to reserved frames (R334; which one, DESIGN CHOICE, log
entry 10). -/
def storeProof (s : State) (u : Nat) (result : Bytes) : State :=
  (unitCores s u).foldl (fun s n => s.wrN (sheetFrame n 62) (result.take 4096)) s

/-- A reference as the felt reserve holds it is whole: its CRC-32C covers the signature (R335). -/
def refWhole (r : ProofRef) : Bool := crc32c (toLE 4 r.sig.toNat) == r.crc.toNat

/-- The signature that a variant is compared with: SP loads it from the felt reserve, where it must be whole; while SP restarts the hold logic takes the
one that SP last loaded (R335, R450). -/
def expectedSig (s : State) (v : Nat) (ref : ProofRef) : Option Nat :=
  if spUp s then if ref.variant.val = v ∧ refWhole ref = true then some ref.sig.toNat else none
  else s.safety.proofSigs.lookup v

/-- SP has loaded the expected signature of a variant. -/
def loadSig (s : State) (v : Nat) (ref : ProofRef) : State :=
  if spUp s ∧ ref.variant.val = v ∧ refWhole ref = true then
    { s with safety := { s.safety with proofSigs := (v, ref.sig.toNat) :: s.safety.proofSigs.filter (fun e => e.1 != v) } }
  else s

/-- PROOF_VERDICT (R334–R336, R450): the unit's proof tile has ended; its signature, the CRC-32C of its result block of 4,096 bytes, is compared with
the expected signature of the step's variant. Without a whole reference no tile passes (DESIGN CHOICE, log entry 10). -/
def verdictOp (s : State) (core : Nat) (result : Bytes) (ref : ProofRef) : State :=
  let u := unitOf s core
  let p := pairOwner s (u / 2)
  match (s.part p).step with
  | none => s
  | some st =>
    if 8 ≤ p || !st.proofs.elem u || proofPending s (qCore u) then s
    else
      let v := st.n % 16
      let want := expectedSig s v ref
      let s := loadSig (storeProof s u result) v ref
      if want = some (crc32c result) then checkEnd (proofGiven s p u) p
      else proofFailed s u core 0x6102 0x058

/-- PROOF_TIMEOUT (R335): a proof tile has not completed 60 µs after its emission; it is taken as ended with a mismatch. In the safe state nothing is
aborted, and the tile runs on (R338). -/
def proofTimeoutOp (s : State) (core : Nat) : State :=
  let u := unitOf s core
  let q := qCore u
  let p := pairOwner s (u / 2)
  let due (x : QItem) : Bool := x.proof && decide (x.emitted + 60000 ≤ s.clk.clock)
  let running := match s.run q with | some r => due r.item | none => false
  let awaited := match (s.part p).step with | some st => st.proofs.elem u | none => false
  if awaited && (running || (s.queue q).any due) then
    let s := if (s.part p).safe.isSome then s else if running then abortUnit s q else s.setQueue q ((s.queue q).filter (fun x => !due x))
    proofFailed s u core 0x6103 0x060
  else s

/-- The item of an engine fails (R148, R149): its count, its log entry and its failure, attributed to the engine. -/
def engineFail (s : State) (q cnt code : Nat) : State :=
  match s.run (qSpec q) with
  | none => s
  | some r =>
    let s := unitLog (s.bump (pgEngine q) cnt 1) code r.item.part (0x40 + q)
    failItem s (qSpec q) code true (unitIdOf (qSpec q))

/-- SPECTRAL_MISMATCH (R148): only an engine of a safety-relevant partition computes twice. -/
def spectralMismatchOp (s : State) (q : Nat) : State :=
  match runPart s (qSpec q) with
  | some p => if s.isSafety p then engineFail s q 0x070 0x610A else s
  | none => s

/-- SPECTRAL_PARITY_ERROR (R149): as R90 does for hawk state. -/
def spectralParityOp (s : State) (q : Nat) : State := engineFail s q 0x078 0x6112

/-- A check of a shared block fails in the item that a queue's unit runs: no unit is blamed (R328, R337). -/
def sharedFail (s : State) (q cnt code unit : Nat) : State :=
  match s.run q with
  | none => s
  | some r => failStep (unitLog (s.bump pgSt cnt 1) code r.item.part unit) r.item.part code true none

/-- SIEVE_CHECKED_MISMATCH (R328): the Sieve runs an item of a safety-relevant partition twice. -/
def sieveMismatchOp (s : State) (p : Nat) : State := if s.isSafety p then sharedFail s (qSieve p) 0x0E0 0x610B 0xFF else s

/-- FRAME_TAG_MISMATCH (R328). -/
def tagMismatchOp (s : State) (q : Nat) : State := sharedFail s q 0x0C8 0x610C (queueUnit q)

/-- TALLY_DUPLICATE_MISMATCH (R328): an operation on a tally of the partition's step. -/
def tallyDupOp (s : State) (p : Nat) : State := failStep (unitLog (s.bump pgSt 0x0D0 1) 0x610D p 0xFF) p 0x610D true none

/-- WORK_ITEM_CRC_MISMATCH (R328): the item that arrived last is refused before it starts. -/
def itemCrcOp (s : State) (q : Nat) : State :=
  match (s.queue q).reverse with
  | [] => s
  | x :: _ =>
    if x.proof then s else crcRefuse s q x

/-- CLOCK_MONITOR_CHECK (R328, R346): a frequency more than 2 % from the set value. PLL 20 is the fabric's. -/
def clockCheckOp (s : State) (pll : Nat) (ppm : Int) : State :=
  if ppm.natAbs ≤ 20000 then s
  else if pll = 20 then deviceSafe (s.logEntry 0x610F 0xFF 0xFF 0) 5 0x610F
  else if s.pairFused pll then s
  else
    let p := pairOwner s pll
    let s := unitLog (s.bump (pgPair pll) 0x060 1) 0x610F p (2 * pll)
    (pairUnits s pll).foldl (fun s u =>
      if coreFenced s u then s else failUnit s u 0x610F (if (s.pair pll).safe then unitIdOf u else none)) s

/-! ### The decision (R339, R499) -/

/-- REPLAY_MIN in ns (R363). -/
def replayMin (s : State) (p : Nat) : Nat := bits (s.inForce (addr pgDl (0x080 + 0x10 * p))) 17 0 * 1000

/-- SP_DECISION: the strike, then the outputs declared invalid or the step replayed. -/
def decisionOp (s : State) (p : Nat) : State :=
  match (s.part p).step with
  | none => s
  | some st => match st.fail with
    | none => s
    | some f =>
      if !spUp s then s
      else
        let s := claimStrike s p
        if !f.replayable || sysBound s p || st.replay || (s.part p).st == .suspended then declareInvalid s p f.code
        else if deadlineOf s p st < f.td + replayMin s p then declareInvalid s p f.code
        else replayStep s p

/-- BACKSTOP_DECLARATION: SP has not decided within 1,500 µs of t_d. -/
def backstopOp (s : State) (p : Nat) : State :=
  match (s.part p).step with
  | none => s
  | some st => match st.fail with
    | none => s
    | some f =>
      if s.clk.dev < f.td + 1500000 then s
      else declareInvalid ((s.bump pgSafe 0x088 1).logEntry 0x6110 p 0xFF st.n) p 0x6110

/-- STRIKE_EXPIRY: strikes of 60 s ago and more age out. -/
def strikeExpiryOp (s : State) (u : UnitId) : State :=
  match u with
  | .core n => let k := unitOf s n; s.setCore k { s.core k with strikes := recent s (s.core k).strikes }
  | .engine q => s.setEngine q { s.engine q with strikes := recent s (s.engine q).strikes }

/-! ### SP's hold (R355) -/

/-- SP_HOLD_DEGRADED: 50 ms of hold. -/
def holdDegradedOp (s : State) : State :=
  match s.safety.hold with
  | none => s
  | some h =>
    if s.clk.dev < h + 50000000 || s.safety.degraded then s
    else ({ s with safety := { s.safety with degraded := true } }).logEntry 0x620E 0xFF 0xC1 0

/-- SP_HOLD_LIMIT: 200 ms of hold. -/
def holdLimitSpOp (s : State) : State :=
  match s.safety.hold with
  | none => s
  | some h => if s.clk.dev < h + 200000000 || s.safety.dev != 0 then s else deviceSafe s 2 0x620E

/-! ### The sentinel lane -/

/-- The CRC of a word over its bits [15:8] (R353). -/
def sentinelCrc (hi : Nat) : Nat := crc8 0x2F 0xFF 0xFF [BitVec.ofNat 8 hi]

/-- The light of one bit, in half bit periods: a 0 is on and then off, a 1 off and then on (R352). -/
def manchester (b : Bool) : List Bool := if b then [false, true] else [true, false]
/-- The light of the 100 µs that a word takes, in half microseconds: preamble, delimiter and word, every field most significant bit first, and idle
(R352). -/
def sentinelLight (w : Nat) : List Bool :=
  let v := 0x55 * 2 ^ 24 + 0xD5 * 2 ^ 16 + w
  (List.range 32).flatMap (fun i => manchester (v.testBit (31 - i))) ++ List.replicate 136 true

/-- A sentinel word (R353). -/
def sentinelWordOf (status counter : Nat) : Nat := (status * 32 + counter % 32) * 256 + sentinelCrc (status * 32 + counter % 32)

/-- STATUS codes (R353). -/
def stValid : Nat := 5
def stDegraded : Nat := 6
def stInvalid : Nat := 3
def stSilent : Nat := 4

/-- Partitions with SAFETY = 1. -/
def safetyParts (s : State) : List Nat := (List.range 8).filter (fun p => s.isSafety p)

/-- Whether a partition would find no unit for one more fence (R354). -/
def noSpare (s : State) (p : Nat) : Bool :=
  (s.part p).st == .running && ((s.part p).bind.filterMap id).any (fun u => (findUnit s p (s.pair (u / 2)).safe (u / 10)).isNone)

/-- Status and cause while SP runs: the first condition of R354 that holds (R361 for the cause). -/
def sentinelStatus (s : State) : Nat × Nat :=
  let ps := safetyParts s
  let loaded := ps.filter (fun p => (s.part p).plan.isSome)
  if s.safety.dev ≠ 0 then (stInvalid, 2)
  else if ps.any (fun p => (s.part p).safe.isSome) then (stInvalid, 1)
  else if loaded.isEmpty || loaded.any (fun p => (s.part p).st != .running) || !(List.range 8).any (fun p => s.active p) then (stInvalid, 3)
  else if s.link.host = .orphan then (stSilent, 4)
  else if ps.any (fun p => noSpare s p) then (stDegraded, 6)
  else if s.selftest.late then (stDegraded, 7)
  else (stValid, 0)

/-- The status in force (R354, R355): while SP is in hold the last one it set, with the hardware's latches over it, and after 50 ms
DEGRADED where nothing earlier in R354 held. -/
def statusInForce (s : State) : Nat × Nat :=
  match s.safety.hold with
  | none => sentinelStatus s
  | some h =>
    if s.safety.dev ≠ 0 then (stInvalid, 2)
    else if (safetyParts s).any (fun p => (s.part p).safe.isSome) then (stInvalid, 1)
    else if h + 50000000 < s.clk.dev ∧ (s.safety.spStatus = stValid ∨ s.safety.spStatus = stDegraded) then (stDegraded, 5)
    else (s.safety.spStatus, s.safety.spCause)

def pgSntw : Nat := 0x01E

/-- SENTINEL_WORD (R352–R356, R367): a word is formed and sent; the loopback fails when two words in a row come back wrong. -/
def sentinelOp (s : State) (tap : BitVec 16) : State :=
  if s.phase == .off || s.phase == .sleep || !s.safety.sentinelOn then s
  else
    let (status, cause) := statusInForce s
    let w := sentinelWordOf status s.safety.counter
    let bad := tap.toNat != w
    let twice := bad && s.safety.tapBad
    let set (x : SafetySt) : SafetySt :=
      { x with counter := (x.counter + 1) % 32, lastWord := w, lastCause := cause, tapBad := bad }
    let s := ({ s with safety := set s.safety }).emit (.sentinel (BitVec.ofNat 16 w) (sentinelLight w))
    let s := s.bump pgSntw 0x050 1
    let s := if bad then s.bump pgSntw 0x058 1 else s
    if twice then
      let s := s.bump pgSt 0x090 1
      if s.safety.dev = 4 then s else deviceSafe (s.logEntry 0x6204 0xFF 0xFF 0) 4 0x6204
    else s

/-! ### SAFE_CMD (R347, R361) -/

/-- Whether a logical core or engine of a partition has no unit. -/
def unitMissing (x : PartSt) : Bool := x.bind.elem none || x.ebind.elem none

/-- A write of SAFE_CMD. -/
def safeCmdWrite (s : State) (value : Nat) : State :=
  if bits value 3 0 ≠ 1 then s.pageErr pgSafe 2 0x6001 value
  else
    let ps := (List.range 8).filter (fun p => bit value (8 + p))
    let refused (p : Nat) : Bool :=
      let x := s.part p
      x.safe.isNone || x.st != .running || unitMissing x || s.safety.shared
    if s.safety.dev ≠ 0 then s.pageErr pgSafe 2 0x6001 value
    else if ps.any refused then s.pageErr pgSafe 2 0x6002 value
    else ps.foldl (fun s p => s.modPart p (fun x => { x with clearing := true })) s

/-! ### Commands -/

/-- COMPARATOR_MISMATCH. -/
def execComparatorMismatch (t : Nat) (pair : Fin 20) (cls : Fin 7) (s : State) : Host.Outcome State Fault Refusal :=
  .next (whenUp (fun s => mismatchOp s pair.val cls.val) (atTime t s))
/-- PROOF_VERDICT. -/
def execProofVerdict (t : Nat) (core : Fin 40) (result : Bytes) (ref : ProofRef) (s : State) : Host.Outcome State Fault Refusal :=
  .next (verdictOp (atTime t s) core.val result ref)
/-- PROOF_TIMEOUT. -/
def execProofTimeout (t : Nat) (core : Fin 40) (s : State) : Host.Outcome State Fault Refusal := .next (proofTimeoutOp (atTime t s) core.val)
/-- SPECTRAL_MISMATCH. -/
def execSpectralMismatch (t : Nat) (q : Fin 4) (s : State) : Host.Outcome State Fault Refusal := .next (spectralMismatchOp (atTime t s) q.val)
/-- SPECTRAL_PARITY_ERROR. -/
def execSpectralParityError (t : Nat) (q : Fin 4) (s : State) : Host.Outcome State Fault Refusal := .next (spectralParityOp (atTime t s) q.val)
/-- SIEVE_CHECKED_MISMATCH. -/
def execSieveCheckedMismatch (t : Nat) (p : Fin 8) (s : State) : Host.Outcome State Fault Refusal := .next (sieveMismatchOp (atTime t s) p.val)
/-- FRAME_TAG_MISMATCH. -/
def execFrameTagMismatch (t : Nat) (q : QueueId) (s : State) : Host.Outcome State Fault Refusal := .next (tagMismatchOp (atTime t s) (queueCode q))
/-- TALLY_DUPLICATE_MISMATCH. -/
def execTallyDuplicateMismatch (t : Nat) (p : Fin 8) (s : State) : Host.Outcome State Fault Refusal := .next (whenUp (fun s => tallyDupOp s p.val) (atTime t s))
/-- WORK_ITEM_CRC_MISMATCH. -/
def execWorkItemCrcMismatch (t : Nat) (q : QueueId) (s : State) : Host.Outcome State Fault Refusal := .next (itemCrcOp (atTime t s) (queueCode q))
/-- CLOCK_MONITOR_CHECK. -/
def execClockMonitorCheck (t : Nat) (pll : Fin 21) (ppm : Int) (s : State) : Host.Outcome State Fault Refusal :=
  .next (whenUp (fun s => clockCheckOp s pll.val ppm) (atTime t s))
/-- SP_DECISION. -/
def execSpDecision (t : Nat) (p : Fin 8) (s : State) : Host.Outcome State Fault Refusal := .next (decisionOp (atTime t s) p.val)
/-- BACKSTOP_DECLARATION. -/
def execBackstopDeclaration (t : Nat) (p : Fin 8) (s : State) : Host.Outcome State Fault Refusal := .next (backstopOp (atTime t s) p.val)
/-- STRIKE_EXPIRY. -/
def execStrikeExpiry (t : Nat) (u : UnitId) (s : State) : Host.Outcome State Fault Refusal := .next (strikeExpiryOp (atTime t s) u)
/-- SP_HOLD_DEGRADED. -/
def execSpHoldDegraded (t : Nat) (s : State) : Host.Outcome State Fault Refusal := .next (holdDegradedOp (atTime t s))
/-- SP_HOLD_LIMIT. -/
def execSpHoldLimit (t : Nat) (s : State) : Host.Outcome State Fault Refusal := .next (holdLimitSpOp (atTime t s))
/-- SENTINEL_WORD. -/
def execSentinelWord (t : Nat) (tap : BitVec 16) (s : State) : Host.Outcome State Fault Refusal := .next (sentinelOp (atTime t s) tap)

end Sys2Proof.Machine
end

