-- ==== Sys2Proof/Machine/Sha.lean ====
section
/-! DEFINITION. SHA-384 and ECDSA P-384, which the spec names and leaves to their standards (R378, R379, R429, R430; FIPS 180-4 and FIPS 186-4:
PRESUMED, log entry 14). -/

namespace Sys2Proof.Machine

/-! ### SHA-384 -/

/-- The round constants of SHA-384 (FIPS 180-4, 4.2.3). -/
def shaK : List (BitVec 64) :=
  ([0x428a2f98d728ae22, 0x7137449123ef65cd, 0xb5c0fbcfec4d3b2f, 0xe9b5dba58189dbbc]
   ++ [0x3956c25bf348b538, 0x59f111f1b605d019, 0x923f82a4af194f9b, 0xab1c5ed5da6d8118]
   ++ [0xd807aa98a3030242, 0x12835b0145706fbe, 0x243185be4ee4b28c, 0x550c7dc3d5ffb4e2]
   ++ [0x72be5d74f27b896f, 0x80deb1fe3b1696b1, 0x9bdc06a725c71235, 0xc19bf174cf692694]
   ++ [0xe49b69c19ef14ad2, 0xefbe4786384f25e3, 0x0fc19dc68b8cd5b5, 0x240ca1cc77ac9c65]
   ++ [0x2de92c6f592b0275, 0x4a7484aa6ea6e483, 0x5cb0a9dcbd41fbd4, 0x76f988da831153b5]
   ++ [0x983e5152ee66dfab, 0xa831c66d2db43210, 0xb00327c898fb213f, 0xbf597fc7beef0ee4]
   ++ [0xc6e00bf33da88fc2, 0xd5a79147930aa725, 0x06ca6351e003826f, 0x142929670a0e6e70]
   ++ [0x27b70a8546d22ffc, 0x2e1b21385c26c926, 0x4d2c6dfc5ac42aed, 0x53380d139d95b3df]
   ++ [0x650a73548baf63de, 0x766a0abb3c77b2a8, 0x81c2c92e47edaee6, 0x92722c851482353b]
   ++ [0xa2bfe8a14cf10364, 0xa81a664bbc423001, 0xc24b8b70d0f89791, 0xc76c51a30654be30]
   ++ [0xd192e819d6ef5218, 0xd69906245565a910, 0xf40e35855771202a, 0x106aa07032bbd1b8]
   ++ [0x19a4c116b8d2d0c8, 0x1e376c085141ab53, 0x2748774cdf8eeb99, 0x34b0bcb5e19b48a8]
   ++ [0x391c0cb3c5c95a63, 0x4ed8aa4ae3418acb, 0x5b9cca4f7763e373, 0x682e6ff3d6b2b8a3]
   ++ [0x748f82ee5defb2fc, 0x78a5636f43172f60, 0x84c87814a1f0ab72, 0x8cc702081a6439ec]
   ++ [0x90befffa23631e28, 0xa4506cebde82bde9, 0xbef9a3f7b2c67915, 0xc67178f2e372532b]
   ++ [0xca273eceea26619c, 0xd186b8c721c0c207, 0xeada7dd6cde0eb1e, 0xf57d4f7fee6ed178]
   ++ [0x06f067aa72176fba, 0x0a637dc5a2c898a6, 0x113f9804bef90dae, 0x1b710b35131c471b]
   ++ [0x28db77f523047d84, 0x32caab7b40c72493, 0x3c9ebe0a15c9bebc, 0x431d67c49c100d4c]
   ++ [0x4cc5d4becb3e42b6, 0x597f299cfc657e2a, 0x5fcb6fab3ad6faec, 0x6c44198c4a475817]).map (BitVec.ofNat 64)

/-- The eight working words. -/
structure ShaSt where
  a : BitVec 64
  b : BitVec 64
  c : BitVec 64
  d : BitVec 64
  e : BitVec 64
  f : BitVec 64
  g : BitVec 64
  h : BitVec 64
deriving DecidableEq, Repr

/-- The initial hash value (5.3.4). -/
def shaInit : ShaSt :=
  ⟨0xcbbb9d5dc1059ed8, 0x629a292a367cd507, 0x9159015a3070dd17, 0x152fecd8f70e5939,
   0x67332667ffc00b31, 0x8eb44a8768581511, 0xdb0c2e0d64f98fa7, 0x47b5481dbefa4fa4⟩

/-- One round (6.4.2 step 3). -/
def shaRound (x : ShaSt) (k w : BitVec 64) : ShaSt :=
  let t1 := x.h + (x.e.rotateRight 14 ^^^ x.e.rotateRight 18 ^^^ x.e.rotateRight 41) + ((x.e &&& x.f) ^^^ (~~~x.e &&& x.g)) + k + w
  let t2 := (x.a.rotateRight 28 ^^^ x.a.rotateRight 34 ^^^ x.a.rotateRight 39) + ((x.a &&& x.b) ^^^ (x.a &&& x.c) ^^^ (x.b &&& x.c))
  ⟨t1 + t2, x.a, x.b, x.c, x.d + t1, x.e, x.f, x.g⟩

/-- The next word of the message schedule from the sixteen before it (6.4.2 step 1). -/
def shaNext (w : List (BitVec 64)) : BitVec 64 :=
  let a := w.getD 14 0
  let b := w.getD 1 0
  (a.rotateRight 19 ^^^ a.rotateRight 61 ^^^ a >>> 6) + w.getD 9 0 + (b.rotateRight 1 ^^^ b.rotateRight 8 ^^^ b >>> 7) + w.getD 0 0

/-- The rounds of a block, over a window of sixteen schedule words. -/
def shaRounds : List (BitVec 64) → List (BitVec 64) → ShaSt → ShaSt
  | [], _, x => x
  | k :: ks, w, x => shaRounds ks (w.drop 1 ++ [shaNext w]) (shaRound x k (w.getD 0 0))

/-- One block of 128 bytes. -/
def shaBlock (x : ShaSt) (b : Bytes) : ShaSt :=
  let y := shaRounds shaK ((List.range 16).map (fun i => BitVec.ofNat 64 (be b (8 * i) 8))) x
  ⟨x.a + y.a, x.b + y.b, x.c + y.c, x.d + y.d, x.e + y.e, x.f + y.f, x.g + y.g, x.h + y.h⟩

/-- A message of n blocks. -/
def shaBlocks : Nat → Bytes → ShaSt → ShaSt
  | 0, _, x => x
  | n + 1, m, x => shaBlocks n (m.drop 128) (shaBlock x (m.take 128))

/-- SHA-384 of a message: its 48 bytes as one number, the first most significant. -/
def sha384 (m : Bytes) : BitVec 384 :=
  let pad := (240 - (m.length + 1) % 128) % 128
  let p := m ++ [0x80] ++ List.replicate pad 0 ++ toBE 16 (8 * m.length)
  let x := shaBlocks (p.length / 128) p shaInit
  x.a ++ x.b ++ x.c ++ x.d ++ x.e ++ x.f

/-! ### ECDSA P-384 -/

/-- The prime, the coefficient b, the base point and the order of P-384 (FIPS 186-4, D.1.2.4); the coefficient a is -3. -/
def ecP : Nat := 2 ^ 384 - 2 ^ 128 - 2 ^ 96 + 2 ^ 32 - 1
def ecB : Nat := 0xb3312fa7e23ee7e4988e056be3f82d19181d9c6efe8141120314088f5013875ac656398d8a2ed19d2a85c8edd3ec2aef
def ecGx : Nat := 0xaa87ca22be8b05378eb1c71ef320ad746e1d3b628ba79b9859f741e082542a385502f25dbf55296c3a545e3872760ab7
def ecGy : Nat := 0x3617de4a96262c6f5d9e98bf9292dc29f8f41dbd289a147ce9da3113b5f0b8c00a60b1ce1d7e819d7a431d7c90ea0e5f
def ecN : Nat := 0xffffffffffffffffffffffffffffffffffffffffffffffffc7634d81f4372ddf581a0db248b0a77aecec196accc52973

/-- x to the power whose k bits from the top are given, modulo m. -/
def powMod (m x e : Nat) : Nat → Nat → Nat
  | 0, acc => acc
  | k + 1, acc =>
    let sq := acc * acc % m
    powMod m x e k (if e.testBit k then sq * x % m else sq)
/-- The inverse of x modulo a prime of 384 bits. -/
def invMod (m x : Nat) : Nat := powMod m (x % m) (m - 2) 384 1

/-- A point of the curve in Jacobian coordinates: (X, Y, Z) stands for (X / Z², Y / Z³), and Z = 0 for the point at infinity. -/
structure EcPoint where
  x : Nat
  y : Nat
  z : Nat
deriving DecidableEq, Repr

/-- a − b modulo the prime. -/
def ecSub (a b : Nat) : Nat := (a + ecP - b % ecP) % ecP

/-- Twice a point. -/
def ecDouble (q : EcPoint) : EcPoint :=
  if q.z = 0 then q
  else
    let yy := q.y * q.y % ecP
    let zz := q.z * q.z % ecP
    let s := 4 * q.x * yy % ecP
    let m := 3 * ecSub q.x zz * (q.x + zz) % ecP
    let x := ecSub (m * m) (2 * s)
    ⟨x, ecSub (m * ecSub s x) (8 * yy * yy), 2 * q.y * q.z % ecP⟩

/-- The sum of two points. -/
def ecAdd (q r : EcPoint) : EcPoint :=
  if q.z = 0 then r
  else if r.z = 0 then q
  else
    let zq := q.z * q.z % ecP
    let zr := r.z * r.z % ecP
    let u1 := q.x * zr % ecP
    let u2 := r.x * zq % ecP
    let s1 := q.y * (zr * r.z % ecP) % ecP
    let s2 := r.y * (zq * q.z % ecP) % ecP
    if u1 = u2 then (if s1 = s2 then ecDouble q else ⟨1, 1, 0⟩)
    else
      let h := ecSub u2 u1
      let d := ecSub s2 s1
      let hh := h * h % ecP
      let hhh := h * hh % ecP
      let v := u1 * hh % ecP
      let x := ecSub (d * d) (hhh + 2 * v)
      ⟨x, ecSub (d * ecSub v x) (s1 * hhh), h * q.z % ecP * r.z % ecP⟩

/-- k times a point, over the bits of k from the top. -/
def ecMul (q : EcPoint) (k : Nat) : Nat → EcPoint → EcPoint
  | 0, acc => acc
  | i + 1, acc =>
    let d := ecDouble acc
    ecMul q k i (if k.testBit i then ecAdd d q else d)

/-- Whether x, y is a point of the curve. -/
def ecOn (x y : Nat) : Bool := decide (x < ecP) && decide (y < ecP) && (y * y + 3 * x) % ecP == (x * x * x + ecB) % ecP

/-- Whether an ECDSA P-384 signature (r, s) holds over a digest under the public key (x, y) (FIPS 186-4, 6.4). -/
def ecdsaOk (x y : Nat) (digest : BitVec 384) (r s : Nat) : Bool :=
  if r = 0 ∨ ecN ≤ r ∨ s = 0 ∨ ecN ≤ s ∨ ecOn x y = false then false
  else
    let w := invMod ecN s
    let inf : EcPoint := ⟨1, 1, 0⟩
    let q := ecAdd (ecMul ⟨ecGx, ecGy, 1⟩ (digest.toNat * w % ecN) 384 inf) (ecMul ⟨x, y, 1⟩ (r * w % ecN) 384 inf)
    if q.z = 0 then false
    else
      let i := invMod ecP q.z
      q.x * (i * i % ecP) % ecP % ecN == r

end Sys2Proof.Machine
end

