-- ==== Sys2Proof/Machine/SelfTest.lean ====
section
/-! DEFINITION. Self-test: the rotating checker tests (R366–R370), structural chunks (R371–R377), pattern sets (R378–R381) and the
commands of ST_CMD (R388).
Readings: log entry 16 (DESIGN CHOICE), log entry 30 (DEDUCED), log entry 57 (DEDUCED). -/

namespace Sys2Proof.Machine

/-! ### The checker rotation -/

/-- Pairs that are not fused off. -/
def livePairs (s : State) : List Nat := (List.range 20).filter (fun i => !s.pairFused i)
/-- Cores that are enabled and not fenced. -/
def liveCores (s : State) : List Nat := (List.range 40).filter (fun n => !s.coreFused n && !coreFenced s n)

/-- Every instance of every checker of R367 that a rotation tests. -/
def checkers (s : State) : List Checker :=
  let safe := (livePairs s).filter (fun i => (s.pair i).safe && !pairFenced s i)
  safe.filterMap (fun i => if h : i < 20 then some (.comparator ⟨i, h⟩) else none)
  ++ safe.filterMap (fun i => if h : i < 20 then some (.entryDup ⟨i, h⟩) else none)
  ++ (liveCores s).filterMap (fun n => if h : n < 40 then some (.coreParity ⟨n, h⟩) else none)
  ++ (livePairs s).filterMap (fun i => if h : i < 20 then some (.pairClock ⟨i, h⟩) else none)
  ++ (liveCores s).filterMap (fun n => if h : n < 40 then some (.crcCore ⟨n, h⟩) else none)
  ++ (List.finRange 4).map .crcEngine ++ [.crcSieve]
  ++ (List.finRange 4).flatMap (fun q => (List.finRange 16).map (fun b => .feltParity q b))
  ++ (List.range Config.hopReceivers).map .hopParity
  ++ ((List.range 44).filter (fun i => decide (40 ≤ i) || !(s.coreFused i || coreOut s i))).map .frameTag
  ++ (List.range Config.tallyBanks).map .tallyDup
  ++ [.dramSecded] ++ (List.range 12).map .crcUnit
  ++ ((List.finRange 4).filter (fun q => !(s.engine q.val).fenced)).map .engineChecked
  ++ [.sieveChecked, .fabricClock, .deadlineMonitor]

/-- CHECKER_ROTATION_START (R366): 100 ms after the last start, once the rotation in progress has completed; SP starts it. -/
def rotationStartOp (s : State) : State :=
  let x := s.selftest
  if s.phase = .up ∧ spUp s = true ∧ x.rotating = false ∧ x.rotStart.all (fun t => decide (t + 100000000 ≤ s.clk.dev)) = true then
    { s with selftest := { x with rotating := true, rotStart := some s.clk.dev, remaining := checkers s } }
  else s

/-- A shared-scope checker fails (R369): every RUNNING safety-relevant partition's step is declared invalid, now and at each step until
a start. -/
def sharedChecker (s : State) : State :=
  let s := s.logEntry 0x6202 0xFF 0xFF 0
  let s := { s with safety := { s.safety with shared := true } }
  ((safetyParts s).filter (fun p => (s.part p).st == .running)).foldl (fun s p => enterSafe (declareInvalid s p 0x6202) p 0x6202) s

/-- The reaction to a failed test by its scope (R369). -/
def checkerFailed (s : State) (c : Checker) : State :=
  match c with
  | .comparator i => fenceUnit s (2 * i.val) 0x6201 none
  | .entryDup i => fenceUnit s (2 * i.val) 0x6201 none
  | .coreParity n => fenceUnit s n.val 0x6201 (some n.val)
  | .pairClock i => (pairUnits s i.val).foldl (fun s u => fenceUnit s u 0x6201 none) s
  | .crcCore n => fenceUnit s n.val 0x6201 (some n.val)
  | .engineChecked q => fenceEngineUnit s q.val 0x6201
  | .fabricClock => deviceSafe (s.logEntry 0x610F 0xFF 0xFF 0) 5 0x610F
  | .deadlineMonitor => deviceSafe (s.logEntry 0x6203 0xFF 0xFF 0) 3 0x6203
  | _ => sharedChecker s

/-- Whether an injection has to wait: on a pair that runs a chunk (R377), and into frame 63 and hawk state while the core runs a work item (R368). -/
def injectionWaits (s : State) (c : Checker) : Bool :=
  let chunk (i : Nat) : Bool := (s.core (2 * i)).testing || (s.core (2 * i + 1)).testing
  match c with
  | .comparator i => chunk i.val
  | .entryDup i => chunk i.val
  | .pairClock i => chunk i.val
  | .crcCore n => chunk (n.val / 2)
  | .coreParity n => chunk (n.val / 2) || (s.run (qCore (unitOf s n.val))).isSome
  | .frameTag i => decide (i < 40) && chunk (i / 2)
  | _ => false

/-- CHECKER_TEST_RESULT (R367–R369). -/
def testResultOp (s : State) (c : Checker) (ok : Bool) : State :=
  let x := s.selftest
  if !(x.rotating && x.remaining.elem c && spUp s) || injectionWaits s c then s
  else if ok then endRotation { s with selftest := { x with remaining := x.remaining.erase c } }
  else endRotation (checkerFailed (s.bump pgSt 0x090 1) c)

/-- ROTATION_LATE (R370). -/
def rotationLateOp (s : State) : State :=
  let x := s.selftest
  if x.rotating ∧ x.late = false ∧ x.rotStart.getD 0 + 200000000 ≤ s.clk.dev then
    ({ s with selftest := { x with late := true } }.bump pgSt 0x088 1).logEntry 0x6209 0xFF 0xC1 0
  else s

/-! ### Structural chunks -/

/-- Flash address of a pattern bank (R426). -/
def bankBase (b : Nat) : Nat := flashBase + 0x04500000 + b * 0x04000000

/-- Number of chunks in a core's list of a bank (R378). -/
def chunkCount (s : State) (b n : Nat) : Nat := le (s.rdN (bankBase b) 16) (if n % 2 = 0 then 12 else 14) 2

/-- The directory entry of chunk k of a core's list. -/
def chunkEntry (s : State) (b n k : Nat) : Bytes :=
  let skip := if n % 2 = 0 then 0 else chunkCount s b 0
  s.rdN (bankBase b + 256 + 16 * (skip + k)) 16

/-- DUR_US of a core's next chunk. -/
def chunkDur (s : State) (n : Nat) : Nat := le (chunkEntry s s.selftest.activeBank n (s.core n).progress) 8 2

/-- Whether an SRAM chunk tests a frame that is allocated (R371). -/
def chunkBlocked (s : State) (n : Nat) : Bool :=
  let e := chunkEntry s s.selftest.activeBank n (s.core n).progress
  le e 10 1 == 1 && (sheetTaken s n).any (fun f => decide (le e 12 1 ≤ f) && decide (f ≤ le e 13 1))

/-- Slack of a unit in ns, none when no safety work is expected (R372). -/
def slackOf (s : State) (u : Nat) : Option Nat :=
  let p := pairOwner s (u / 2)
  let x := s.part p
  if p < 8 ∧ (logicalOf s p u).isSome ∧ x.st = .running then
    x.launchNs.map (fun l => max (l + x.stepNo * s.periodNs p) x.notBefore - s.clk.dev)
  else none

/-- Coverage age of a core in ns of operating time (R376), and of a unit. -/
def covAgeNs (s : State) (n : Nat) : Nat := s.clk.opTime - (s.core n).covAge
def unitAge (s : State) (u : Nat) : Nat := (unitCores s u).foldl (fun m n => max m (covAgeNs s n)) 0

/-- Whether a unit may be granted its next chunk (R371, R372). -/
def chunkFits (s : State) (u : Nat) : Bool :=
  let ns := unitCores s u
  let p := pairOwner s (u / 2)
  let d := ns.foldl (fun m n => max m (chunkDur s n)) 0
  let room := match slackOf s u with | some k => decide ((d + 100) * 1000 ≤ k) | none => true
  s.phase == .up && spUp s && s.selftest.activeVersion != 0 && unitUp s u && (s.run (qCore u)).isNone && (s.queue (qCore u)).isEmpty
    && !ns.any (fun n => (s.core n).testing || (s.core n).clk == .off || chunkBlocked s n)
    && !(decide (p < 8) && (s.part p).st == .stopping)
    && decide (d ≤ bits (s.inForce (addr pgSt 0x044)) 9 0) && room

/-- Whether SP grants a unit its next chunk: first those older than 12 minutes, and of them the oldest (R376). -/
def chunkGrantable (s : State) (u : Nat) : Bool :=
  chunkFits s u && !(List.range 40).any (fun v => unitOf s v == v && !s.coreFused v && decide (720000000000 < unitAge s v) && decide (unitAge s u < unitAge s v) && chunkFits s v)

/-- CHUNK_GRANT (R372, R374): a pending commit of ST_CHUNK takes effect first (R388). -/
def chunkGrantOp (s : State) (n : Nat) : State :=
  let s := settleTimed s .st pgSt
  let u := unitOf s n
  if chunkGrantable s u then
    let s := modUnit (endFiller s u) u (fun c => { c with woke := false })
    modUnit (wakeUnit (account s u) u) u (fun c => { c with testing := true, pos := 0, chunkFrom := s.clk.clock })
  else s

/-- The strike of a failed chunk (R375): a repetition that fails within 60 s fences the core with 0x6206; a first failure is a suspicion, and with a
strike for another cause in that time the second one, which fences it with 0x6111 (R339). A fence fails the step that the unit serves. -/
def chunkStrike (s : State) (n : Nat) : State :=
  let u := unitOf s n
  let s := s.bump pgSt 0x0A0 1
  let c := s.core u
  let struck := (s.setCore u { c with strikes := s.clk.dev :: recent s c.strikes }).bump (pgPair (u / 2)) 0x058 1
  if (s.core n).suspect && decide (s.clk.dev < (s.core n).suspectAt + 60000000000) then fenceUnit struck n 0x6206 (some n)
  else
    let s' := unitLog (struck.setCore n { struck.core n with suspect := true, suspectAt := s.clk.dev }) 0x6205 (pairOwner s (u / 2)) n
    if (recent s c.strikes).isEmpty then s' else fenceUnit s' n 0x6111 (some n)

/-- A core's coverage is complete (R376). -/
def coverageDone (s : State) (n : Nat) : State :=
  let c := s.core n
  let s' := s.setCore n { c with progress := 0, covAge := s.clk.opTime, overdue := false }
  if c.overdue then unitLog s' 0x6208 (pairOwner s (n / 2)) n else s'

/-- A chunk of a core ends with a passed signature. -/
def chunkPassed (s : State) (n : Nat) (bank : Nat) : State :=
  let c := s.core n
  let s := s.setCore n { c with progress := c.progress + 1, suspect := false }
  if chunkCount s bank n ≤ c.progress + 1 then coverageDone s n else s

/-- CHUNK_COMPLETE (R374, R375, R377, R380, R381): one core of the unit ends; the set that was active at the grant counts. -/
def chunkCompleteOp (s : State) (n : Nat) (pass : Bool) : State :=
  if !((s.core n).testing && spUp s) then s
  else
    let u := unitOf s n
    let old := s.selftest.coreBank.lookup n
    let bank := old.getD s.selftest.activeBank
    let s := account s u
    let s := s.setCore n { s.core n with testing := false }
    let s := if (unitCores s u).any (fun k => (s.core k).testing) then s else settleCore (undefUnit s u (s.freeVal 2 == 1)) u
    let s := s.bump pgSt 0x098 1
    -- the result counters are those of the active set (R381)
    let s := if old.isSome then s else (s.bump pgSt 0x100 1).bump pgSt (if pass then 0x108 else 0x110) 1
    let s := if pass then chunkPassed s n bank else chunkStrike s n
    if old.isSome then
      let s := { s with selftest := { s.selftest with coreBank := s.selftest.coreBank.filter (fun e => e.1 != n) } }
      s.setCore n { s.core n with progress := 0, suspect := false }
    else s

/-- COVERAGE_OVERDUE (R376, R341): an OVERDUE unit of a safety-relevant partition is withdrawn at once when no step is in progress. -/
def overdueOp (s : State) (n : Nat) : State :=
  if s.coreFused n || (s.core n).overdue || decide (covAgeNs s n ≤ 900000000000) then s
  else
    let p := pairOwner s (n / 2)
    let s := unitLog ((s.setCore n { s.core n with overdue := true }).bump pgSt 0x0B0 1) 0x6207 p n
    let u := unitOf s n
    if p < 8 ∧ s.isSafety p ∧ (s.part p).step.isNone then
      match logicalOf s p u with
      | some l => moveCore s p l u 0x6207
      | none => s
    else s

/-- COVERAGE_RUN_COMPLETE (R384, R439): a recorded core has run its whole list after the start. One that passes is STOPPED (R21), and fenced where a
frame of it is retired that R179 says (R382); one that fails is fenced for this start, in a SAFE pair with its partner. SP reads the result, and
fences nothing while it restarts (R450). -/
def coverageRunOp (s : State) (n : Nat) (pass : Bool) : State :=
  if !(s.boot.coverage.elem n && spUp s) then s
  else
    let u := unitOf s n
    let s := account s u
    if pass then
      let s := { s with boot := { s.boot with coverage := s.boot.coverage.filter (fun c => c != n) } }
      dueFences (coverageDone (settleCore s u) n)
    else
      let us := unitCores s u
      let s := { s with boot := { s.boot with coverage := s.boot.coverage.filter (fun c => !us.elem c) } }
      let s := powerOff s us
      -- the partner in a SPLIT pair is to run alone (R23)
      let o := if n % 2 = 0 then n + 1 else n - 1
      if (s.pair (n / 2)).safe || (s.core o).clk == .off || s.inRun o then s else settleCore (wakeUnit s o) o

/-! ### ST_CORE (R388) -/

/-- ST_CORE of a core. -/
def stCoreWord (s : State) (n : Nat) : Nat :=
  let c := s.core n
  if 40 ≤ n then 0
  else b2n c.overdue * 2 ^ 31 + b2n (!s.coreFused n && coreOut s n) * 2 ^ 30 + b2n c.suspect * 2 ^ 29 + b2n c.testing * 2 ^ 28
    + min c.progress 4095 * 2 ^ 16 + min (covAgeNs s n / 1000000000) 65535

/-- ST_CORE latches the word of a core (R388). -/
def latchStCore (s : State) (n : Nat) : State := setLatch s (addr pgSt 0x060) (stCoreWord s n)

/-! ### Pattern sets -/

/-- Flash address of a firmware slot (R426). -/
def slotBase (b : Bool) : Nat := flashBase + 0x00100000 + (if b then 0x02000000 else 0)

/-- A directory entry that R379 refuses. -/
def badEntry (e : Bytes) (total : Nat) : Bool :=
  let dur := le e 8 2
  let kind := le e 10 1
  decide (total < le e 0 4 + le e 4 4) || dur == 0 || decide (800 < dur) || decide (1 < kind)
    || (kind == 1 && (decide (63 < le e 12 1) || decide (63 < le e 13 1)))

/-- The checks of the staged set (R379): the code of the first that fails. The header is little-endian (R378), so DIGEST, r and s are read as
little-endian numbers; the key of the running image is most significant byte first (R429, R431; DEDUCED, log entry 69). -/
def patternCheck (s : State) : Option Nat :=
  let base := bankBase (1 - s.selftest.activeBank)
  let h := s.rdN base 256
  let total := le h 8 4
  let n := le h 12 2 + le h 14 2
  let digest := sha384 (h.take 16 ++ s.rdN (base + 256) (total - 256))
  let key := s.rdN (slotBase s.boot.running + 16) 96
  if le h 0 1 ≠ 1 ∨ 2 ^ 26 < total ∨ total < 256 ∨ le h 12 2 = 0 ∨ le h 14 2 = 0 then some 0x6211
  else if le h 4 4 ≤ s.selftest.activeVersion then some 0x6212
  else if BitVec.ofNat 384 (le h 16 48) ≠ digest then some 0x6213
  else if ecdsaOk (be key 0 48) (be key 48 48) digest (le h 64 48) (le h 112 48) = false then some 0x6214
  else if total < 256 + 16 * n ∨ (List.range n).any (fun k => badEntry (s.rdN (base + 256 + 16 * k) 16) total) then some 0x6215
  else none

/-- PATTERN_SET_VERIFIED (R379). -/
def patternVerifiedOp (s : State) : State :=
  let x := s.selftest
  if !(x.staged == 1 && spUp s) then s
  else match patternCheck s with
    | none => { s with selftest := { x with staged := 2, busy := false } }
    | some code => { s with selftest := { x with staged := 3, busy := false } }.pageErr pgSt 2 code 1

/-- ACTIVATE (R380, R377): the banks exchange roles; a core that runs a chunk finishes it under the old set. -/
def patternActivate (s : State) : State :=
  let x := s.selftest
  let busy := (List.range 40).filter (fun n => (s.core n).testing)
  let s := { s with selftest := { x with
    activeBank := 1 - x.activeBank, activeVersion := x.stagedVersion, stagedVersion := 0, staged := 0
    coreBank := busy.map (fun n => (n, x.activeBank)) } }
  let s := (List.range 40).foldl (fun s n => if (s.core n).testing then s else s.setCore n { s.core n with progress := 0, suspect := false }) s
  let res : List (Nat × Nat) := s.regs.counters.filter (fun e => !(decide (addr pgSt 0x100 ≤ e.1) && decide (e.1 < addr pgSt 0x118)))
  { s with regs := { s.regs with counters := res } }.logEntry 0x620C 0xFF 0xC1 0

/-- A command of ST_CMD that SP serves. -/
def stCommand (s : State) (value arg : Nat) : State :=
  match bits value 3 0 with
  | 1 =>
    let v := le (s.rdN (bankBase (1 - s.selftest.activeBank) + 4) 4) 0 4
    { s with selftest := { s.selftest with staged := 1, busy := true, stagedVersion := v } }
  | 2 => if s.selftest.staged = 2 then patternActivate s else s.pageErr pgSt 2 0x6216 value
  | 3 => { s with selftest := { s.selftest with staged := 0, stagedVersion := 0 } }
  | 4 =>
    if 40 ≤ arg ∨ s.coreFused arg = true ∨ coreFenced s arg = true then s.pageErr pgSt 2 0x6219 value
    else fenceUnit s arg 0x620A (some arg)
  | _ => s.pageErr pgSt 2 0x6218 value

/-- A write of ST_CMD: while SP restarts the command waits (R388, R450). -/
def stCmdWrite (s : State) (value : Nat) : State :=
  let c := bits value 3 0
  let arg := s.inForce (addr pgSt 0x04C)
  if c = 0 ∨ 4 < c ∨ s.selftest.busy = true ∨ s.selftest.waiting.isSome then s.pageErr pgSt 2 0x6218 value
  else if spUp s then stCommand s value arg
  else { s with selftest := { s.selftest with waiting := some (value, arg) } }

/-- SP is back: the strikes that it owes and the fences of R179 are made, and the command that waited is served (R450). -/
def serveStCmd (s : State) : State :=
  let s := dueFences (payStrikes s)
  match s.selftest.waiting with
  | none => s
  | some (v, a) => stCommand { s with selftest := { s.selftest with waiting := none } } v a

/-! ### Commands -/

/-- CHECKER_ROTATION_START. -/
def execCheckerRotationStart (t : Nat) (s : State) : Host.Outcome State Fault Refusal := .next (rotationStartOp (atTime t s))
/-- CHECKER_TEST_RESULT. -/
def execCheckerTestResult (t : Nat) (c : Checker) (ok : Bool) (s : State) : Host.Outcome State Fault Refusal :=
  .next (testResultOp (atTime t s) c ok)
/-- ROTATION_LATE. -/
def execRotationLate (t : Nat) (s : State) : Host.Outcome State Fault Refusal := .next (rotationLateOp (atTime t s))
/-- CHUNK_GRANT. -/
def execChunkGrant (t : Nat) (core : Fin 40) (s : State) : Host.Outcome State Fault Refusal := .next (chunkGrantOp (atTime t s) core.val)
/-- CHUNK_COMPLETE. -/
def execChunkComplete (t : Nat) (core : Fin 40) (pass : Bool) (s : State) : Host.Outcome State Fault Refusal :=
  .next (chunkCompleteOp (atTime t s) core.val pass)
/-- COVERAGE_OVERDUE. -/
def execCoverageOverdue (t : Nat) (core : Fin 40) (s : State) : Host.Outcome State Fault Refusal := .next (overdueOp (atTime t s) core.val)
/-- COVERAGE_RUN_COMPLETE. -/
def execCoverageRunComplete (t : Nat) (core : Fin 40) (pass : Bool) (s : State) : Host.Outcome State Fault Refusal :=
  .next (coverageRunOp (atTime t s) core.val pass)
/-- PATTERN_SET_VERIFIED. -/
def execPatternSetVerified (t : Nat) (s : State) : Host.Outcome State Fault Refusal := .next (patternVerifiedOp (atTime t s))

end Sys2Proof.Machine
end

