-- ==== Sys2Proof/Machine/Power.lean ====
section
/-! DEFINITION. Power and heat: the average-power loop (R465–R469), the thermal loop (R471), hardware throttling and emergencies
(R472–R474), heavy-phase hints (R475) and filler work (R476–R479).
Readings: log entry 37 (DEDUCED), log entry 38 (DEDUCED), log entry 39 (DEDUCED). -/

namespace Sys2Proof.Machine

def pgPwr : Nat := 0x1E0
def pgTherm : Nat := 0x1E1

/-! ### Settings -/

/-- TARGET and FLOOR of a partition (R483). -/
def targetOf (s : State) (p : Nat) : Nat := bits (s.inForce (addr pgPwr (0x068 + 4 * p))) 7 0
def floorOf (s : State) (p : Nat) : Nat := bits (s.inForce (addr pgPwr (0x068 + 4 * p))) 15 8
/-- PL in W, WINDOW in s, T_TARGET in quarters of a degree. -/
def limitW (s : State) : Nat := bits (s.inForce (addr pgPwr 0x044)) 7 0
def windowS (s : State) : Nat := bits (s.inForce (addr pgPwr 0x044)) 19 16
def targetTemp (s : State) : Int := 4 * (bits (s.inForce (addr pgTherm 0x044)) 7 0 : Nat)

/-- Whether an emergency is active (R474). -/
def emergency (s : State) : Bool := s.power.emSupply || !s.power.emCurrent.isEmpty || !s.power.emThermal.isEmpty

/-- The quadrant of a pair. -/
def pairQuad (i : Nat) : Nat := i / 5

/-- Pairs whose frequency MP sets: enabled and unfenced (R468). -/
def runPairs (s : State) : List Nat := (livePairs s).filter (fun i => !(pairUnits s i).all (fun u => coreFenced s u))

/-- TARGET of a pair: its partition's, or FREQ_STEP 32 (R468). -/
def pairTarget (s : State) (i : Nat) : Nat := if pairOwner s i < 8 then targetOf s (pairOwner s i) else 32

/-- The frequency of a pair: the lowest of TARGET and the three caps (R468). -/
def pairFreq (s : State) (i : Nat) : Nat :=
  let x := s.pair i
  min (min (pairTarget s i) x.capPower) (min x.capTherm x.capHw)

/-- The fused maximum voltage in mV and the fused maximum current in mA of a rail (R464). -/
def railMv (s : State) (rail : Nat) : Nat := s.fuses.vMax.getD rail 0
def railMa (s : State) (rail : Nat) : Nat := s.fuses.iMax.getD rail 0

/-- The entry of the fused V/f table for a FREQ_STEP: a VCORE at which it runs, so none above the fused maximum voltage (R458, R464, R466; DEDUCED, log
entry 37). -/
def vfEntry (s : State) (f : Nat) : Nat := min (railMv s 0) (Config.vfTable f)

/-- VCORE that MP sets: the highest V/f entry of a frequency in use, and of TARGET of each partition with a hint in force (R467, R475). -/
def vcoreFor (s : State) : Nat :=
  let used := (runPairs s).map (fun i => vfEntry s (pairFreq s i))
  let held := (s.power.windows.filter (·.opened)).map (fun w => vfEntry s (targetOf s w.part))
  (used ++ held).foldl max 0

/-- Whether the hardware lets a pair have a frequency: not one whose V/f entry lies above the VCORE in force (R466). -/
def vfAllows (s : State) (f : Nat) : Bool := decide (vfEntry s f ≤ s.power.vcore)

/-- MP recomputes VCORE and every pair's frequency (R467, R468): it raises the voltage first. A STOPPED pair takes a new one at its next wake. A pair
whose frequency the hardware refuses keeps its old one (R466). -/
def setFrequencies (s : State) : State :=
  let s := { s with power := { s.power with vcore := vcoreFor s } }
  ((runPairs s).filter (fun i => vfAllows s (pairFreq s i))).foldl (fun s i => chooseFreq s i (pairFreq s i)) s

/-- The hardware lowers a pair's cap, and its frequency with it, at once; a STOPPED pair's at its next wake (R25). -/
def hwLower (s : State) (i cap : Nat) : State :=
  let x := s.pair i
  chooseFreq (s.setPair i { x with capHw := cap }) i (min x.next cap)

/-! ### The average-power loop (R469) -/

/-- One entry of the REDUCE order: a partition and how far down its group goes. -/
def reduceOrder (s : State) : List (Nat × Nat) :=
  let down := [7, 6, 5, 4, 3, 2, 1, 0]
  let order := down.filter (fun p => !s.isRT p) ++ down.filter (fun p => s.isRT p)
  order.map (fun p => (p, floorOf s p)) ++ order.map (fun p => (p, 16))

/-- Pairs of a partition. -/
def ownPairs (s : State) (p : Nat) : List Nat := (runPairs s).filter (fun i => pairOwner s i == p)

/-- Lower the power caps of a group by one step, not below its end. -/
def lowerGroup (s : State) (g : Nat × Nat) : State :=
  let s := { s with power := { s.power with lowered := (g.1, s.clk.dev) :: s.power.lowered.filter (fun e => e.1 != g.1) } }
  (ownPairs s g.1).foldl (fun s i => let x := s.pair i
    if g.2 < x.capPower then s.setPair i { x with capPower := x.capPower - 1 } else s) s
/-- Whether a group can go lower. -/
def canLower (s : State) (g : Nat × Nat) : Bool := (ownPairs s g.1).any (fun i => decide (g.2 < (s.pair i).capPower))

/-- Log 0x8103 when step 3 of the REDUCE order is reached, at most once a minute. -/
def logReduce3 (s : State) : State :=
  let again := match s.log.holdoff.lookup (0x8103, 0) with | some t => decide (s.clk.dev < t + 60000000000) | none => false
  if again then s
  else
    let s := s.logEntry 0x8103 0xFF 0xFF 0
    { s with log := { s.log with holdoff := ((0x8103, 0), s.clk.dev) :: s.log.holdoff.filter (fun e => e.1 != (0x8103, 0)) } }

/-- Lower the first group that can go lower. -/
def lowerFirst (s : State) : State :=
  match (reduceOrder s).zipIdx.find? (fun e => canLower s e.1) with
  | none => s
  | some (g, k) => let s := lowerGroup s g
                   if 8 ≤ k then logReduce3 s else s

/-- Raise the last group below TARGET, never above 48. -/
def raiseLast (s : State) : State :=
  match (reduceOrder s).reverse.find? (fun g => (ownPairs s g.1).any (fun i => decide ((s.pair i).capPower < targetOf s g.1))) with
  | none => s
  | some (p, _) => (ownPairs s p).foldl (fun s i => let x := s.pair i; s.setPair i { x with capPower := min 48 (x.capPower + 1) }) s

/-- The sum of the last WINDOW seconds' powers, in units of 10 µW, and how many there are. -/
def powerSum (s : State) : Nat × Nat :=
  let l := s.power.hist.take (windowS s * 1000)
  (l.foldl (· + ·) 0, l.length)

/-- A in units of 0.1 W (R469, R483). -/
def averageW10 (s : State) : Nat := let (t, n) := powerSum s; if n = 0 then 0 else t / n / 10000

/-- Hint windows in force. -/
def hintsOn (s : State) : List HintWindow := s.power.windows.filter (fun w => w.opened && decide (s.clk.dev < w.endNs))

/-- The groups that come before the partition of a hint whose START is still to come (R475). -/
def beforeHints (s : State) : List (Nat × Nat) :=
  let due := (hintsOn s).filter (fun w => decide (s.clk.dev < w.startNs))
  let order := (reduceOrder s).take 8
  order.filter (fun g => due.any (fun w => ((order.takeWhile (fun g => g.1 != w.part)).map (·.1)).elem g.1))

/-- Lower the groups before the partition of a hint by one step where A + LEVEL · VCORE / 2 would exceed PL − 1 W, before its START: a group at most
one step per millisecond, what the loop has lowered counting as one. The LEVELs of the hints whose windows overlap apply together (R475; DEDUCED, log
entry 39). -/
def hintLower (s : State) : State :=
  let (t, n) := powerSum s
  let level := (hintsOn s).foldl (fun a w => a + w.level) 0
  -- in units of 10 µW times n; VCORE is in mV, LEVEL in A
  if t + n * (level * s.power.vcore * 50) ≤ n * ((limitW s - 1) * 100000) then s
  else
    ((beforeHints s).filter (fun g => (s.power.lowered.lookup g.1).all (fun a => decide (a + 1000000 ≤ s.clk.dev)))).foldl lowerGroup s

/-- The hardware caps rise by one step per millisecond where no action holds them (R472, R474). -/
def hwRise (s : State) : State :=
  if s.power.emSupply || !s.power.emCurrent.isEmpty then s
  else (livePairs s).foldl (fun s i =>
    if s.power.throttled.elem (pairQuad i) then s
    else let x := s.pair i; s.setPair i { x with capHw := min 48 (x.capHw + 1) }) s

/-- Whether a pair is below TARGET for a power or a thermal cap. -/
def belowTarget (s : State) : Bool :=
  (runPairs s).any (fun i => decide (pairOwner s i < 8) && decide (min (s.pair i).capPower (s.pair i).capTherm < pairTarget s i))

/-- POWER_LOOP (R465, R469). While MP restarts, in a start and in recovery its caps and the clocks are held (R450); the hardware's own caps go on (R458,
R472, R474, R481). -/
def powerLoopOp (s : State) (m : PowerSample) : State :=
  if s.phase = .off ∨ s.phase = .sleep then s
  else
    let s := hwRise s
    if !mpUp s || s.phase != .up then s
    else
      let pk := m.vin * m.iin
      let e := s.power.energyRem + pk
      let s := { s with power := { s.power with
        hist := (pk :: s.power.hist).take 10000, vin := m.vin, iin := m.iin, rails := m.rails.take 5, dramTemp := m.dramTemp, energyRem := e % 100000
        windows := s.power.windows.filter (fun w => decide (s.clk.dev < w.endNs)) } }
      let s := s.bump pgPwr 0x0A0 (e / 100000)
      let (t, n) := powerSum s
      let s :=
        if n * ((limitW s - 1) * 100000) < t then lowerFirst s
        else if t < n * ((limitW s - 5) * 100000) ∧ (hintsOn s).isEmpty then raiseLast s
        else s
      let s := if emergency s then s else hintLower s
      let s := setFrequencies s
      if belowTarget s then s.bump pgPwr 0x0B0 1 else s

/-- HEAVY_PHASE_HINT_WINDOW (R475): a partition's window opens 200 µs before START_US; during an emergency it is dropped. -/
def hintOp (s : State) (p idx : Nat) : State :=
  match (s.power.windows.filter (fun w => w.part == p))[idx]? with
  | none => s
  | some w =>
    if s.phase ≠ .up ∨ mpUp s = false ∨ w.opened = true ∨ s.clk.dev + 200000 < w.startNs ∨ w.endNs ≤ s.clk.dev then s
    else if emergency s then { s with power := { s.power with windows := s.power.windows.erase w } }
    else
      let o : HintWindow := { w with opened := true }
      let s := { s with power := { s.power with windows := s.power.windows.map (fun x => if x = w then o else x) } }
      let s := { s with power := { s.power with vcore := max s.power.vcore (vcoreFor s) } }
      setFrequencies (hintLower s)

/-! ### The thermal loop (R470, R471) -/

/-- When the last emergency clears it is logged, and a pending activation's second begins (R457). -/
def emergEnd (s : State) (was : Bool) : State :=
  if was && !emergency s then ({ s with boot := { s.boot with emergClear := some s.clk.clock } }).logEntry 0x8106 0xFF 0xFF 0 else s

/-- The THERMAL emergency clears once every sensor reads 100 °C or below (R474). -/
def thermalEnd (s : State) : State :=
  if !s.power.emThermal.isEmpty && s.power.throttled.isEmpty && s.power.sensors.all (fun v => decide (v ≤ 400)) then
    emergEnd { s with power := { s.power with emThermal := [] } } true
  else s

/-- Set the sensors of a quadrant. -/
def setSensors (s : State) (q : Nat) (temps : List Int) : State :=
  let old := (List.range 16).map (fun i => s.power.sensors.getD i 0)
  { s with power := { s.power with sensors := (List.range 16).map (fun i =>
      if i / 4 = q then temps.getD (i % 4) (old.getD i 0) else old.getD i 0) } }
/-- Sensors of a quadrant. -/
def sensorsOf (s : State) (q : Nat) : List Int := (List.range 4).map (fun i => s.power.sensors.getD (4 * q + i) 0)

/-- Change the thermal cap of a quadrant's pairs. -/
def moveTherm (s : State) (q : Nat) (f : Nat → Nat) : State :=
  (runPairs s).foldl (fun s i => if pairQuad i = q then let x := s.pair i; s.setPair i { x with capTherm := f x.capTherm } else s) s

/-- THERMAL_LOOP (R470, R471): the hardware reads the sensors at any time, and MP lowers above T_TARGET and raises after 10 ms at T_TARGET − 3 °C or
below. -/
def thermalLoopOp (s : State) (q : Nat) (temps : List Int) : State :=
  if s.phase = .off ∨ s.phase = .sleep ∨ temps.length ≠ 4 then s
  else
    let s := thermalEnd (setSensors s q temps)
    if s.phase ≠ .up ∨ mpUp s = false then s
    else
    let tt := targetTemp s
    let hotQ (k : Nat) : Bool := (sensorsOf s k).any (fun v => decide (tt < v))
    let cool := (sensorsOf s q).all (fun v => decide (v ≤ tt - 12))
    let n := if cool then s.power.thermCount.getD q 0 + 1 else 0
    let s := { s with power := { s.power with thermCount := (List.range 4).map (fun k => if k = q then n else s.power.thermCount.getD k 0) } }
    let s := if hotQ q && !(List.range q).any hotQ then s.bump pgTherm 0x080 1 else s
    let s := if hotQ q then moveTherm s q (fun c => max 16 (c - 1))
      else if 10 ≤ n then moveTherm s q (fun c => min 48 (c + 1)) else s
    setFrequencies s

/-! ### Emergencies (R472–R474) -/

/-- An emergency begins: counted and logged, hints in force are dropped (R475, R481). -/
def emergBegin (s : State) (code : Nat) : State :=
  let s := (s.bump pgPwr 0x0B8 1).logEntry code 0xFF 0xFF 0
  { s with power := { s.power with windows := s.power.windows.filter (fun w =>
      !(decide (w.startNs ≤ s.clk.dev + 200000) && decide (s.clk.dev < w.endNs))) } }

/-- THERMAL_THROTTLE_START (R472): a sensor at 105 °C. -/
def throttleStartOp (s : State) (sensor : Nat) (temp : Int) : State :=
  let q := sensor / 4
  if s.phase = .off ∨ s.phase = .sleep ∨ temp < 420 ∨ s.power.throttled.elem q = true then s
  else
    let first := s.power.emThermal.isEmpty
    let s := setSensors s q ((List.range 4).map (fun i => if i = sensor % 4 then temp else (sensorsOf s q).getD i 0))
    let s := { s with power := { s.power with throttled := q :: s.power.throttled, emThermal := q :: s.power.emThermal.filter (· != q) } }
    let s := s.bump pgTherm 0x088 1
    if first then emergBegin s 0x8101 else s.logEntry 0x8101 0xFF 0xFF 0

/-- THERMAL_THROTTLE_STEP (R472): two steps down, not below FREQ_STEP 16, while a sensor of the quadrant reads 105 °C or more. -/
def throttleStepOp (s : State) (q : Nat) : State :=
  if s.power.throttled.elem q && (sensorsOf s q).any (fun v => decide (420 ≤ v)) then
    (livePairs s).foldl (fun s i => if pairQuad i = q then hwLower s i (max 16 ((s.pair i).capHw - 2)) else s) s
  else s

/-- THERMAL_THROTTLE_CLEAR (R472): every sensor of the quadrant at 100 °C or below. The emergency waits for those of the others (R474). -/
def throttleClearOp (s : State) (q : Nat) (temps : List Int) : State :=
  if s.power.throttled.elem q ∧ temps.length = 4 ∧ temps.all (fun v => decide (v ≤ 400)) = true then
    let s := setSensors s q temps
    thermalEnd { s with power := { s.power with throttled := s.power.throttled.filter (· != q) } }
  else s

/-- CURRENT_EMERGENCY (R474): a rail's current reaches its fused maximum, and every pair is lowered by 8 steps at once. -/
def currentOp (s : State) (rail mA : Nat) : State :=
  if s.phase = .off ∨ s.phase = .sleep ∨ mA < railMa s rail ∨ s.power.emCurrent.elem rail = true then s
  else
    let first := s.power.emCurrent.isEmpty
    let s := { s with power := { s.power with emCurrent := rail :: s.power.emCurrent } }
    let s := (livePairs s).foldl (fun s i => hwLower s i (max 16 ((s.pair i).next - 8))) s
    if first then emergBegin s 0x8105 else s
/-- CURRENT_EMERGENCY_CLEAR. -/
def currentClearOp (s : State) (rail : Nat) : State :=
  if s.power.emCurrent.elem rail then
    emergEnd { s with power := { s.power with emCurrent := s.power.emCurrent.filter (· != rail) } } true
  else s

/-- SUPPLY_EMERGENCY (R474, R516): every pair to FREQ_STEP 16. -/
def supplyEmergOp (s : State) : State :=
  if s.phase = .off ∨ s.phase = .sleep ∨ s.power.emSupply = true then s
  else
    let s := { s with power := { s.power with emSupply := true } }
    emergBegin ((livePairs s).foldl (fun s i => hwLower s i 16) s) 0x8104
/-- SUPPLY_EMERGENCY_CLEAR. -/
def supplyClearOp (s : State) : State :=
  if s.power.emSupply then emergEnd { s with power := { s.power with emSupply := false } } true else s

/-! ### Filler (R476–R479) -/

/-- Estimated filler current of a unit at n sixteenths, in mA: a SAFE pair is one unit of both cores. -/
def fillerUnit (s : State) (u n : Nat) : Nat := (unitCores s u).length * Config.fillerCurrent (s.pair (u / 2)).next n

/-- Units that take filler: those that met the stop condition within the last microsecond and those that run filler, in decreasing core
number. -/
def fillerUnits (s : State) : List Nat :=
  (List.range 40).reverse.filter (fun n =>
    let c := s.core n
    !s.coreFused n && unitOf s n == n && !coreFenced s n && (s.run n).isNone &&
      (decide (0 < c.filler) || (c.clk != .off && !s.inRun n && c.stopAt.any (fun t => decide (s.clk.clock ≤ t + 1000)))))

/-- The smallest n of 1 to 16 that reaches a need, 16 where none does. -/
def smallestN (s : State) (u need : Nat) : Nat := ((List.range 15).find? (fun i => decide (need ≤ fillerUnit s u (i + 1)))).elim 16 (· + 1)

/-- Intensities: 16/16 before the last unit, the smallest that reaches the need on the last, 0 for units not needed. -/
def assignFiller (s : State) : List Nat → Nat → List (Nat × Nat)
  | [], _ => []
  | u :: r, need =>
    if need = 0 then (u, 0) :: assignFiller s r 0
    else
      let n := smallestN s u need
      (u, n) :: assignFiller s r (need - fillerUnit s u n)

/-- Set a unit's filler: counted up to now, then running at the new intensity, or stopped where no work arrives in that cycle (R481). A unit that
takes filler as it meets the stop condition stays in RUN, which is no wake (R476). -/
def setFiller (s : State) (u n : Nat) : State :=
  if 0 < (s.core u).filler then
    if n = 0 then settleUnit (endFiller s u) u
    else modUnit (account s u) u (fun c => { c with filler := n })
  else if n = 0 then s
  else
    let s := lapse s u
    let i := u / 2
    let s := if pairStopped s i then s.setPair i { s.pair i with freq := (s.pair i).next } else s
    modUnit s u (fun c => { c with filler := n, clk := .run, stopAt := none, woke := false, runAt := s.clk.clock, milli := 0, pos := 0 })

/-- FILLER_UPDATE: the estimate I_work in mA (R476, R479). -/
def fillerOp (s : State) (iWork : Nat) : State :=
  if s.phase ≠ .up then s
  else
    let r := s.inForce (addr pgPwr 0x048)
    let on := bit r 31
    let f := if on then max iWork (s.power.floor - bits r 7 0 * 100) else iWork
    let need := if on then f - iWork else 0
    let l := assignFiller s (fillerUnits s) need
    let s := { s with power := { s.power with floor := f, iWork := iWork } }
    let mA := (l.filter (fun e => decide (0 < e.2))).foldl (fun t e => t + fillerUnit s e.1 e.2) 0
    let s := l.foldl (fun s e => setFiller s e.1 e.2) s
    let pj := s.power.fillRem + mA * s.power.vcore
    ({ s with power := { s.power with fillRem := pj % 1000000 } }).bump pgPwr 0x0A8 (pj / 1000000)

/-! ### Commands -/

/-- SUPPLY_EMERGENCY. -/
def execSupplyEmergency (t : Nat) (s : State) : Host.Outcome State Fault Refusal := .next (supplyEmergOp (atTime t s))
/-- SUPPLY_EMERGENCY_CLEAR. -/
def execSupplyEmergencyClear (t : Nat) (s : State) : Host.Outcome State Fault Refusal := .next (supplyClearOp (atTime t s))
/-- CURRENT_EMERGENCY. -/
def execCurrentEmergency (t : Nat) (peak : RailPeak) (s : State) : Host.Outcome State Fault Refusal :=
  .next (currentOp (atTime t s) peak.rail.val peak.mA)
/-- CURRENT_EMERGENCY_CLEAR. -/
def execCurrentEmergencyClear (t : Nat) (rail : Fin 5) (s : State) : Host.Outcome State Fault Refusal :=
  .next (currentClearOp (atTime t s) rail.val)
/-- THERMAL_THROTTLE_START. -/
def execThermalThrottleStart (t : Nat) (sensor : Fin 16) (temp : Int) (s : State) : Host.Outcome State Fault Refusal :=
  .next (throttleStartOp (atTime t s) sensor.val temp)
/-- THERMAL_THROTTLE_STEP. -/
def execThermalThrottleStep (t : Nat) (q : Fin 4) (s : State) : Host.Outcome State Fault Refusal := .next (throttleStepOp (atTime t s) q.val)
/-- THERMAL_THROTTLE_CLEAR. -/
def execThermalThrottleClear (t : Nat) (q : Fin 4) (temps : List Int) (s : State) : Host.Outcome State Fault Refusal :=
  .next (throttleClearOp (atTime t s) q.val temps)
/-- POWER_LOOP. -/
def execPowerLoop (t : Nat) (m : PowerSample) (s : State) : Host.Outcome State Fault Refusal := .next (powerLoopOp (atTime t s) m)
/-- THERMAL_LOOP. -/
def execThermalLoop (t : Nat) (q : Fin 4) (temps : List Int) (s : State) : Host.Outcome State Fault Refusal :=
  .next (thermalLoopOp (atTime t s) q.val temps)
/-- HEAVY_PHASE_HINT_WINDOW. -/
def execHeavyPhaseHintWindow (t : Nat) (p : Fin 8) (idx : Nat) (s : State) : Host.Outcome State Fault Refusal :=
  .next (hintOp (atTime t s) p.val idx)
/-- FILLER_UPDATE. -/
def execFillerUpdate (t : Nat) (iWork : Nat) (s : State) : Host.Outcome State Fault Refusal := .next (fillerOp (atTime t s) iWork)

end Sys2Proof.Machine
end

