-- ==== Sys2Proof/Machine/Firmware.lean ====
section
/-! DEFINITION. Firmware, boot and restart: the boot header and images (R426–R432), configuration (R433, R434), starts (R435–R442),
recovery (R443, R444), sleep and wake (R445–R447, R473), processors, dumps and the log (R448–R454), activation (R455–R459).
Readings: log entry 7 (DESIGN CHOICE), log entry 10 (DESIGN CHOICE), log entry 41 (DEDUCED), log entry 42 (DEDUCED), log entry 43 (DEDUCED), log entry 44 (DEDUCED), log entry 77 (DEDUCED). -/

namespace Sys2Proof.Machine

def pgBoot : Nat := 0x003
def pgProc (i : Nat) : Nat := 0x004 + i
def pgAon : Nat := 0x002

/-! ### The boot header (R427) -/

/-- A header copy whose CRC is correct: SEQ and PREFERRED. -/
def headerCopy (s : State) (k : Nat) : Option (Nat × Bool) :=
  let b := s.rdN (flashBase + k * 65536) 4096
  if crc32c (b.take 4092) = le b 4092 4 then some (le b 4 4, le b 1 1 == 1) else none

/-- The copy in force: its number, SEQ and PREFERRED. -/
def headerNow (s : State) : Option (Nat × Nat × Bool) :=
  match headerCopy s 0, headerCopy s 1 with
  | some a, some b => if a.1 < b.1 then some (1, b) else some (0, a)
  | some a, none => some (0, a)
  | none, some b => some (1, b)
  | none, none => none

/-- The bytes of a boot header copy. -/
def headerBytes (pref : Bool) (seq : Nat) : Bytes :=
  let body : Bytes := toLE 1 1 ++ toLE 1 (b2n pref) ++ toLE 2 0 ++ toLE 4 seq ++ List.replicate 4084 0
  body ++ toLE 4 (crc32c body)

/-- The copy that is written next, and its SEQ. -/
def nextHeader (s : State) : Nat × Nat := match headerNow s with | some (c, q, _) => (1 - c, q + 1) | none => (0, 1)

/-- Change PREFERRED: the other copy is written with SEQ one higher. -/
def writeHeader (s : State) (pref : Bool) : State :=
  let s' := s.wrN (flashBase + (nextHeader s).1 * 65536) (headerBytes pref (nextHeader s).2)
  { s' with boot := { s'.boot with preferred := pref } }

/-! ### Images (R429, R430) -/

/-- Component k of a manifest: TYPE, OFFSET, BYTES, SHA-384. -/
def manifestComp (m : Bytes) (k : Nat) : Nat × Nat × Nat × BitVec 384 :=
  (le m (160 + 64 * k) 1, le m (164 + 64 * k) 4, le m (168 + 64 * k) 4, BitVec.ofNat 384 (be m (176 + 64 * k) 48))
/-- The components of a manifest. -/
def manifestComps (m : Bytes) : List (Nat × Nat × Nat × BitVec 384) := (List.range (le m 1 1)).map (manifestComp m)
/-- The manifest of a slot. -/
def manifest (s : State) (b : Bool) : Bytes := s.rdN (slotBase b) 4096
/-- Whether a slot holds no image. -/
def slotEmpty (s : State) (b : Bool) : Bool := (s.rd (slotBase b)).toNat != 1
/-- IMAGE_VERSION of a slot, 0 when EMPTY. -/
def imageVersion (s : State) (b : Bool) : Nat := if slotEmpty s b then 0 else le (s.rdN (slotBase b + 4) 4) 0 4

/-- Whether two components overlap. -/
def compsOverlap (a b : Nat × Nat × Nat × BitVec 384) : Bool :=
  decide (a.2.1 < b.2.1 + b.2.2.1) && decide (b.2.1 < a.2.1 + a.2.2.1)
def anyOverlap : List (Nat × Nat × Nat × BitVec 384) → Bool
  | [] => false
  | a :: r => r.any (compsOverlap a) || anyOverlap r

/-- The checks of an image (R430): the code of the first that fails. -/
def imageCheck (s : State) (b : Bool) : Option Nat :=
  let m := manifest s b
  let total := le m 12 4
  let cs := manifestComps m
  let key := slice m 16 96
  let digest := sha384 (m.take 3952)
  if le m 0 1 ≠ 1 ∨ le m 1 1 < 3 ∨ 8 < le m 1 1 ∨ le m 4 4 = 0 ∨ 64 < le m 8 4 ∨ 2 ^ 25 < total
    ∨ cs.any (fun c => decide (c.1 = 0) || decide (4 < c.1) || c.2.1 % 4096 != 0 || decide (c.2.1 < 4096) || decide (total < c.2.1 + c.2.2.1)) = true
    ∨ anyOverlap cs = true then some 0x7001
  else if sha384 key ≠ s.fuses.rootKeyHash then some 0x7002
  else if BitVec.ofNat 384 (be m 3952 48) ≠ digest then some 0x7003
  else if ecdsaOk (be key 0 48) (be key 48 48) digest (be m 4000 48) (be m 4048 48) = false then some 0x7004
  else if le m 8 4 < s.fuses.minSec then some 0x7006
  else if cs.any (fun c => sha384 (s.rdN (slotBase b + c.2.1) c.2.2.1) != c.2.2.2)
    ∨ [1, 2, 3].any (fun ty => (cs.filter (fun c => c.1 == ty)).length != 1) then some 0x7005
  else none

/-! ### Configuration (R433, R434) -/

/-- Flash address of a configuration copy. -/
def configBase (k : Nat) : Nat := flashBase + 0x04100000 + k * 0x200000

/-- A configuration copy whose VERSION and CRC are correct: SEQ and its bytes. -/
def configValid (s : State) (k : Nat) : Option (Nat × Bytes) :=
  let n := le (s.rdN (configBase k) 16) 8 4
  if n < 64 ∨ 2 ^ 21 < n then none
  else
    let b := s.rdN (configBase k) n
    if le b 0 1 = 1 ∧ crc32c (b.take 12 ++ b.drop 16) = le b 12 4 then some (le b 4 4, b) else none

/-- The copy that a start uses: its number and its bytes. -/
def configNow (s : State) : Option (Nat × Bytes) :=
  match configValid s 0, configValid s 1 with
  | some a, some b => if a.1 < b.1 then some (1, b.2) else some (0, a.2)
  | some a, none => some (0, a.2)
  | none, some b => some (1, b.2)
  | none, none => none

/-- The records after the header: TYPE and data. -/
def configRecords : Nat → Bytes → List (Nat × Bytes)
  | 0, _ => []
  | n + 1, b => if b.length < 4 ∨ le b 0 2 = 0 then [] else (le b 0 2, slice b 4 (le b 2 2)) :: configRecords n (b.drop (4 + le b 2 2))

/-- A record's data. -/
def configRec (rs : List (Nat × Bytes)) (ty : Nat) : Option Bytes := rs.lookup ty

/-- A value, or its default outside the range. -/
def inRange (v lo hi dflt : Nat) : Nat := if lo ≤ v ∧ v ≤ hi then v else dflt

/-- The start values of HOST_PORT0 and HOST_PORT1. -/
def applyHostPorts (s : State) (rs : List (Nat × Bytes)) : State :=
  match configRec rs 2 with
  | none => s
  | some d => (List.range 2).foldl (fun s i => s.setBoth (addr 0x001 (0x050 + 4 * i)) (le d (4 * i) 4 &&& 0xA0000FFF)) s

/-- PATTERN_EN of record WAKE (R433, R434). -/
def patternOf (rs : List (Nat × Bytes)) : Bool := match configRec rs 3 with | some d => bit (le d 0 4) 0 | none => true

/-- Record POWER (R482). -/
def applyPower (s : State) (rs : List (Nat × Bytes)) : State :=
  match configRec rs 0x20 with
  | none => s
  | some d =>
    let s := s.setBoth (addr pgPwr 0x044) (inRange (le d 0 1) 40 160 160 + 65536 * inRange (le d 1 1) 1 10 5)
    let s := s.setBoth (addr pgPwr 0x048) (inRange (le d 2 1) 5 200 25 + 2 ^ 31 * b2n (bit (le d 3 1) 0))
    s.setBoth (addr pgTherm 0x044) (inRange (le d 4 1) 60 100 95)

/-- Step 8 of a start: the configuration is applied (R433, R434, R482, R523). -/
def applyConfig (s : State) : State :=
  let (copy, b) := match configNow s with | some (k, b) => (k, b) | none => (2, [])
  let s := if copy = 2 then s.logEntry 0x7104 0xFF 0xFF 0 else s
  let rs := configRecords b.length (b.drop 64)
  let modes := match configRec rs 1 with | some d => le d 0 4 | none => 0
  let ports := match configRec rs 0x10 with | some d => le d 0 4 | none => 0x3FF
  let pat := patternOf rs
  let s := (List.range 20).foldl (fun s i => s.setPair i { s.pair i with safe := bit modes i }) s
  let s := applyPower (applyHostPorts s rs) rs
  let s := (List.range 14).foldl (fun s i =>
    let s := s.setBoth (addr (pgPort i) 0x040) (2 ^ 31 * b2n (bit ports i))
    let o := s.optical i
    s.setOptical i (if bit ports i then { o with link := if o.link = 2 then 2 else 1 } else { o with link := 0, txPower := 0x8000 })) s
  { s with boot := { s.boot with configCopy := copy, patternEn := pat } }

/-! ### What a start keeps (R438) -/

/-- What AON keeps: nothing when the supply was lost; the session counter then resumes from the highest number recorded in flash (R428, R438). -/
def keptAon (s : State) (supply cold : Bool) : AonSt :=
  let a := s.aon
  let w : WakeDet := { a.wake with bits := none }
  if supply then { AonSt.reset with base := s.clk.clock, session := recordedSession s, trained := false, sramAt := none, aonTemp := a.aonTemp, wake := { w with bad := 0 } }
  else if cold then { a with retiredSheet := [], retiredFelt := [], wake := w }
  else { a with wake := w }

/-- Registers that a start keeps: the AON page's values, the counters of the BOOT and processor pages (R460–R462). -/
def keptRegs (s : State) (supply : Bool) : Regs :=
  if supply then ⟨[], [], [], [], []⟩
  else
    let aon : Nat × Word → Bool := fun e => e.1 / 4096 == pgAon
    ⟨s.regs.force.filter aon, s.regs.shadow.filter aon, [],
     s.regs.counters.filter (fun e => decide (pgBoot ≤ e.1 / 4096) && decide (e.1 / 4096 ≤ pgProc 2)), []⟩

/-- Cores without power: OFF (R21). Coverage ages, and with them OVERDUE, are kept but for a cold start (R376). -/
def keptCores (s : State) (cold : Bool) : List (Nat × CoreSt) :=
  (List.range 40).foldl (fun l n =>
    sput CoreSt.reset l n { CoreSt.reset with
      clk := .off, covAge := if cold then s.clk.opTime else (s.core n).covAge, overdue := !cold && (s.core n).overdue }) []

/-- Pairs at a start: SPLIT until the map is read, held at FREQ_STEP 32 under the hardware's caps (R458, R480). -/
def keptPairs (s : State) : List (Nat × PairSt) :=
  (List.range 20).foldl (fun l i => let h := (s.pair i).capHw
    sput PairSt.reset l i { PairSt.reset with capHw := h, freq := min 32 h, next := min 32 h }) []

/-- Processors at a start, halted; dump SRAMs keep their dumps unless the supply was lost. -/
def keptProcs (s : State) (supply : Bool) : List (Nat × ProcSt) :=
  (List.range 3).foldl (fun l i => let x := s.proc i
    sput ProcSt.reset l i { ProcSt.reset with
      st := .halted, cause := x.cause, slot := x.slot, fw := x.fw, dump := if supply then none else x.dump
      dumpSeq := if supply then 0 else x.dumpSeq, dumpNew := !supply && x.dumpNew }) []

/-- A slot's check that was in progress is over. -/
def keptVerify (supply : Bool) (v : SlotVerify) : SlotVerify := if supply || v = .verifying then .unverified else v

/-- Everything outside AON and the flash is lost (R438); `dark` also takes the optics and the sentinel. -/
def lose (s : State) (supply cold dark : Bool) : State :=
  let pw := s.power
  { s with
    clk := { s.clk with dev := 0, time := TimeSt.reset }
    mem := s.mem.filter (fun c => decide (flashBase ≤ c.1))
    regs := keptRegs s supply
    units := ⟨keptCores s cold, if dark then [] else keptPairs s, []⟩
    plans := State.reset.plans, vat := State.reset.vat, press := State.reset.press, link := LinkSt.reset
    safety := { SafetySt.reset with
      sentinelOn := !dark && s.safety.sentinelOn, counter := if dark then 0 else s.safety.counter
      lastWord := s.safety.lastWord, lastCause := s.safety.lastCause }
    selftest := { SelfTestSt.reset with activeBank := s.selftest.activeBank, activeVersion := s.selftest.activeVersion }
    aon := keptAon s supply cold
    procs := keptProcs s supply
    log := { s.log with queue := if supply then [] else s.log.queue, holdoff := [] }
    power := if dark then { PowerSt.reset with dramTemp := pw.dramTemp }
      else { PowerSt.reset with
        dramTemp := pw.dramTemp, emSupply := pw.emSupply, emCurrent := pw.emCurrent, emThermal := pw.emThermal
        throttled := pw.throttled, sensors := pw.sensors, vin := pw.vin, iin := pw.iin, rails := pw.rails }
    net := { State.reset.net with ports := if dark || cold then [] else s.net.ports }
    boot := { s.boot with
      slotA := keptVerify supply s.boot.slotA, slotB := keptVerify supply s.boot.slotB, busy := none, activate := none
      emergClear := if supply then none else s.boot.emergClear, good := false, coverage := [], fallback := false, live := none
      newSlot := if supply then none else s.boot.newSlot, sntUp := !supply && s.boot.sntUp } }

/-! ### Starts (R435–R442) -/

/-- Failures of the last 10 minutes of AON time. -/
def recentFails (s : State) : List BootFail := s.aon.failures.filter (fun f => decide (s.aonTime ≤ f.aonTime + 600000000000))

/-- Recovery (R443): the ROM runs alone on MP. -/
def enterRecovery (s : State) : State :=
  let s := s.logEntry 0x7105 0xFF 0xFF 0
  let rs := match configNow s with | some (_, b) => configRecords b.length (b.drop 64) | none => []
  let s := applyHostPorts s rs
  -- the configuration is chosen at step 2, and its wake record is in force (R434, R447)
  let s := if (configNow s).isSome then s else s.logEntry 0x7104 0xFF 0xFF 0
  { s with
    phase := .recovery, safety := { s.safety with sentinelOn := false, counter := 0 }
    boot := { s.boot with start := { s.boot.start with kind := 3 }, readyAt := s.clk.clock
                          configCopy := match configNow s with | some (k, _) => k | none => 2
                          patternEn := patternOf rs } }

/-- The ROM starts from a slot: it checks the image at step 3 (R430, R441). -/
def startFrom (s : State) (b : Bool) : State := { s with boot := { s.boot with running := b, romCode := imageCheck s b } }

/-- The ROM's choice at step 2 (R442), where the header names a slot. -/
def romPick (s : State) (pref : Bool) : State :=
  let s := { s with boot := { s.boot with preferred := pref } }
  let n := (recentFails s).length
  if 6 ≤ n then enterRecovery s
  else
    let f := s.aon.failures.take 3
    if 3 ≤ n ∧ f.length = 3 ∧ f.all (fun x => x.slot == pref) = true then
      let s := writeHeader s (!pref)
      let s := startFrom { s with boot := { s.boot with failedMark := some pref, fallback := true } } (!pref)
      (s.bump pgBoot 0x090 1).logEntry 0x7103 0xFF 0xFF 0
    else startFrom s pref

/-- Step 2 with the header that is valid: without one it is logged and slot A named (R427, R442). -/
def romWith (s : State) (h : Option (Nat × Nat × Bool)) : State :=
  match h with
  | some (_, _, pref) => romPick s pref
  | none => romPick (s.logEntry 0x7111 0xFF 0xFF 0) false
/-- The ROM chooses at step 2 (R442). -/
def romChoose (s : State) : State := romWith s (headerNow s)

/-- The state at a start's beginning, before the ROM runs. -/
def startState (s : State) (kind cause : Nat) (supply dark : Bool) : State :=
  let s := lose s supply (kind == 1) dark
  -- the hold logic sends INVALID words where SP has started the encoder since power-on, after SLEEP too (R354, R438, R440)
  let s := { s with
    phase := .starting, boot := { s.boot with start := ⟨kind, cause, s.clk.clock⟩ }
    safety := { s.safety with sentinelOn := s.boot.sntUp } }
  s.bump pgBoot 0x080 1
/-- A start begins: KIND 1 COLD or 2 WARM, and its cause (R461). -/
def beginStart (s : State) (kind cause : Nat) (supply dark : Bool) : State := romChoose (startState s kind cause supply dark)

/-- A start has failed (R441): its slot and AON time enter the boot counter. -/
def recordFail (s : State) : State :=
  let s := { s with aon := { s.aon with failures := ((⟨s.boot.running, s.aonTime⟩ : BootFail) :: s.aon.failures).take 6 } }
  (s.bump pgBoot 0x088 1).logEntry 0x7102 0xFF 0xFF 0
def failStart (s : State) : State := beginStart (recordFail s) 2 7 false false

/-- SUPPLY_IN_RANGE (R517, R530): the input has been in range for 10 ms, so that the module went OFF no later than that before. -/
def supplyInOp (s : State) : State := if s.phase = .off ∧ s.boot.offAt + 10000000 ≤ s.clk.clock then beginStart s 1 0 true true else s

/-- SUPPLY_OFF (R516): every domain loses power. -/
def supplyOffOp (s : State) : State :=
  let s' := lose s true true true
  { s' with phase := .off, boot := { s'.boot with offAt := s.clk.clock } }

/-- Sheet and felt frames of a list of frames. -/
def sheetOf (l : List SramFrame) : List (Nat × Nat) := l.filterMap (fun f => match f with | .sheet c k => some (c.val, k.val) | .felt _ _ => none)
def feltOf (l : List SramFrame) : List (Nat × Nat) := l.filterMap (fun f => match f with | .felt q k => some (q.val, k.val) | .sheet _ _ => none)

/-- A core that fails the core test of step 6 is to be fenced for the start: recorded and logged (R384, R439). -/
def testFailed (s : State) (n : Nat) : State :=
  if s.coreFused n then s
  else
    ({ s with aon := { s.aon with faults := s.aon.faults ++ [(⟨n / 2, some n, 0x710E⟩ : FaultRec)] } }).logEntry 0x710E 0xFF n 0

/-- Step 4 is skipped by a warm start that finds training data whose temperature is near (R437). -/
def skipsDram (s : State) (temp : Int) : Bool :=
  s.boot.start.kind == 2 && s.aon.trained && decide ((temp - s.aon.trainTemp).natAbs < 20)
/-- Step 5 is skipped by a warm start less than 24 h of AON time after the last full SRAM self-test (R437). -/
def skipsSram (s : State) : Bool :=
  s.boot.start.kind == 2 && (match s.aon.sramAt with | some t => decide (s.aonTime < t + 86400000000000) | none => false)

/-- Steps 4, 5 and 6 of a start, as far as it came, a start that fails too: DRAM training, the SRAM self-test with the retired frames that it finds, and
the core test (R181, R436–R439; DEDUCED, log entry 41). -/
def stepsMade (s : State) (reached : Nat) (found : StartReport) : State :=
  let a := s.aon
  let warm := s.boot.start.kind == 2
  let dramSkip := skipsDram s found.dramTemp
  let sramSkip := skipsSram s
  let trains := decide (4 ≤ reached) && !dramSkip
  let tests := decide (5 ≤ reached) && !sramSkip
  let s := { s with
    aon := { a with
      trained := a.trained || decide (4 ≤ reached), trainTemp := if trains then found.dramTemp else a.trainTemp
      sramAt := if tests then some s.aonTime else a.sramAt
      retiredSheet := if !tests then a.retiredSheet else if warm then (a.retiredSheet ++ sheetOf found.retired).eraseDups else sheetOf found.retired
      retiredFelt := if !tests then a.retiredFelt else if warm then (a.retiredFelt ++ feltOf found.retired).eraseDups else feltOf found.retired }
    power := { s.power with dramTemp := if 4 ≤ reached then found.dramTemp else s.power.dramTemp }
    boot := { s.boot with dramSkip := dramSkip, sramSkip := sramSkip } }
  if reached < 6 then s
  else
    let s := if warm then s else (List.range found.skipped).foldl (fun s _ => s.logEntry 0x710C 0xFF 0xFF 0) s
    (found.failed.map (·.val)).foldl testFailed s

/-- The last step that a failed start can have made (R441). -/
def lastStep (why : FailCause) (reached : Nat) : Nat :=
  match why with
  | .imageCheck => min reached 2
  | .training => min reached 3
  | .firmwareLoad => 7
  | .notReady | .escalation => min reached 8
/-- START_FAILED. -/
def startFailedOp (s : State) (why : FailCause) (reached : Nat) (found : StartReport) : State :=
  if s.phase ≠ .starting then s else failStart (stepsMade s (lastStep why reached) found)
/-- ROM_WATCHDOG: 5 s after the start's beginning. -/
def romWatchdogOp (s : State) (reached : Nat) (found : StartReport) : State :=
  if s.phase = .starting ∧ s.boot.start.begun + 5000000000 ≤ s.clk.clock then failStart (stepsMade s (min reached 8) found) else s
/-- START_GOOD: HOST_READY has held for 60 s. -/
def startGoodOp (s : State) : State :=
  if s.phase = .up ∧ s.boot.good = false ∧ s.boot.readyAt + 60000000000 ≤ s.clk.clock then
    { s with boot := { s.boot with good := true }, aon := { s.aon with failures := [] } }
  else s

/-- A core that failed the start's core test is fenced, a SAFE pair whole (R383, R384, R439). -/
def fenceAtStart (s : State) (n : Nat) : State :=
  if s.coreFused n then s else modUnit s (unitOf s n) (fun c => { c with fenced := true, clk := .off })

/-- The cores that a start powers: STOPPED once their core test has passed (R21). -/
def powerCores (s : State) : State :=
  (List.range 40).foldl (fun s n => if s.coreFused n then s else s.setCore n { s.core n with clk := .stopped }) s
/-- The cores recorded in the fault history, both of a pair whose faulty core is not known (R384). -/
def recordedCores (s : State) : List Nat :=
  (s.aon.faults.flatMap (fun f => match f.core with | some n => [n] | none => if f.pair < 20 then [2 * f.pair, 2 * f.pair + 1] else [])).eraseDups.filter
    (fun n => decide (n < 40) && !s.coreFused n)
/-- The coverage runs after a warm start begin: their cores are in RUN, in a SAFE pair both, whose clocks start and stop together (R18, R21, R439). -/
def runCoverage (s : State) (l : List Nat) : State :=
  l.foldl (fun s n => modUnit s (unitOf s n) (fun c => { c with clk := .run, stopAt := none, runAt := s.clk.clock })) { s with boot := { s.boot with coverage := l } }

/-- HOST_READY (R436, R437, R439, R440). A start whose slot fails the ROM's checks, or a component its hash at step 8, never reaches it: it has failed
(R431, R441). -/
def hostReadyOp (s : State) (found : StartReport) : State :=
  if s.phase ≠ .starting then s
  else if s.boot.romCode.isSome then failStart s
  else
    let warm := s.boot.start.kind == 2
    let s := stepsMade s 9 found
    let s := if s.aon.owedShutdown then ({ s with aon := { s.aon with owedShutdown := false } }).logEntry 0x8102 0xFF 0xFF 0 else s
    let s := applyConfig s
    let recorded := recordedCores s
    let s := (found.failed.map (·.val)).foldl fenceAtStart (powerCores s)
    let s := { s with
      phase := .up
      procs := (List.range 3).foldl (fun l i =>
        sput ProcSt.reset l i { s.proc i with st := .run, cause := 1, slot := s.boot.running, fw := imageVersion s s.boot.running, restarts := [] }) []
      boot := { s.boot with readyAt := s.clk.clock } }
    let s := if warm then runCoverage s (recorded.filter (fun n => !coreOut s n)) else s
    -- the device reserve's frames that the SRAM test retired fence their cores (R179, R382)
    let s := dueFences s
    let s := latchStCore s 0
    let s : State := { s with power := { s.power with vcore := vcoreFor s }, safety := { s.safety with sentinelOn := true } }
    -- the new slot of an activation runs (R456)
    let done := s.boot.newSlot == some s.boot.running
    let s : State := { s with boot := { s.boot with newSlot := none, sntUp := true } }
    if done then s.logEntry 0x7109 0xFF 0xFF 0 else s

/-! ### Sleep and wake (R445–R447, R473, R521) -/

/-- SLEEP begins: every domain but AON loses power; the sleep timer is loaded. -/
def enterSleep (s : State) : State :=
  let sec := bits (s.inForce (addr pgAon 0x054)) 15 0
  let s := lose s false false true
  { s with phase := .sleep, aon := { s.aon with sleepTimer := sec, sleepFrom := s.clk.clock } }

/-- THERMAL_SHUTDOWN (R473): a sensor at 115 °C. Whether wakes count depends on the AON sensor as it was last read; light that is on counts from now. -/
def shutdownOp (s : State) (temp : Int) : State :=
  if s.phase = .off ∨ s.phase = .sleep ∨ temp < 460 then s
  else
    let s := enterSleep s
    { s with aon := { s.aon with
      shutdowns := min 255 (s.aon.shutdowns + 1), hot := decide (380 < s.aon.aonTemp), hotFrom := s.clk.clock, owedShutdown := true
      wake := { s.aon.wake with since := s.clk.clock }
      faults := s.aon.faults ++ [(⟨0xFF, none, 0x8102⟩ : FaultRec)] } }

/-- AON_SENSOR_READ (R473): in the SLEEP of a thermal shutdown the sleep timer stands still while the sensor reads above 95 °C, and light counts from the
reading that ends it. -/
def aonSensorOp (s : State) (temp : Int) : State :=
  if s.phase = .off then s
  else
    let s := { s with aon := { s.aon with aonTemp := temp } }
    let a := s.aon
    if a.hot = true ∧ temp ≤ 380 then
      { s with aon := { a with hot := false, sleepFrom := a.sleepFrom + (s.clk.clock - a.hotFrom), wake := { a.wake with since := s.clk.clock } } }
    else if a.hot = false ∧ 380 < temp ∧ s.phase = .sleep ∧ a.owedShutdown = true then { s with aon := { a with hot := true, hotFrom := s.clk.clock } }
    else s

/-- A wake from SLEEP: AON_WAKE LAST and a warm start. -/
def wakeUp (s : State) (last cause : Nat) : State :=
  beginStart { s with aon := { s.aon with wakeLast := last } } 2 cause false true

/-- WAK_LIGHT_WAKE: lit for 10 ms. -/
def lightWakeOp (s : State) : State :=
  let w := s.aon.wake
  if s.phase = .sleep ∧ s.aon.hot = false ∧ w.lit = true ∧ w.since + 10000000 ≤ s.clk.clock then wakeUp s 1 2 else s

/-- SLEEP_TIMER_EXPIRY. -/
def timerWakeOp (s : State) : State :=
  let a := s.aon
  if s.phase = .sleep ∧ a.hot = false ∧ a.sleepTimer ≠ 0 ∧ a.sleepFrom + a.sleepTimer * 1000000000 ≤ s.clk.clock then wakeUp s 2 3 else s

/-- A duration in ns is n ms ± 0.25 ms. -/
def nearMs (d n : Nat) : Bool := decide (n * 1000000 ≤ d + 250000) && decide (d ≤ n * 1000000 + 250000)

/-- The gap bits of the wake pattern (R447). -/
def wakeBits : List Nat := [1, 0, 1, 1, 0, 0, 1]

/-- The pattern departs from the table: BAD advances. -/
def wakeBad (w : WakeDet) (again : Bool) : WakeDet := { w with bad := min 65535 (w.bad + 1), bits := if again then some [] else none }

/-- Whether the detector looks for the pattern: in no SLEEP and no start, with PATTERN_EN = 1 (R447). Recovery ends with a START or a supply loss alone
(R443). -/
def wakeWatch (s : State) : Bool := s.phase == .up && s.boot.patternEn

/-- WAK goes to lit after d ns of dark: leading dark, or a gap that tells a bit. -/
def wakeLit (w : WakeDet) (d : Nat) : WakeDet :=
  let long := decide (20000000 ≤ d)
  match w.bits with
  | none => if long then { w with bits := some [] } else w
  | some l =>
    let v : Option Nat := if nearMs d 1 then some 0 else if nearMs d 3 then some 1 else none
    if v.isSome && v == wakeBits[l.length]? then { w with bits := some (l ++ v.toList) } else wakeBad w long

/-- WAK goes dark after d ns of light: a pulse. -/
def wakeDark (w : WakeDet) (d : Nat) : WakeDet :=
  match w.bits with
  | none => w
  | some _ => if nearMs d 1 then w else wakeBad w false

/-- AON clock periods between an instant of the reference clock and now. -/
def aonPeriods (s : State) (since : Nat) : Nat := s.aonTicks - (since - s.aon.base) * 32768 / 1000000000

/-- WAK_LIT_CHANGE (R521): the filtered state changes. WAK is sampled once per AON clock period, and a change takes two consecutive samples, so that one
less than two periods after the last is none. -/
def litChangeOp (s : State) (lit : Bool) : State :=
  let w := s.aon.wake
  if s.phase = .off ∨ w.lit = lit ∨ aonPeriods s w.changed < 2 then s
  else
    let d := s.clk.clock - w.since
    let w' := if !wakeWatch s then { w with bits := none } else if lit then wakeLit w d else wakeDark w d
    let s := { s with aon := { s.aon with wake := { w' with lit := lit, since := s.clk.clock, changed := s.clk.clock } } }
    if lit && s.phase != .sleep then s.bump pgSntw 0x060 1 else s

/-- WAKE_PATTERN: the trailing dark of 20 ms has passed. -/
def wakePatternOp (s : State) : State :=
  let w := s.aon.wake
  match w.bits with
  | none => s
  | some l =>
    if !wakeWatch s || w.lit || decide (s.clk.clock < w.since + 20000000) then s
    else if l = wakeBits then
      beginStart { s with aon := { s.aon with wakeLast := 3 } } 2 4 false false
    else { s with aon := { s.aon with wake := wakeBad w false } }

/-! ### Processors (R448–R453) -/

/-- The bytes of a dump: the header, x0 and reserved bytes as R453 gives them, the others free values. -/
def dumpRaw (d : Dump) (i : Nat) : Byte :=
  let hdr : Bytes := toLE 1 1 ++ toLE 1 d.proc ++ toLE 1 d.cause ++ toLE 1 (b2n d.slot) ++ toLE 4 d.seq ++ toLE 8 d.time ++ toLE 8 d.ticks
    ++ toLE 4 d.version
  if i < 256 then hdr.getD i 0
  else if i < 260 then 0
  else if 256 + 4 * 43 ≤ i ∧ i < 512 then 0
  else BitVec.ofNat 8 (Config.free (2 ^ 64 * (d.base + 1) + i))
/-- A byte of a dump, its CRC in place. -/
def dumpByte (d : Dump) (i : Nat) : Byte :=
  if 28 ≤ i ∧ i < 32 then (toLE 4 (crc32c ((List.range 262144).map (dumpRaw d)))).getD (i - 28) 0 else dumpRaw d i

/-- QP halts: what it last recorded as each logical core's replacement stands until it is back (R450). -/
def recordSpares (s : State) (i : Nat) : State :=
  if i = 2 then { s with plans := { s.plans with spares := sparesNow s } } else s

/-- A processor halts for a restart: a dump is captured, its component is to be loaded again (R449, R450). -/
def restartProc (s : State) (i cause : Nat) (dump : Bool) : State :=
  let s := s.logEntry 0x7106 0xFF (0xC0 + i) 0
  let s := if cause = 3 then (s.logEntry 0x7107 0xFF (0xC0 + i) 0).bump (pgProc i) 0x088 1 else s
  let s := s.bump (pgProc i) 0x080 1
  let s := if dump then s.bump (pgProc i) 0x090 1 else s
  let x := s.proc i
  let d : Dump := ⟨i, cause, x.slot, x.dumpSeq + 1, s.clk.dev, s.aonTicks, x.fw, s.fresh⟩
  let y : ProcSt := { x with
    st := .restarting, since := s.clk.clock, cause := cause
    restarts := s.clk.dev :: x.restarts.filter (fun t => decide (s.clk.dev < t + 60000000000)) }
  let y := if dump then { y with dump := some d, dumpSeq := x.dumpSeq + 1, dumpNew := true } else y
  let s := recordSpares (s.setProc i y).tick i
  if i = 1 ∧ s.safety.hold.isNone then { s with safety := { s.safety with
      hold := some s.clk.dev, degraded := false, spStatus := (sentinelStatus s).1, spCause := (sentinelStatus s).2 } } else s

/-- Whether every processor runs. -/
def allRun (s : State) : Bool := (List.range 3).all (fun i => (s.proc i).st == .run)

/-- A LIVE activation restarts its next processor, or is complete (R456). -/
def liveNext (s : State) : State :=
  match s.boot.live with
  | none => s
  | some l =>
    if !allRun s then s
    else match l with
      | i :: r => restartProc { s with boot := { s.boot with live := some r } } i 6 false
      | [] =>
        let s := { s with boot := { s.boot with live := none, newSlot := none, running := s.boot.preferred } }
        s.logEntry 0x7109 0xFF 0xFF 0

/-- SHA-384 of the component of a type in a slot's manifest, and those of the DATA components. -/
def compHash (s : State) (b : Bool) (ty : Nat) : List (BitVec 384) :=
  ((manifestComps (manifest s b)).filter (fun c => c.1 == ty)).map (fun c => c.2.2.2)

/-- An activation begins (R456). -/
def beginActivation (s : State) (mode : Nat) : State :=
  let new := !s.boot.running
  let s := writeHeader { s with boot := { s.boot with activate := none, newSlot := some new } } new
  let s := s.bump pgBoot 0x098 1
  if mode = 1 then beginStart s 2 6 false false
  else
    let l := [(2, 3), (1, 2), (0, 1)].filterMap (fun e => if compHash s new e.2 = compHash s (!new) e.2 then none else some e.1)
    liveNext { s with boot := { s.boot with live := some l } }

/-- A pending activation begins once no emergency is active, 1 s after the last one cleared, with every processor running (R457, R459). -/
def emergencyOver (s : State) : Bool := !emergency s && (match s.boot.emergClear with | some c => decide (c + 1000000000 ≤ s.clk.clock) | none => true)
def activationDue (s : State) : Bool := emergencyOver s && allRun s
def activationOp (s : State) : State :=
  match s.boot.activate with
  | some m => if s.phase = .up ∧ activationDue s = true then beginActivation s m else s
  | none => s

/-- Whether the components of a processor match their SHA-384 in the manifest of the image that they are loaded from (R431, R442). -/
def loadOk (s : State) (i : Nat) : Bool :=
  ((manifestComps (manifest s s.boot.preferred)).filter (fun c => c.1 == i + 1)).all
    (fun c => sha384 (s.rdN (slotBase s.boot.preferred + c.2.1) c.2.2.1) == c.2.2.2)

/-- Processor escalation: a warm start with cause WATCHDOG, which within 60 s of HOST_READY makes the start a failed one (R441, R451). -/
def escalated (s : State) : State :=
  beginStart (if s.clk.clock < s.boot.readyAt + 60000000000 then recordFail s else s) 2 5 false false

/-- A processor is back in RUN from the slot that PREFERRED names (R442, R450): what waited for it is served. -/
def procBackOp (s : State) (i : Nat) : State :=
  let x := s.proc i
  if x.st ≠ .restarting then s
  else if !loadOk s i then escalated s
  else
    let s := s.setProc i { x with st := .run, slot := s.boot.preferred, fw := imageVersion s s.boot.preferred }
    let s :=
      if i = 0 then
        if s.log.lost then ({ s with log := { s.log with lost := false } }).logEntry 0x710B 0xFF 0xC0 0 else s
      else if i = 1 then
        let s := serveStCmd s
        { s with safety := { s.safety with hold := none, degraded := false } }
      else servePartCmds s
    activationOp (liveNext s)

/-- PROC_WATCHDOG_EXPIRY and FATAL_TRAP. -/
def procTrapOp (s : State) (i cause : Nat) : State :=
  if s.phase = .up ∧ (s.proc i).st = .run then restartProc s i cause true else s

/-- SP_LOCKSTEP_MISMATCH (R346, R348). -/
def lockstepOp (s : State) : State :=
  if s.phase = .up ∧ spUp s = true then restartProc (deviceSafe (s.logEntry 0x6109 0xFF 0xC1 0) 1 0x6109) 1 4 true else s

/-- A write of PROC_CMD (R449, R459, R462). -/
def procCmdWrite (s : State) (i value : Nat) : State :=
  if bits value 3 0 ≠ 1 then s.pageErr (pgProc i) 2 0x7010 value
  else if !allRun s || s.boot.live.isSome || s.boot.busy.isSome then s.pageErr (pgProc i) 2 0x7014 value
  else restartProc s i 2 (bit value 4)

/-- RESTART_ESCALATION (R451, R441). -/
def escalateOp (s : State) (i : Nat) (badHash : Bool) : State :=
  let x := s.proc i
  let due := s.phase == .up && x.st == .restarting &&
    (badHash || decide (x.since + 500000000 ≤ s.clk.clock)
      || decide (4 ≤ (x.restarts.filter (fun t => decide (s.clk.dev < t + 60000000000))).length))
  if !due then s else escalated s

/-- DUMP_COPY (R452): once both processors are back, a new dump enters the ring's oldest slot. -/
def dumpCopyOp (s : State) (i : Nat) : State :=
  let x := s.proc i
  match x.dump with
  | none => s
  | some d =>
    if s.phase ≠ .up ∨ x.dumpNew = false ∨ x.st ≠ .run ∨ mpUp s = false then s
    else
      let k := s.boot.dumpNext
      let s := s.setProc i { x with dumpNew := false }
      { s with boot := { s.boot with dumpNext := (k + 1) % 32, dumpRing := s.boot.dumpRing.filter (fun e => e.1 != k) ++ [(k, d)] } }

/-- The 32 bytes of a log entry (R454). -/
def logBytes (seq : Nat) (e : LogEntry) : Bytes :=
  let b := toLE 8 seq ++ toLE 8 e.time ++ toLE 2 e.code ++ toLE 1 e.part ++ toLE 1 e.unit ++ toLE 4 e.step ++ toLE 4 e.info
  b ++ toLE 4 (crc32c b)

/-- LOG_COPY (R454): the oldest entry formed enters the flash log ring. -/
def logCopyOp (s : State) : State :=
  match s.log.queue with
  | [] => s
  | e :: r =>
    if s.phase ≠ .up ∨ mpUp s = false then s
    else
      let n := s.log.nextSeq
      let s := s.wrN (flashBase + 0x0CD00000 + n % 262144 * 32) (logBytes n e)
      { s with log := { s.log with queue := r, nextSeq := n + 1 } }

/-! ### BOOT_CMD (R444, R445, R455–R459, R461) -/

/-- State of a slot's check. -/
def slotSt (s : State) (b : Bool) : SlotVerify := if b then s.boot.slotB else s.boot.slotA
def setSlotSt (s : State) (b : Bool) (v : SlotVerify) : State :=
  { s with boot := if b then { s.boot with slotB := v } else { s.boot with slotA := v } }

/-- A refused command of the BOOT page. -/
def bootRefuse (s : State) (code value : Nat) : State := s.pageErr pgBoot 2 code value

/-- ACTIVATE (R456, R457). -/
def activateCmd (s : State) (arg value : Nat) : State :=
  let other := !s.boot.running
  let mode := bits arg 8 8
  if slotSt s other ≠ .verified ∨ s.boot.failedMark = some other then bootRefuse s 0x7013 value
  else if mode = 0 ∧ compHash s other 4 ≠ compHash s s.boot.running 4 then bootRefuse s 0x7017 value
  else if activationDue s then beginActivation s mode
  else
    let s := { s with boot := { s.boot with activate := some mode } }
    if emergencyOver s then s else s.logEntry 0x7108 0xFF 0xC0 0

/-- START in recovery (R444). -/
def recoveryStart (s : State) (arg value : Nat) : State :=
  let b := bit arg 0
  match imageCheck s b with
  | some code => bootRefuse s code value
  | none =>
    let s := writeHeader { s with aon := { s.aon with failures := [] } } b
    beginStart s 2 1 false false

/-- A write of BOOT_CMD. -/
def bootCmdWrite (s : State) (value : Nat) : State :=
  let c := bits value 3 0
  let arg := s.inForce (addr pgBoot 0x054)
  let rec? := s.phase == .recovery
  if c = 0 ∨ 6 < c ∨ (s.boot.busy.isSome ∧ c ≠ 5) ∨ (s.boot.live.isSome ∧ c ≠ 4) then bootRefuse s 0x7010 value
  else if rec? ∧ c ≠ 1 ∧ c ≠ 4 then bootRefuse s 0x7015 value
  else match c with
    | 1 =>
      let b := bit arg 0
      if !rec? && b == s.boot.running then bootRefuse s 0x7010 value
      else
        let s := setSlotSt s b .verifying
        { s with boot := { s.boot with busy := some (1, BitVec.ofNat 32 arg), failedMark := if s.boot.failedMark = some b then none else s.boot.failedMark } }
    | 2 => activateCmd s arg value
    | 3 => { s with boot := { s.boot with activate := none } }
    | 4 => if rec? then recoveryStart s arg value else beginStart s (if bit arg 4 then 1 else 2) 1 false false
    | 5 =>
      if (List.range 8).any (fun p => s.active p) ∨ s.boot.activate.isSome ∨ s.boot.busy.isSome then bootRefuse s 0x7011 value
      else if s.aon.wake.lit then bootRefuse s 0x7012 value
      else enterSleep s
    | _ =>
      if !s.boot.good then bootRefuse s 0x7016 value
      else
        let v := le (manifest s s.boot.running) 8 4
        { s with fuses := { s.fuses with minSec := if v ≤ 64 then max s.fuses.minSec v else s.fuses.minSec } }

/-- SLOT_VERIFIED (R455): the check of the slot ends. -/
def slotVerifiedOp (s : State) : State :=
  match s.boot.busy with
  | none => s
  | some (_, arg) =>
    if !(s.phase == .recovery || (s.phase == .up && mpUp s)) then s
    else
      let b := bit arg.toNat 0
      let s := { s with boot := { s.boot with busy := none } }
      match imageCheck s b with
      | none => setSlotSt s b .verified
      | some code => bootRefuse (setSlotSt s b .refused) code 1

/-! ### Commands -/

/-- SUPPLY_IN_RANGE. -/
def execSupplyInRange (t : Nat) (s : State) : Host.Outcome State Fault Refusal := .next (supplyInOp (atTime t s))
/-- SUPPLY_OFF. -/
def execSupplyOff (t : Nat) (s : State) : Host.Outcome State Fault Refusal := .next (supplyOffOp (atTime t s))
/-- THERMAL_SHUTDOWN. -/
def execThermalShutdown (t : Nat) (_ : Fin 16) (temp : Int) (s : State) : Host.Outcome State Fault Refusal :=
  .next (shutdownOp (atTime t s) temp)
/-- AON_SENSOR_READ. -/
def execAonSensorRead (t : Nat) (temp : Int) (s : State) : Host.Outcome State Fault Refusal := .next (aonSensorOp (atTime t s) temp)
/-- HOST_READY. -/
def execHostReady (t : Nat) (found : StartReport) (s : State) : Host.Outcome State Fault Refusal := .next (hostReadyOp (atTime t s) found)
/-- START_FAILED. -/
def execStartFailed (t : Nat) (failure : StartFailure) (s : State) : Host.Outcome State Fault Refusal :=
  .next (startFailedOp (atTime t s) failure.why failure.reached.val failure.found)
/-- ROM_WATCHDOG. -/
def execRomWatchdog (hang : StartHang) (s : State) : Host.Outcome State Fault Refusal :=
  .next (romWatchdogOp (atTime hang.t s) hang.reached.val hang.found)
/-- START_GOOD. -/
def execStartGood (t : Nat) (s : State) : Host.Outcome State Fault Refusal := .next (startGoodOp (atTime t s))
/-- WAK_LIGHT_WAKE. -/
def execWakLightWake (t : Nat) (s : State) : Host.Outcome State Fault Refusal := .next (lightWakeOp (atTime t s))
/-- SLEEP_TIMER_EXPIRY. -/
def execSleepTimerExpiry (t : Nat) (s : State) : Host.Outcome State Fault Refusal := .next (timerWakeOp (atTime t s))
/-- WAK_LIT_CHANGE. -/
def execWakLitChange (t : Nat) (lit : Bool) (s : State) : Host.Outcome State Fault Refusal := .next (litChangeOp (atTime t s) lit)
/-- WAKE_PATTERN. -/
def execWakePattern (t : Nat) (s : State) : Host.Outcome State Fault Refusal := .next (wakePatternOp (atTime t s))
/-- PROC_WATCHDOG_EXPIRY. -/
def execProcWatchdogExpiry (t : Nat) (proc : Fin 3) (s : State) : Host.Outcome State Fault Refusal := .next (procTrapOp (atTime t s) proc.val 3)
/-- FATAL_TRAP. -/
def execFatalTrap (t : Nat) (proc : Fin 3) (s : State) : Host.Outcome State Fault Refusal := .next (procTrapOp (atTime t s) proc.val 5)
/-- SP_LOCKSTEP_MISMATCH. -/
def execSpLockstepMismatch (t : Nat) (s : State) : Host.Outcome State Fault Refusal := .next (lockstepOp (atTime t s))
/-- PROC_RESTART_COMPLETE. -/
def execProcRestartComplete (t : Nat) (proc : Fin 3) (s : State) : Host.Outcome State Fault Refusal := .next (procBackOp (atTime t s) proc.val)
/-- RESTART_ESCALATION. -/
def execRestartEscalation (t : Nat) (proc : Fin 3) (badHash : Bool) (s : State) : Host.Outcome State Fault Refusal :=
  .next (escalateOp (atTime t s) proc.val badHash)
/-- DUMP_COPY. -/
def execDumpCopy (t : Nat) (proc : Fin 3) (s : State) : Host.Outcome State Fault Refusal := .next (dumpCopyOp (atTime t s) proc.val)
/-- LOG_COPY. -/
def execLogCopy (t : Nat) (s : State) : Host.Outcome State Fault Refusal := .next (logCopyOp (atTime t s))
/-- ACTIVATION_DEFERRED_START. -/
def execActivationDeferredStart (t : Nat) (s : State) : Host.Outcome State Fault Refusal := .next (activationOp (atTime t s))
/-- SLOT_VERIFIED. -/
def execSlotVerified (t : Nat) (s : State) : Host.Outcome State Fault Refusal := .next (slotVerifiedOp (atTime t s))

end Sys2Proof.Machine
end

