-- ==== Sys2Proof/Machine/Sirris.lean ====
section
/-! DEFINITION. The commands of the Sirris links (R486–R492): HELLO, DATA, ACK and NACK frames, timeouts, and what a message taken in
does (R495–R498).
Readings: log entry 40 (PRESUMED), log entry 45 (DEDUCED). -/

namespace Sys2Proof.Machine

/-! ### Received frames (R486) -/

/-- A frame's fields. -/
structure SirRx where
  typ : Nat
  cls : Nat
  seq : Nat
  ackseq : Nat
  creq : Nat
  crsp : Nat
  msg : Bytes
deriving DecidableEq, Repr

/-- Whether a frame's CRC is good. -/
def sirCrcOk (f : Bytes) : Bool := decide (20 ≤ f.length) && crc32c (f.take (f.length - 4)) == be f (f.length - 4) 4

/-- A good frame's fields: VERSION, a TYPE of the table and LENGTH as they must be. -/
def sirParse (f : Bytes) : Option SirRx :=
  let n := be f 12 2
  if be f 0 1 ≠ 1 ∨ be f 1 1 = 0 ∨ 4 < be f 1 1 ∨ f.length ≠ n + 20 then none
  else some ⟨be f 1 1, be f 2 1 % 2, be f 4 2, be f 6 2, be f 8 2, be f 10 2, slice f 16 n⟩

/-- A port's link leaves UP and trains again (R525). -/
def retrain (s : State) (i : Nat) : State :=
  if (s.optical i).link = 2 then (s.setOptical i { s.optical i with link := 1 }).bump (pgPort i) 0x078 1 else s

/-- A link goes DOWN and retrains: what it kept and what waited is lost (R488, R490). -/
def sirDown (s : State) (n : Nat) : State :=
  let peer := (s.sir n).peer
  retrain (((s.endSir n { SirLink.reset with peer := peer }).bump pgSir (sirCnt n 5) 1).logEntry 0xA101 0xFF 0xFF 0) (10 + n)

/-- Whether a link carries frames: enabled, and trained (R488). -/
def sirTrained (s : State) (n : Nat) : Bool := sirEnabled s n && (s.optical (10 + n)).link == 2

/-- A link comes UP: SEQ 0 and every credit on both sides (R489, R490). -/
def sirUp (s : State) (n peer : Nat) : State :=
  (s.setSir n { SirLink.reset with up := true, peer := peer, lastGood := s.clk.clock, lastProgress := s.clk.clock, lastTx := s.clk.clock }).logEntry
    0xA102 0xFF 0xFF 0

/-- ACKSEQ frees kept frames, the CREDIT fields return credits; messages that waited for them leave. -/
def sirAcked (s : State) (n : Nat) (f : SirRx) : State :=
  let l := s.sir n
  let done := match l.kept with
    | [] => 0
    | k :: _ => let d := (f.ackseq + 65536 - k.seq) % 65536
                if d ≤ l.kept.length then d else 0
  let l := if done = 0 then l else { l with kept := l.kept.drop done, rounds := 0, lastProgress := s.clk.clock }
  let l := { l with credReq := min 512 (l.credReq + f.creq), credRsp := min 512 (l.credRsp + f.crsp) }
  sirFlush (s.setSir n l) n

/-- Send kept frames again, from number k on. -/
def sirResend (s : State) (n k : Nat) : State :=
  ((s.sir n).kept.drop k).foldl (fun s f => (sirTx s n f.frame).bump pgSir (sirCnt n 2) 1) s

/-- A NACK for the SEQ that is missing, at most once per 10 µs. -/
def sirNack (s : State) (n : Nat) : State :=
  let l := s.sir n
  let due := match l.lastNack with | none => true | some t => decide (t + 10000 ≤ s.clk.clock)
  if due then (sirControl (s.setSir n { l with lastNack := some s.clk.clock }) n 3 l.expected []).bump pgSir (sirCnt n 4) 1 else s

/-! ### Messages taken in -/

/-- A WRITE_ACK (R495, R496): one answer fewer is awaited; a STATUS other than OK aborts the work item. -/
def sirWriteAck (s : State) (tag status : Nat) : State :=
  match s.net.remote.lookup tag with
  | none => s
  | some q =>
    let s := { s with net := { s.net with remote := s.net.remote.filter (fun e => e.1 != tag) } }
    if status = 0 then s
    else match s.run q with
      | none => s
      | some r => remoteFail s q r.item.part

/-- A WRITE (R495): written and acknowledged, or refused with NO_WINDOW or FAULT. The answer to this device itself is taken in (R492). -/
def sirWrite (s : State) (src p tag a : Nat) (data : Bytes) : State :=
  let (s, status) := takeWrite s src p a data
  if src = devId s then sirWriteAck s tag status else sirForward s 1 src (sirMsg 2 status src (devId s) p tag 0 0 [])

/-- A message for this device. -/
def sirTake (s : State) (m : Bytes) : State :=
  let src := be m 4 2 % 1024
  let p := be m 6 1
  let tag := be m 8 4
  let step := be m 12 4
  let arg := be m 16 8
  let sys := arg / 2 ^ 48 % 4096
  let v := arg % 2 ^ 32
  match be m 0 1 with
  | 1 => sirWrite s src p tag (arg % 2 ^ 48) (m.drop 24)
  | 2 => sirWriteAck s tag (be m 1 1)
  | 3 => sysAdd (s.bump pgStally 0x088 1) sys step v
  | 4 => sysWait s sys step v src p tag
  | 5 => sirWake s tag
  | _ => s

/-- A DATA frame (R490, R492): the one expected is taken in or forwarded, any other is discarded and named in a NACK. -/
def sirData (s : State) (n : Nat) (f : SirRx) : State :=
  let l := s.sir n
  if f.seq ≠ l.expected then sirNack s n
  else
    let s := sirAcked (s.setSir n { l with expected := (l.expected + 1) % 65536, lastNack := none, ackOwed := true }) n f
    let dst := be f.msg 2 2 % 1024
    if dst = devId s then settleUnits (sirTake (s.sirOwe (some n) f.cls f.msg) f.msg) else sirPass s f.cls dst f.msg (some n)

/-- A frame arrives on a link that is enabled and trained (R486–R490). `typ` is the TYPE of the command's row; of a frame whose CRC is bad nothing
else counts. -/
def sirReceive (s : State) (n typ : Nat) (frame : Bytes) : State :=
  if s.phase ≠ .up ∨ sirTrained s n = false ∨ (sirCrcOk frame = true ∧ be frame 1 1 ≠ typ) then s
  else
    let s := s.bump (pgPort (10 + n)) 0x050 1
    let up := (s.sir n).up
    if !sirCrcOk frame then
      let s := (s.bump pgSir (sirCnt n 3) 1).bump (pgPort (10 + n)) 0x060 1
      if up && typ == 1 then sirNack s n else s
    else match sirParse frame with
      | none => s
      | some f =>
        let s := s.bump pgSir (sirCnt n 1) 1
        if typ = 4 then
          let peer := be f.msg 0 2 % 1024
          if up then s.setSir n { s.sir n with lastGood := s.clk.clock, peer := peer } else sirUp s n peer
        else if !up then s
        else
          let s := s.setSir n { s.sir n with lastGood := s.clk.clock }
          if typ = 1 then sirData s n f
          else
            let s := sirAcked s n f
            if typ = 3 then
              match (s.sir n).kept with
              | [] => s
              | k :: _ => let d := (f.seq + 65536 - k.seq) % 65536
                          if d < (s.sir n).kept.length then sirResend s n d else s
            else s

/-! ### Timeouts -/

/-- HELLO_SEND (R488). -/
def helloSendOp (s : State) (n : Nat) : State :=
  if s.phase = .up ∧ sirTrained s n = true ∧ (s.sir n).up = false then sirTx s n (sirFrame 4 0 0 0 0 0 (toBE 2 (devId s) ++ toBE 6 0)) else s

/-- LINK_TIMEOUT (R488): no good frame for 1 ms. -/
def linkTimeoutOp (s : State) (n : Nat) : State :=
  if (s.sir n).up ∧ (s.sir n).lastGood + 1000000 ≤ s.clk.clock then sirDown s n else s

/-- RETRY_TIMEOUT (R490): ACKSEQ has not advanced for 20 µs; after 32 rounds the link is DOWN. -/
def retryTimeoutOp (s : State) (n : Nat) : State :=
  let l := s.sir n
  if l.up = false ∨ l.kept.isEmpty = true ∨ s.clk.clock < l.lastProgress + 20000 then s
  else if 32 ≤ l.rounds then sirDown s n
  else sirResend (s.setSir n { l with rounds := l.rounds + 1, lastProgress := s.clk.clock }) n 0

/-- ACK_IDLE_TIMEOUT (R490): nothing has been sent for 1 µs. -/
def ackIdleOp (s : State) (n : Nat) : State :=
  let l := s.sir n
  if l.up = true ∧ l.lastTx + 1000 ≤ s.clk.clock then sirControl s n 2 0 [] else s

/-! ### Commands -/

/-- HELLO_SEND. -/
def execHelloSend (t : Nat) (link : Fin 4) (s : State) : Host.Outcome State Fault Refusal := .next (helloSendOp (atTime t s) link.val)
/-- HELLO. -/
def execHello (t : Nat) (link : Fin 4) (frame : Bytes) (s : State) : Host.Outcome State Fault Refusal :=
  .next (sirReceive (atTime t s) link.val 4 frame)
/-- LINK_TIMEOUT. -/
def execLinkTimeout (t : Nat) (link : Fin 4) (s : State) : Host.Outcome State Fault Refusal := .next (linkTimeoutOp (atTime t s) link.val)
/-- DATA. -/
def execData (t : Nat) (link : Fin 4) (frame : Bytes) (s : State) : Host.Outcome State Fault Refusal :=
  .next (sirReceive (atTime t s) link.val 1 frame)
/-- ACK. -/
def execAck (t : Nat) (link : Fin 4) (frame : Bytes) (s : State) : Host.Outcome State Fault Refusal :=
  .next (sirReceive (atTime t s) link.val 2 frame)
/-- NACK. -/
def execNack (t : Nat) (link : Fin 4) (frame : Bytes) (s : State) : Host.Outcome State Fault Refusal :=
  .next (sirReceive (atTime t s) link.val 3 frame)
/-- RETRY_TIMEOUT. -/
def execRetryTimeout (t : Nat) (link : Fin 4) (s : State) : Host.Outcome State Fault Refusal := .next (retryTimeoutOp (atTime t s) link.val)
/-- ACK_IDLE_TIMEOUT. -/
def execAckIdleTimeout (t : Nat) (link : Fin 4) (s : State) : Host.Outcome State Fault Refusal := .next (ackIdleOp (atTime t s) link.val)

end Sys2Proof.Machine
end

