-- ==== Sys2Proof/Machine/TimePorts.lean ====
section
/-! DEFINITION. The time engine (R423, R424) and the optical ports' links (R523–R525).
Readings: log entry 31 (DEDUCED), log entry 46 (DESIGN CHOICE). -/

namespace Sys2Proof.Machine

def pgTime : Nat := 0x020

/-- SRC, DOMAIN, HOLDOVER_MS and LOCK_NS (R425). -/
def timeSrc (s : State) : Nat := bits (s.inForce (addr pgTime 0x040)) 19 16
def timeDomain (s : State) : Nat := bits (s.inForce (addr pgTime 0x040)) 6 0
def holdoverMs (s : State) : Nat := bits (s.inForce (addr pgTime 0x044)) 31 16
def lockNs (s : State) : Nat := bits (s.inForce (addr pgTime 0x044)) 15 0

/-- Whether the engine hears a port: it is the source and enabled (R423, R524). -/
def hears (s : State) (port domain : Nat) : Bool :=
  timeSrc s == port && decide (port < 10) && timeDomain s == domain && bit (s.inForce (addr (pgPort port) 0x040)) 31

/-- Whether a port carries 802.1AS messages: enabled, and of those that are up in this phase (R204, R443, R523). -/
def timePort (s : State) (port : Nat) : Bool := portOn s port && (s.phase == .up || (s.phase == .recovery && decide (8 ≤ port)))

/-- A frame is received on such a port, and discarded where its FCS is bad (R525). -/
def gptpRx (s : State) (m : GptpMsg) : State :=
  if timePort s m.port then
    let s := s.bump (pgPort m.port) 0x050 1
    if m.fcsOk then s else s.bump (pgPort m.port) 0x060 1
  else s

/-- The 802.1AS message that the end station sends on an enabled port on which it hears the protocol: a Pdelay_Req, its other bytes open (R204, R391;
DESIGN CHOICE, log entry 71). It is no Sync. -/
def gptpSend (s : State) (port : Nat) : State :=
  if timePort s port then
    ((s.emit (.gptp port (0x12 :: freeBytes (2 ^ 64 * (s.fresh + 1)) 53))).bump (pgPort port) 0x058 1).tick
  else s

/-- Whether a partition is RUNNING. -/
def anyRunning (s : State) : Bool := (List.range 8).any (fun p => (s.part p).st == .running)

/-- GPTP_MESSAGE: the offset, device time minus the grandmaster's, is recorded and corrected (R423, R424). -/
def gptpOp (s : State) (m : GptpMsg) : State :=
  let s := gptpSend (gptpRx s m) m.port
  if !m.fcsOk || !(timePort s m.port && hears s m.port m.domain) then s
  else
    let x := s.clk.time
    let s := s.bump pgTime 0x088 1
    let s := if x.gm ≠ 0 ∧ x.gm ≠ m.gm then s.bump pgTime 0x098 1 else s
    let offs := (m.offset :: x.offsets).take 8
    let locked := inLock s offs
    let x := { x with offsets := offs, gm := m.gm, lastSync := s.clk.clock, st := if locked then 2 else 1, lastOffset := m.offset, slewPart := 0 }
    if m.offset.natAbs ≤ 1000000 then { s with clk := { s.clk with time := { x with slew := -m.offset, rate := slewRate (-m.offset) } } }
    else if anyRunning s then
      let s := if x.deferred then s else s.logEntry 0x9106 0xFF 0xFF 0
      { s with clk := { s.clk with time := { x with slew := -m.offset, rate := slewRate (-m.offset), deferred := true } } }
    else
      { s with clk := { s.clk with dev := ((s.clk.dev : Int) - m.offset).toNat, time := { x with slew := 0, rate := 0, deferred := false } } }

/-- SYNC_LOSS_TIMEOUT: no Sync message for 3 intervals (R423, R424). -/
def syncLossOp (s : State) : State :=
  let x := s.clk.time
  if (x.st = 1 ∨ x.st = 2) ∧ (s.phase = .up ∨ s.phase = .recovery) then
    let s := (s.bump pgTime 0x090 1).logEntry 0x9105 0xFF 0xFF 0
    { s with clk := { s.clk with time := { x with st := 3, lastSync := s.clk.clock } } }
  else s

/-- HOLDOVER_EXPIRY: HOLDOVER_MS have passed in HOLDOVER. -/
def holdoverExpiryOp (s : State) : State :=
  let x := s.clk.time
  if x.st = 3 ∧ x.lastSync + holdoverMs s * 1000000 ≤ s.clk.clock then
    { s with clk := { s.clk with time := { x with st := 1, offsets := [] } } }
  else s

/-- PORT_LINK_TRAINED (R523): the received and launched powers are measured values. -/
def linkTrainedOp (s : State) (i : Nat) : State :=
  let x := s.optical i
  if (s.phase = .up ∨ s.phase = .recovery) ∧ bit (s.inForce (addr (pgPort i) 0x040)) 31 = true ∧ x.link ≠ 2 then
    let rx := s.freeVal 65536
    let tx := s.tick.freeVal 65536
    s.tick.tick.setOptical i ⟨2, rx, tx⟩
  else s

/-- PORT_LINK_LOST (R525): LINK leaves UP; an enabled port trains again, and the Sirris link that was UP on it is DOWN (R488). -/
def linkLostOp (s : State) (i : Nat) : State :=
  let x := s.optical i
  if x.link = 2 then
    let s := s.setOptical i { x with rxPower := 0x8000 }
    if 10 ≤ i ∧ (s.sir (i - 10)).up = true then sirDown s (i - 10) else retrain s i
  else s

/-- GPTP_MESSAGE. -/
def execGptpMessage (t : Nat) (m : GptpMsg) (s : State) : Host.Outcome State Fault Refusal := .next (gptpOp (atTime t s) m)
/-- SYNC_LOSS_TIMEOUT. -/
def execSyncLossTimeout (t : Nat) (s : State) : Host.Outcome State Fault Refusal := .next (syncLossOp (atTime t s))
/-- HOLDOVER_EXPIRY. -/
def execHoldoverExpiry (t : Nat) (s : State) : Host.Outcome State Fault Refusal := .next (holdoverExpiryOp (atTime t s))
/-- PORT_LINK_TRAINED. -/
def execPortLinkTrained (t : Nat) (port : Fin 14) (s : State) : Host.Outcome State Fault Refusal := .next (linkTrainedOp (atTime t s) port.val)
/-- PORT_LINK_LOST. -/
def execPortLinkLost (t : Nat) (port : Fin 14) (s : State) : Host.Outcome State Fault Refusal := .next (linkLostOp (atTime t s) port.val)

end Sys2Proof.Machine
end

