-- ==== Sys2Proof/Machine/RegRead.lean ====
section
/-! DEFINITION. What every register reads as: the common header (R412), the read-only registers of every block (R86, R153, R189–R191,
R229, R285, R287, R319, R320, R323, R361–R364, R388, R421, R422, R425, R460–R462, R483, R484, R508, R509, R525, R526) and the latched
halves of 64-bit registers.
Readings: log entry 34 (DEDUCED), log entry 36 (DEDUCED), log entry 44 (DEDUCED), log entry 59 (DESIGN CHOICE). -/

namespace Sys2Proof.Machine

/-- Two's complement of n bits. -/
def twos (n : Nat) (v : Int) : Nat := (v % (2 ^ n : Nat)).toNat
/-- Two's complement of 32 bits, saturating. -/
def sat32 (v : Int) : Nat := twos 32 (max (-2147483648) (min 2147483647 v))
/-- A map of bits: bit i is 1 where the test holds. -/
def bitMap (n : Nat) (f : Nat → Bool) : Nat := sumNat ((List.range n).map (fun i => if f i then 2 ^ i else 0))

/-! ### Units (R86, R153, R364) -/

/-- Whether the array of a unit holds what the spec does not lay out: a proof tile, a chunk, a coverage run or filler is in progress. -/
def coreBusy (s : State) (n : Nat) : Bool :=
  let u := unitOf s n
  (s.run (qCore u)).isSome || unitTesting s u || decide (0 < (s.core n).filler)

/-- STATE of CORE_STATE. -/
def coreStateCode (s : State) (n : Nat) : Nat :=
  if s.coreFused n then 3
  else if coreOut s n || s.phase == .recovery then 0
  else if s.inRun n then 2 else if (s.core n).clk = .off then 0 else 1

/-- CORE_STATE. -/
def coreStateReg (s : State) (n : Nat) : Nat :=
  (s.core n).logical % 256 * 2 ^ 24 + pairOwner s (n / 2) % 16 * 2 ^ 20 + b2n (s.pair (n / 2)).safe * 2 ^ 16 + b2n (s.core n).overdue * 2 ^ 9
  + b2n (!s.coreFused n && coreOut s n) * 2 ^ 8 + coreStateCode s n

/-- An array status word whose fields are those of a free value. -/
def freeStatus (v : Nat) : Nat := statusWord (bits v 11 10) (bits v 9 8) (bit v 4) (bit v 3) (bit v 2) (bit v 1)

/-- CORE_ARRAY_STATUS (R85, R86): within a work item as the item's timeline has it in the sampled cycle; in a proof tile, a chunk or filler, which the
spec does not lay out, free values of which IDLE follows; otherwise the array is idle. -/
def arrayStatus (s : State) (n : Nat) : Nat :=
  let u := unitOf s n
  let c := s.core n
  match s.run (qCore u) with
  | some r =>
    if r.item.proof then freeStatus (s.freeVal 4096)
    else r.line.status c.array.active1 (decide (s.clk.clock < c.tokensTill)) (decide (s.clk.clock < c.wordsTill)) (c.pos + (newCycles s u).1)
  | none => if coreBusy s n then freeStatus (s.freeVal 4096) else statusWord 0 0 c.array.active1 false (decide (s.clk.clock < c.tokensTill)) (decide (s.clk.clock < c.wordsTill))

def coreReg (s : State) (n off : Nat) : Nat :=
  if off = 0x040 then coreStateReg s n
  else if off = 0x044 then (if s.phase = .recovery then 16 else (s.pair (n / 2)).freq % 256)
  else if off = 0x048 then arrayStatus s n
  else min (s.queue (qCore (unitOf s n))).length 65535

/-- SPEC_STATE and SPEC_QUEUE_STATUS. -/
def engineReg (s : State) (q off : Nat) : Nat :=
  let e := s.engine q
  if off = 0x040 then
    e.owner % 16 * 2 ^ 20 + b2n (decide (e.owner < 8) && s.isSafety e.owner) * 2 ^ 16 + b2n e.fenced * 2 ^ 8
    + (if e.fenced || e.off then 0 else if (s.run (qSpec q)).isSome then 2 else 1)
  else min (s.queue (qSpec q)).length 65535

/-- WP_STATE and WP_LAST_MISMATCH. -/
def pairReg (s : State) (i off : Nat) : Nat :=
  let w := s.pair i
  let struck (n : Nat) : Bool := !(recent s (s.core n).strikes).isEmpty
  let st := if s.pairFused i then 3
    else
      let a := coreStateCode s (2 * i)
      let b := coreStateCode s (2 * i + 1)
      if a = 2 ∨ b = 2 then 2 else if a = 1 ∨ b = 1 then 1 else 0
  if off = 0x040 then
    w.owner % 16 * 2 ^ 20 + b2n w.safe * 2 ^ 16 + b2n (!w.safe && struck (2 * i + 1)) * 2 ^ 10 + b2n (struck (2 * i)) * 2 ^ 9
    + b2n (!s.pairFused i && pairFenced s i) * 2 ^ 8 + st
  else w.lastClass % 16 * 2 ^ 28 + w.lastPart % 16 * 2 ^ 24

/-! ### The Press (R189–R191) -/

/-- Allocatable DRAM frames that no partition has. -/
def dramFree (s : State) : Nat := 884736 - ((dramUsed s).filter (fun f => decide (32768 ≤ f))).length

def pressReg (s : State) (off : Nat) : Nat :=
  if off = 0x040 then sumNat ((List.range 4).map (feltFree s)) * 2 ^ 20 + dramFree s
  else min s.aon.retiredFelt.length 4095 * 2 ^ 12 + min s.aon.retiredSheet.length 4095

def pressPReg (s : State) (p off : Nat) : Nat :=
  let x := s.part p
  if off = 0x040 then b2n x.plan.isSome * 2 ^ 31 + sheetMost s p
  else if off = 0x044 then feltResident s p * 2 ^ 16 + feltPinned s p
  else if off = 0x048 then dramHeld s p
  else if off = 0x060 then x.ptEntry.toNat % 2 ^ 32
  else x.ptEntry.toNat / 2 ^ 32

def feltReg (s : State) : Nat :=
  sumNat ((List.range 4).map (fun q => min (s.aon.retiredFelt.filter (fun r => r.1 == q)).length 255 * 2 ^ (8 * q)))

def dramReg (s : State) : Nat :=
  (((allPtes s).filter (fun e => e.poison)).length % 2 ^ 20) * 2 ^ 12 + b2n s.press.patrolBusy * 2 + b2n s.aon.trained

/-! ### The Vat, the Sieve, the display (R229, R285, R287) -/

def chanReg (s : State) (n off : Nat) : Nat :=
  let x := s.chan n
  let used := x.slots.length
  if off = 0x070 then
    x.lastStatus % 16 * 2 ^ 28 + x.lastMember % 16 * 2 ^ 24 + min x.absentRun 255 * 2 ^ 16 + b2n x.endLatched * 2 ^ 9 + b2n x.rx.isSome * 2 ^ 8
    + (x.slots.filter (fun e => !e.2.holders.isEmpty)).length % 16 * 2 ^ 4 + ((s.chanCfg n).nslots - used) % 16
  else if off = 0x074 then x.lastShown % 2 ^ 32
  else min s.vat.decodeQ.length 255 * 2 ^ 16 + b2n s.vat.rawPath.isSome * 2 ^ 8
    + bitMap 8 (fun d => match s.vat.decoders[d]? with | some (some _) => true | _ => false)

def sieveReg (s : State) (off : Nat) : Nat :=
  if off = 0x040 then
    min (sumNat ((List.range 8).map (fun p => (s.queue (qSieve p)).length))) 255 * 2 ^ 8 + b2n ((List.range 8).any (fun p => (s.run (qSieve p)).isSome))
  else
    let p := (off - 0x080) / 0x40
    let r := (off - 0x080) % 0x40
    match ringOf s p with
    | none => 0
    | some g =>
      if r = 0 then g.ringVa % 2 ^ 32
      else if r = 4 then g.ringVa / 2 ^ 32
      else g.slotsLog2 % 32 * 2 ^ 16 + g.slotBytes / 64 % 2 ^ 16

def dispRegRo (s : State) : Nat := bitMap 4 (fun n => (s.disp n).busy)

/-! ### Partitions, Instar, tallies (R303, R319, R320, R323) -/

/-- The 32 bytes of an Instar entry (R303). -/
def instarBytes (e : InstarEntry) : Bytes :=
  toLE 8 e.sid ++ toLE 1 e.st ++ toLE 1 e.part ++ toLE 1 e.sclass ++ toLE 1 (b2n e.isNew * 2 + b2n e.h) ++ toLE 1 e.member ++ toLE 3 0
    ++ toLE 4 e.user ++ toLE 8 e.openStep ++ toLE 4 e.steps

def instarReg (s : State) (off : Nat) : Nat :=
  if off = 0x040 then (s.plans.instar.filter (fun e => e.2.st != 0)).length * 2 ^ 16
  else (s.plans.instarEntry.getD ((off - 0x048) / 4) 0).toNat

/-- One byte of PART_BIND. -/
def bindByte (x : PartSt) (l : Nat) : Nat := match x.bind[l]? with | some (some u) => u % 256 | _ => 0xFF
def ebindNibble (x : PartSt) (l : Nat) : Nat := match x.ebind[l]? with | some (some q) => q % 16 | _ => 0xF

def partRegRo (s : State) (p off : Nat) : Nat :=
  let x := s.part p
  if off = 0x078 then
    x.st.code * 2 ^ 28 + b2n x.cmd.isSome * 2 ^ 27 + (x.bind.filterMap id).length % 64 * 2 ^ 8 + x.outcome % 8
  else if off = 0x07C then x.openResult.toNat
  else if off = 0x088 then x.pairsNow.toNat
  else if off = 0x08C then min x.buildMax 65535 * 2 ^ 16 + min x.build 65535
  else if off = 0x090 then x.finish % 2 ^ 32
  else if off = 0x094 then x.finishMax % 2 ^ 32
  else if off = 0x108 then sumNat ((List.range 4).map (fun l => ebindNibble x l * 2 ^ (4 * l)))
  else sumNat ((List.range 4).map (fun i => bindByte x (off - 0x0E0 + i) * 2 ^ (8 * i)))

/-- TALLY_W_CNT. -/
def tallyReg (s : State) (p off : Nat) : Nat :=
  let t := bits (s.inForce (addr (pgTally p) 0x040)) 15 0 + (off - 0x400) / 4
  if bits (s.partReg p 0x050) 15 0 ≤ t then 0 else s.tally (devTally s p t)

/-! ### Safety and self-test (R361–R363, R388) -/

def safeReg (s : State) (off : Nat) : Nat :=
  if off = 0x040 then s.safety.lastWord % 2 ^ 16 * 2 ^ 16 + s.safety.lastCause % 16 * 2 ^ 12
  else if off = 0x044 then
    b2n (decide (s.safety.dev ≠ 0)) * 2 ^ 31 + s.safety.dev % 16 * 2 ^ 16 + bitMap 8 (fun p => (s.part p).safe.isSome)
  else match (s.part ((off - 0x048) / 4)).safe with
    | some (code, n) => code % 2 ^ 16 * 2 ^ 16 + n % 2 ^ 16
    | none => 0

def proofReg (s : State) (off : Nat) : Nat :=
  if off = 0x040 then s.safety.proofVariant % 16 * 2 ^ 28 + s.safety.proofFail % 256 else min s.safety.proofMax 65535

def dlReg (s : State) (off : Nat) : Nat :=
  if off = 0x040 then
    bitMap 8 (fun p => match (s.part p).step with | some st => st.replay | none => false) * 2 ^ 8 + bitMap 8 (fun p => (s.part p).step.isSome)
  else (s.part ((off - 0x088) / 0x10)).margin % 2 ^ 18

def stReg (s : State) (off : Nat) : Nat :=
  let x := s.selftest
  if off = 0x040 then
    b2n x.late * 2 ^ 31 + x.activeBank % 2 * 2 ^ 30 + ((List.range 40).filter (fun n => (s.core n).overdue)).length * 2 ^ 16 + x.rotLast % 2 ^ 16
  else if off = 0x050 then x.activeVersion % 2 ^ 32
  else if off = 0x054 then x.stagedVersion % 2 ^ 32
  else x.staged % 16 * 2 ^ 28 + b2n (x.busy || x.waiting.isSome) * 2 ^ 27

/-! ### Device, host, time (R421, R422, R425) -/

/-- DEV_HOST_STATE. -/
def hostStateReg (s : State) : Nat :=
  let l := s.link
  let st := match l.host with | .unclaimed => 0 | .claimed => 1 | .orphan => 2
  let age := if l.host = .unclaimed then 0 else min ((s.clk.dev - l.hbAt) / 1000000) 16383
  st * 2 ^ 28 + (if l.host = .claimed then l.port % 16 else 0) * 2 ^ 24 + age

def devReg (s : State) (off : Nat) : Nat :=
  let n := (livePairs s).length
  if off = 0x040 then 0x541101A0
  else if off = 0x044 then n * 2 ^ 8 + 2 * n
  else if off = 0x048 then s.fuses.pairs.toNat
  else if off = 0x054 then 0x01000100
  else if off = 0x060 then s.link.grant.toNat
  else if off = 0x064 then s.link.session.toNat
  else if off = 0x070 then hostStateReg s
  else if s.phase ≠ .recovery ∧ (List.range 8).any (fun p => s.active p) = true then 2 else 1

def hostReg (s : State) (off : Nat) : Nat :=
  if off = 0x040 then s.fuses.mac0.toNat / 2 ^ 32
  else if off = 0x044 then s.fuses.mac0.toNat % 2 ^ 32
  else if off = 0x048 then s.fuses.mac1.toNat / 2 ^ 32
  else if off = 0x04C then s.fuses.mac1.toNat % 2 ^ 32
  else 512

/-- GSTEP (R425). -/
def gstep (s : State) : Nat :=
  let g := s.regsOf pgTime
  let epoch := g 0x064 + 2 ^ 32 * g 0x068
  if s.clk.dev < epoch then 0 else (s.clk.dev - epoch) / (bits (g 0x06C) 17 0 * 1000)

def timeReg (s : State) (off : Nat) : Nat :=
  let x := s.clk.time
  if off = 0x048 then b2n (decide (x.st = 2)) * 2 ^ 31 + b2n x.deferred * 2 ^ 30 + x.st % 16
  else if off = 0x054 then sat32 x.lastOffset
  else if off = 0x058 then twos 32 x.rate
  else if off = 0x05C then x.gm.toNat / 2 ^ 32
  else x.gm.toNat % 2 ^ 32

/-! ### AON, boot, processors (R460–R462) -/

def aonReg (s : State) (off : Nat) : Nat :=
  let a := s.aon
  if off = 0x048 then (recentFails s).length % 16 * 2 ^ 28 + bitMap 6 (fun i => match a.failures[i]? with | some f => f.slot | none => false)
  else if off = 0x04C then (match a.sramAt with | some t => min ((s.aonTime - t) / 3600000000000) 65535 | none => 0xFFFF)
  else if off = 0x050 then b2n a.trained * 2 ^ 31 + twos 8 a.trainTemp
  else if off = 0x058 then a.wakeLast % 16 * 2 ^ 28 + min a.wake.bad 65535
  else a.session % 2 ^ 32

/-- A slot's state in BOOT_SLOTS. -/
def slotCode (s : State) (b : Bool) : Nat :=
  if s.phase ≠ .recovery ∧ b = s.boot.running then 5
  else if s.boot.failedMark = some b then 6
  else match slotSt s b with | .unverified => if slotEmpty s b then 0 else 1 | .verifying => 2 | .verified => 3 | .refused => 4

def bootReg (s : State) (off : Nat) : Nat :=
  let x := s.boot
  if off = 0x040 then
    x.start.kind % 16 * 2 ^ 28 + x.start.cause % 16 * 2 ^ 24 + b2n x.running * 2 ^ 23 + b2n x.preferred * 2 ^ 22 + x.configCopy % 4 * 2 ^ 20
  else if off = 0x044 then slotCode s true * 16 + slotCode s false
  else if off = 0x048 then imageVersion s false
  else if off = 0x04C then imageVersion s true
  else if off = 0x058 then
    b2n x.dramSkip * 2 ^ 31 + b2n x.sramSkip * 2 ^ 30 + min ((x.readyAt - x.start.begun) / 1000000) 65535
  else s.fuses.minSec % 128

/-- STATE of PROC_STATE: in recovery the ROM runs on MP alone (R443). -/
def procCode (s : State) (i : Nat) : Nat :=
  if s.phase = .recovery then (if i = 0 then 3 else 0)
  else match (s.proc i).st with | .run => 1 | .restarting => 2 | .halted => 0

def procReg (s : State) (i off : Nat) : Nat :=
  let x := s.proc i
  if off = 0x040 then
    procCode s i * 2 ^ 28 + x.cause % 16 * 2 ^ 24 + b2n x.slot * 2 ^ 23 + min (recent s x.restarts).length 255
  else if off = 0x044 then x.fw
  else match x.dump with
    | some d => 2 ^ 31 + d.cause % 16 * 2 ^ 24 + d.seq % 2 ^ 16
    | none => 0

/-! ### Power and heat (R483, R484) -/

/-- LIMITER: the highest of the codes in force (DEDUCED, log entry 36). -/
def limiter (s : State) : Nat :=
  let own := (runPairs s).filter (fun i => decide (pairOwner s i < 8))
  let low (f : PairSt → Nat) : Bool := own.any (fun i => decide (f (s.pair i) < pairTarget s i))
  if low (·.capHw) then 4
  else if own.any (fun i => decide ((s.pair i).capPower < floorOf s (pairOwner s i))) then 3
  else if low (·.capTherm) then 2
  else if low (·.capPower) then 1 else 0

def pwrReg (s : State) (off : Nat) : Nat :=
  let x := s.power
  if off = 0x040 then
    b2n (!x.emThermal.isEmpty) * 2 ^ 31 + b2n (!x.emCurrent.isEmpty) * 2 ^ 30 + b2n x.emSupply * 2 ^ 29 + limiter s * 2 ^ 24 + min (averageW10 s) 65535
  else if off = 0x04C then x.vin % 2 ^ 16 * 2 ^ 16 + x.iin % 2 ^ 16
  else match x.rails[(off - 0x050) / 4]? with
    | some (v, i) => v % 2 ^ 16 * 2 ^ 16 + i % 2 ^ 16
    | none => 0

/-- PWR_PAIR of a pair. -/
def pwrPairWord (s : State) (i : Nat) : Nat :=
  let w := s.pair i
  if 20 ≤ i then 0 else w.capPower % 256 * 2 ^ 24 + w.capTherm % 256 * 2 ^ 16 + w.capHw % 256 * 2 ^ 8 + w.freq % 256

/-- A junction sensor's temperature. -/
def sensor (s : State) (i : Nat) : Int := s.power.sensors.getD i 0
/-- The hottest sensor, the lowest number on a tie. -/
def hottest (s : State) : Nat := (List.range 16).foldl (fun m i => if sensor s m < sensor s i then i else m) 0

def thermReg (s : State) (off : Nat) : Nat :=
  if off = 0x040 then hottest s * 2 ^ 24 + twos 16 (sensor s (hottest s))
  else if off = 0x068 then twos 16 s.aon.aonTemp
  else if off = 0x06C then twos 8 s.power.dramTemp
  else if off = 0x070 then s.aon.shutdowns % 256
  else let i := (off - 0x048) / 2; twos 16 (sensor s (i + 1)) * 2 ^ 16 + twos 16 (sensor s i)

/-! ### Links and ports (R508, R525, R526) -/

def sirReg (s : State) (off : Nat) : Nat :=
  let n := (off - 0x050) / 4
  let l := s.sir n
  if !sirEnabled s n then l.peer % 1024 * 2 ^ 22
  else l.peer % 1024 * 2 ^ 22 + (if l.up then 2 else 1) * 2 ^ 20
    + (if l.up then l.credReq % 1024 * 2 ^ 10 + l.credRsp % 1024 else 0)

def portReg (s : State) (i off : Nat) : Nat :=
  let o := s.optical i
  if off = 0x044 then o.link % 16 * 2 ^ 28 + (if i < 10 then 1 else 2) * 2 ^ 24 + o.rxPower % 2 ^ 16 else o.txPower % 2 ^ 16

/-- The launched and received powers are measured values: free. -/
def sntwReg (s : State) (off : Nat) : Nat :=
  if off = 0x040 then b2n s.safety.sentinelOn * 2 ^ 31 + b2n (!s.safety.tapBad) * 2 ^ 30 + s.freeVal 65536
  else b2n s.aon.wake.lit * 2 ^ 31 + (if s.aon.wake.lit then s.freeVal 65536 else 0x8000)

/-! ### Reading a register -/

/-- A read-only register of a block that is no counter and no latched pair. -/
def roValue (s : State) (b : Block) (off : Nat) : Nat :=
  match b with
  | .dev => devReg s off
  | .host => hostReg s off
  | .aon => aonReg s off
  | .boot => bootReg s off
  | .proc i => procReg s i off
  | .port i => portReg s i off
  | .sntw => sntwReg s off
  | .time => timeReg s off
  | .chan n => chanReg s n off
  | .shape _ => 0
  | .core n => coreReg s n off
  | .pair p => pairReg s p off
  | .quad _ => 0
  | .engine q => engineReg s q off
  | .press => pressReg s off
  | .pressP p => pressPReg s p off
  | .felt => feltReg s
  | .dram => dramReg s
  | .instar => instarReg s off
  | .part p => partRegRo s p off
  | .tallyW p => tallyReg s p off
  | .sieve => sieveReg s off
  | .disp => dispRegRo s
  | .safe => safeReg s off
  | .proof => proofReg s off
  | .dl => dlReg s off
  | .st => stReg s off
  | .pwr => pwrReg s off
  | .therm => thermReg s off
  | .sirris => sirReg s off
  | .stally => 0

/-- Registers that show what a write of their index register latched (R388, R483, R509). -/
def indexLatched (b : Block) (off : Nat) : Bool :=
  match b with
  | .st => off == 0x060
  | .pwr => off == 0x08C
  | .stally => off == 0x050 || off == 0x054
  | _ => false

/-- Low offsets of the 64-bit registers, counters apart, whose low read latches the high register. -/
def wideLows (b : Block) : List Nat :=
  match b with
  | .dev => [0x04C]
  | .aon => [0x040]
  | .boot => [0x060]
  | .time => [0x04C, 0x070]
  | .chan _ => [0x078]
  | .part _ => [0x080]
  | .sieve => (List.range 8).map (fun p => 0x090 + 0x40 * p)
  | _ => []

/-- Their values. -/
def wideValue (s : State) (b : Block) (off : Nat) : Nat :=
  match b with
  | .dev => s.fuses.serial.toNat
  | .aon => s.aonTicks
  | .boot => s.log.nextSeq
  | .time => if off = 0x04C then s.clk.dev else gstep s
  | .chan n => match (s.chan n).lastTime with | some t => twos 64 t | none => 0
  | .part p => stepNumber (s.part p)
  | .sieve => (s.part ((off - 0x090) / 0x40)).wrSeq
  | _ => 0

/-- The low word of a 64-bit register, its high one latched. -/
def latchWide (s : State) (a v : Nat) : State × Nat :=
  ({ s with regs := { s.regs with latches := sput 0 s.regs.latches (a + 4) (BitVec.ofNat 32 (v / 2 ^ 32)) } }, v % 2 ^ 32)
def latched (s : State) (a : Nat) : Nat := (sget 0 s.regs.latches a).toNat

/-- Where a written register's value is kept: indexed registers at the entry that their index register names (R508, R509). -/
def regKey (s : State) (b : Block) (page off : Nat) : Nat :=
  match b with
  | .sirris => if off = 0x048 then indexedKey (addr page off) (bits (s.inForce (addr page 0x044)) 9 0) else addr page off
  | .stally => if off = 0x044 ∨ off = 0x048 then indexedKey (addr page off) (bits (s.inForce (addr page 0x040)) 7 0) else addr page off
  | _ => addr page off

/-- Read-only registers that hold a measured or sampled value: each read takes a free value. -/
def sampled (b : Block) (off : Nat) : Bool :=
  match b with
  | .core _ => off == 0x048
  | .sntw => true
  | _ => false

/-- Read a register beyond the common header; reserved offsets and WO registers read 0 (R9, R397). -/
def readBlock (s : State) (b : Block) (page off : Nat) : State × Nat :=
  match findCnt (cntRows b) off with
  | some lo =>
    let s := accountPage s b
    if off = lo then latchWide s (addr page lo) (s.counter page lo) else (s, latched s (addr page off))
  | none =>
    if (wideLows b).elem off then latchWide s (addr page off) (wideValue s b off)
    else if (wideLows b).any (fun o => o + 4 == off) || indexLatched b off then (s, latched s (addr page off))
    else match accOf b off with
      | .ro => (if sampled b off then s.tick else s, roValue s b off % 2 ^ 32)
      | .rw => (s, s.inForce (regKey s b page off))
      | .rws => (s, s.shadowOf (regKey s b page off))
      | .wo => (s, 0)
      | .reserved => (s, 0)

/-- Whether a page belongs to a fused-off pair (R3). -/
def fusedPage (s : State) (b : Block) : Bool :=
  match b with
  | .core n => s.coreFused n
  | .pair p => s.pairFused p
  | _ => false

/-- PAGE_STATUS. -/
def pageStatus (s : State) (b : Block) (page : Nat) : Nat :=
  let common := if fusedPage s b then 2
    else if emulated page && ((s.phase == .recovery && page != pgBoot) || (s.phase != .recovery && !mpUp s)) then 1 else 0
  let x := s.boot
  let block := if b = .boot then
      b2n x.fallback * 16 + b2n (decide (s.phase = .recovery)) * 8 + b2n x.busy.isSome * 4 + b2n x.live.isSome * 2 + b2n x.activate.isSome
    else 0
  common * 2 ^ 28 + block

/-- STATE of PAGE_COMMIT. -/
def CommitState.code : CommitState → Nat
  | .idle => 0 | .pending => 1 | .applied => 2 | .refused => 3

/-- A register of the common header (R412). -/
def readHeader (s : State) (b : Block) (first page off : Nat) : Nat :=
  let h := s.hdrOf page
  if off = 0x000 then first * 2 ^ 16 + (page - first) * 2 ^ 8 + 1
  else if off = 0x004 then b2n (emulated page) * 2 ^ 31 + b2n (hasShadow b) * 2 ^ 30
  else if off = 0x00C then pageStatus s b page
  else if off = 0x010 then h.cstate.code * 2 ^ 30 + h.token.toNat
  else if off = 0x014 then
    if h.errValid then 2 ^ 31 + b2n h.errOverflow * 2 ^ 30 + h.errSource % 8 * 2 ^ 27 + h.errCode % 2 ^ 16 else 0
  else if off = 0x018 then h.errInfo.toNat
  else if off = 0x01C then pageOwner s b
  else 0

/-- Pages that answer in recovery (R443). -/
def liveInRecovery (b : Block) : Bool :=
  match b with
  | .dev | .host | .time | .aon | .proc _ | .boot => true
  | _ => false

/-- What the pages of parts that are off in recovery read: their reset values. -/
def deadView (s : State) : State :=
  { State.reset with
    phase := .recovery, fuses := s.fuses, regs := { State.reset.regs with hdr := s.regs.hdr }
    aon := { s.aon with trained := false, wake := { s.aon.wake with lit := false } }
    safety := { SafetySt.reset with sentinelOn := false, tapBad := true } }

/-- The result of a register operation: RESULT of R396 and DATA. -/
structure RegAnswer where
  result : Nat
  data : Nat
deriving DecidableEq, Repr

/-- Whether an operation on an emulated page gets BUSY: MP restarts, or in recovery the page is of power or heat (R417, R443). -/
def pageBusy (s : State) (page : Nat) : Bool :=
  emulated page && (if s.phase = .recovery then page != pgBoot else !mpUp s)

/-- READ of a register address (R394–R397, R417). -/
def regRead (s : State) (a : Nat) : State × RegAnswer :=
  if 2 ^ 28 ≤ a ∨ a % 4 ≠ 0 then (s, ⟨3, 0x9002⟩)
  else
    let page := a / 4096
    let off := a % 4096
    match blockOf page with
    | none => (s, ⟨2, 0x9001⟩)
    | some (b, first) =>
      if off < 0x040 then (s, ⟨0, readHeader s b first page off⟩)
      else if pageBusy s page then (s.bump 0x001 0x0A8 1, ⟨1, 0x9004⟩)
      else if s.phase = .recovery ∧ liveInRecovery b = false then (s, ⟨0, (readBlock (deadView s) b page off).2⟩)
      else
        let (s, v) := readBlock s b page off
        (s, ⟨0, v⟩)

end Sys2Proof.Machine
end

