-- ==== Sys2Proof/Machine/RegWrite.lean ====
section
/-! DEFINITION. Writes of registers (R394–R397, R405, R412–R417): one shared operation, which every row of the table that is a register
write runs, and REG_REQ with it; claims and the heartbeat (R405–R411).
Readings: log entry 33 (DEDUCED), log entry 34 (DEDUCED), log entry 44 (DEDUCED), log entry 61 (DESIGN CHOICE). -/

namespace Sys2Proof.Machine

def pgHost : Nat := 0x001

/-! ### Claims, the heartbeat, ORPHAN (R405–R411) -/

/-- A refused command of DEV_CLAIM; RESULT 0 leaves DEV_GRANT. -/
def claimRefuse (s : State) (port code value result : Nat) : State :=
  let s := s.pageErr pgDev 2 code value
  if result = 0 then s else { s with link := { s.link with grant := grantWord result 0 port 0 } }

/-- Whether a session number is the current one (R405): 0 is never issued. -/
def currentSession (s : State) (n : Word) : Bool := decide (n ≠ 0) && decide (n = s.link.session)

/-- RELEASE (R407). -/
def releaseCmd (s : State) (w : Sender) (value : Nat) : State :=
  let port := w.port.val
  if s.link.host ≠ .claimed then claimRefuse s port 0x9013 value 0
  else if currentSession s w.session = false then claimRefuse s port 0x9003 value 0
  else if (List.range 8).any (fun p => s.active p) then claimRefuse s port 0x9012 value 0
  else { s with link := { s.link with host := .unclaimed, session := 0, grant := grantWord 5 0 port 0 } }

/-- A claim with RESET = 1 begins its reset (R410): RUNNING partitions stop at their next boundary, the plans of the others are
unloaded. -/
def beginReset (s : State) (port : Nat) : State :=
  let s := s.logEntry 0x9104 0xFF 0xFF 0
  let s := { s with link := { s.link with session := 0, resetting := some port, grant := grantWord 4 0 port 0 } }
  let s := (List.range 8).foldl (fun s p => if s.active p then s.modPart p (fun x => { x with resetting := true }) else s) s
  let s := (List.range 8).foldl (fun s p =>
    if (s.part p).st == .loaded || (s.part p).st == .suspended then unloadPart s p else s) s
  let s := (List.range 8).foldl (fun s p => if (s.part p).st == .running then stopOp s p else s) s
  finishReset s

/-- CLAIM and TAKEOVER in a state that allows them (R406, R407). -/
def claimFrom (s : State) (port value : Nat) (takeover reset : Bool) : State :=
  let warm := !reset && (List.range 8).any (fun p => (s.part p).st != .empty)
  match claimVersion s warm with
  | none => claimRefuse s port 0x9010 value 2
  | some ver =>
    let s := if takeover && s.link.host == .claimed then (s.bump pgDev 0x090 1).logEntry 0x9103 0xFF 0xFF 0 else s
    if reset then beginReset s port
    else
      let s := if warm || s.link.host = .orphan then s.logEntry 0x9102 0xFF 0xFF 0 else s
      grantClaim s port ver warm

/-- A write of DEV_CLAIM (R407, R410, R421). -/
def claimCmd (s : State) (w : Sender) (value : Nat) : State :=
  let port := w.port.val
  let cmd := bits value 31 28
  if cmd = 2 then releaseCmd s w value
  else if cmd ≠ 1 ∧ cmd ≠ 3 then claimRefuse s port 0x9013 value 0
  else if s.link.resetting.isSome then claimRefuse s port 0x9011 value 0
  else if cmd = 1 ∧ (s.link.host = .claimed ∨ (s.link.h0First = true ∧ port = 1)) then claimRefuse s port 0x9011 value 3
  else if cmd = 3 ∧ s.link.host = .unclaimed then claimRefuse s port 0x9013 value 0
  else claimFrom s port value (cmd == 3) (bit value 27)

/-- HB_TIMEOUT in ns. -/
def hbTimeout (s : State) : Nat := bits (s.inForce (addr pgDev 0x06C)) 13 0 * 1000000

/-- Whether the heartbeat age has reached HB_TIMEOUT in a session (R409). -/
def hbDue (s : State) : Bool :=
  s.link.host == .claimed && decide (s.link.session ≠ 0) && decide (s.link.hbAt + hbTimeout s ≤ s.clk.dev)

/-- ORPHAN (R408): the session ends, RUNNING BEST_EFFORT partitions stop. -/
def orphanOp (s : State) : State :=
  if hbDue s then
    let s := { s with link := { s.link with host := .orphan, session := 0 } }
    let s := (s.bump pgDev 0x088 1).logEntry 0x9101 0xFF 0xFF 0
    (List.range 8).foldl (fun s p => if (s.part p).st == .running && !s.isRT p then stopOp s p else s) s
  else s

/-- What comes before a host access at its instant: an age that has reached HB_TIMEOUT (R411), and a reset whose last partitions became
SUSPENDED. -/
def settleLink (s : State) : State :=
  let s := orphanOp s
  if s.link.resetting.isSome then
    finishReset ((List.range 8).foldl (fun s p =>
      if (s.part p).resetting && (s.part p).st == .suspended then unloadPart s p else s) s)
  else s

/-! ### Writes of the common header (R412, R414) -/

/-- REVERT on PAGE_CTRL. -/
def revertWrite (s : State) (b : Block) (page value : Nat) : State :=
  if bit value 0 then
    (if (s.hdrOf page).cstate = .pending then s.pageErr page 1 0x9007 0x008 else revertPage s b page)
  else s

/-- W1C bits of PAGE_ERR. -/
def errWrite (s : State) (page value : Nat) : State :=
  let h := s.hdrOf page
  if bit value 31 then s.setHdr page { h with errValid := false, errOverflow := false, errSource := 0, errCode := 0 }
  else if bit value 30 then s.setHdr page { h with errOverflow := false }
  else s

/-- A commit on a page that is off in recovery stays PENDING (R443). -/
def commitDead (s : State) (b : Block) (page : Nat) (token : BitVec 16) : State :=
  let h := s.hdrOf page
  if token = 0 then s.pageErr page 0 0x9006 0x010
  else if h.cstate = .pending then s.pageErr page 0 0x9005 0x010
  else s.setHdr page { h with cstate := .pending, token := token, snapshot := snapshotOf s b page, at? := s.clk.clock }

/-- Whether a page is off: in recovery, and not one that answers there. -/
def deadPage (s : State) (b : Block) : Bool := s.phase == .recovery && !liveInRecovery b

/-- An owner or a quota that has come into force may make fences of R179 due (R382). -/
def fencesAfter (s : State) (b : Block) (page : Nat) : State :=
  match b with
  | .part _ | .pressP _ => if (s.hdrOf page).cstate = .applied then dueFences s else s
  | _ => s

/-- A write to the common header. -/
def writeHead (s : State) (b : Block) (page off value : Nat) : State :=
  if off = 0x008 then revertWrite s b page value
  else if off = 0x010 then
    let token := BitVec.ofNat 16 value
    if deadPage s b then commitDead s b page token
    else if token = 0 then commitWrite s page token
    else fencesAfter (commitWrite s page token) b page
  else if off = 0x014 then errWrite s page value
  else s

/-! ### Writes of block registers -/

/-- The words of a byte string, little-endian. -/
def wordsOf (bs : Bytes) (n : Nat) : List Word := (List.range n).map (fun i => BitVec.ofNat 32 (word bs i))

/-- What a write of an index register latches (R190, R319, R388, R483, R509), and what a new HOST_RD judges again (R275). -/
def latchIndex (s : State) (b : Block) (page off value : Nat) : State :=
  match b with
  | .pressP p => if off = 0x05C then s.modPart p (fun x => { x with ptEntry := BitVec.ofNat 64 (pteWord (s.pte p (value % 2 ^ 32))) }) else s
  | .instar =>
    if off = 0x044 then { s with plans := { s.plans with instarEntry := wordsOf (instarBytes (s.instarAt (bits value 11 0))) 8 } } else s
  | .st => if off = 0x05C then latchStCore s (bits value 5 0) else s
  | .sieve => if 0x098 ≤ off ∧ (off - 0x098) % 0x40 = 0 then judgeOvers s ((off - 0x098) / 0x40) value else s
  | .pwr => if off = 0x088 then setLatch s (addr page 0x08C) (pwrPairWord s (bits value 4 0)) else s
  | .stally =>
    if off = 0x04C then
      let (a, c) := match (s.stally (bits value 11 0)).counts with | e :: _ => e | [] => (0, 0)
      setLatch (setLatch s (addr page 0x050) a) (addr page 0x054) c
    else s
  | _ => s

/-- A counter clear: with the maxima that clear with the counters (R320, R362). -/
def clearWrite (s : State) (b : Block) (page : Nat) : State :=
  let s := (accountPage s b).clearCounters page
  match b with
  | .part p => s.modPart p (fun x => { x with buildMax := 0, finishMax := 0 })
  | .proof => { s with safety := { s.safety with proofMax := 0 } }
  | _ => s

/-- TALLY_W_ADD (R323). -/
def tallyWrite (s : State) (p value : Nat) : State :=
  let t := bits value 31 16
  let n := bits value 15 0
  if bits (s.partReg p 0x050) 15 0 ≤ t ∨ n = 0 then s.pageErr (pgTally p) 1 0x5046 0x044 else settleUnits (hostAdd s p t n)

/-- VAT_CH_CMD (R225, R229). -/
def chanCmd (s : State) (n value : Nat) : State :=
  let s := if bit value 0 then s.clearCounters (pgChan n) else s
  if bit value 1 then endOp s n else s

/-- A write-only register: a command of its block. -/
def commandWrite (s : State) (w : Sender) (b : Block) (off value : Nat) : State :=
  match b with
  | .dev =>
    if off = 0x05C then claimCmd s w value
    else if off = 0x068 then { s with link := { s.link with hbAt := s.clk.dev } }
    else s
  | .boot => if off = 0x050 then bootCmdWrite s value else s
  | .proc i => if off = 0x048 then procCmdWrite s i value else s
  | .chan n => if off = 0x06C then chanCmd s n value else s
  | .part p => if off = 0x068 then partCmdWrite s p value else s
  | .tallyW p => if off = 0x044 then tallyWrite s p value else s
  | .safe => if off = 0x068 then safeCmdWrite s value else s
  | .st => if off = 0x048 then stCmdWrite s value else s
  | _ => s

/-- A write beyond the common header: RO and reserved offsets ignore it (R9, R397). A page that is off in recovery keeps its reset
values and refuses commands (R443). -/
def writeBlock (s : State) (w : Sender) (b : Block) (page off value : Nat) : State :=
  match accOf b off with
  | .rw => if deadPage s b then s else latchIndex (s.setForce (regKey s b page off) value) b page off value
  | .rws => if deadPage s b then s else s.setShadow (regKey s b page off) value
  | .wo =>
    if clearOff b = some off then (if bit value 0 then clearWrite s b page else s)
    else if deadPage s b then s.pageErr page 2 0x7015 value
    else commandWrite s w b off value
  | _ => s

/-- Registers that are written with any session (R405): DEV_CLAIM_VER and DEV_CLAIM. -/
def anySession (b : Block) (off : Nat) : Bool := b == .dev && (off == 0x058 || off == 0x05C)

/-- WRITE of a register address (R394–R397, R405, R417). -/
def regWrite (s : State) (w : Sender) (a value : Nat) : State × RegAnswer :=
  if 2 ^ 28 ≤ a ∨ a % 4 ≠ 0 then (s, ⟨3, 0x9002⟩)
  else
    let page := a / 4096
    let off := a % 4096
    match blockOf page with
    | none => (s, ⟨2, 0x9001⟩)
    | some (b, _) =>
      if pageBusy s page then (s.bump pgHost 0x0A8 1, ⟨1, 0x9004⟩)
      else if !(anySession b off || currentSession s w.session) then (s, ⟨4, 0x9003⟩)
      else if fusedPage s b then (s, ⟨5, 0x9008⟩)
      else (if off < 0x040 then writeHead s b page off value else writeBlock s w b page off value, ⟨0, value % 2 ^ 32⟩)

/-! ### Commands that are one register write -/

/-- Whether the host link answers: from HOST_READY on, and in recovery (R440, R443). -/
def hostUp (s : State) : Bool := s.phase == .up || s.phase == .recovery

/-- A register write of the host at this instant; its answer is part of REG_REQ. -/
def hostWrite (s : State) (w : Sender) (page off value : Nat) : State :=
  if hostUp s then (regWrite (settleLink s) w (addr page off) value).1 else s

/-- A sender that states no session. -/
def anyone (port : Fin 2) : Sender := ⟨port, 0⟩

/-- END on VAT_CH_CMD. -/
def execEndHold (t : Nat) (w : Sender) (ch : Fin 32) (s : State) : Host.Outcome State Fault Refusal :=
  .next (hostWrite (atTime t s) w (pgChan ch.val) 0x06C 2)
/-- SAFE_CLEAR: CLEAR on SAFE_CMD. -/
def execSafeClear (t : Nat) (w : Sender) (pmask : BitVec 8) (s : State) : Host.Outcome State Fault Refusal :=
  .next (hostWrite (atTime t s) w pgSafe 0x068 (pmask.toNat * 256 + 1))
/-- ST_VERIFY. -/
def execStVerify (t : Nat) (w : Sender) (s : State) : Host.Outcome State Fault Refusal := .next (hostWrite (atTime t s) w pgSt 0x048 1)
/-- ST_ACTIVATE. -/
def execStActivate (t : Nat) (w : Sender) (s : State) : Host.Outcome State Fault Refusal := .next (hostWrite (atTime t s) w pgSt 0x048 2)
/-- DISCARD. -/
def execDiscard (t : Nat) (w : Sender) (s : State) : Host.Outcome State Fault Refusal := .next (hostWrite (atTime t s) w pgSt 0x048 3)
/-- ST_FENCE: the core in ST_ARG. -/
def execStFence (t : Nat) (w : Sender) (s : State) : Host.Outcome State Fault Refusal := .next (hostWrite (atTime t s) w pgSt 0x048 4)
/-- TAKEOVER. -/
def execTakeover (t : Nat) (port : Fin 2) (s : State) : Host.Outcome State Fault Refusal :=
  .next (hostWrite (atTime t s) (anyone port) pgDev 0x05C (3 * 2 ^ 28))
/-- RELEASE. -/
def execRelease (t : Nat) (w : Sender) (s : State) : Host.Outcome State Fault Refusal :=
  .next (hostWrite (atTime t s) w pgDev 0x05C (2 * 2 ^ 28))
/-- HEARTBEAT: a write of any value to DEV_HB. -/
def execHeartbeat (t : Nat) (w : Sender) (value : Word) (s : State) : Host.Outcome State Fault Refusal :=
  .next (hostWrite (atTime t s) w pgDev 0x068 value.toNat)
/-- HEARTBEAT_TIMEOUT. -/
def execHeartbeatTimeout (t : Nat) (s : State) : Host.Outcome State Fault Refusal := .next (orphanOp (atTime t s))
/-- PAGE_COMMIT. -/
def execPageCommit (t : Nat) (w : Sender) (page : Nat) (token : BitVec 16) (s : State) : Host.Outcome State Fault Refusal :=
  .next (hostWrite (atTime t s) w page 0x010 token.toNat)
/-- COMMIT_SAFE_POINT: of a page that is on. -/
def execCommitSafePoint (t : Nat) (page : Nat) (s : State) : Host.Outcome State Fault Refusal :=
  let s := atTime t s
  .next (match blockOf page with
    | some (b, _) => if hostUp s && !deadPage s b && !pageBusy s page && (s.hdrOf page).cstate == .pending then fencesAfter (commitSafePoint s page) b page
      else s
    | none => s)
/-- REVERT. -/
def execRevert (t : Nat) (w : Sender) (page : Nat) (s : State) : Host.Outcome State Fault Refusal :=
  .next (hostWrite (atTime t s) w page 0x008 1)
/-- PAGE_ERR_CLEAR. -/
def execPageErrClear (t : Nat) (w : Sender) (page : Nat) (s : State) : Host.Outcome State Fault Refusal :=
  .next (hostWrite (atTime t s) w page 0x014 (2 ^ 31))
/-- Offset of the register whose bit 0 clears a page's counters. -/
def clearRegister (b : Block) : Option Nat := match b with | .chan _ => some 0x06C | _ => clearOff b
/-- COUNTER_CLEAR: a page without counters has no such register. -/
def execCounterClear (t : Nat) (w : Sender) (page : Nat) (s : State) : Host.Outcome State Fault Refusal :=
  let s := atTime t s
  .next (match blockOf page with
    | some (b, _) => match clearRegister b with
      | some off => hostWrite s w page off 1
      | none => s
    | none => s)
/-- PT_INDEX_LATCH. -/
def execPtIndexLatch (t : Nat) (w : Sender) (p : Fin 8) (vpn : Word) (s : State) : Host.Outcome State Fault Refusal :=
  .next (hostWrite (atTime t s) w (pgPressP p.val) 0x05C vpn.toNat)
/-- INSTAR_INDEX_LATCH. -/
def execInstarIndexLatch (t : Nat) (w : Sender) (index : BitVec 12) (s : State) : Host.Outcome State Fault Refusal :=
  .next (hostWrite (atTime t s) w pgInstar 0x044 index.toNat)
/-- ST_INDEX_LATCH. -/
def execStIndexLatch (t : Nat) (w : Sender) (core : BitVec 6) (s : State) : Host.Outcome State Fault Refusal :=
  .next (hostWrite (atTime t s) w pgSt 0x05C core.toNat)
/-- PWR_PAIR_INDEX_LATCH. -/
def execPwrPairIndexLatch (t : Nat) (w : Sender) (pair : BitVec 5) (s : State) : Host.Outcome State Fault Refusal :=
  .next (hostWrite (atTime t s) w pgPwr 0x088 pair.toNat)
/-- STALLY_INDEX_LATCH. -/
def execStallyIndexLatch (t : Nat) (w : Sender) (index : BitVec 12) (s : State) : Host.Outcome State Fault Refusal :=
  .next (hostWrite (atTime t s) w pgStally 0x04C index.toNat)
/-- TALLY_W_ADD. -/
def execTallyWAdd (t : Nat) (w : Sender) (p : Fin 8) (value : Word) (s : State) : Host.Outcome State Fault Refusal :=
  .next (hostWrite (atTime t s) w (pgTally p.val) 0x044 value.toNat)
/-- SIEVE_HOST_RD_WRITE. -/
def execSieveHostRdWrite (t : Nat) (w : Sender) (p : Fin 8) (value : Word) (s : State) : Host.Outcome State Fault Refusal :=
  .next (hostWrite (atTime t s) w pgSieve (0x098 + 0x40 * p.val) value.toNat)
/-- LOAD, with the arguments that stand in PART_ARG0 and PART_ARG1. -/
def execLoad (t : Nat) (w : Sender) (p : Fin 8) (s : State) : Host.Outcome State Fault Refusal :=
  .next (hostWrite (atTime t s) w (pgPart p.val) 0x068 1)
/-- UNLOAD. -/
def execUnload (t : Nat) (w : Sender) (p : Fin 8) (s : State) : Host.Outcome State Fault Refusal :=
  .next (hostWrite (atTime t s) w (pgPart p.val) 0x068 2)
/-- LAUNCH. -/
def execLaunch (t : Nat) (w : Sender) (p : Fin 8) (s : State) : Host.Outcome State Fault Refusal :=
  .next (hostWrite (atTime t s) w (pgPart p.val) 0x068 3)
/-- STOP. -/
def execStop (t : Nat) (w : Sender) (p : Fin 8) (s : State) : Host.Outcome State Fault Refusal :=
  .next (hostWrite (atTime t s) w (pgPart p.val) 0x068 4)
/-- SEQ_OPEN. -/
def execSeqOpen (t : Nat) (w : Sender) (p : Fin 8) (s : State) : Host.Outcome State Fault Refusal :=
  .next (hostWrite (atTime t s) w (pgPart p.val) 0x068 5)
/-- SEQ_RETIRE. -/
def execSeqRetire (t : Nat) (w : Sender) (p : Fin 8) (s : State) : Host.Outcome State Fault Refusal :=
  .next (hostWrite (atTime t s) w (pgPart p.val) 0x068 6)
/-- VERIFY, with the argument that stands in BOOT_ARG. -/
def execVerify (t : Nat) (w : Sender) (s : State) : Host.Outcome State Fault Refusal := .next (hostWrite (atTime t s) w pgBoot 0x050 1)
/-- ACTIVATE. -/
def execActivate (t : Nat) (w : Sender) (s : State) : Host.Outcome State Fault Refusal := .next (hostWrite (atTime t s) w pgBoot 0x050 2)
/-- CANCEL. -/
def execCancel (t : Nat) (w : Sender) (s : State) : Host.Outcome State Fault Refusal := .next (hostWrite (atTime t s) w pgBoot 0x050 3)
/-- START. -/
def execStart (t : Nat) (w : Sender) (s : State) : Host.Outcome State Fault Refusal := .next (hostWrite (atTime t s) w pgBoot 0x050 4)
/-- SLEEP. -/
def execSleep (t : Nat) (w : Sender) (s : State) : Host.Outcome State Fault Refusal := .next (hostWrite (atTime t s) w pgBoot 0x050 5)
/-- SEC_BURN. -/
def execSecBurn (t : Nat) (w : Sender) (s : State) : Host.Outcome State Fault Refusal := .next (hostWrite (atTime t s) w pgBoot 0x050 6)
/-- RESTART on PROC_CMD. -/
def execRestart (t : Nat) (w : Sender) (proc : Fin 3) (dump : Bool) (s : State) : Host.Outcome State Fault Refusal :=
  .next (hostWrite (atTime t s) w (pgProc proc.val) 0x048 (1 + 16 * b2n dump))

end Sys2Proof.Machine
end

