-- ==== Sys2Proof/Machine/HostLink.lean ====
section
/-! DEFINITION. Host frames (R390–R393), register requests (R394–R399) and bulk windows (R400–R404).
Readings: log entry 32 (DEDUCED), log entry 33 (DEDUCED), log entry 35 (DEDUCED), log entry 40 (PRESUMED). -/

namespace Sys2Proof.Machine

/-! ### Frames -/

/-- Settings of a host port in force (R422). -/
def portWord (s : State) (port : Nat) : Nat := s.inForce (addr pgHost (0x050 + 4 * port))
/-- Data bytes of a bulk frame at most (R400, R422). -/
def bulkMax (s : State) (port : Nat) : Nat := if bit (portWord s port) 30 then 8896 else 1408
/-- The tag of the frames a port sends: PCP and VID. -/
def portTag (s : State) (port : Nat) : Option (Nat × Nat) :=
  let r := portWord s port
  if bit r 29 then some (bits r 15 13, bits r 11 0) else none

/-- A good host frame: TYPE, FLAGS, TAG, SESSION and payload (R392). -/
structure HostReq where
  typ : Nat
  flags : Nat
  tag : Nat
  session : Nat
  payload : Bytes
deriving DecidableEq, Repr

/-- What becomes of a frame at H0 or H1. -/
inductive HostRx where
  /-- the port is off, or the frame is for the time engine -/
  | ignored
  /-- PORT_CNT_FCS (R525) -/
  | garbled
  /-- HOST_CNT_DROP (R390) -/
  | dropped
  /-- HOST_CNT_BADCRC (R393) -/
  | bad
  | good (r : HostReq)
deriving DecidableEq, Repr

/-- Whether a port takes frames with this tag: exactly tagged frames with VID when VLAN_EN = 1, untagged ones otherwise. -/
def tagFits (r : Nat) (vid : Option (BitVec 12)) : Bool :=
  match vid with
  | none => !bit r 29
  | some v => bit r 29 && v.toNat == bits r 11 0

/-- The header and the checks of R393. A payload padded to Ethernet's 46 bytes matches a shorter frame (PRESUMED, log entry 40). -/
def parseHost (p : Bytes) : HostRx :=
  let n := be p 12 2
  let body := p.take (16 + n)
  if p.length < 20 ∨ (p.length ≠ 20 + n ∧ ¬(20 + n < 46 ∧ p.length = 46)) ∨ be p 0 1 ≠ 1 ∨ be p (16 + n) 4 ≠ crc32c body then .bad
  else .good ⟨be p 1 1, be p 2 1, be p 4 4, be p 8 4, slice p 16 n⟩

/-- Classify a frame. -/
def hostRx (s : State) (port : Nat) (f : HostFrame) : HostRx :=
  let r := portWord s port
  if !hostUp s || !portOn s (8 + port) then .ignored
  else if !f.fcsOk then .garbled
  else if f.ethertype == 0x88F7 then .ignored
  else if f.ethertype ≠ 0x88B5 ∨ bit r 31 = false ∨ tagFits r f.vid = false ∨ 9000 < f.payload.length then .dropped
  else if bit r 30 = false ∧ 1500 < f.payload.length then
    -- without JUMBO only a BULK_WRITE is taken so long, to be answered with 0x9009 (R422)
    match parseHost f.payload with
    | .good q => if q.typ = 5 then .good q else .dropped
    | _ => .dropped
  else parseHost f.payload

/-- A frame of the TK1 (R392). -/
def hostFrame (typ flags tag session code : Nat) (payload : Bytes) : Bytes :=
  let b := toBE 1 1 ++ toBE 1 typ ++ toBE 1 flags ++ toBE 1 0 ++ toBE 4 tag ++ toBE 4 session ++ toBE 2 payload.length ++ toBE 2 code ++ payload
  b ++ toBE 4 (crc32c b)

/-- Send an answer on the port of the request, to its source address (R390). -/
def hostSend (s : State) (port : Nat) (dst : BitVec 48) (tag : Option (Nat × Nat)) (frame : Bytes) : State :=
  ((s.emit (.host port dst tag frame)).bump pgHost 0x088 1).bump (pgPort (8 + port)) 0x058 1

/-- Keep an answer: the last 16 of a port (R398), newest first. -/
def keepAnswer (l : List (Nat × Kept)) (port : Nat) (k : Kept) : List (Nat × Kept) :=
  (port, k) :: (l.filter (fun e => e.1 == port)).take 15 ++ l.filter (fun e => e.1 != port)
/-- The kept answer of a request. -/
def keptAnswer (l : List (Nat × Kept)) (port : Nat) (r : HostReq) : Option Bytes :=
  (l.find? (fun e => e.1 == port && e.2.tag.toNat == r.tag && e.2.session.toNat == r.session)).map (fun e => e.2.answer)

/-! ### Register requests -/

/-- One operation of a REG_REQ and its answer (R394–R396). -/
def regOperation (s : State) (w : Sender) (op : Bytes) : State × Bytes × Bool :=
  let a := be op 4 4
  let v := be op 8 4
  let (s, r) : State × RegAnswer :=
    if be op 0 1 = 1 then regRead s a
    else if be op 0 1 = 2 then regWrite s w a v
    else (s, ⟨3, 0x9002⟩)
  (s, toBE 1 (be op 0 1) ++ toBE 1 r.result ++ toBE 2 0 ++ toBE 4 a ++ toBE 4 r.data, r.result == 0)

/-- The answer of an operation that is not performed (R395). -/
def skippedOp (op : Bytes) : Bytes := toBE 1 (be op 0 1) ++ toBE 1 6 ++ toBE 2 0 ++ toBE 4 (be op 4 4) ++ toBE 4 0

/-- The operations of a request in order. Those after one that ends the host link are not performed. -/
def regOperations (w : Sender) (stop : Bool) : List Bytes → State → Bool → State × Bytes
  | [], s, _ => (s, [])
  | op :: rest, s, failed =>
    if (failed && stop) || !hostUp s then
      let (s, a) := regOperations w stop rest s failed
      (s, skippedOp op ++ a)
    else
      let (s, x, ok) := regOperation s w op
      let (s, a) := regOperations w stop rest s (failed || !ok)
      (s, x ++ a)

/-- The operations of a payload. -/
def opsOf (p : Bytes) : List Bytes := (List.range (p.length / 12)).map (fun i => slice p (12 * i) 12)

/-- Whether a payload fits REG_REQ. -/
def regFits (p : Bytes) : Bool := p.length % 12 == 0 && decide (12 ≤ p.length) && decide (p.length ≤ 768)

/-- Keep and send the answer of a REG_REQ; a start that the request began keeps nothing. -/
def answerReg (s : State) (port : Nat) (f : HostFrame) (tag : Option (Nat × Nat)) (r : HostReq) (frame : Bytes) : State :=
  let s := if hostUp s then
      { s with link := { s.link with kept := keepAnswer s.link.kept port ⟨BitVec.ofNat 32 r.tag, BitVec.ofNat 32 r.session, frame⟩ } }
    else s
  hostSend s port f.src tag frame

/-- A good REG_REQ (R394–R398). -/
def regRequest (s : State) (port : Fin 2) (f : HostFrame) (r : HostReq) : State :=
  let tag := portTag s port.val
  match keptAnswer s.link.kept port.val r with
  | some a => hostSend (s.bump pgHost 0x090 1) port.val f.src tag a
  | none =>
    if regFits r.payload then
      let (s, a) := regOperations ⟨port, BitVec.ofNat 32 r.session⟩ (bit r.flags 0) (opsOf r.payload) (settleLink s) false
      answerReg s port.val f tag r (hostFrame 0x02 0 r.tag r.session 0 a)
    else answerReg s port.val f tag r (hostFrame 0x02 0 r.tag r.session 0x9009 [])

/-! ### Bulk windows -/

/-- The bulk header (R400). -/
structure BulkHdr where
  window : Nat
  sel : Nat
  count : Nat
  offset : Nat
deriving DecidableEq, Repr

def parseBulk (p : Bytes) : BulkHdr := ⟨be p 0 1, be p 1 1, be p 4 4, be p 8 8⟩
def bulkBytes (b : BulkHdr) : Bytes := toBE 1 b.window ++ toBE 1 b.sel ++ toBE 2 0 ++ toBE 4 b.count ++ toBE 8 b.offset

/-- Number of selectors and size of a window; none where it is reserved, or does not work in recovery (R401, R443). -/
def windowSize (s : State) (w : Nat) : Option (Nat × Nat) :=
  if w = 0 then (if s.phase = .recovery then none else some (1, 2 ^ 29))
  else if w = 1 then (if s.phase = .recovery then none else some (8, 2 ^ 48))
  else if w = 2 then some (1, 2 ^ 28)
  else if w = 3 then some (3, 2 ^ 18)
  else none

/-- Whether a range touches a page of a region of the partition (R401, R402). -/
def touchesRegion (s : State) (p off n : Nat) : Bool :=
  (s.part p).ptes.any (fun e => e.2.valid && decide (e.1 < 2 ^ 32) && decide (off < (e.1 + 1) * 65536) && decide (e.1 * 65536 < off + n))

/-- One byte of a flash offset: the dump ring holds the dumps copied (R426, R452). -/
def flashByte (s : State) (off : Nat) : Byte :=
  if 0x0C500000 ≤ off ∧ off < 0x0CD00000 then
    match s.boot.dumpRing.lookup ((off - 0x0C500000) / 262144) with
    | some d => dumpByte d ((off - 0x0C500000) % 262144)
    | none => 0xFF
  else s.rd (flashBase + off)

/-- One byte of window 1: through the page table, where the page now lies; 0 where not VALID or poisoned (R402). -/
def windowByte (s : State) (p va : Nat) : Byte :=
  let e := s.pte p (va / 65536)
  if e.valid && !e.poison then pageByte s e va else 0

/-- One byte of window 3; a dump SRAM without a dump holds free values. -/
def dumpSramByte (s : State) (i off : Nat) : Byte :=
  match (s.proc i).dump with
  | some d => dumpByte d off
  | none => BitVec.ofNat 8 (Config.free (2 ^ 64 * (s.fresh + 1) + off))

/-- A byte of a window. -/
def bulkByte (s : State) (b : BulkHdr) (off : Nat) : Byte :=
  if b.window = 0 then s.rd (dramFrame 4096 + off)
  else if b.window = 1 then windowByte s b.sel off
  else if b.window = 2 then flashByte s off
  else dumpSramByte s b.sel off

/-- Why a bulk range cannot be reached (R401). -/
def rangeCode (s : State) (b : BulkHdr) : Option Nat :=
  match windowSize s b.window with
  | none => some 0x9020
  | some (sels, size) =>
    if sels ≤ b.sel then some 0x9020
    else if size < b.offset + b.count ∨ (b.window = 1 ∧ touchesRegion s b.sel b.offset b.count = false) then some 0x9021
    else none

/-- The frames of a read: data in pieces of at most m bytes, LAST in the last (R403). -/
def dataFrames (m : Nat) (r : HostReq) (b : BulkHdr) : Nat → Nat → Bytes → List Bytes
  | 0, _, _ => []
  | n + 1, off, d =>
    let piece := d.take m
    let rest := d.drop m
    hostFrame 0x04 (if rest.isEmpty then 2 else 0) r.tag r.session 0 (bulkBytes { b with count := piece.length, offset := off } ++ piece)
      :: (if rest.isEmpty then [] else dataFrames m r b n (off + piece.length) rest)

/-- BULK_READs of a port and session that are outstanding now. -/
def readsOut (s : State) (port session : Nat) : Nat :=
  (s.link.reads.filter (fun e => e.1 == port && e.2.1 == session && decide (s.clk.clock ≤ e.2.2))).length

/-- A good BULK_READ (R400–R404): its data are those of this instant; how long it stays outstanding, until its last BULK_DATA frame has left, is open
(a free value: DEDUCED, log entry 35). -/
def bulkReadOp (s : State) (port : Nat) (f : HostFrame) (r : HostReq) : State :=
  let tag := portTag s port
  let s := settleLink s
  let b := parseBulk r.payload
  let fail (code : Nat) (body : Bytes) : State := hostSend s port f.src tag (hostFrame 0x04 2 r.tag r.session code body)
  if r.payload.length ≠ 16 ∨ b.count % 4 ≠ 0 ∨ b.count < 4 ∨ 2 ^ 22 < b.count ∨ b.offset % 4 ≠ 0 then fail 0x9009 (bulkBytes { b with count := 0 })
  else if 4 ≤ readsOut s port r.session then fail 0x9024 (bulkBytes { b with count := 0 })
  else match rangeCode s b with
    | some code => fail code (bulkBytes { b with count := 0 })
    | none =>
      let d := (List.range b.count).map (fun i => bulkByte s b (b.offset + i))
      let s := { s with link := { s.link with
        reads := s.link.reads.filter (fun (e : Nat × Nat × Nat) => decide (s.clk.clock ≤ e.2.2)) ++ [(port, r.session, s.clk.clock + s.freeVal (2 ^ 32))] } }
      let s := sysAccess s.tick
      let frames := dataFrames (bulkMax s port) r b b.count b.offset d
      let s := frames.foldl (fun s x => hostSend s port f.src tag x) s
      s.tick.bump pgHost 0x0B8 b.count

/-- Whether a range of flash is writable by the host (R426). -/
def flashWritable (s : State) (off n : Nat) : Bool :=
  let inside (base size : Nat) : Bool := decide (base ≤ off) && decide (off + n ≤ base + size)
  let recov := s.phase == .recovery
  let x := s.boot
  let named (b : Bool) : Bool := match x.busy with | some (_, a) => bit a.toNat 0 == b | none => false
  let slotOk (b : Bool) : Bool := !named b && (recov || (b != x.running && b != x.preferred && !(x.activate.isSome && b != x.running)))
  (inside 0x00100000 0x02000000 && slotOk false) || (inside 0x02100000 0x02000000 && slotOk true)
  || (List.range 2).any (fun k => inside (0x04100000 + k * 0x200000) 0x200000 && (recov || k != x.configCopy))
  || (List.range 2).any (fun k => inside (0x04500000 + k * 0x04000000) 0x04000000 && !recov && k != s.selftest.activeBank && s.selftest.staged != 1)

/-- Why a bulk write cannot be made (R401, R403): the window, the range, then the order within a sector. -/
def bulkWriteCode (s : State) (b : BulkHdr) : Option Nat :=
  match windowSize s b.window with
  | none => some 0x9020
  | some (sels, size) =>
    if sels ≤ b.sel then some 0x9020
    else if size < b.offset + b.count then some 0x9021
    else if b.window = 0 then none
    else if b.window = 2 then
      if flashWritable s b.offset b.count = false then some 0x9022
      else if b.offset % 65536 ≠ 0 ∧ s.link.flashNext.elem b.offset = false then some 0x9023
      else none
    else some 0x9022

/-- Sectors that a range begins in or passes into from their first byte. -/
def sectorStarts (off n : Nat) : List Nat :=
  ((List.range (n / 65536 + 2)).map (fun k => (off / 65536 + k) * 65536)).filter (fun a => decide (off ≤ a) && decide (a < off + n))

/-- Where the sectors partly written go on after a frame. -/
def flashAdvance (l : List Nat) (off n : Nat) : List Nat :=
  if n = 0 then l
  else
    let last := off + n
    let keep := l.filter (fun a => a / 65536 < off / 65536 || decide ((last - 1) / 65536 < a / 65536))
    if last % 65536 = 0 then keep else last :: keep

/-- A write to a firmware slot: a VERIFIED slot becomes UNVERIFIED (R455). -/
def noteSlotWrite (s : State) (off : Nat) : State :=
  if 0x00100000 ≤ off ∧ off < 0x04100000 then
    let b := decide (0x02100000 ≤ off)
    let s := if slotSt s b = .verified then setSlotSt s b .unverified else s
    { s with boot := { s.boot with failedMark := if s.boot.failedMark = some b then none else s.boot.failedMark } }
  else s

/-- Keep and send a BULK_ACK. -/
def answerBulk (s : State) (port : Nat) (f : HostFrame) (r : HostReq) (code : Nat) (body : Bytes) : State :=
  let frame := hostFrame 0x06 0 r.tag r.session code body
  let s := { s with link := { s.link with
    keptBulk := keepAnswer s.link.keptBulk port ⟨BitVec.ofNat 32 r.tag, BitVec.ofNat 32 r.session, frame⟩ } }
  hostSend s port f.src (portTag s port) frame

/-- Window 2 frames of a port and session that wait for the flash. -/
def waitingFor (s : State) (port : Nat) (same : HostReq → Bool) : List (Nat × HostFrame) :=
  s.link.flashWait.filter (fun e => e.1 == port && (match parseHost e.2.payload with | .good r => same r | _ => false))

/-- A good BULK_WRITE (R400–R405). -/
def bulkWriteOp (s : State) (port : Nat) (f : HostFrame) (r : HostReq) : State :=
  match keptAnswer s.link.keptBulk port r with
  | some a => hostSend (s.bump pgHost 0x090 1) port f.src (portTag s port) a
  | none =>
    if !(waitingFor s port (fun q => q.tag == r.tag && q.session == r.session)).isEmpty then s.bump pgHost 0x090 1
    else
      let s := settleLink s
      let b := parseBulk r.payload
      let d := r.payload.drop 16
      if r.payload.length < 16 ∨ b.count % 4 ≠ 0 ∨ b.offset % 4 ≠ 0 ∨ d.length ≠ b.count ∨ bulkMax s port < b.count then
        answerBulk s port f r 0x9009 (bulkBytes { b with count := 0 })
      else if 16 ≤ (waitingFor s port (fun q => q.session == r.session)).length then answerBulk s port f r 0x9024 (bulkBytes { b with count := 0 })
      else if currentSession s (BitVec.ofNat 32 r.session) = false then answerBulk s port f r 0x9003 (bulkBytes { b with count := 0 })
      else match bulkWriteCode s b with
        | some code => answerBulk s port f r code (bulkBytes { b with count := 0 })
        | none =>
          if b.window = 0 then
            answerBulk (((sysAccess s).wrN (dramFrame 4096 + b.offset) d).bump pgHost 0x0B0 b.count) port f r 0 (bulkBytes b)
          else
            noteSlotWrite { s with link := { s.link with
              flashWait := s.link.flashWait ++ [(port, f)], flashNext := flashAdvance s.link.flashNext b.offset b.count } } b.offset

/-- FLASH_PROGRAM_COMPLETE (R403): the oldest waiting frame's bytes are programmed, the sectors it begins erased first; its BULK_ACK
leaves. MP programs the flash, in recovery the ROM (R448, R450). -/
def flashDoneOp (s : State) : State :=
  match s.link.flashWait with
  | [] => s
  | (port, f) :: rest =>
    if !(s.phase == .recovery || (s.phase == .up && mpUp s)) then s
    else
      let s := { s with link := { s.link with flashWait := rest } }
      match parseHost f.payload with
      | .good r =>
        let b := parseBulk r.payload
        let s := (sectorStarts b.offset b.count).foldl (fun s a => s.wipe (flashBase + a) 65536) s
        let s := noteSlotWrite (s.wrN (flashBase + b.offset) (r.payload.drop 16)) b.offset
        answerBulk (s.bump pgHost 0x0B0 b.count) port f r 0 (bulkBytes b)
      | _ => s

/-! ### Commands -/

/-- A good frame of a TYPE is counted as received and as a request. -/
def countRx (s : State) (port : Nat) (counted : Bool) : State :=
  let s := s.bump (pgPort (8 + port)) 0x050 1
  if counted then s.bump pgHost 0x080 1 else s

/-- A frame whose FCS is bad is discarded and counted (R525). -/
def garbled (s : State) (port : Nat) : State := (countRx s port false).bump (pgPort (8 + port)) 0x060 1

/-- A frame of one TYPE. -/
def onFrame (s : State) (port : Nat) (f : HostFrame) (typ : Nat) (act : State → HostReq → State) : State :=
  match hostRx s port f with
  | .good r => if r.typ = typ then act (countRx s port true) r else s
  | .garbled => garbled s port
  | _ => s

/-- HOST_FRAME_DROP (R390, R393). -/
def dropOp (s : State) (port : Nat) (f : HostFrame) : State :=
  match hostRx s port f with
  | .ignored => s
  | .garbled => garbled s port
  | .dropped => (countRx s port false).bump pgHost 0x0A0 1
  | .bad => (countRx s port false).bump pgHost 0x098 1
  | .good r =>
    if r.typ = 1 ∨ r.typ = 3 ∨ r.typ = 5 then s
    else hostSend (countRx s port true) port f.src (portTag s port) (hostFrame 0x02 0 r.tag r.session 0x9009 [])

/-- A REG_REQ at a port. -/
def regReqOp (s : State) (port : Fin 2) (f : HostFrame) : State := onFrame s port.val f 1 (fun s r => regRequest s port f r)

/-- A CLAIM or TAKEOVER written to DEV_CLAIM at a port. -/
def claimWrite (s : State) (port : Fin 2) (takeover reset : Bool) : State :=
  hostWrite s (anyone port) pgDev 0x05C ((if takeover then 3 else 1) * 2 ^ 28 + (if reset then 2 ^ 27 else 0))

/-- Whether H0 has a session or its claim's reset in a state. -/
def h0Has (s : State) : Bool := (s.link.host == .claimed && s.link.port == 0) || s.link.resetting == some 0

/-- Whether a CLAIM on H0 waits for the same instant that is granted when it runs first (R411). -/
def h0Claims (s : State) (t : Nat) : Bool :=
  s.link.host != .claimed && s.link.resetting.isNone && s.pending.any (fun c => match c with
    | .claim u port => u == t && port.val == 0 && h0Has (claimWrite s port false false)
    | .claimReset u port takeover => u == t && port.val == 0 && !takeover && h0Has (claimWrite s port false true)
    | .regReq u port f => u == t && port.val == 0 && h0Has (regReqOp s port f)
    | _ => false)

/-- Of two CLAIMs of one cycle H0's is granted, whichever stands first in the queue (R411; DEDUCED, log entry 67). -/
def besideH0 (s : State) (t : Nat) (port : Fin 2) (op : State → State) : State :=
  if port.val = 1 ∧ h0Claims s t = true then
    let s' := op { s with link := { s.link with h0First := true } }
    { s' with link := { s'.link with h0First := s.link.h0First } }
  else op s

/-- CLAIM. -/
def execClaim (t : Nat) (port : Fin 2) (s : State) : Host.Outcome State Fault Refusal :=
  .next (besideH0 (atTime t s) t port (fun s => claimWrite s port false false))
/-- CLAIM_RESET: CLAIM or TAKEOVER with RESET = 1. -/
def execClaimReset (t : Nat) (port : Fin 2) (takeover : Bool) (s : State) : Host.Outcome State Fault Refusal :=
  .next (besideH0 (atTime t s) t port (fun s => claimWrite s port takeover true))
/-- REG_REQ. -/
def execRegReq (t : Nat) (port : Fin 2) (f : HostFrame) (s : State) : Host.Outcome State Fault Refusal :=
  .next (besideH0 (atTime t s) t port (fun s => regReqOp s port f))
/-- BULK_READ. -/
def execBulkRead (t : Nat) (port : Fin 2) (f : HostFrame) (s : State) : Host.Outcome State Fault Refusal :=
  .next (onFrame (atTime t s) port.val f 3 (fun s r => bulkReadOp s port.val f r))
/-- BULK_WRITE. -/
def execBulkWrite (t : Nat) (port : Fin 2) (f : HostFrame) (s : State) : Host.Outcome State Fault Refusal :=
  .next (onFrame (atTime t s) port.val f 5 (fun s r => bulkWriteOp s port.val f r))
/-- FLASH_PROGRAM_COMPLETE. -/
def execFlashProgramComplete (t : Nat) (s : State) : Host.Outcome State Fault Refusal := .next (flashDoneOp (atTime t s))
/-- HOST_FRAME_DROP. -/
def execHostFrameDrop (t : Nat) (port : Fin 2) (f : HostFrame) (s : State) : Host.Outcome State Fault Refusal :=
  .next (dropOp (atTime t s) port.val f)

end Sys2Proof.Machine
end

