-- ==== Sys2Proof/Machine/VatRx.lean ====
section
/-! DEFINITION. The Vat's receive side: packets, frames and their checks (R193–R212), decoders (R215, R216), shaping stage by stage (R230)
and the handover write (R249).
Readings: log entry 12 (DESIGN CHOICE), log entry 26 (PRESUMED), log entry 49 (DEDUCED). -/

namespace Sys2Proof.Machine

/-! ### Ending a frame in receive -/

/-- A frame that has only begun to arrive, as it stands in its slot. -/
def receivingSlot (c : ChanCfg) (sh : ShapeCfg) : Slot :=
  { st := .receiving, holders := [], wm := ⟨0, 0, 0, 0, 0, 0, 0⟩, eofAt := 0, budgetFrom := 0, readyAt := none, cfg := c, shape := sh
    rtype := [], recv := [], pixels := [], decoded := none, working := [], colour := none, colourAt := 0, sample := none, corrupt := false }

/-- The frame in receive ends with a status: its slot is FREE, its later packets are discarded (R208, R210). -/
def endRx (s : State) (ch status : Nat) : State :=
  let x := s.chan ch
  match x.rx with
  | none => s
  | some r =>
    let x := { x with rx := none, discard := true }
    let x := match r.slot with | some k => setSlot x k none | none => x
    outcome (s.setChan ch x) ch status r.capture 0 true

/-- Change the frame in receive. -/
def State.modRx (s : State) (ch : Nat) (f : RxFrame → RxFrame) : State := let x := s.chan ch; s.setChan ch { x with rx := x.rx.map f }

/-- Check 3: a slot for the frame, or OVERRUN (R217). -/
def takeRxSlot (s : State) (ch : Nat) : State :=
  let x := s.chan ch
  match x.rx with
  | none => s
  | some r => match takeSlot x r.cfg.nslots with
    | none => endRx s ch 10
    | some k => s.setChan ch { setSlot x k (some (receivingSlot r.cfg r.shape)) with rx := some { r with slot := some k } }

/-! ### The end of a frame (R203, R206, R207, R211) -/

/-- Insert a frame into a queue by end of frame, the lower channel first of equals. -/
def insQueue (s : State) (ch k : Nat) : List (Nat × Nat) → List (Nat × Nat)
  | [] => [(ch, k)]
  | e :: r =>
    let eof (c j : Nat) : Nat := match s.slot c j with | some z => z.eofAt | none => 0
    if eof ch k < eof e.1 e.2 ∨ (eof ch k = eof e.1 e.2 ∧ ch < e.1) then (ch, k) :: e :: r else e :: insQueue s ch k r

/-- An accepted frame joins its queue; an older frame of the channel that still waits there becomes LATE_DROPPED (R215, R216). -/
def joinQueue (s : State) (ch k kind : Nat) : State :=
  if kind = 8 then s
  else if kind = 1 then
    let old := s.vat.decodeQ.filter (fun e => e.1 == ch)
    let s := old.foldl (fun s e => dropSlot s e.1 e.2 7) s
    let q := s.vat.decodeQ.filter (fun e => e.1 != ch)
    { s with vat := { s.vat with decodeQ := insQueue s ch k q } }
  else
    let old := s.vat.rawQ.filter (fun e => e.1 == ch)
    let s := old.foldl (fun s e => dropSlot s e.1 e.2 7) s
    let q := s.vat.rawQ.filter (fun e => e.1 != ch)
    { s with vat := { s.vat with rawQ := insQueue s ch k q } }

/-- The number of a frame accepted now: the next one, or in a cycle with frames of higher channels the lowest of theirs (R213; DEDUCED, log entry 67). -/
def nextDev (s : State) (ch : Nat) : Nat :=
  (s.vat.chans.flatMap (fun c => if ch < c.1 then c.2.slots.map (·.2) else [])).foldl (fun d z =>
    if z.wm.stage ≠ 0 ∧ z.eofAt = s.clk.clock then min d z.wm.devFrame else d) s.vat.devFrame

/-- The numbers from one on move up by one: the frames of higher channels accepted in this cycle (R213). -/
def shiftDev (x : ChanSt) (d : Nat) : ChanSt :=
  { x with
    slots := x.slots.map (fun e => (e.1, if e.2.wm.stage ≠ 0 ∧ d ≤ e.2.wm.devFrame then
      { e.2 with wm := { e.2.wm with devFrame := e.2.wm.devFrame + 1 } } else e.2))
    history := x.history.map (fun h => if h.status = 0 ∧ d ≤ h.devFrame then { h with devFrame := h.devFrame + 1 } else h)
    lastDev := x.lastDev.map (fun v => if d ≤ v then v + 1 else v) }
def shiftDevs (s : State) (d : Nat) : State :=
  if d = s.vat.devFrame then s else (List.range 32).foldl (fun s ch => s.setChan ch (shiftDev (s.chan ch) d)) s

/-- The frame is ACCEPTED: its watermark, its slot, the channel's last values. DATA_CRC runs over the received data in order of arrival, and later over the
decoded planes Y, U, V, or 16-bit values of raw data: no rule lays out these areas (R211; DEDUCED, log entry 49). -/
def acceptFrame (s : State) (ch : Nat) (r : RxFrame) (k : Nat) (cap : Int) (count : Option Nat) (data : Bytes) : State :=
  let dev := nextDev s ch
  let s := shiftDevs s dev
  let x := s.chan ch
  let gap := match count, x.lastCount with | some c, some l => (c + 2 ^ 32 - l) % 2 ^ 32 | _, _ => 1
  let wm : Watermark :=
    { devFrame := dev, captureNs := cap, sensorCount := count.getD 0, channel := ch
      flags := b2n count.isNone * 4 + b2n r.unsync * 2 + b2n (decide (1 < gap)), stage := 1, dataCrc := crc32c data }
  let z : Slot := { receivingSlot r.cfg r.shape with
    st := .decoding, wm := wm, eofAt := s.clk.clock, budgetFrom := s.clk.clock, recv := data, pixels := r.pixels
    rtype := (match r.head with
      | [ty, q, _, _] => toLE 1 ty ++ toLE 1 q ++ toBE 2 r.cfg.w ++ toBE 2 r.cfg.h ++ r.qtab
      | _ => []) }
  let x := { setSlot x k (some z) with
    rx := none, discard := false, lastCount := (match count with | some c => some c | none => x.lastCount)
    lastShown := count.getD 0, lastTime := some cap }
  let s := s.setChan ch x
  let s : State := { s with vat := { s.vat with devFrame := s.vat.devFrame + 1 } }
  let s := if 1 < gap then s.bump (pgChan ch) 0x088 (gap - 1) else s
  joinQueue (outcome s ch 0 (some cap) wm.devFrame true) ch k r.cfg.kind

/-- Checks 6 to 8 at the end of a frame. -/
def eofRx (s : State) (ch : Nat) (count : Option Nat) (crcOk : Bool) (data : Bytes) : State :=
  let x := s.chan ch
  match x.rx with
  | none => s
  | some r => match r.slot with
    | none => s
    | some k =>
      let d := match count, x.lastCount with | some c, some l => (c + 2 ^ 32 - l) % 2 ^ 32 | _, _ => 1
      if !crcOk then endRx s ch 3
      else if d = 0 ∨ 2 ^ 31 ≤ d then endRx s ch 4
      else match r.capture with
        | none => endRx s ch 5
        | some cap =>
          let c := r.cfg
          let early := decide (cap < (s.clk.dev : Int) - c.maxAge * 100000)
          let lead := decide ((r.firstAt : Int) + c.maxLead * 1000 < cap)
          let stale := match x.lastTime with | some l => decide (cap ≤ l) | none => false
          if early || lead || stale then endRx s ch 5
          else acceptFrame s ch r k cap count data

/-! ### Starting a frame -/

/-- Capture time from the AVTP timestamp (R205): P − PT_OFFSET, none with tv = 0. -/
def avtpCapture (s : State) (p : Bytes) (c : ChanCfg) : Option Int :=
  if !bit (be p 1 1) 0 then none
  else
    let now : Int := s.clk.dev
    let base : Int := now - now.emod (2 ^ 32) + be p 12 4
    let dist (v : Int) : Nat := (v - now).natAbs
    let near (a b : Int) : Int := if dist b < dist a then b else a
    some (near (near (base - 2 ^ 32) base) (base + 2 ^ 32) - c.ptOffset)

/-- Unsynchronised device time (R205, R423). -/
def unsynced (s : State) : Bool := s.clk.time.st != 2

/-- A frame starts in a channel with the settings in force. -/
def beginRx (s : State) (ch seq : Nat) (capture : Option Int) (head : List Nat) : State :=
  let x := s.chan ch
  let r : RxFrame :=
    { cfg := s.chanCfg ch, shape := s.shapeCfg ch, slot := none, firstAt := s.clk.dev, unsync := unsynced s, seq := seq, capture := capture
      head := head, tile := none, recNext := 0, crcOk := true, dims := none, sof := false, qtab := [], data := [], pixels := [] }
  s.setChan ch { x with discard := false, rx := some r }

/-- The newest capture time that passed check 1 (R224). -/
def noteSeen (s : State) (ch : Nat) : State :=
  let x := s.chan ch
  match x.rx with
  | some r => (match r.capture with
      | some c => s.setChan ch { x with newestSeen := some (match x.newestSeen with | some n => max n c | none => c) }
      | none => s)
  | none => s

/-! ### Himir packets (R197–R201) -/

/-- The Himir header (R197). -/
structure Himir where
  version : Nat
  kind : Nat
  tsValid : Bool
  last : Bool
  first : Bool
  count : Nat
  capture : Nat
  fw : Nat
  fh : Nat
  colFirst : Nat
  colCount : Nat
  rowFirst : Nat
  rowCount : Nat
  recFirst : Nat
  crc : Nat
deriving DecidableEq, Repr

def parseHimir (b : Bytes) : Himir :=
  { version := be b 0 1, kind := be b 1 1, tsValid := bit (be b 2 2) 2, last := bit (be b 2 2) 1, first := bit (be b 2 2) 0
    count := be b 4 4, capture := be b 8 8, fw := be b 16 2, fh := be b 18 2, colFirst := be b 20 2, colCount := be b 22 2
    rowFirst := be b 24 2, rowCount := be b 26 2, recFirst := be b 24 4, crc := be b 28 4 }

/-- Bytes of one row of a tile (R199). -/
def tileRowBytes (kind cols : Nat) : Nat := ceilDiv (cols * kindBits kind) 8

/-- The pixels of a tile by raster index (R199); YUV422 in 16-bit units in the order of the wire. -/
def tilePixels (c : ChanCfg) (h : Himir) (data : Bytes) : List (Nat × Nat) :=
  let rb := tileRowBytes c.kind h.colCount
  let b := kindBits c.kind
  (List.range h.rowCount).flatMap (fun r =>
    let row := beNat (slice data (r * rb) rb)
    (List.range h.colCount).map (fun i =>
      ((h.rowFirst + r) * c.w + h.colFirst + i, row / 2 ^ (8 * rb - (i + 1) * b) % 2 ^ b)))

/-- Whether a tile follows the one before it in raster order (R198). -/
def tileFollows (w : Nat) (prev : Option (Nat × Nat × Nat × Nat)) (h : Himir) : Bool :=
  match prev with
  | none => h.rowFirst == 0 && h.colFirst == 0
  | some (rf, rc, cf, cc) =>
    if cf + cc = w then h.colFirst == 0 && h.rowFirst == rf + rc
    else h.rowFirst == rf && h.rowCount == rc && h.colFirst == cf + cc

/-- A Himir packet of the frame in receive: checks 1 to 5, and the end of the frame with LAST. -/
def himirPacket (s : State) (ch seq : Nat) (first : Bool) (hb data : Bytes) : State :=
  match (s.chan ch).rx with
  | none => s
  | some r =>
    let c := r.cfg
    let h := parseHimir hb
    let pts := c.kind == 8
    let fmtBad := h.version != 1 || h.kind != c.kind ||
      (if pts then h.colFirst != c.recBytes || data.length != h.colCount * c.recBytes
       else h.colFirst % kindAlign c.kind != 0 || h.colCount % kindAlign c.kind != 0
         || data.length != h.rowCount * tileRowBytes c.kind h.colCount)
    let geomBad := h.fw != c.w || h.fh != c.h || decide (8192 < h.fw) || decide (8192 < h.fh) ||
      (if pts then decide (c.w * c.h < h.recFirst + h.colCount)
       else decide (c.w < h.colFirst + h.colCount) || decide (c.h < h.rowFirst + h.rowCount))
    if fmtBad then endRx s ch 2
    else
      let s := if first then noteSeen s ch else s
      if geomBad then endRx s ch 1
      else
        let s := if first then takeRxSlot s ch else s
        match (s.chan ch).rx with
        | none => s
        | some r =>
          let follows := if pts then h.recFirst == r.recNext else tileFollows c.w r.tile h
          let endBad := h.last && !pts && !(h.colFirst + h.colCount == h.fw && h.rowFirst + h.rowCount == h.fh)
          let seqBad := !first && seq != (r.seq + 1) % 256
          if roundPage (recvBytes c) < r.data.length + data.length then endRx s ch 2
          else if seqBad || [h.count, h.capture, b2n h.tsValid] != r.head || !follows || endBad then endRx s ch 6
          else
            let s := s.modRx ch (fun r => { r with
              seq := seq, tile := some (h.rowFirst, h.rowCount, h.colFirst, h.colCount), recNext := h.recFirst + h.colCount
              crcOk := r.crcOk && decide (crc32c (hb.take 28 ++ data) = h.crc), data := r.data ++ data
              pixels := if pts then [] else r.pixels ++ tilePixels c h data })
            match (s.chan ch).rx with
            | some r => if h.last then eofRx s ch (some h.count) r.crcOk r.data else s
            | none => s

/-! ### MJPEG packets (R202, R203) -/

/-- The SOF marker segments that begin in the first 1,024 bytes (R202): their places and codes. Other marker segments are passed over whole
(ISO/IEC 10918-1), so a byte pair of a segment's contents or a stuffed byte is no marker. -/
def findSofs : Nat → Bytes → Nat → List (Nat × Nat)
  | 0, _, _ => []
  | fuel + 1, d, i =>
    if d.length ≤ i + 1 ∨ 1024 ≤ i + 1 then []
    else
      let c := be d (i + 1) 1
      if be d i 1 ≠ 0xFF ∨ c = 0xFF then findSofs fuel d (i + 1)
      else if c ≤ 0x01 ∨ (0xD0 ≤ c ∧ c ≤ 0xD9) then findSofs fuel d (i + 2)
      else
        let rest := if d.length < i + 4 then [] else findSofs fuel d (i + 2 + max 2 (be d (i + 2) 2))
        if 0xC0 ≤ c ∧ c ≤ 0xCF ∧ c ≠ 0xC4 ∧ c ≠ 0xC8 ∧ c ≠ 0xCC then (i, c) :: rest else rest

/-- The RFC 2435 parts of a CVF payload: main header, quantisation header, data. -/
structure JpegPart where
  offset : Nat
  ty : Nat
  q : Nat
  w : Nat
  h : Nat
  qtab : Bytes
  data : Bytes
deriving DecidableEq, Repr

def parseJpeg (p : Bytes) : JpegPart :=
  let off := be p 25 3
  let ty := be p 28 1
  let q := be p 29 1
  let at0 := 32 + (if 64 ≤ ty ∧ ty < 128 then 4 else 0)
  let qn := if 128 ≤ q ∧ off = 0 then 4 + be p (at0 + 2) 2 else 0
  ⟨off, ty, q, be p 30 1, be p 31 1, slice p at0 qn, p.drop (at0 + qn)⟩

/-- A CVF packet of the frame in receive: checks 1 to 5, and the end of the frame with M = 1. -/
def jpegPacket (s : State) (ch seq : Nat) (first : Bool) (p : Bytes) : State :=
  match (s.chan ch).rx with
  | none => s
  | some r =>
    let c := r.cfg
    let j := parseJpeg p
    let all := r.data ++ j.data
    let sofs := if r.sof && decide (1024 ≤ r.data.length) then [] else findSofs 1024 all 0
    let sof := sofs.head?
    let dims := if r.dims.isSome then r.dims
      else if first ∧ j.w ≠ 0 ∧ j.h ≠ 0 then some (8 * j.w, 8 * j.h)
      else match sof with
        | some (i, 0xC0) => if i + 9 ≤ all.length then some (be all (i + 7) 2, be all (i + 5) 2) else none
        | _ => none
    -- with width and height given any other SOF counts, without them the first one found
    let given := nth r.head 2 != 0 && nth r.head 3 != 0
    let codingBad := (if given then sofs else sofs.take 1).any (fun e => e.2 != 0xC0)
      || (dims.isNone && decide (1024 ≤ all.length) && sof.isNone && !r.sof)
    let m := bit (be p 22 1) 4
    -- a frame that ends without its dimensions has no SOF segment whole (R202)
    let fmtBad := be p 16 1 != 2 || be p 17 1 != 0 || !(j.ty == 0 || j.ty == 1 || j.ty == 64 || j.ty == 65) || codingBad || (m && dims.isNone)
    if fmtBad then endRx s ch 2
    else
      let s := if first then noteSeen s ch else s
      let geomBad := match dims with | some d => d != (c.w, c.h) || decide (8192 < d.1) || decide (8192 < d.2) | none => false
      if geomBad then endRx s ch 1
      else
        let s := if first then takeRxSlot s ch else s
        match (s.chan ch).rx with
        | none => s
        | some r =>
          if roundPage (recvBytes c) < all.length then endRx s ch 2
          else if (!first && (seq != (r.seq + 1) % 256 || [j.ty, j.q, j.w, j.h] != r.head)) || j.offset != r.data.length then endRx s ch 6
          else
            let s := s.modRx ch (fun r => { r with
              seq := seq, dims := dims, sof := r.sof || (match sof with | some (i, _) => decide (i + 9 ≤ all.length) | none => false)
              qtab := if first then j.qtab else r.qtab, data := all })
            if !m then s
            else if c.chkrec then
              let n := all.length - 8
              eofRx s ch (some (be all n 4)) (decide (8 ≤ all.length) && decide (crc32c (all.take n) = be all (n + 4) 4)) (all.take n)
            else eofRx s ch none true all

/-! ### Classification (R193–R195) -/

/-- The enabled channel that an AVTP frame matches. -/
def matchChan (s : State) (port : Nat) (vid : Option Nat) (p : Bytes) : Option Nat :=
  if p.length < 24 then none
  else (List.range 32).find? (fun ch =>
    let c := s.chanCfg ch
    c.en && c.port == port && c.stream == be p 4 8 && (!c.vlanEn || vid == some c.vid))

/-- Whether a packet starts a frame: FIRST of a Himir packet, fragment offset 0 of an MJPEG one. -/
def startsFrame (mj : Bool) (p : Bytes) : Bool := if mj then be p 25 3 == 0 else (parseHimir (p.drop 24)).first

/-- Whether an AVTP packet's subtype suits a KIND (R195). -/
def suits (sub kind : Nat) : Bool := (sub == 3 && kind == 1) || (sub == 0x6F && himirKind kind)

/-- An AVTP packet of a channel: a first packet ends the frame in progress (R226) and starts one. -/
def chanPacket (s : State) (ch : Nat) (p : Bytes) : State :=
  let sub := be p 0 1
  let mj := sub == 3
  let c := s.chanCfg ch
  if !(suits sub c.kind) then s.bump (pgChan ch) 0x0E8 1
  else
    let s := sysAccess s
    let p := p.take (24 + be p (if mj then 20 else 22) 2)
    let first := startsFrame mj p
    let seq := be p 2 1
    let s := if first then
        let j := parseJpeg p
        let h := parseHimir (p.drop 24)
        if mj then beginRx s ch seq (avtpCapture s p c) [j.ty, j.q, j.w, j.h]
        else beginRx s ch seq (if h.tsValid then some (h.capture : Int) else avtpCapture s p c) [h.count, h.capture, b2n h.tsValid]
      else s
    if mj then jpegPacket s ch seq first p else himirPacket s ch seq first (slice p 24 32) (p.drop 56)

/-- An AVTP frame: matched to its channel; at a frame boundary a pending commit of the channel takes effect first (R227). -/
def avtpFrame (s : State) (port : Nat) (vid : Option Nat) (p : Bytes) : State :=
  match matchChan s port vid p with
  | none => s.bump (pgPort port) 0x070 1
  | some ch =>
    let sub := be p 0 1
    -- one that is only dropped and counted starts no frame
    if suits sub (s.chanCfg ch).kind && startsFrame (sub == 3) p then
      let s := endRx s ch 6
      let s := settleTimed (settleTimed s (.chan ch) (pgChan ch)) (.shape ch) (pgShape ch)
      match matchChan s port vid p with
      | none => s.bump (pgPort port) 0x070 1
      | some ch => chanPacket s ch p
    else chanPacket s ch p

/-- VAT_PACKET_RX (R193); a frame whose FCS is bad is discarded (R525). -/
def vatRxOp (s : State) (port : Nat) (f : Bytes) (fcsOk : Bool) : State :=
  if s.phase ≠ .up ∨ portOn s port = false then s
  else
    let s := s.bump (pgPort port) 0x050 1
    if !fcsOk then s.bump (pgPort port) 0x060 1
    else
    let tagged := be f 12 2 == 0x8100
    let et := if tagged then be f 16 2 else be f 12 2
    let p := f.drop (if tagged then 18 else 14)
    if et = 0x88F7 then s
    else if et = 0x22F0 then avtpFrame s port (if tagged then some (be f 14 2 % 4096) else none) p
    else s.bump (pgPort port) 0x068 1

/-! ### Decoders (R215) -/

/-- DECODER_TAKE: a free decoder, or the raw path, takes the first frame of its queue. The budget of an MJPEG frame runs from now. -/
def decoderTakeOp (s : State) (raw : Bool) : State :=
  if raw then
    match s.vat.rawPath, s.vat.rawQ with
    | none, e :: r => { s with vat := { s.vat with rawPath := some e, rawQ := r } }
    | _, _ => s
  else
    match s.vat.decoders.findIdx? (fun d => d.isNone), s.vat.decodeQ with
    | some i, e :: r =>
      let s := { s with vat := { s.vat with decoders := s.vat.decoders.set i (some e), decodeQ := r } }
      (match s.slot e.1 e.2 with
        | some z => s.setSlot e.1 e.2 (some { z with budgetFrom := s.clk.clock })
        | none => s)
    | _, _ => s

/-- The decoder or the raw path that works on a slot is free, and the slot waits in no queue. -/
def freeDecoder (s : State) (ch k : Nat) : State :=
  { s with vat := { s.vat with
      decoders := s.vat.decoders.map (fun d => if d = some (ch, k) then none else d)
      rawPath := if s.vat.rawPath = some (ch, k) then none else s.vat.rawPath
      decodeQ := s.vat.decodeQ.filter (· != (ch, k)), rawQ := s.vat.rawQ.filter (· != (ch, k)) } }

/-- Whether a slot's stage 2 is under way: taken by a decoder or the raw path, or parsed in line. -/
def stage2 (s : State) (ch k : Nat) (z : Slot) : Bool :=
  z.st == .decoding && (z.cfg.kind == 8 || s.vat.decoders.elem (some (ch, k)) || s.vat.rawPath == some (ch, k))

/-- Values in raster order; a pixel that no tile brought is 0 (none is missing of a complete frame). -/
def rasterPixels (c : ChanCfg) (px : List (Nat × Nat)) : List Nat :=
  let sorted := px.mergeSort (fun a b => decide (a.1 ≤ b.1))
  if sorted.length = c.w * c.h then sorted.map (·.2) else (List.range (c.w * c.h)).map (fun i => (px.lookup i).getD 0)

/-- Y, U and V of a YUV422 frame from its 16-bit units Y0 U, Y1 V (R199). -/
def yuvUnits (c : ChanCfg) (px : List Nat) : Decoded :=
  let pairs := chunks 2 (px.length / 2) px
  .yuv (c.w / 2) c.h (px.map (· / 256)) (pairs.map (fun q => nth q 0 % 256)) (pairs.map (fun q => nth q 1 % 256))

/-- One field of a point record (R201). -/
def recField (c : ChanCfg) (rec : Bytes) (n : Nat) : Int :=
  let f := nth c.fields n
  let w := fieldBytes f
  let raw := be rec (bits f 5 0) w
  let v : Int := if bit f 13 then sext (8 * w) raw else raw
  clampInt (v * sext 16 (bits f 31 16)) (-2147483648) 2147483647

/-- The records of a POINTS frame (R201). -/
def parsePoints (c : ChanCfg) (data : Bytes) : List (List Int) :=
  (List.range (data.length / c.recBytes)).map (fun i =>
    (List.range 8).map (fun n => if n < c.nfields then recField c (slice data (i * c.recBytes) c.recBytes) n else 0))

/-- What stage 2 gives; none where entropy data or markers are not valid or the MCUs do not make the geometry. -/
def decodeSlot (z : Slot) : Option Decoded :=
  let c := z.cfg
  if c.kind = 8 then some (.points (parsePoints c z.recv))
  else if c.kind = 1 then
    match Config.jpegDecode (z.rtype ++ z.recv) with
    | none => none
    | some (cw, chh, y, u, v) =>
      -- samples are of 8 bits (R234)
      let b (l : List Nat) := l.map (· % 256)
      if y.length = c.w * c.h ∧ u.length = cw * chh ∧ v.length = cw * chh then some (.yuv cw chh (b y) (b u) (b v)) else none
  else
    let px := rasterPixels c z.pixels
    if c.kind = 5 then some (yuvUnits c px) else some (.raw (kindBits c.kind) px)

/-- The decoded area's bytes, for DATA_CRC. -/
def decodedBytes : Decoded → Bytes
  | .raw _ px => px.flatMap (toLE 2)
  | .yuv _ _ y u v => (y ++ u ++ v).flatMap (toLE 1)
  | .points recs => recs.flatMap (fun r => r.flatMap (fun v => toLE 4 (v.emod (2 ^ 32)).toNat))

/-- DECODE_COMPLETE (R215): stage 2 is complete if its budget has not run out before this cycle. -/
def decodeCompleteOp (s : State) (ch k : Nat) : State :=
  let back := (s.slot ch k).isNone
  let s := reviveSlot s ch k
  match s.slot ch k with
  | none => s
  | some z =>
    if !(back || stage2 s ch k z) ∨ z.budgetFrom + z.cfg.budgetUs * 1000 < s.clk.clock then s
    else
      let s := freeDecoder (sysAccess s) ch k
      if z.corrupt then integritySlot s ch k
      else match decodeSlot z with
        | none => dropSlot s ch k 8
        | some d =>
          let pts := z.cfg.kind == 8
          let z := { z with
            decoded := some d, st := if pts then .ready else .shaping, readyAt := if pts then some s.clk.clock else none
            wm := { z.wm with stage := 2, dataCrc := crc32c (decodedBytes d) } }
          let s := s.setSlot ch k (some z)
          if pts then handover (noteShaped s ch z.wm.devFrame) ch k else s

/-- DECODE_BUDGET_EXPIRY (R215): an MJPEG frame's budget runs from its decoder's take, the others' from their end of frame. -/
def budgetExpiryOp (s : State) (ch k : Nat) : State :=
  match s.slot ch k with
  | none => s
  | some z =>
    let runs := z.st == .decoding && (z.cfg.kind != 1 || stage2 s ch k z)
    if runs && decide (z.budgetFrom + z.cfg.budgetUs * 1000 ≤ s.clk.clock) then
      let inTime := stage2 s ch k z && decide (z.budgetFrom + z.cfg.budgetUs * 1000 = s.clk.clock)
      let s := dropSlot (freeDecoder s ch k) ch k 7
      if inTime then { s with vat := { s.vat with expired := some (s.clk.clock, ch, k, z) } } else s
    else s

/-! ### Shaping stages (R230) -/

/-- Whether a stage is bypassed for what is being shaped. -/
def bypassed (sh : ShapeCfg) (ls : List Img) (stage : Nat) : Bool :=
  match stage with
  | 4 => sh.cropW == 0 && sh.cropH == 0
  | 5 => sh.rot == 0
  | 6 => (sh.outW == 0 && sh.outH == 0) || (match ls with | m :: _ => m.w == sh.outW && m.h == sh.outH | [] => false)
  | 7 => !sh.augEn
  | 8 => sh.levels == 1
  | _ => false

/-- The stage that follows, past the bypassed ones. -/
def nextStage (sh : ShapeCfg) (ls : List Img) (stage : Nat) : Nat :=
  (((List.range 7).map (· + 3)).find? (fun n => decide (stage < n) && !bypassed sh ls n)).getD 9

/-- The levels' bytes, for DATA_CRC: 16-bit working values. -/
def levelsBytes (ls : List Img) : Bytes := ls.flatMap (fun m => m.px.flatMap (toLE 2))

/-- Augmentation key and sample index of a slot (R244). -/
def augKey (s : State) (ch : Nat) : Dword :=
  match chanOwner s ch with
  | some p => BitVec.ofNat 64 (s.partReg p 0x060 + 2 ^ 32 * s.partReg p 0x064)
  | none => 0

/-- One of stages 3 to 8 on a slot's working values. A frame whose channel has passed to a safety-relevant partition since it arrived is not augmented,
whatever the settings captured with it (R231, R246; DEDUCED, log entry 49). -/
def stageWork (s : State) (ch : Nat) (z : Slot) (stage : Nat) : List Img :=
  let sh := if (chanOwner s ch).any s.isSafety then { z.shape with augEn := false } else z.shape
  let key := augKey s ch
  let idx := z.wm.sensorCount * 32 + ch
  let off := cropOffsets sh key idx
  match stage, z.working with
  | 3, _ => (match z.decoded with | some d => [colourStage sh z.cfg.w z.cfg.h d] | none => [])
  | 4, m :: _ => [cropStage sh off.1 off.2 m]
  | 5, m :: _ => [rotateStage sh.rot m]
  | 6, m :: _ => [resizeStage sh m]
  | 7, m :: _ => [augmentStage sh key idx m]
  | 8, m :: _ => pyramid sh.pyr sh.levels m
  | _, l => l

/-- Stage 9 under an input record (R239–R241). -/
def stageSample (s : State) (p : Nat) (r : InputRec) (z : Slot) : List SampleCell :=
  let P := portOf s p
  let read : Comp (Requant × List Nat × List Word) := do
    let rq ← rdRequant P r.rqAddr
    let qs ← (List.range r.c).mapM (fun k => rdQ P rq k)
    let bs ← (List.range r.c).mapM (fun k => rdBias P rq k)
    return (rq, qs, bs)
  match (runComp read).1 with
  | .ok (rq, qs, bs) => buildSample z.shape rq qs bs r.pat z.working
  | .error _ => []

/-- SHAPING_STAGE_COMPLETE (R230). A failed watermark check makes the frame INTEGRITY (R212). A frame whose stage before 9 completes
while no loaded plan names its channel is READY and never a candidate (R253). -/
def shapingOp (s : State) (ch k : Nat) : State :=
  match s.slot ch k with
  | none => s
  | some z =>
    if z.st ≠ .shaping then s
    else if z.corrupt then integritySlot s ch k
    else
      let s' := sysAccess s
      let stage := nextStage z.shape z.working z.wm.stage
      if stage = 9 then
        match inputsFor s ch with
        | none => s'.setSlot ch k (some { z with st := .ready })
        | some (p, _, r, _) =>
          let cells := stageSample s p r z
          let z := { z with sample := some cells, st := .ready, readyAt := some s.clk.clock
                            wm := { z.wm with stage := 9, dataCrc := crc32c (sampleBytes cells) } }
          handover (noteShaped (s'.setSlot ch k (some z)) ch z.wm.devFrame) ch k
      else
        let ls := stageWork s ch z stage
        let z := { z with working := ls, wm := { z.wm with stage := stage, dataCrc := crc32c (levelsBytes ls) } }
        let z := if stage = 3 then { z with colour := ls.head?, colourAt := s.clk.clock } else z
        let z := if nextStage z.shape z.working stage = 9 ∧ (inputsFor s ch).isNone then { z with st := .ready } else z
        s'.setSlot ch k (some z)

/-- HANDOVER_WRITE_COMPLETE (R249): the buffer holds the frame. -/
def handoverOp (s : State) (p i pos : Nat) : State :=
  let x := s.part p
  match x.handovers.lookup (i, pos), x.plan with
  | some (ch, k, dev), some pl =>
    let drop : State := s.setPart p { x with handovers := x.handovers.filter (fun b => b.1 != (i, pos)) }
    (match pl.inputs[i]?, s.slot ch k with
      | some r, some z =>
        if z.wm.devFrame ≠ dev then drop
        else if z.corrupt then integritySlot drop ch k
        else copySample s p i pos r z
      | _, _ => drop)
  | _, _ => s

/-! ### Commands -/

/-- VAT_PACKET_RX. -/
def execVatPacketRx (t : Nat) (port : Fin 8) (frame : SensorFrame) (s : State) : Host.Outcome State Fault Refusal :=
  .next (whenUp (fun s => vatRxOp s port.val frame.bytes frame.fcsOk) (atTime t s))
/-- DECODER_TAKE. -/
def execDecoderTake (t : Nat) (raw : Bool) (s : State) : Host.Outcome State Fault Refusal := .next (decoderTakeOp (atTime t s) raw)
/-- DECODE_COMPLETE. -/
def execDecodeComplete (t : Nat) (ch : Fin 32) (slot : Fin 8) (s : State) : Host.Outcome State Fault Refusal :=
  .next (decodeCompleteOp (atTime t s) ch.val slot.val)
/-- DECODE_BUDGET_EXPIRY. -/
def execDecodeBudgetExpiry (t : Nat) (ch : Fin 32) (slot : Fin 8) (s : State) : Host.Outcome State Fault Refusal :=
  .next (budgetExpiryOp (atTime t s) ch.val slot.val)
/-- SHAPING_STAGE_COMPLETE. -/
def execShapingStageComplete (t : Nat) (ch : Fin 32) (slot : Fin 8) (s : State) : Host.Outcome State Fault Refusal :=
  .next (shapingOp (atTime t s) ch.val slot.val)
/-- HANDOVER_WRITE_COMPLETE. -/
def execHandoverWriteComplete (t : Nat) (p : Fin 8) (input : Fin 15) (pos : Fin 64) (s : State) : Host.Outcome State Fault Refusal :=
  .next (handoverOp (atTime t s) p.val input.val pos.val)

end Sys2Proof.Machine
end

