-- ==== Sys2Proof/Machine/Dispatch.lean ====
section
/-! DEFINITION. One arm for every command, each one direct call of its meaning. -/

namespace Sys2Proof.Machine

open Sys2Proof

def exec (i : Instr) (s : State) : Host.Outcome State Fault Refusal :=
  match i with
  | .supplyInRange t => Sys2Proof.Machine.execSupplyInRange t s
  | .supplyOff t => Sys2Proof.Machine.execSupplyOff t s
  | .supplyEmergency t => Sys2Proof.Machine.execSupplyEmergency t s
  | .supplyEmergencyClear t => Sys2Proof.Machine.execSupplyEmergencyClear t s
  | .currentEmergency t peak => Sys2Proof.Machine.execCurrentEmergency t peak s
  | .currentEmergencyClear t rail => Sys2Proof.Machine.execCurrentEmergencyClear t rail s
  | .thermalThrottleStart t sensor temp => Sys2Proof.Machine.execThermalThrottleStart t sensor temp s
  | .thermalThrottleStep t q => Sys2Proof.Machine.execThermalThrottleStep t q s
  | .thermalThrottleClear t q temps => Sys2Proof.Machine.execThermalThrottleClear t q temps s
  | .thermalShutdown t sensor temp => Sys2Proof.Machine.execThermalShutdown t sensor temp s
  | .powerLoop t m => Sys2Proof.Machine.execPowerLoop t m s
  | .thermalLoop t q temps => Sys2Proof.Machine.execThermalLoop t q temps s
  | .heavyPhaseHintWindow t p idx => Sys2Proof.Machine.execHeavyPhaseHintWindow t p idx s
  | .fillerUpdate t iWork => Sys2Proof.Machine.execFillerUpdate t iWork s
  | .stepTick t p => Sys2Proof.Machine.execStepTick t p s
  | .holdAssembly t p group => Sys2Proof.Machine.execHoldAssembly t p group s
  | .holdLimitExpiry t ch => Sys2Proof.Machine.execHoldLimitExpiry t ch s
  | .workItemStart t q => Sys2Proof.Machine.execWorkItemStart t q s
  | .workItemComplete t q => Sys2Proof.Machine.execWorkItemComplete t q s
  | .publicationDeadline t p => Sys2Proof.Machine.execPublicationDeadline t p s
  | .shedTimeout t p => Sys2Proof.Machine.execShedTimeout t p s
  | .vatPacketRx t port frame => Sys2Proof.Machine.execVatPacketRx t port frame s
  | .decoderTake t raw => Sys2Proof.Machine.execDecoderTake t raw s
  | .decodeComplete t ch slot => Sys2Proof.Machine.execDecodeComplete t ch slot s
  | .decodeBudgetExpiry t ch slot => Sys2Proof.Machine.execDecodeBudgetExpiry t ch slot s
  | .shapingStageComplete t ch slot => Sys2Proof.Machine.execShapingStageComplete t ch slot s
  | .handoverWriteComplete t p input pos => Sys2Proof.Machine.execHandoverWriteComplete t p input pos s
  | .endHold t w ch => Sys2Proof.Machine.execEndHold t w ch s
  | .gptpMessage t m => Sys2Proof.Machine.execGptpMessage t m s
  | .syncLossTimeout t => Sys2Proof.Machine.execSyncLossTimeout t s
  | .holdoverExpiry t => Sys2Proof.Machine.execHoldoverExpiry t s
  | .displayPictureSent t stream => Sys2Proof.Machine.execDisplayPictureSent t stream s
  | .pageFault t p vpn => Sys2Proof.Machine.execPageFault t p vpn s
  | .pageFillComplete t p vpn => Sys2Proof.Machine.execPageFillComplete t p vpn s
  | .prefetchServe t p => Sys2Proof.Machine.execPrefetchServe t p s
  | .translationError t q va write => Sys2Proof.Machine.execTranslationError t q va write s
  | .sramParityError t frame second by_ => Sys2Proof.Machine.execSramParityError t frame second by_ s
  | .fabricParityError t second by_ => Sys2Proof.Machine.execFabricParityError t second by_ s
  | .dramEccError t frame double by_ => Sys2Proof.Machine.execDramEccError t frame double by_ s
  | .poisonedAccess t q va => Sys2Proof.Machine.execPoisonedAccess t q va s
  | .patrolScrub t err => Sys2Proof.Machine.execPatrolScrub t err s
  | .hawkParityError t core => Sys2Proof.Machine.execHawkParityError t core s
  | .comparatorMismatch t pair cls => Sys2Proof.Machine.execComparatorMismatch t pair cls s
  | .proofVerdict t core result ref => Sys2Proof.Machine.execProofVerdict t core result ref s
  | .proofTimeout t core => Sys2Proof.Machine.execProofTimeout t core s
  | .spectralMismatch t q => Sys2Proof.Machine.execSpectralMismatch t q s
  | .sieveCheckedMismatch t p => Sys2Proof.Machine.execSieveCheckedMismatch t p s
  | .frameTagMismatch t q => Sys2Proof.Machine.execFrameTagMismatch t q s
  | .tallyDuplicateMismatch t p => Sys2Proof.Machine.execTallyDuplicateMismatch t p s
  | .workItemCrcMismatch t q => Sys2Proof.Machine.execWorkItemCrcMismatch t q s
  | .clockMonitorCheck t pll ppm => Sys2Proof.Machine.execClockMonitorCheck t pll ppm s
  | .spDecision t p => Sys2Proof.Machine.execSpDecision t p s
  | .backstopDeclaration t p => Sys2Proof.Machine.execBackstopDeclaration t p s
  | .strikeExpiry t u => Sys2Proof.Machine.execStrikeExpiry t u s
  | .spLockstepMismatch t => Sys2Proof.Machine.execSpLockstepMismatch t s
  | .spHoldDegraded t => Sys2Proof.Machine.execSpHoldDegraded t s
  | .spHoldLimit t => Sys2Proof.Machine.execSpHoldLimit t s
  | .sentinelWord t tap => Sys2Proof.Machine.execSentinelWord t tap s
  | .safeClear t w pmask => Sys2Proof.Machine.execSafeClear t w pmask s
  | .checkerRotationStart t => Sys2Proof.Machine.execCheckerRotationStart t s
  | .checkerTestResult t c ok => Sys2Proof.Machine.execCheckerTestResult t c ok s
  | .rotationLate t => Sys2Proof.Machine.execRotationLate t s
  | .chunkGrant t core => Sys2Proof.Machine.execChunkGrant t core s
  | .chunkComplete t core pass => Sys2Proof.Machine.execChunkComplete t core pass s
  | .coverageOverdue t core => Sys2Proof.Machine.execCoverageOverdue t core s
  | .coverageRunComplete t core pass => Sys2Proof.Machine.execCoverageRunComplete t core pass s
  | .stVerify t w => Sys2Proof.Machine.execStVerify t w s
  | .patternSetVerified t => Sys2Proof.Machine.execPatternSetVerified t s
  | .stActivate t w => Sys2Proof.Machine.execStActivate t w s
  | .discard t w => Sys2Proof.Machine.execDiscard t w s
  | .stFence t w => Sys2Proof.Machine.execStFence t w s
  | .regReq t port f => Sys2Proof.Machine.execRegReq t port f s
  | .bulkRead t port f => Sys2Proof.Machine.execBulkRead t port f s
  | .bulkWrite t port f => Sys2Proof.Machine.execBulkWrite t port f s
  | .flashProgramComplete t => Sys2Proof.Machine.execFlashProgramComplete t s
  | .claim t port => Sys2Proof.Machine.execClaim t port s
  | .takeover t port => Sys2Proof.Machine.execTakeover t port s
  | .release t w => Sys2Proof.Machine.execRelease t w s
  | .claimReset t port takeover => Sys2Proof.Machine.execClaimReset t port takeover s
  | .heartbeat t w value => Sys2Proof.Machine.execHeartbeat t w value s
  | .heartbeatTimeout t => Sys2Proof.Machine.execHeartbeatTimeout t s
  | .pageCommit t w page token => Sys2Proof.Machine.execPageCommit t w page token s
  | .commitSafePoint t page => Sys2Proof.Machine.execCommitSafePoint t page s
  | .revert t w page => Sys2Proof.Machine.execRevert t w page s
  | .pageErrClear t w page => Sys2Proof.Machine.execPageErrClear t w page s
  | .counterClear t w page => Sys2Proof.Machine.execCounterClear t w page s
  | .ptIndexLatch t w p vpn => Sys2Proof.Machine.execPtIndexLatch t w p vpn s
  | .instarIndexLatch t w index => Sys2Proof.Machine.execInstarIndexLatch t w index s
  | .stIndexLatch t w core => Sys2Proof.Machine.execStIndexLatch t w core s
  | .pwrPairIndexLatch t w pair => Sys2Proof.Machine.execPwrPairIndexLatch t w pair s
  | .stallyIndexLatch t w index => Sys2Proof.Machine.execStallyIndexLatch t w index s
  | .tallyWAdd t w p value => Sys2Proof.Machine.execTallyWAdd t w p value s
  | .sieveHostRdWrite t w p value => Sys2Proof.Machine.execSieveHostRdWrite t w p value s
  | .load t w p => Sys2Proof.Machine.execLoad t w p s
  | .unload t w p => Sys2Proof.Machine.execUnload t w p s
  | .launch t w p => Sys2Proof.Machine.execLaunch t w p s
  | .stop t w p => Sys2Proof.Machine.execStop t w p s
  | .seqOpen t w p => Sys2Proof.Machine.execSeqOpen t w p s
  | .seqRetire t w p => Sys2Proof.Machine.execSeqRetire t w p s
  | .verify t w => Sys2Proof.Machine.execVerify t w s
  | .slotVerified t => Sys2Proof.Machine.execSlotVerified t s
  | .activate t w => Sys2Proof.Machine.execActivate t w s
  | .activationDeferredStart t => Sys2Proof.Machine.execActivationDeferredStart t s
  | .cancel t w => Sys2Proof.Machine.execCancel t w s
  | .start t w => Sys2Proof.Machine.execStart t w s
  | .sleep t w => Sys2Proof.Machine.execSleep t w s
  | .secBurn t w => Sys2Proof.Machine.execSecBurn t w s
  | .hostReady t found => Sys2Proof.Machine.execHostReady t found s
  | .startFailed t failure => Sys2Proof.Machine.execStartFailed t failure s
  | .romWatchdog hang => Sys2Proof.Machine.execRomWatchdog hang s
  | .startGood t => Sys2Proof.Machine.execStartGood t s
  | .wakLightWake t => Sys2Proof.Machine.execWakLightWake t s
  | .sleepTimerExpiry t => Sys2Proof.Machine.execSleepTimerExpiry t s
  | .wakePattern t => Sys2Proof.Machine.execWakePattern t s
  | .restart t w proc dump => Sys2Proof.Machine.execRestart t w proc dump s
  | .procWatchdogExpiry t proc => Sys2Proof.Machine.execProcWatchdogExpiry t proc s
  | .fatalTrap t proc => Sys2Proof.Machine.execFatalTrap t proc s
  | .procRestartComplete t proc => Sys2Proof.Machine.execProcRestartComplete t proc s
  | .restartEscalation t proc badHash => Sys2Proof.Machine.execRestartEscalation t proc badHash s
  | .dumpCopy t proc => Sys2Proof.Machine.execDumpCopy t proc s
  | .logCopy t => Sys2Proof.Machine.execLogCopy t s
  | .helloSend t link => Sys2Proof.Machine.execHelloSend t link s
  | .hello t link frame => Sys2Proof.Machine.execHello t link frame s
  | .linkTimeout t link => Sys2Proof.Machine.execLinkTimeout t link s
  | .data t link frame => Sys2Proof.Machine.execData t link frame s
  | .ack t link frame => Sys2Proof.Machine.execAck t link frame s
  | .nack t link frame => Sys2Proof.Machine.execNack t link frame s
  | .retryTimeout t link => Sys2Proof.Machine.execRetryTimeout t link s
  | .ackIdleTimeout t link => Sys2Proof.Machine.execAckIdleTimeout t link s
  | .portLinkTrained t port => Sys2Proof.Machine.execPortLinkTrained t port s
  | .portLinkLost t port => Sys2Proof.Machine.execPortLinkLost t port s
  | .hostFrameDrop t port f => Sys2Proof.Machine.execHostFrameDrop t port f s
  | .spectralParityError t q => Sys2Proof.Machine.execSpectralParityError t q s
  | .displayEncoderFault t stream => Sys2Proof.Machine.execDisplayEncoderFault t stream s
  | .aonSensorRead t temp => Sys2Proof.Machine.execAonSensorRead t temp s
  | .wakLitChange t lit => Sys2Proof.Machine.execWakLitChange t lit s

end Sys2Proof.Machine
end

