-- ==== Sys2Proof/Safety.lean ====
section
/-! DEFINITION. The terms in which statements speak: a safe step, the parts of the state, the instant of a command, the parts a command
may change, and when the host's write of a page is carried out. -/

namespace Sys2Proof

/-- The step neither faults nor refuses. -/
def Safe (s : Machine.State) : Prop := ∃ t, Machine.step s = .next t

namespace Machine

/-- The parts of the state beside the queue of commands. -/
inductive Field where
  | out | fresh | clk | phase | fuses | mem | regs | units | plans | vat | press | link | safety | selftest | aon | boot | procs | log
  | power | net
  /-- the values in force and the shadows of the registers -/
  | settings
  /-- the commits of the pages -/
  | commits
deriving DecidableEq, Repr

/-- Two page headers have the same commit. -/
def SameCommit (h k : PageHdr) : Prop := k.cstate = h.cstate ∧ k.token = h.token ∧ k.snapshot = h.snapshot ∧ k.at? = h.at?

/-- Two states have a part in common. -/
def Same (f : Field) (a s : State) : Prop :=
  match f with
  | .out => s.out = a.out
  | .fresh => s.fresh = a.fresh
  | .clk => s.clk = a.clk
  | .phase => s.phase = a.phase
  | .fuses => s.fuses = a.fuses
  | .mem => s.mem = a.mem
  | .regs => s.regs = a.regs
  | .units => s.units = a.units
  | .plans => s.plans = a.plans
  | .vat => s.vat = a.vat
  | .press => s.press = a.press
  | .link => s.link = a.link
  | .safety => s.safety = a.safety
  | .selftest => s.selftest = a.selftest
  | .aon => s.aon = a.aon
  | .boot => s.boot = a.boot
  | .procs => s.procs = a.procs
  | .log => s.log = a.log
  | .power => s.power = a.power
  | .net => s.net = a.net
  | .settings => s.regs.force = a.regs.force ∧ s.regs.shadow = a.regs.shadow
  | .commits => ∀ page, SameCommit (a.hdrOf page) (s.hdrOf page)

/-- The instant at which a command happens. -/
def timeOf : Instr → Nat
  | .supplyInRange t => t
  | .supplyOff t => t
  | .supplyEmergency t => t
  | .supplyEmergencyClear t => t
  | .currentEmergency t _ => t
  | .currentEmergencyClear t _ => t
  | .thermalThrottleStart t _ _ => t
  | .thermalThrottleStep t _ => t
  | .thermalThrottleClear t _ _ => t
  | .thermalShutdown t _ _ => t
  | .powerLoop t _ => t
  | .thermalLoop t _ _ => t
  | .heavyPhaseHintWindow t _ _ => t
  | .fillerUpdate t _ => t
  | .stepTick t _ => t
  | .holdAssembly t _ _ => t
  | .holdLimitExpiry t _ => t
  | .workItemStart t _ => t
  | .workItemComplete t _ => t
  | .publicationDeadline t _ => t
  | .shedTimeout t _ => t
  | .vatPacketRx t _ _ => t
  | .decoderTake t _ => t
  | .decodeComplete t _ _ => t
  | .decodeBudgetExpiry t _ _ => t
  | .shapingStageComplete t _ _ => t
  | .handoverWriteComplete t _ _ _ => t
  | .endHold t _ _ => t
  | .gptpMessage t _ => t
  | .syncLossTimeout t => t
  | .holdoverExpiry t => t
  | .displayPictureSent t _ => t
  | .pageFault t _ _ => t
  | .pageFillComplete t _ _ => t
  | .prefetchServe t _ => t
  | .translationError t _ _ _ => t
  | .sramParityError t _ _ _ => t
  | .fabricParityError t _ _ => t
  | .dramEccError t _ _ _ => t
  | .poisonedAccess t _ _ => t
  | .patrolScrub t _ => t
  | .hawkParityError t _ => t
  | .comparatorMismatch t _ _ => t
  | .proofVerdict t _ _ _ => t
  | .proofTimeout t _ => t
  | .spectralMismatch t _ => t
  | .sieveCheckedMismatch t _ => t
  | .frameTagMismatch t _ => t
  | .tallyDuplicateMismatch t _ => t
  | .workItemCrcMismatch t _ => t
  | .clockMonitorCheck t _ _ => t
  | .spDecision t _ => t
  | .backstopDeclaration t _ => t
  | .strikeExpiry t _ => t
  | .spLockstepMismatch t => t
  | .spHoldDegraded t => t
  | .spHoldLimit t => t
  | .sentinelWord t _ => t
  | .safeClear t _ _ => t
  | .checkerRotationStart t => t
  | .checkerTestResult t _ _ => t
  | .rotationLate t => t
  | .chunkGrant t _ => t
  | .chunkComplete t _ _ => t
  | .coverageOverdue t _ => t
  | .coverageRunComplete t _ _ => t
  | .stVerify t _ => t
  | .patternSetVerified t => t
  | .stActivate t _ => t
  | .discard t _ => t
  | .stFence t _ => t
  | .regReq t _ _ => t
  | .bulkRead t _ _ => t
  | .bulkWrite t _ _ => t
  | .flashProgramComplete t => t
  | .claim t _ => t
  | .takeover t _ => t
  | .release t _ => t
  | .claimReset t _ _ => t
  | .heartbeat t _ _ => t
  | .heartbeatTimeout t => t
  | .pageCommit t _ _ _ => t
  | .commitSafePoint t _ => t
  | .revert t _ _ => t
  | .pageErrClear t _ _ => t
  | .counterClear t _ _ => t
  | .ptIndexLatch t _ _ _ => t
  | .instarIndexLatch t _ _ => t
  | .stIndexLatch t _ _ => t
  | .pwrPairIndexLatch t _ _ => t
  | .stallyIndexLatch t _ _ => t
  | .tallyWAdd t _ _ _ => t
  | .sieveHostRdWrite t _ _ _ => t
  | .load t _ _ => t
  | .unload t _ _ => t
  | .launch t _ _ => t
  | .stop t _ _ => t
  | .seqOpen t _ _ => t
  | .seqRetire t _ _ => t
  | .verify t _ => t
  | .slotVerified t => t
  | .activate t _ => t
  | .activationDeferredStart t => t
  | .cancel t _ => t
  | .start t _ => t
  | .sleep t _ => t
  | .secBurn t _ => t
  | .hostReady t _ => t
  | .startFailed t _ => t
  | .romWatchdog hang => hang.t
  | .startGood t => t
  | .wakLightWake t => t
  | .sleepTimerExpiry t => t
  | .wakePattern t => t
  | .restart t _ _ _ => t
  | .procWatchdogExpiry t _ => t
  | .fatalTrap t _ => t
  | .procRestartComplete t _ => t
  | .restartEscalation t _ _ => t
  | .dumpCopy t _ => t
  | .logCopy t => t
  | .helloSend t _ => t
  | .hello t _ _ => t
  | .linkTimeout t _ => t
  | .data t _ _ => t
  | .ack t _ _ => t
  | .nack t _ _ => t
  | .retryTimeout t _ => t
  | .ackIdleTimeout t _ => t
  | .portLinkTrained t _ => t
  | .portLinkLost t _ => t
  | .hostFrameDrop t _ _ => t
  | .spectralParityError t _ => t
  | .displayEncoderFault t _ => t
  | .aonSensorRead t _ => t
  | .wakLitChange t _ => t

/-- Every part of the state: what a write of the host may change. -/
def allParts : List Field :=
  [.out, .fresh, .clk, .phase, .fuses, .mem, .regs, .units, .plans, .vat, .press, .link, .safety, .selftest, .aon, .boot, .procs, .log,
    .power, .net, .settings, .commits]

/-- The parts that a command may change once its instant has come. -/
def touched : Instr → List Field
  | .supplyInRange _ => [.fresh, .clk, .phase, .mem, .regs, .units, .plans, .vat, .press, .link, .safety, .selftest, .aon, .boot, .procs, .log, .power, .net, .settings, .commits]
  | .supplyOff _ => [.clk, .phase, .mem, .regs, .units, .plans, .vat, .press, .link, .safety, .selftest, .aon, .boot, .procs, .log, .power, .net, .settings, .commits]
  | .supplyEmergency _ => [.fresh, .regs, .units, .log, .power]
  | .supplyEmergencyClear _ => [.fresh, .regs, .boot, .log, .power]
  | .currentEmergency _ _ => [.fresh, .regs, .units, .log, .power]
  | .currentEmergencyClear _ _ => [.fresh, .regs, .boot, .log, .power]
  | .thermalThrottleStart _ _ _ => [.fresh, .regs, .log, .power]
  | .thermalThrottleStep _ _ => [.fresh, .regs, .units]
  | .thermalThrottleClear _ _ _ => [.fresh, .regs, .boot, .log, .power]
  | .thermalShutdown _ _ _ => [.clk, .phase, .mem, .regs, .units, .plans, .vat, .press, .link, .safety, .selftest, .aon, .boot, .procs, .log, .power, .net, .settings, .commits]
  | .powerLoop _ _ => [.fresh, .regs, .units, .log, .power]
  | .thermalLoop _ _ _ => [.fresh, .regs, .units, .boot, .log, .power]
  | .heavyPhaseHintWindow _ _ _ => [.fresh, .regs, .units, .power]
  | .fillerUpdate _ _ => [.fresh, .regs, .units, .power]
  | .stepTick _ _ => [.out, .fresh, .clk, .mem, .regs, .units, .plans, .vat, .press, .link, .safety, .selftest, .aon, .log, .power, .net, .settings, .commits]
  | .holdAssembly _ _ _ => [.out, .fresh, .clk, .mem, .regs, .units, .plans, .vat, .press, .link, .safety, .selftest, .aon, .log, .power, .net, .settings, .commits]
  | .holdLimitExpiry _ _ => [.plans]
  | .workItemStart _ _ => [.out, .fresh, .clk, .mem, .regs, .units, .plans, .vat, .press, .link, .safety, .selftest, .aon, .log, .net, .settings, .commits]
  | .workItemComplete _ _ => [.out, .fresh, .clk, .mem, .regs, .units, .plans, .vat, .press, .link, .safety, .selftest, .aon, .log, .net, .settings, .commits]
  | .publicationDeadline _ _ => [.out, .fresh, .clk, .mem, .regs, .units, .plans, .vat, .press, .link, .safety, .selftest, .aon, .log, .net, .settings, .commits]
  | .shedTimeout _ _ => [.out, .fresh, .clk, .mem, .regs, .units, .plans, .vat, .press, .link, .safety, .selftest, .aon, .log, .net, .settings, .commits]
  | .vatPacketRx _ _ _ => [.fresh, .clk, .mem, .regs, .units, .plans, .vat, .press, .log, .net, .settings, .commits]
  | .decoderTake _ _ => [.vat]
  | .decodeComplete _ _ _ => [.out, .fresh, .mem, .regs, .units, .plans, .vat, .press, .safety, .selftest, .aon, .log, .net]
  | .decodeBudgetExpiry _ _ _ => [.fresh, .regs, .vat, .log]
  | .shapingStageComplete _ _ _ => [.out, .fresh, .mem, .regs, .units, .plans, .vat, .press, .safety, .selftest, .aon, .log, .net]
  | .handoverWriteComplete _ _ _ _ => [.out, .fresh, .mem, .regs, .units, .plans, .vat, .press, .safety, .selftest, .aon, .log, .net]
  | .endHold _ _ _ => allParts
  | .gptpMessage _ _ => [.out, .fresh, .clk, .regs, .log]
  | .syncLossTimeout _ => [.fresh, .clk, .regs, .log]
  | .holdoverExpiry _ => [.clk]
  | .displayPictureSent _ _ => [.out, .regs, .vat]
  | .pageFault _ _ _ => [.fresh, .mem, .regs, .plans, .press]
  | .pageFillComplete _ _ _ => [.mem, .regs, .plans, .press]
  | .prefetchServe _ _ => [.fresh, .mem, .regs, .plans, .press]
  | .translationError _ _ _ _ => [.out, .fresh, .mem, .regs, .units, .plans, .press, .safety, .selftest, .aon, .log, .net]
  | .sramParityError _ _ _ _ => [.out, .fresh, .mem, .regs, .units, .plans, .press, .safety, .selftest, .aon, .log, .net]
  | .fabricParityError _ _ _ => [.out, .fresh, .mem, .regs, .units, .plans, .press, .safety, .selftest, .aon, .log, .net]
  | .dramEccError _ _ _ _ => [.out, .fresh, .mem, .regs, .units, .plans, .vat, .press, .safety, .selftest, .aon, .log, .net]
  | .poisonedAccess _ _ _ => [.out, .fresh, .mem, .regs, .units, .plans, .press, .safety, .selftest, .aon, .log, .net]
  | .patrolScrub _ _ => [.out, .fresh, .clk, .mem, .regs, .units, .plans, .vat, .press, .safety, .selftest, .aon, .log, .net, .settings, .commits]
  | .hawkParityError _ _ => [.out, .fresh, .mem, .regs, .units, .plans, .press, .safety, .selftest, .aon, .log, .net]
  | .comparatorMismatch _ _ _ => [.out, .fresh, .mem, .regs, .units, .plans, .press, .safety, .selftest, .aon, .log, .net]
  | .proofVerdict _ _ _ _ => [.out, .fresh, .clk, .mem, .regs, .units, .plans, .vat, .press, .link, .safety, .selftest, .aon, .log, .net, .settings, .commits]
  | .proofTimeout _ _ => [.out, .fresh, .clk, .mem, .regs, .units, .plans, .vat, .press, .link, .safety, .selftest, .aon, .log, .net, .settings, .commits]
  | .spectralMismatch _ _ => [.out, .fresh, .mem, .regs, .units, .plans, .press, .safety, .selftest, .aon, .log, .net]
  | .sieveCheckedMismatch _ _ => [.out, .fresh, .mem, .regs, .units, .plans, .press, .safety, .selftest, .aon, .log, .net]
  | .frameTagMismatch _ _ => [.out, .fresh, .mem, .regs, .units, .plans, .press, .safety, .selftest, .aon, .log, .net]
  | .tallyDuplicateMismatch _ _ => [.out, .fresh, .mem, .regs, .units, .plans, .press, .safety, .selftest, .aon, .log, .net]
  | .workItemCrcMismatch _ _ => [.out, .fresh, .mem, .regs, .units, .plans, .press, .safety, .selftest, .aon, .log, .net]
  | .clockMonitorCheck _ _ _ => [.out, .fresh, .mem, .regs, .units, .plans, .press, .safety, .selftest, .aon, .log, .net]
  | .spDecision _ _ => [.out, .fresh, .clk, .mem, .regs, .units, .plans, .vat, .press, .link, .safety, .selftest, .aon, .log, .net, .settings, .commits]
  | .backstopDeclaration _ _ => [.out, .fresh, .mem, .regs, .units, .plans, .press, .safety, .selftest, .aon, .log, .net]
  | .strikeExpiry _ _ => [.units]
  | .spLockstepMismatch _ => [.fresh, .regs, .plans, .safety, .procs, .log]
  | .spHoldDegraded _ => [.fresh, .regs, .safety, .log]
  | .spHoldLimit _ => [.fresh, .regs, .plans, .safety, .log]
  | .sentinelWord _ _ => [.out, .fresh, .regs, .plans, .safety, .log]
  | .safeClear _ _ _ => allParts
  | .checkerRotationStart _ => [.selftest]
  | .checkerTestResult _ _ _ => [.out, .fresh, .mem, .regs, .units, .plans, .press, .safety, .selftest, .aon, .log, .net]
  | .rotationLate _ => [.fresh, .regs, .selftest, .log]
  | .chunkGrant _ _ => [.fresh, .clk, .mem, .regs, .units, .plans, .vat, .press, .net, .settings, .commits]
  | .chunkComplete _ _ _ => [.out, .fresh, .mem, .regs, .units, .plans, .press, .safety, .selftest, .aon, .log, .net]
  | .coverageOverdue _ _ => [.out, .fresh, .mem, .regs, .units, .plans, .press, .selftest, .log, .net]
  | .coverageRunComplete _ _ _ => [.out, .fresh, .mem, .regs, .units, .plans, .press, .safety, .selftest, .aon, .boot, .log, .net]
  | .stVerify _ _ => allParts
  | .patternSetVerified _ => [.regs, .selftest]
  | .stActivate _ _ => allParts
  | .discard _ _ => allParts
  | .stFence _ _ => allParts
  | .regReq _ _ _ => allParts
  | .bulkRead _ _ _ => [.out, .fresh, .mem, .regs, .units, .plans, .vat, .press, .link, .aon, .log, .net, .settings]
  | .bulkWrite _ _ _ => [.out, .fresh, .mem, .regs, .units, .plans, .vat, .press, .link, .aon, .boot, .log, .net, .settings]
  | .flashProgramComplete _ => [.out, .mem, .regs, .link, .boot]
  | .claim _ _ => allParts
  | .takeover _ _ => allParts
  | .release _ _ => allParts
  | .claimReset _ _ _ => allParts
  | .heartbeat _ _ _ => allParts
  | .heartbeatTimeout _ => [.out, .fresh, .mem, .regs, .units, .plans, .vat, .press, .link, .aon, .log, .net, .settings]
  | .pageCommit _ _ _ _ => allParts
  | .commitSafePoint _ _ => [.out, .fresh, .clk, .mem, .regs, .units, .plans, .vat, .press, .safety, .selftest, .aon, .log, .net, .settings, .commits]
  | .revert _ _ _ => allParts
  | .pageErrClear _ _ _ => allParts
  | .counterClear _ _ _ => allParts
  | .ptIndexLatch _ _ _ _ => allParts
  | .instarIndexLatch _ _ _ => allParts
  | .stIndexLatch _ _ _ => allParts
  | .pwrPairIndexLatch _ _ _ => allParts
  | .stallyIndexLatch _ _ _ => allParts
  | .tallyWAdd _ _ _ _ => allParts
  | .sieveHostRdWrite _ _ _ _ => allParts
  | .load _ _ _ => allParts
  | .unload _ _ _ => allParts
  | .launch _ _ _ => allParts
  | .stop _ _ _ => allParts
  | .seqOpen _ _ _ => allParts
  | .seqRetire _ _ _ => allParts
  | .verify _ _ => allParts
  | .slotVerified _ => [.regs, .boot]
  | .activate _ _ => allParts
  | .activationDeferredStart _ => [.fresh, .clk, .phase, .mem, .regs, .units, .plans, .vat, .press, .link, .safety, .selftest, .aon, .boot, .procs, .log, .power, .net, .settings, .commits]
  | .cancel _ _ => allParts
  | .start _ _ => allParts
  | .sleep _ _ => allParts
  | .secBurn _ _ => allParts
  | .hostReady _ _ => [.out, .fresh, .clk, .phase, .mem, .regs, .units, .plans, .vat, .press, .link, .safety, .selftest, .aon, .boot, .procs, .log, .power, .net, .settings, .commits]
  | .startFailed _ _ => [.fresh, .clk, .phase, .mem, .regs, .units, .plans, .vat, .press, .link, .safety, .selftest, .aon, .boot, .procs, .log, .power, .net, .settings, .commits]
  | .romWatchdog _ => [.fresh, .clk, .phase, .mem, .regs, .units, .plans, .vat, .press, .link, .safety, .selftest, .aon, .boot, .procs, .log, .power, .net, .settings, .commits]
  | .startGood _ => [.aon, .boot]
  | .wakLightWake _ => [.fresh, .clk, .phase, .mem, .regs, .units, .plans, .vat, .press, .link, .safety, .selftest, .aon, .boot, .procs, .log, .power, .net, .settings, .commits]
  | .sleepTimerExpiry _ => [.fresh, .clk, .phase, .mem, .regs, .units, .plans, .vat, .press, .link, .safety, .selftest, .aon, .boot, .procs, .log, .power, .net, .settings, .commits]
  | .wakePattern _ => [.fresh, .clk, .phase, .mem, .regs, .units, .plans, .vat, .press, .link, .safety, .selftest, .aon, .boot, .procs, .log, .power, .net, .settings, .commits]
  | .restart _ _ _ _ => allParts
  | .procWatchdogExpiry _ _ => [.fresh, .regs, .plans, .safety, .procs, .log]
  | .fatalTrap _ _ => [.fresh, .regs, .plans, .safety, .procs, .log]
  | .procRestartComplete _ _ => [.out, .fresh, .clk, .phase, .mem, .regs, .units, .plans, .vat, .press, .link, .safety, .selftest, .aon, .boot, .procs, .log, .power, .net, .settings, .commits]
  | .restartEscalation _ _ _ => [.fresh, .clk, .phase, .mem, .regs, .units, .plans, .vat, .press, .link, .safety, .selftest, .aon, .boot, .procs, .log, .power, .net, .settings, .commits]
  | .dumpCopy _ _ => [.boot, .procs]
  | .logCopy _ => [.mem, .log]
  | .helloSend _ _ => [.out, .regs, .net]
  | .hello _ _ _ => [.out, .fresh, .mem, .regs, .units, .plans, .press, .safety, .selftest, .aon, .log, .net]
  | .linkTimeout _ _ => [.fresh, .regs, .log, .net]
  | .data _ _ _ => [.out, .fresh, .mem, .regs, .units, .plans, .press, .safety, .selftest, .aon, .log, .net]
  | .ack _ _ _ => [.out, .fresh, .mem, .regs, .units, .plans, .press, .safety, .selftest, .aon, .log, .net]
  | .nack _ _ _ => [.out, .fresh, .mem, .regs, .units, .plans, .press, .safety, .selftest, .aon, .log, .net]
  | .retryTimeout _ _ => [.out, .fresh, .regs, .log, .net]
  | .ackIdleTimeout _ _ => [.out, .regs, .net]
  | .portLinkTrained _ _ => [.fresh, .net]
  | .portLinkLost _ _ => [.fresh, .regs, .log, .net]
  | .hostFrameDrop _ _ _ => [.out, .regs]
  | .spectralParityError _ _ => [.out, .fresh, .mem, .regs, .units, .plans, .press, .safety, .selftest, .aon, .log, .net]
  | .displayEncoderFault _ _ => [.fresh, .regs, .vat, .log]
  | .aonSensorRead _ _ => [.aon]
  | .wakLitChange _ _ => [.regs, .aon]

/-- The host link answers at this instant in IDLE or ACTIVE, no heartbeat age has run out, and no claim's reset is in progress
(R409–R411). -/
def LinkQuiet (s : State) : Prop := s.phase = .up ∧ hbDue s = false ∧ s.link.resetting = none

/-- The same with recovery, where the host link answers too (R443). -/
def LinkUp (s : State) : Prop := (s.phase = .up ∨ s.phase = .recovery) ∧ hbDue s = false ∧ s.link.resetting = none

/-- The host can write the registers of a page at this instant, in recovery those of the pages that work there (R443). -/
def HostCanUp (s : State) (w : Sender) (page : Nat) : Prop :=
  LinkUp s ∧ currentSession s w.session = true ∧ pageBusy s page = false ∧
    (match blockOf page with | some (b, _) => fusedPage s b = false ∧ deadPage s b = false | none => False)

/-- The host can write the registers of a page at this instant: the link is quiet, the sender states the current session (R405), MP
answers where it emulates the page (R417), and the page is not one of a fused-off part (R3). -/
def HostCan (s : State) (w : Sender) (page : Nat) : Prop :=
  LinkQuiet s ∧ currentSession s w.session = true ∧ pageBusy s page = false ∧
    (match blockOf page with | some (b, _) => fusedPage s b = false | none => False)

/-- A commit of a page is pending, and was written before this cycle (R416). -/
def CommitDue (s : State) (page : Nat) : Prop := (s.hdrOf page).cstate = .pending ∧ (s.hdrOf page).at? < s.clk.clock

/-- A pending commit has settled: its snapshot was applied whole, or refused whole (R414). -/
def Settled (a s : State) (page : Nat) : Prop :=
  (s.hdrOf page).cstate = .applied ∧ s.regs.force = (forceAll a (a.hdrOf page).snapshot).regs.force ∨
  (s.hdrOf page).cstate = .refused ∧ s.regs.force = a.regs.force

/-- A claim has been granted (R405–R407): a new session of a port, recorded in flash (R428), with the heartbeat age 0. -/
def Granted (a s : State) (port version : Nat) (warm : Bool) : Prop :=
  s.link.host = .claimed ∧ s.link.session = BitVec.ofNat 32 (nextSession a.aon.session) ∧ s.aon.session = nextSession a.aon.session ∧
    s.link.port = port ∧ s.link.version = version ∧ s.link.hbAt = s.clk.dev ∧ s.link.grant = grantWord 1 (if warm then 2 else 1) port version ∧
    s.rdN (sessionAt (nextSession a.aon.session)) 4 = toLE 4 (nextSession a.aon.session)

/-- Every byte outside the sector in which the new session is recorded reads as before (R403, R428). -/
def OnlySession (a s : State) : Prop :=
  ∀ x, x < sessionAt (nextSession a.aon.session) ∨ sessionAt (nextSession a.aon.session) + 65536 ≤ x → s.rd x = a.rd x

/-- A step as its tick begins it, on its first attempt (R307). -/
def freshStep (n tick : Nat) : StepRec :=
  { n := n, tick := tick, start := tick, built := false, replay := false, fail := none, declared := false, published := [], shed := false
    sets := [], waits := [], batches := [], proofs := [], holds := [], lost := false }

/-- What the tick does with the groups of a partition in order: those with HOLD members wait, the others assemble (R224). -/
def tickGroups (p : Nat) (gs : List Nat) (s : State) : State :=
  gs.foldl (fun s g => if (holdMembers s p g).isEmpty then assembleGroup s p g [] else startWait s p g) s

/-- The step builder runs once no group of the step waits (R318). -/
def runIfReady (p : Nat) (s : State) : State :=
  match (s.part p).step with
  | some st => if st.waits.isEmpty then buildStep s p else s
  | none => s

/-- The same after a HOLD wait: the step's start is its last assembly (R318). -/
def startStep (p : Nat) (s : State) : State :=
  match (s.part p).step with
  | some st => if st.waits.isEmpty then buildStep (s.modStep p (fun x => { x with start := max x.tick s.clk.dev })) p else s
  | none => s

/-- The stores of an item have landed (R312). -/
def Landed (a s : State) (r : Running) : Prop := s.mem = (partWrites a r.item.part r.writes).mem

/-- The sum of the products of an INT8 vector and column c of INT8 weight rows of 128, in memory (R77, R79). -/
def dotInt8 (m : Nat → Byte) (va wa rows c : Nat) : Int :=
  ((List.range rows).map (fun k => sext 8 (m (va + k)).toNat * sext 8 (m (wa + k * 128 + c)).toNat)).sum

/-- One log entry has been formed (R454). -/
def Logged (a s : State) (code : Nat) : Prop := ∃ e : LogEntry, s.log.queue = a.log.queue ++ [e] ∧ e.code = code ∧ e.time = a.clk.dev

/-- Whether a Sieve item's check of the watermarks fails when it starts, at an instant at which it may publish (R260, R336). -/
def sieveFails (s : State) (x : QItem) : Bool :=
  match x.item.sieve with
  | none => false
  | some d => match (runComp (runSieve (portOf s x.part) d)).1 with
    | .ok v => v.integrity && provedStep s x.part
    | .error _ => false

/-- A step is in progress that has neither failed nor been declared invalid, and its partition is not in the safe state (R338, R344). -/
def CanFail (s : State) (p : Nat) : Prop :=
  (s.part p).safe = none ∧ ∃ st, (s.part p).step = some st ∧ st.fail = none ∧ st.declared = false

/-- The step of a partition has failed at this instant, for a cause attributed to a unit or to none, and nothing of it is queued or
running any more (R338). -/
def HasFailed (s : State) (p code : Nat) (replayable : Bool) (u : Option UnitId) : Prop :=
  (∃ st, (s.part p).step = some st ∧ st.fail = some ⟨s.clk.dev, code, replayable, u⟩) ∧
  (∀ q ∈ allQueues, ∀ x ∈ s.queue q, x.part ≠ p) ∧ ∀ e ∈ s.plans.running, e.2.item.part ≠ p

/-- The outputs of a partition's step are declared invalid, and a safety-relevant partition is in the safe state (R343, R344). -/
def IsDeclared (s : State) (p : Nat) : Prop :=
  (∃ st, (s.part p).step = some st ∧ st.declared = true ∧ st.fail = none) ∧ (s.isSafety p = true → (s.part p).safe.isSome = true)

/-- The hardware has lowered a pair: its cap, the frequency chosen for it, and the frequency it has unless it is STOPPED (R25, R474). -/
def Lowered (a s : State) (i cap : Nat) : Prop :=
  (s.pair i).capHw = cap ∧ (s.pair i).next = min (a.pair i).next cap ∧
    (s.pair i).freq = if pairStopped a i then (a.pair i).freq else min (a.pair i).next cap

/-- A start has begun (R440–R442): with a kind and a cause, or as recovery at the sixth failure within 10 minutes; the host is UNCLAIMED, every partition
EMPTY, nothing runs and no pair has an owner. -/
def Began (s : State) (fails : List BootFail) (kind cause : Nat) : Prop :=
  (if 6 ≤ fails.length then s.phase = .recovery ∧ s.boot.start = ⟨3, cause, s.clk.clock⟩
    else s.phase = .starting ∧ s.boot.start = ⟨kind, cause, s.clk.clock⟩) ∧
  s.link.host = .unclaimed ∧ (∀ p, (s.part p).st = .empty) ∧ s.plans.running = [] ∧ ∀ i, (s.pair i).owner = 0xF

/-- The boot counter once the start in progress has failed (R441). -/
def failuresNow (s : State) : List BootFail := (⟨s.boot.running, s.aonTime⟩ :: s.aon.failures).take 6

/-- A start has failed: it has entered the boot counter, and a warm start with cause START_FAILED has begun, or recovery (R441, R442, R461). -/
def StartOver (a s : State) : Prop :=
  Began s ((failuresNow a).filter (fun f => decide (a.aonTime ≤ f.aonTime + 600000000000))) 2 7 ∧ s.aon.failures = failuresNow a

/-- The frequency chosen for a pair is the lowest of TARGET and its caps, and the pair has it unless it is STOPPED (R25, R467, R468). -/
def AtFrequency (s : State) (i : Nat) : Prop :=
  (s.pair i).next = pairFreq s i ∧ (pairStopped s i = false → (s.pair i).freq = pairFreq s i)

/-- A unit serves a logical core of its pair's owner (R290). -/
def Serves (s : State) (u p : Nat) : Prop := pairOwner s (u / 2) = p ∧ p < 8 ∧ (logicalOf s p u).isSome = true

end Machine

end Sys2Proof
end

