-- ==== Sys2Proof/Certificates/Slice0/Obligations.lean ====
section
/-! DEFINITION. The statements for the provers. -/

open Sys2Proof Sys2Proof.Machine

/-! ### The queue, reset, and what every command keeps -/

/-- A step takes the command at the front of the queue and runs it with the queue's rest; an empty queue idles (DESIGN CHOICE, log entry 6). -/
def Obligations.StepTakesTheFrontCommand : Prop :=
  (∀ (c : Instr) (s : State), step { s with pending := c :: s.pending } = exec c s) ∧
  (∀ s : State, s.pending = [] → step s = .next s)

/-- Right after reset the device is IDLE and UNCLAIMED with every partition EMPTY, every processor in RUN and memory with nothing listed
(R440, R407, R291). The values that the model names itself are not stated.
That reset is the instant of HOST_READY of a cold start is the model's choice (DESIGN CHOICE, log entry 7). -/
def Obligations.ResetIsIdleAndUnclaimed : Prop :=
  State.reset.pending = [] ∧ State.reset.phase = .up ∧ State.reset.link.host = .unclaimed ∧ State.reset.mem = [] ∧
    (∀ p : Fin 8, (State.reset.part p.val).st = .empty) ∧ (∀ i : Fin 3, (State.reset.proc i.val).st = .run) ∧
    (∀ i : Fin 20, (State.reset.pair i.val).owner = 0xF) ∧ (∀ i : Fin 4096, (State.reset.instarAt i.val).st = 0)

/-- Every command completes in every state: it answers a next state at the command's own instant, with the queue as it was (log
entry 1).
That a command whose occasion does not hold changes nothing but the clock is the model's choice (DESIGN CHOICE, log entry 9). -/
def Obligations.EveryCommandCompletes : Prop :=
  ∀ (i : Instr) (s : State), ∃ u, exec i s = .next u ∧ u.clk.clock = max s.clk.clock (timeOf i) ∧ u.pending = s.pending

/-- Every step keeps memory in its canonical form. -/
def Obligations.MemoryStaysCanonical : Prop :=
  ∀ s u : State, Memory.wf s.mem = true → step s = .next u → Memory.wf u.mem = true

/-- Memory is in canonical form right after reset. -/
def Obligations.MemoryCanonicalAtReset : Prop := Memory.wf State.reset.mem = true

/-- No step takes back an output, lets the reference clock or the log's sequence number fall, clears a fuse, or lowers MIN_SEC_VERSION
(R17, R432, R454). -/
def Obligations.NothingIsTakenBack : Prop :=
  ∀ s u : State, step s = .next u →
    s.out <+: u.out ∧ s.clk.clock ≤ u.clk.clock ∧ s.log.nextSeq ≤ u.log.nextSeq ∧ s.fuses.minSec ≤ u.fuses.minSec ∧
    { u.fuses with minSec := s.fuses.minSec } = s.fuses ∧ u.pending = s.pending.tail

/-- The frame of every command: a part of the state outside `touched` is as it was at the command's instant; where memory is outside it,
every byte reads as before. -/
def Obligations.CommandsKeepTheOtherParts : Prop :=
  ∀ (i : Instr) (s u : State), exec i s = .next u →
    (∀ f, f ∉ touched i → Same f (atTime (timeOf i) s) u) ∧ (.mem ∉ touched i → ∀ a, u.rd a = s.rd a)

/-! ### Supply, sleep, starts, processors -/

/-- A supply outside its range takes every domain and all that lies below the flash (R516, R438); a supply that comes within range
begins a cold start, which resumes the session number from the highest one recorded in flash (R428), no sooner than 10 ms after the module went OFF
(R517); a sensor at 115 °C puts the device to SLEEP, where wakes wait for the AON sensor to read 95 °C or below, and enters the fault history (R473).
Completion of: SUPPLY_OFF, SUPPLY_IN_RANGE, THERMAL_SHUTDOWN.
Three clauses are the model's choice: what memory below the flash reads after the loss (DESIGN CHOICE, log entry 5), the session record's layout (DESIGN
CHOICE, log entry 70), and the fault record of 0x8102 (DEDUCED, log entry 24). -/
def Obligations.SupplyAndShutdown : Prop :=
  (∀ (t : Nat) (s : State), ∃ u, exec (.supplyOff t) s = .next u ∧ u.phase = .off ∧ u.clk.dev = 0 ∧
    (∀ a, flashBase ≤ a → u.rd a = s.rd a) ∧ (∀ a, a < flashBase → u.rd a = 0)) ∧
  (∀ (t : Nat) (s : State), s.phase = .off →
    (s.boot.offAt + 10000000 ≤ (atTime t s).clk.clock →
      ∃ u, exec (.supplyInRange t) s = .next u ∧ u.phase = .starting ∧ u.boot.start = ⟨1, 0, u.clk.clock⟩ ∧
        u.aon.session = recordedSession (atTime t s)) ∧
    ((atTime t s).clk.clock < s.boot.offAt + 10000000 → exec (.supplyInRange t) s = .next (atTime t s))) ∧
  (∀ (t : Nat) (sensor : Fin 16) (temp : Int) (s : State), s.phase ≠ .off → s.phase ≠ .sleep → 460 ≤ temp →
    ∃ u, exec (.thermalShutdown t sensor temp) s = .next u ∧ u.phase = .sleep ∧ u.aon.hot = decide (380 < s.aon.aonTemp) ∧
      u.aon.sleepFrom = u.clk.clock ∧ u.aon.faults = s.aon.faults ++ [⟨0xFF, none, 0x8102⟩] ∧
      (∀ a, flashBase ≤ a → u.rd a = s.rd a) ∧ (∀ a, a < flashBase → u.rd a = 0))

/-- What wakes the device: 10 ms of light, the sleep timer, and at HOST_READY the pattern of R447 after its trailing dark; each begins a warm start that
names its cause (R446, R447), or recovery where the boot counter holds six recent failures (R442). In recovery the pattern starts nothing (R443). A change
of light on WAK is noted with its instant, one within two AON clock periods of the last is none (R521). In the SLEEP of a thermal shutdown wakes wait while
the AON sensor reads above 95 °C (R473).
Completion of: WAK_LIGHT_WAKE, SLEEP_TIMER_EXPIRY, WAKE_PATTERN, WAK_LIT_CHANGE, AON_SENSOR_READ.
That the sleep timer stands still meanwhile is the model's reading (DEDUCED, log entry 77). -/
def Obligations.SleepAndWake : Prop :=
  (∀ (t : Nat) (s : State), s.phase = .sleep → s.aon.hot = false → s.aon.wake.lit = true →
    s.aon.wake.since + 10000000 ≤ (atTime t s).clk.clock →
    ∃ u, exec (.wakLightWake t) s = .next u ∧ Began u (recentFails (atTime t s)) 2 2 ∧ u.aon.wakeLast = 1) ∧
  (∀ (t : Nat) (s : State), s.phase = .sleep → s.aon.hot = false → s.aon.sleepTimer ≠ 0 →
    s.aon.sleepFrom + s.aon.sleepTimer * 1000000000 ≤ (atTime t s).clk.clock →
    ∃ u, exec (.sleepTimerExpiry t) s = .next u ∧ Began u (recentFails (atTime t s)) 2 3 ∧ u.aon.wakeLast = 2) ∧
  (∀ (t : Nat) (s : State), s.phase = .up → s.boot.patternEn = true →
    s.aon.wake.bits = some [1, 0, 1, 1, 0, 0, 1] → s.aon.wake.lit = false →
    s.aon.wake.since + 20000000 ≤ (atTime t s).clk.clock →
    ∃ u, exec (.wakePattern t) s = .next u ∧ Began u (recentFails (atTime t s)) 2 4 ∧ u.aon.wakeLast = 3) ∧
  (∀ (t : Nat) (s : State), s.phase = .recovery → exec (.wakePattern t) s = .next (atTime t s)) ∧
  (∀ (t : Nat) (lit : Bool) (s : State), s.phase ≠ .off → s.aon.wake.lit ≠ lit →
    (2 ≤ aonPeriods (atTime t s) s.aon.wake.changed →
      ∃ u, exec (.wakLitChange t lit) s = .next u ∧ u.aon.wake.lit = lit ∧ u.aon.wake.since = u.clk.clock ∧
        (s.phase = .sleep → u.aon.wake.bits = none)) ∧
    (aonPeriods (atTime t s) s.aon.wake.changed < 2 → exec (.wakLitChange t lit) s = .next (atTime t s))) ∧
  (∀ (t : Nat) (temp : Int) (s : State), s.phase ≠ .off →
    ∃ u, exec (.aonSensorRead t temp) s = .next u ∧ u.aon.aonTemp = temp ∧
      (if s.aon.hot = true ∧ temp ≤ 380 then u.aon.hot = false ∧ u.aon.sleepFrom = s.aon.sleepFrom + (u.clk.clock - s.aon.hotFrom) ∧
          u.aon.wake.since = u.clk.clock
        else if s.aon.hot = false ∧ 380 < temp ∧ s.phase = .sleep ∧ s.aon.owedShutdown = true then
          u.aon.hot = true ∧ u.aon.hotFrom = u.clk.clock
        else u.aon = { s.aon with aonTemp := temp }))

/-- A start whose slot has passed the ROM's checks ends at HOST_READY with the device IDLE, the sentinel on and every processor in RUN from the slot
that was started (R436, R440): the host as the start's beginning left it, UNCLAIMED, and every partition EMPTY where the start began with nothing loaded,
as it does. One whose slot fails them never reaches it: it has failed (R431, R441). A start that fails, or that has not reached HOST_READY after 5 s,
enters the boot counter with its slot and AON time and begins a warm start, or recovery at the sixth failure within 10 minutes (R441, R442). After 60 s at
HOST_READY a start is good and clears the boot counter (R441).
Completion of: HOST_READY, START_FAILED, ROM_WATCHDOG, START_GOOD.
Model readings it rests on: log entry 10 (DESIGN CHOICE), log entry 41 (DEDUCED). -/
def Obligations.StartsEndOrFail : Prop :=
  (∀ (t : Nat) (found : StartReport) (s : State), s.phase = .starting →
    (s.boot.romCode = none →
      ∃ u, exec (.hostReady t found) s = .next u ∧ u.phase = .up ∧ u.boot.readyAt = u.clk.clock ∧ u.safety.sentinelOn = true ∧
        (∀ i : Fin 3, (u.proc i.val).st = .run ∧ (u.proc i.val).slot = s.boot.running) ∧ u.link.host = s.link.host ∧
        (s.plans.running = [] → (∀ i, (s.pair i).owner = 0xF) → (∀ p, (s.part p).st = .empty) → ∀ p, (u.part p).st = .empty)) ∧
    (s.boot.romCode ≠ none → ∃ u, exec (.hostReady t found) s = .next u ∧ StartOver (atTime t s) u)) ∧
  (∀ (t : Nat) (why : FailCause) (reached : Fin 10) (found : StartReport) (s : State), s.phase = .starting →
    ∃ u, exec (.startFailed t ⟨why, reached, found⟩) s = .next u ∧ StartOver (atTime t s) u) ∧
  (∀ (t : Nat) (reached : Fin 10) (found : StartReport) (s : State), s.phase = .starting →
    s.boot.start.begun + 5000000000 ≤ (atTime t s).clk.clock →
    ∃ u, exec (.romWatchdog ⟨t, reached, found⟩) s = .next u ∧ StartOver (atTime t s) u) ∧
  (∀ (t : Nat) (s : State), s.phase = .up → s.boot.good = false → s.boot.readyAt + 60000000000 ≤ (atTime t s).clk.clock →
    exec (.startGood t) s =
      .next { atTime t s with boot := { s.boot with good := true }, aon := { s.aon with failures := [] } })

/-- A processor whose watchdog expires or that reports a fatal trap halts for a restart with a dump (R449, R452). An SP lockstep mismatch does so for SP,
and takes the device and every safety-relevant partition into the safe state (R344, R346, R348). Where nothing else waits for it and its component's hash
is right, a processor returns to RUN from the slot that PREFERRED names (R431, R442); a wrong hash, a restart that takes 500 ms or the fourth within
60 s begins a warm start with cause WATCHDOG (R451), at no recent failure.
Completion of: PROC_WATCHDOG_EXPIRY, FATAL_TRAP, SP_LOCKSTEP_MISMATCH, PROC_RESTART_COMPLETE, RESTART_ESCALATION. -/
def Obligations.ProcessorRestarts : Prop :=
  (∀ (t : Nat) (i : Fin 3) (s : State), s.phase = .up → (s.proc i.val).st = .run →
    (∃ u, exec (.procWatchdogExpiry t i) s = .next u ∧ (u.proc i.val).st = .restarting ∧ (u.proc i.val).cause = 3 ∧
      (u.proc i.val).since = u.clk.clock ∧ (u.proc i.val).dump.isSome = true ∧
      (u.proc i.val).dumpSeq = (s.proc i.val).dumpSeq + 1) ∧
    (∃ u, exec (.fatalTrap t i) s = .next u ∧ (u.proc i.val).st = .restarting ∧ (u.proc i.val).cause = 5 ∧
      (u.proc i.val).since = u.clk.clock ∧ (u.proc i.val).dump.isSome = true ∧
      (u.proc i.val).dumpSeq = (s.proc i.val).dumpSeq + 1)) ∧
  (∀ (t : Nat) (s : State), s.phase = .up → (s.proc 1).st = .run →
    ∃ u, exec (.spLockstepMismatch t) s = .next u ∧ (u.proc 1).st = .restarting ∧ (u.proc 1).cause = 4 ∧
      (u.proc 1).since = u.clk.clock ∧ (u.proc 1).dump.isSome = true ∧ (u.proc 1).dumpSeq = (s.proc 1).dumpSeq + 1 ∧
      u.safety.dev = (if s.safety.dev = 0 then 1 else s.safety.dev) ∧
      ∀ p, p < 8 → s.isSafety p = true → (u.part p).safe.isSome = true) ∧
  (∀ (t : Nat) (i : Fin 3) (s : State), (s.proc i.val).st = .restarting →
    (loadOk s i.val = true → s.boot.live = none → s.boot.activate = none →
      ∃ u, exec (.procRestartComplete t i) s = .next u ∧ (u.proc i.val).st = .run ∧ (u.proc i.val).slot = s.boot.preferred ∧
        (i.val = 1 → u.safety.hold = none)) ∧
    (loadOk s i.val = false → s.aon.failures = [] →
      ∃ u, exec (.procRestartComplete t i) s = .next u ∧ u.phase = .starting ∧ u.boot.start = ⟨2, 5, u.clk.clock⟩)) ∧
  (∀ (t : Nat) (i : Fin 3) (badHash : Bool) (s : State), s.phase = .up → (s.proc i.val).st = .restarting →
    badHash = true ∨ (s.proc i.val).since + 500000000 ≤ (atTime t s).clk.clock ∨
      4 ≤ ((s.proc i.val).restarts.filter (fun x => decide ((atTime t s).clk.dev < x + 60000000000))).length →
    s.aon.failures = [] →
    ∃ u, exec (.restartEscalation t i badHash) s = .next u ∧ u.phase = .starting ∧ u.boot.start = ⟨2, 5, u.clk.clock⟩)

/-- The oldest log entry enters the flash log at entry n's address, its 32 bytes and no other (R454); a new dump enters the oldest slot of
the dump ring (R452).
Completion of: LOG_COPY, DUMP_COPY. -/
def Obligations.CopiesToFlash : Prop :=
  (∀ (t : Nat) (s : State) (e : LogEntry) (r : List LogEntry), s.phase = .up → (s.proc 0).st = .run → s.log.queue = e :: r →
    Memory.wf s.mem = true →
    ∃ u, exec (.logCopy t) s = .next u ∧ u.log.queue = r ∧ u.log.nextSeq = s.log.nextSeq + 1 ∧
      u.rdN (flashBase + 0x0CD00000 + s.log.nextSeq % 262144 * 32) 32 = logBytes s.log.nextSeq e ∧
      (∀ a, a < flashBase + 0x0CD00000 + s.log.nextSeq % 262144 * 32 ∨
        flashBase + 0x0CD00000 + s.log.nextSeq % 262144 * 32 + 32 ≤ a → u.rd a = s.rd a)) ∧
  (∀ (t : Nat) (i : Fin 3) (s : State) (d : Dump), s.phase = .up → (s.proc 0).st = .run → (s.proc i.val).st = .run →
    (s.proc i.val).dump = some d → (s.proc i.val).dumpNew = true →
    ∃ u, exec (.dumpCopy t i) s = .next u ∧ (s.boot.dumpNext, d) ∈ u.boot.dumpRing ∧ (u.proc i.val).dumpNew = false ∧
      u.boot.dumpNext = (s.boot.dumpNext + 1) % 32)

/-- A slot's check ends VERIFIED, or REFUSED with the check's code in PAGE_ERR (R455). A deferred activation begins 1 s after the last emergency has
cleared, once every processor runs (R457, R459): in MODE WARM as a warm start with cause ACTIVATION, in MODE LIVE with PREFERRED switched (R456); until
then it waits.
Completion of: SLOT_VERIFIED, ACTIVATION_DEFERRED_START. -/
def Obligations.ChecksAndActivationsEnd : Prop :=
  (∀ (t : Nat) (s : State) (c : Nat) (arg : Word), s.boot.busy = some (c, arg) → s.phase = .recovery ∨ s.phase = .up ∧ (s.proc 0).st = .run →
    ∃ u, exec (.slotVerified t) s = .next u ∧ u.boot.busy = none ∧
      (imageCheck (atTime t s) (bit arg.toNat 0) = none → slotSt u (bit arg.toNat 0) = .verified ∧ u.regs = s.regs) ∧
      (∀ code, imageCheck (atTime t s) (bit arg.toNat 0) = some code → slotSt u (bit arg.toNat 0) = .refused ∧
        ((s.hdrOf 3).errValid = false → (u.hdrOf 3).errValid = true ∧ (u.hdrOf 3).errSource = 2 ∧ (u.hdrOf 3).errCode = code))) ∧
  (∀ (t : Nat) (s : State) (mode : Nat), s.phase = .up → s.boot.activate = some mode →
    (activationDue (atTime t s) = true → ∃ u, exec (.activationDeferredStart t) s = .next u ∧ u.boot.activate = none ∧
      (mode = 1 → Began u (recentFails (atTime t s)) 2 6) ∧
      (mode = 0 → u.phase = .up ∧ u.boot.preferred = !s.boot.running)) ∧
    (activationDue (atTime t s) = false → exec (.activationDeferredStart t) s = .next (atTime t s)))

/-! ### Power and heat -/

/-- An emergency acts at once (R472, R474): SUPPLY takes every pair to FREQ_STEP 16, CURRENT lowers every pair by 8 steps but not below
16; THERMAL begins the throttling of the sensor's quadrant, whose pairs' hardware cap then goes two steps down, not below FREQ_STEP 16,
while the pairs of the other quadrants are left, as long as a sensor of the quadrant reads 105 °C or more. A pair that is STOPPED takes its frequency at its
next wake (R25). An emergency ends when its condition clears, THERMAL once every sensor of the device reads 100 °C or below; with the last one the second
of R457 begins. A current below the rail's fused maximum is no emergency (R464, R474).
Completion of: SUPPLY_EMERGENCY, CURRENT_EMERGENCY, THERMAL_THROTTLE_START, THERMAL_THROTTLE_STEP, SUPPLY_EMERGENCY_CLEAR, CURRENT_EMERGENCY_CLEAR,
THERMAL_THROTTLE_CLEAR. That CURRENT counts from the frequency chosen last is the model's reading (DEDUCED, log entry 38). -/
def Obligations.EmergenciesActAndClear : Prop :=
  (∀ (t : Nat) (s : State), s.phase ≠ .off → s.phase ≠ .sleep → s.power.emSupply = false →
    ∃ u, exec (.supplyEmergency t) s = .next u ∧ u.power.emSupply = true ∧ ∀ i ∈ livePairs s, Lowered (atTime t s) u i 16) ∧
  (∀ (t : Nat) (rail : Fin 5) (mA : Nat) (s : State), s.phase ≠ .off → s.phase ≠ .sleep → s.power.emCurrent.elem rail.val = false →
    (railMa s rail.val ≤ mA →
      ∃ u, exec (.currentEmergency t ⟨rail, mA⟩) s = .next u ∧ rail.val ∈ u.power.emCurrent ∧
        ∀ i ∈ livePairs s, Lowered (atTime t s) u i (max 16 ((s.pair i).next - 8))) ∧
    (mA < railMa s rail.val → exec (.currentEmergency t ⟨rail, mA⟩) s = .next (atTime t s))) ∧
  (∀ (t : Nat) (sensor : Fin 16) (temp : Int) (s : State), s.phase ≠ .off → s.phase ≠ .sleep → 420 ≤ temp →
    s.power.throttled.elem (sensor.val / 4) = false →
    ∃ u, exec (.thermalThrottleStart t sensor temp) s = .next u ∧ sensor.val / 4 ∈ u.power.throttled ∧
      sensor.val / 4 ∈ u.power.emThermal ∧ u.power.sensors.getD sensor.val 0 = temp) ∧
  (∀ (t : Nat) (q : Fin 4) (s : State), s.power.throttled.elem q.val = true →
    ((∃ v ∈ sensorsOf s q.val, 420 ≤ v) →
      ∃ u, exec (.thermalThrottleStep t q) s = .next u ∧
        (∀ i ∈ livePairs s, i / 5 = q.val → Lowered (atTime t s) u i (max 16 ((s.pair i).capHw - 2))) ∧
        (∀ i, i / 5 ≠ q.val → u.pair i = s.pair i)) ∧
    ((∀ v ∈ sensorsOf s q.val, v < 420) → exec (.thermalThrottleStep t q) s = .next (atTime t s))) ∧
  (∀ (t : Nat) (s : State), s.power.emSupply = true →
    ∃ u, exec (.supplyEmergencyClear t) s = .next u ∧ u.power = { s.power with emSupply := false } ∧
      (s.power.emCurrent = [] → s.power.emThermal = [] → u.boot.emergClear = some u.clk.clock)) ∧
  (∀ (t : Nat) (rail : Fin 5) (s : State), s.power.emCurrent.elem rail.val = true →
    ∃ u, exec (.currentEmergencyClear t rail) s = .next u ∧
      u.power = { s.power with emCurrent := s.power.emCurrent.filter (· != rail.val) } ∧
      (s.power.emSupply = false → s.power.emCurrent = [rail.val] → s.power.emThermal = [] → u.boot.emergClear = some u.clk.clock)) ∧
  (∀ (t : Nat) (q : Fin 4) (temps : List Int) (s : State), s.power.throttled.elem q.val = true → temps.length = 4 →
    (∀ v ∈ temps, v ≤ 400) →
    ∃ u, exec (.thermalThrottleClear t q temps) s = .next u ∧ q.val ∉ u.power.throttled ∧
      (if (∀ k ∈ s.power.throttled, k = q.val) ∧ ∀ k : Fin 16, k.val / 4 ≠ q.val → s.power.sensors.getD k.val 0 ≤ 400 then
          u.power.emThermal = [] ∧
            (s.power.emSupply = false → s.power.emCurrent = [] → s.power.emThermal ≠ [] → u.boot.emergClear = some u.clk.clock)
        else u.power.emThermal = s.power.emThermal))

/-- After MP's power pass, thermal pass and hint pass the frequency chosen for every enabled, unfenced pair is the lowest of TARGET and its three
caps, and one in RUN is at it (R25, R467, R468); the pass holds what it was told (R465, R471, R475). The slope limiter keeps the floor F as the larger of
I_work and F − S per microsecond while FILL_EN is 1 (R476).
Completion of: POWER_LOOP, THERMAL_LOOP, HEAVY_PHASE_HINT_WINDOW, FILLER_UPDATE.
Model readings it rests on: log entry 37 (DEDUCED), log entry 39 (DEDUCED). -/
def Obligations.LoopsSetFrequencies : Prop :=
  (∀ (t : Nat) (m : PowerSample) (s : State), s.phase = .up → (s.proc 0).st = .run →
    ∃ u, exec (.powerLoop t m) s = .next u ∧ u.power.vin = m.vin ∧ u.power.iin = m.iin ∧
      u.power.hist = (m.vin * m.iin :: s.power.hist).take 10000 ∧ ∀ i ∈ runPairs u, AtFrequency u i) ∧
  (∀ (t : Nat) (q : Fin 4) (temps : List Int) (s : State), s.phase = .up → (s.proc 0).st = .run → temps.length = 4 →
    ∃ u, exec (.thermalLoop t q temps) s = .next u ∧ (∀ k : Fin 4, u.power.sensors.getD (4 * q.val + k.val) 0 = temps.getD k.val 0) ∧
      ∀ i ∈ runPairs u, AtFrequency u i) ∧
  (∀ (t : Nat) (p : Fin 8) (idx : Nat) (w : HintWindow) (s : State), s.phase = .up → (s.proc 0).st = .run → emergency s = false →
    (s.power.windows.filter (fun w => w.part == p.val))[idx]? = some w → w.opened = false →
    w.startNs ≤ (atTime t s).clk.dev + 200000 → (atTime t s).clk.dev < w.endNs →
    ∃ u, exec (.heavyPhaseHintWindow t p idx) s = .next u ∧ { w with opened := true } ∈ u.power.windows ∧
      ∀ i ∈ runPairs u, AtFrequency u i) ∧
  (∀ (t iWork : Nat) (s : State), s.phase = .up →
    ∃ u, exec (.fillerUpdate t iWork) s = .next u ∧ u.power.iWork = iWork ∧
      u.power.floor = (if bit (s.inForce (addr 0x1E0 0x048)) 31
        then max iWork (s.power.floor - bits (s.inForce (addr 0x1E0 0x048)) 7 0 * 100) else iWork))

/-! ### Host frames -/

/-- A REG_REQ or BULK_WRITE whose PORT, TAG and SESSION equal those of a kept answer is not carried out again: that answer is sent again
(R398), and nothing but counters changes. -/
def Obligations.RequestsAreNotRepeated : Prop :=
  (∀ (t : Nat) (port : Fin 2) (f : HostFrame) (s : State) (r : HostReq) (a : Bytes),
    hostRx (atTime t s) port.val f = .good r → r.typ = 1 → keptAnswer s.link.kept port.val r = some a →
    ∃ u, exec (.regReq t port f) s = .next u ∧ u.out = s.out ++ [.host port.val f.src (portTag s port.val) a] ∧
      u.regs = { s.regs with counters := u.regs.counters } ∧ ∀ g, g ≠ .out → g ≠ .regs → Same g (atTime t s) u) ∧
  (∀ (t : Nat) (port : Fin 2) (f : HostFrame) (s : State) (r : HostReq) (a : Bytes),
    hostRx (atTime t s) port.val f = .good r → r.typ = 5 → keptAnswer s.link.keptBulk port.val r = some a →
    ∃ u, exec (.bulkWrite t port f) s = .next u ∧ u.out = s.out ++ [.host port.val f.src (portTag s port.val) a] ∧
      u.regs = { s.regs with counters := u.regs.counters } ∧ ∀ g, g ≠ .out → g ≠ .regs → Same g (atTime t s) u)

/-- A REG_REQ of one operation (R394–R397, R412, R413): a WRITE of a RWS register sets its shadow and no value in force, a WRITE of a RW
register sets the value in force, a READ of PAGE_ID names the page; the answer repeats the operation with RESULT 0. A payload that is no
whole number of operations gets CODE 0x9009.
Completion of: REG_REQ.
Model readings it rests on: log entry 32 (DEDUCED). -/
def Obligations.RegReqIsAnswered : Prop :=
  ∀ (t : Nat) (port : Fin 2) (f : HostFrame) (s : State) (r : HostReq) (page off first : Nat) (b : Block),
    hostRx (atTime t s) port.val f = .good r → r.typ = 1 → keptAnswer s.link.kept port.val r = none →
    (r.payload.length = 12 → be r.payload 4 4 = addr page off → blockOf page = some (b, first) → off < 4096 → off % 4 = 0 →
      (be r.payload 0 1 = 2 → HostCanUp (atTime t s) ⟨port, BitVec.ofNat 32 r.session⟩ page → 0x040 ≤ off → accOf b off = .rws →
        ∃ u, exec (.regReq t port f) s = .next u ∧ u.shadowOf (regKey (atTime t s) b page off) = be r.payload 8 4 % 2 ^ 32 ∧
          u.regs.force = s.regs.force ∧
          u.out = s.out ++ [.host port.val f.src (portTag s port.val) (hostFrame 2 0 r.tag r.session 0
            (toBE 1 2 ++ toBE 1 0 ++ toBE 2 0 ++ toBE 4 (addr page off) ++ toBE 4 (be r.payload 8 4 % 2 ^ 32)))]) ∧
      (be r.payload 0 1 = 2 → HostCanUp (atTime t s) ⟨port, BitVec.ofNat 32 r.session⟩ page → 0x040 ≤ off → accOf b off = .rw →
        ∃ u, exec (.regReq t port f) s = .next u ∧ u.inForce (regKey (atTime t s) b page off) = be r.payload 8 4 % 2 ^ 32 ∧
          u.regs.shadow = s.regs.shadow ∧
          u.out = s.out ++ [.host port.val f.src (portTag s port.val) (hostFrame 2 0 r.tag r.session 0
            (toBE 1 2 ++ toBE 1 0 ++ toBE 2 0 ++ toBE 4 (addr page off) ++ toBE 4 (be r.payload 8 4 % 2 ^ 32)))]) ∧
      (be r.payload 0 1 = 1 → LinkUp (atTime t s) → off = 0 →
        ∃ u, exec (.regReq t port f) s = .next u ∧ u.regs.force = s.regs.force ∧ u.regs.shadow = s.regs.shadow ∧
          u.out = s.out ++ [.host port.val f.src (portTag s port.val) (hostFrame 2 0 r.tag r.session 0
            (toBE 1 1 ++ toBE 1 0 ++ toBE 2 0 ++ toBE 4 (addr page off) ++ toBE 4 (first * 2 ^ 16 + (page - first) * 2 ^ 8 + 1)))])) ∧
    (regFits r.payload = false →
      ∃ u, exec (.regReq t port f) s = .next u ∧ u.mem = s.mem ∧ u.regs.force = s.regs.force ∧ u.regs.shadow = s.regs.shadow ∧
        u.out = s.out ++ [.host port.val f.src (portTag s port.val) (hostFrame 2 0 r.tag r.session 0x9009 [])])

/-- A good BULK_READ that can be reached, fewer than four of its port and session being outstanding, is answered with its range's bytes, in order, in
frames of at most the port's size (R400–R404); one that cannot, or a fifth, is answered once, with its CODE and COUNT 0. Memory is left.
Completion of: BULK_READ.
Model readings it rests on: log entry 35 (DEDUCED). -/
def Obligations.BulkReadsAnswerTheirBytes : Prop :=
  ∀ (t : Nat) (port : Fin 2) (f : HostFrame) (s : State) (r : HostReq),
    hostRx (atTime t s) port.val f = .good r → r.typ = 3 → LinkUp (atTime t s) → r.payload.length = 16 →
    (parseBulk r.payload).count % 4 = 0 → 4 ≤ (parseBulk r.payload).count → (parseBulk r.payload).count ≤ 2 ^ 22 →
    (parseBulk r.payload).offset % 4 = 0 →
    (readsOut (atTime t s) port.val r.session < 4 → rangeCode (atTime t s) (parseBulk r.payload) = none →
      ∃ u, exec (.bulkRead t port f) s = .next u ∧ u.mem = s.mem ∧
        u.out = s.out ++ (dataFrames (bulkMax s port.val) r (parseBulk r.payload) (parseBulk r.payload).count (parseBulk r.payload).offset
          ((List.range (parseBulk r.payload).count).map (fun i =>
            bulkByte (atTime t s) (parseBulk r.payload) ((parseBulk r.payload).offset + i)))).map
              (fun x => .host port.val f.src (portTag s port.val) x)) ∧
    (∀ code, readsOut (atTime t s) port.val r.session < 4 → rangeCode (atTime t s) (parseBulk r.payload) = some code →
      ∃ u, exec (.bulkRead t port f) s = .next u ∧ u.mem = s.mem ∧
        u.out = s.out ++ [.host port.val f.src (portTag s port.val)
          (hostFrame 4 2 r.tag r.session code (bulkBytes { parseBulk r.payload with count := 0 }))]) ∧
    (4 ≤ readsOut (atTime t s) port.val r.session →
      ∃ u, exec (.bulkRead t port f) s = .next u ∧ u.mem = s.mem ∧
        u.out = s.out ++ [.host port.val f.src (portTag s port.val)
          (hostFrame 4 2 r.tag r.session 0x9024 (bulkBytes { parseBulk r.payload with count := 0 }))])

/-- A good BULK_WRITE to DRAM writes its bytes and no others and is acknowledged; one to the flash waits for FLASH_PROGRAM_COMPLETE, which
programs the oldest: the bytes stand at their offset, nothing outside the sectors they touch changes, and the BULK_ACK leaves (R400–R405). In recovery
window 2 works and DRAM is off (R443).
Completion of: BULK_WRITE, FLASH_PROGRAM_COMPLETE.
Model readings it rests on: log entry 35 (DEDUCED). -/
def Obligations.BulkWritesReachTheirMemory : Prop :=
  (∀ (t : Nat) (port : Fin 2) (f : HostFrame) (s : State) (r : HostReq),
    hostRx (atTime t s) port.val f = .good r → r.typ = 5 → LinkUp (atTime t s) → keptAnswer s.link.keptBulk port.val r = none →
    waitingFor s port.val (fun q => q.session == r.session) = [] → currentSession s (BitVec.ofNat 32 r.session) = true →
    16 ≤ r.payload.length → (parseBulk r.payload).count % 4 = 0 → (parseBulk r.payload).offset % 4 = 0 →
    (r.payload.drop 16).length = (parseBulk r.payload).count → (parseBulk r.payload).count ≤ bulkMax s port.val →
    bulkWriteCode (atTime t s) (parseBulk r.payload) = none → Memory.wf s.mem = true →
    ((parseBulk r.payload).window = 0 →
      ∃ u, exec (.bulkWrite t port f) s = .next u ∧
        u.rdN (dramFrame 4096 + (parseBulk r.payload).offset) (parseBulk r.payload).count = r.payload.drop 16 ∧
        (∀ a, a < dramFrame 4096 + (parseBulk r.payload).offset ∨
          dramFrame 4096 + (parseBulk r.payload).offset + (parseBulk r.payload).count ≤ a → u.rd a = s.rd a) ∧
        u.out = s.out ++ [.host port.val f.src (portTag s port.val)
          (hostFrame 6 0 r.tag r.session 0 (bulkBytes (parseBulk r.payload)))]) ∧
    ((parseBulk r.payload).window = 2 →
      ∃ u, exec (.bulkWrite t port f) s = .next u ∧ u.link.flashWait = s.link.flashWait ++ [(port.val, f)] ∧ u.mem = s.mem ∧ u.out = s.out)) ∧
  (∀ (t : Nat) (s : State) (port : Nat) (f : HostFrame) (rest : List (Nat × HostFrame)) (r : HostReq),
    s.phase = .recovery ∨ s.phase = .up ∧ (s.proc 0).st = .run → s.link.flashWait = (port, f) :: rest → parseHost f.payload = .good r →
    (r.payload.drop 16).length = (parseBulk r.payload).count → Memory.wf s.mem = true →
    ∃ u, exec (.flashProgramComplete t) s = .next u ∧ u.link.flashWait = rest ∧
      u.rdN (flashBase + (parseBulk r.payload).offset) (parseBulk r.payload).count = r.payload.drop 16 ∧
      (∀ a, a < flashBase + (parseBulk r.payload).offset ∨
        flashBase + ((parseBulk r.payload).offset + (parseBulk r.payload).count + 65535) / 65536 * 65536 ≤ a → u.rd a = s.rd a) ∧
      u.out = s.out ++ [.host port f.src (portTag s port) (hostFrame 6 0 r.tag r.session 0 (bulkBytes (parseBulk r.payload)))])

/-- Frames that no row takes: a frame for another EtherType, tag or size is counted in HOST_CNT_DROP, a bad header or CRC in
HOST_CNT_BADCRC, one whose FCS is bad in PORT_CNT_FCS of its port, without an answer (R390, R393, R525). A reserved TYPE gets CODE 0x9009; that the answer is a REG_RSP is the model's reading
(DEDUCED, log entry 32).
Completion of: HOST_FRAME_DROP. -/
def Obligations.FramesThatNoneTakes : Prop :=
  ∀ (t : Nat) (port : Fin 2) (f : HostFrame) (s : State),
    (hostRx (atTime t s) port.val f = .dropped → ∃ u, exec (.hostFrameDrop t port f) s = .next u ∧ u.out = s.out ∧
      u.counter 1 0x0A0 = (s.counter 1 0x0A0 + 1) % 2 ^ 64 ∧ ∀ g, g ≠ .regs → Same g (atTime t s) u) ∧
    (hostRx (atTime t s) port.val f = .garbled → ∃ u, exec (.hostFrameDrop t port f) s = .next u ∧ u.out = s.out ∧
      u.counter (pgPort (8 + port.val)) 0x060 = (s.counter (pgPort (8 + port.val)) 0x060 + 1) % 2 ^ 64 ∧
      ∀ g, g ≠ .regs → Same g (atTime t s) u) ∧
    (hostRx (atTime t s) port.val f = .bad → ∃ u, exec (.hostFrameDrop t port f) s = .next u ∧ u.out = s.out ∧
      u.counter 1 0x098 = (s.counter 1 0x098 + 1) % 2 ^ 64 ∧ ∀ g, g ≠ .regs → Same g (atTime t s) u) ∧
    (∀ r, hostRx (atTime t s) port.val f = .good r → r.typ ≠ 1 → r.typ ≠ 3 → r.typ ≠ 5 →
      ∃ u, exec (.hostFrameDrop t port f) s = .next u ∧ (∀ g, g ≠ .out → g ≠ .regs → Same g (atTime t s) u) ∧
        u.out = s.out ++ [.host port.val f.src (portTag s port.val) (hostFrame 2 0 r.tag r.session 0x9009 [])])

/-! ### Claims -/

/-- A claim over a quiet link that a version fits is granted, in recovery too (R405–R407, R443): a session number of its own, which is recorded in flash first (R428), the
heartbeat age 0, the partitions left as they are; in CLAIMED a CLAIM is refused and the session stays. Of two CLAIMs of one instant H0's is granted, so
that H1's beside it is refused (R411).
Completion of: CLAIM, TAKEOVER, RELEASE.
Model readings it rests on: log entry 33 (DEDUCED), log entry 70 (DESIGN CHOICE, the place of the record). -/
def Obligations.ClaimsAreGranted : Prop :=
  (∀ (t : Nat) (port : Fin 2) (s : State) (warm : Bool) (v : Nat), LinkUp (atTime t s) → s.link.h0First = false →
    warm = (List.range 8).any (fun p => (s.part p).st != .empty) → claimVersion s warm = some v →
    (s.link.host ≠ .claimed → port = 0 ∨ h0Claims (atTime t s) t = false →
      ∃ u, exec (.claim t port) s = .next u ∧ Granted s u port.val v warm ∧ u.plans = s.plans ∧ OnlySession s u) ∧
    (s.link.host ≠ .unclaimed →
      ∃ u, exec (.takeover t port) s = .next u ∧ Granted s u port.val v warm ∧ u.plans = s.plans ∧ OnlySession s u)) ∧
  (∀ (t : Nat) (port : Fin 2) (s : State), LinkUp (atTime t s) → s.link.host = .claimed →
    ∃ u, exec (.claim t port) s = .next u ∧ u.link = { s.link with grant := grantWord 3 0 port.val 0 } ∧ u.plans = s.plans) ∧
  (∀ (t : Nat) (s : State), LinkUp (atTime t s) → h0Claims (atTime t s) t = true →
    ∃ u, exec (.claim t 1) s = .next u ∧ u.link = { s.link with grant := grantWord 3 0 1 0 } ∧ u.plans = s.plans) ∧
  (∀ (t : Nat) (w : Sender) (s : State), LinkUp (atTime t s) → s.link.host = .claimed → currentSession s w.session = true →
    (∀ p, p < 8 → s.active p = false) →
    exec (.release t w) s = .next { atTime t s with link := { s.link with
      host := .unclaimed, session := 0, grant := grantWord 5 0 w.port.val 0 } })

/-- A claim with RESET = 1, no partition being RUNNING or STOPPING, leaves every partition EMPTY and is granted as a cold claim. With a step in progress
DEV_GRANT reads RESETTING: the partitions that run a step are STOPPING until it ends, the plans of the others are unloaded, and no new claim is taken
meanwhile: it is refused with 0x9011 (R410).
Completion of: CLAIM_RESET.
Model readings it rests on: log entry 33 (DEDUCED). -/
def Obligations.ClaimResetLeavesNothing : Prop :=
  (∀ (t : Nat) (port : Fin 2) (tk : Bool) (s : State) (v : Nat), LinkUp (atTime t s) → s.link.h0First = false →
    port = 0 ∨ h0Claims (atTime t s) t = false →
    s.link.host ≠ (if tk then .unclaimed else .claimed) → claimVersion s false = some v →
    ((∀ p, p < 8 → s.active p = false) →
      ∃ u, exec (.claimReset t port tk) s = .next u ∧ Granted s u port.val v false ∧ u.link.resetting = none ∧
        ∀ p, p < 8 → (u.part p).st = .empty) ∧
    ((∃ p, p < 8 ∧ s.active p = true ∧ (s.part p).step.isSome = true) →
      ∃ u, exec (.claimReset t port tk) s = .next u ∧ u.link.resetting = some port.val ∧ u.link.session = 0 ∧
        u.link.grant = grantWord 4 0 port.val 0 ∧ (∀ p, p < 8 → s.active p = true → (s.part p).step.isSome = true →
          (u.part p).st = .stopping ∧ (u.part p).resetting = true) ∧
        ∀ p, p < 8 → (s.part p).st = .loaded ∨ (s.part p).st = .suspended → (u.part p).st = .ready ∧ (u.part p).plan = none)) ∧
  (∀ (t : Nat) (port : Fin 2) (s : State), s.phase = .up → hbDue (atTime t s) = false → s.link.resetting.isSome = true →
    (∃ p, p < 8 ∧ (s.part p).resetting = true ∧ s.active p = true) →
    (∀ p, p < 8 → (s.part p).resetting = true → (s.part p).st ≠ .suspended) →
    exec (.claim t port) s = .next ((atTime t s).pageErr 0 2 0x9011 (2 ^ 28)))

/-- A write of DEV_HB resets the heartbeat age and nothing else (R409); when the age reaches HB_TIMEOUT the host is ORPHAN, its session ends,
RUNNING BEST_EFFORT partitions stop and RT partitions run on (R408, R409).
Completion of: HEARTBEAT, HEARTBEAT_TIMEOUT.
Model readings it rests on: log entry 33 (DEDUCED). -/
def Obligations.HeartbeatsKeepTheHost : Prop :=
  (∀ (t : Nat) (w : Sender) (v : Word) (s : State), HostCan (atTime t s) w 0 →
    exec (.heartbeat t w v) s = .next { atTime t s with link := { s.link with hbAt := (atTime t s).clk.dev } }) ∧
  (∀ (t : Nat) (s : State), hbDue (atTime t s) = true → s.link.resetting = none →
    ∃ u, exec (.heartbeatTimeout t) s = .next u ∧ u.link.host = .orphan ∧ u.link.session = 0 ∧
      ∀ p, p < 8 → (s.part p).st = .running → (s.isRT p = true → (u.part p).st = .running) ∧
        (s.isRT p = false → (u.part p).st ≠ .running))

/-! ### Pages -/

/-- PAGE_COMMIT with a TOKEN other than 0 on a page without a pending commit takes a snapshot of every shadow and waits for its safe point
where that has not come (R414, R415); where it has, the snapshot is applied whole or refused whole, with the code of the first check that
failed (R414); an owner or quota that comes into force may make fences of R179 due (R382). On the page of the deadline monitor the fields of the
partitions that are not RUNNING take effect and the others wait, or the commit is refused whole (R363). A page without shadows is APPLIED at once. A
TOKEN of 0, and a commit while one is pending, are recorded in PAGE_ERR and change nothing else (R414).
Completion of: PAGE_COMMIT.
Model readings it rests on: log entry 47 (DEDUCED). -/
def Obligations.CommitsAreWhole : Prop :=
  ∀ (t : Nat) (w : Sender) (page first : Nat) (b : Block) (token : BitVec 16) (s : State), HostCan (atTime t s) w page →
    blockOf page = some (b, first) →
    (token = 0 → exec (.pageCommit t w page token) s = .next ((atTime t s).pageErr page 0 0x9006 0x010)) ∧
    (token ≠ 0 → (s.hdrOf page).cstate = .pending → exec (.pageCommit t w page token) s = .next ((atTime t s).pageErr page 0 0x9005 0x010)) ∧
    (token ≠ 0 → (s.hdrOf page).cstate ≠ .pending →
      (hasShadow b = false → exec (.pageCommit t w page token) s =
        .next ((atTime t s).setHdr page { s.hdrOf page with cstate := .applied, token := token })) ∧
      (hasShadow b = true → b ≠ .dl → readyNow (atTime t s) b (snapshotOf s b page) = false →
        exec (.pageCommit t w page token) s = .next ((atTime t s).setHdr page { s.hdrOf page with
          cstate := .pending, token := token, snapshot := snapshotOf s b page, at? := (atTime t s).clk.clock })) ∧
      (hasShadow b = true → b ≠ .dl → readyNow (atTime t s) b (snapshotOf s b page) = true →
        firstBad (pageChecks (atTime t s) b page (snapshotOf s b page)) = none →
        ∃ v, exec (.pageCommit t w page token) s = .next (fencesAfter v b page) ∧ (v.hdrOf page).cstate = .applied ∧
          ∀ off ∈ rwsOffsets b, v.inForce (addr page off) = s.shadowOf (addr page off)) ∧
      (b = .dl → firstBad (pageChecks (atTime t s) b page (snapshotOf s b page)) = none →
        ∃ u, exec (.pageCommit t w page token) s = .next u ∧
          (∀ off ∈ rwsOffsets b, u.inForce (addr page off) =
            if (s.part ((off - 0x080) / 0x10)).st = .running then s.inForce (addr page off) else s.shadowOf (addr page off)) ∧
          ((∀ p, (s.part p).st ≠ .running) → (u.hdrOf page).cstate = .applied) ∧
          ((∃ p, p < 8 ∧ (s.part p).st = .running) → (u.hdrOf page).cstate = .pending)) ∧
      (∀ code off, hasShadow b = true →
        (if b = .dl then ∃ p, p < 8 ∧ (s.part p).st ≠ .running else readyNow (atTime t s) b (snapshotOf s b page) = true) →
        firstBad (pageChecks (atTime t s) b page (snapshotOf s b page)) = some (code, off) → (s.hdrOf page).errValid = false →
        ∃ u, exec (.pageCommit t w page token) s = .next u ∧ (u.hdrOf page).cstate = .refused ∧ (u.hdrOf page).errCode = code ∧
          (u.hdrOf page).errSource = 0 ∧ (u.hdrOf page).errInfo = BitVec.ofNat 32 off ∧ u.regs.force = s.regs.force))

/-- What the safe points do (R414–R416): a pending commit's snapshot is applied whole, or refused whole. Pages that take effect within 1 µs or 1 ms, and
pages whose partition is not RUNNING or whose channel receives no frame, settle at COMMIT_SAFE_POINT (R227, R291, R415); DRAM_PATROL at the start of a
patrol pass (R191); ST_CHUNK at a grant (R388); a channel and its shaping page at a frame boundary (R227); the display page at its owner's tick, before it
composes (R278); a partition's page and its Press page at the step boundary (R317), and with them, at that of a step declared invalid, the pages of its
cores and spectral engines.
Completion of: COMMIT_SAFE_POINT.
Model readings it rests on: log entry 47 (DEDUCED). -/
def Obligations.SafePointsSettle : Prop :=
  (∀ (t page first : Nat) (b : Block) (s : State), s.phase = .up → blockOf page = some (b, first) →
    genericPage b = true ∨ b ≠ .dl ∧ readyNow (atTime t s) b (s.hdrOf page).snapshot = true →
    pageBusy s page = false → CommitDue (atTime t s) page →
    (firstBad (pageChecks (atTime t s) b page (s.hdrOf page).snapshot) = none →
      exec (.commitSafePoint t page) s = .next (fencesAfter ((applySnapshot (atTime t s) b page (s.hdrOf page).snapshot).setHdr page
        { s.hdrOf page with cstate := .applied, snapshot := [] }) b page)) ∧
    (∀ code off, firstBad (pageChecks (atTime t s) b page (s.hdrOf page).snapshot) = some (code, off) →
      exec (.commitSafePoint t page) s = .next (((atTime t s).setHdr page
        { s.hdrOf page with cstate := .refused, snapshot := [] }).pageErr page 0 code off))) ∧
  (∀ (t : Nat) (err : LineError) (s : State), s.phase = .up → s.press.patrolBusy = false → CommitDue (atTime t s) pgDram →
    ∃ u, exec (.patrolScrub t err) s = .next u ∧ Settled (atTime t s) u pgDram) ∧
  (∀ (t : Nat) (core : Fin 40) (s : State), CommitDue (atTime t s) pgSt →
    ∃ u, exec (.chunkGrant t core) s = .next u ∧ Settled (atTime t s) u pgSt) ∧
  (∀ (t : Nat) (port : Fin 8) (f p : Bytes) (vid : Option Nat) (ch : Nat) (s : State), s.phase = .up → portOn s port.val = true →
    (be f 12 2 = 0x22F0 ∧ vid = none ∧ p = f.drop 14) ∨
      (be f 12 2 = 0x8100 ∧ be f 16 2 = 0x22F0 ∧ vid = some (be f 14 2 % 4096) ∧ p = f.drop 18) →
    matchChan (atTime t s) port.val vid p = some ch → suits (be p 0 1) (s.chanCfg ch).kind = true → startsFrame (be p 0 1 == 3) p = true →
    ∃ u, exec (.vatPacketRx t port ⟨f, true⟩) s = .next u ∧
      (CommitDue (atTime t s) (pgChan ch) → (u.hdrOf (pgChan ch)).cstate ≠ .pending ∧
        ((s.hdrOf (pgShape ch)).cstate ≠ .pending → Settled (atTime t s) u (pgChan ch))) ∧
      (CommitDue (atTime t s) (pgShape ch) → (u.hdrOf (pgShape ch)).cstate ≠ .pending ∧
        ((s.hdrOf (pgChan ch)).cstate ≠ .pending → Settled (atTime t s) u (pgShape ch)))) ∧
  (∀ (t tick : Nat) (p : Fin 8) (s : State), s.phase = .up → nextTick (atTime t s) p.val = some tick → tick ≤ (atTime t s).clk.dev →
    dispOwner s = some p.val → CommitDue (atTime t s) pgDisp →
    ∃ v, exec (.stepTick t p) s = .next (runIfReady p.val (tickGroups p.val (groupsOf v p.val) v)) ∧ Settled (atTime t s) v pgDisp) ∧
  (∀ (t : Nat) (p : Fin 8) (s : State) (st : StepRec), pastDeadline (atTime t s) p.val = true → (s.part p.val).step = some st → st.fail = none →
    ∃ u, exec (.publicationDeadline t p) s = .next u ∧
      (∀ page ∈ [pgPart p.val, pgPressP p.val], CommitDue (atTime t s) page → (u.hdrOf page).cstate ≠ .pending) ∧
      (st.declared = true →
        (∀ n, n < 40 → pairOwner s (n / 2) = p.val → CommitDue (atTime t s) (pgCore n) → (u.hdrOf (pgCore n)).cstate ≠ .pending) ∧
        (∀ q, q < 4 → engineOwner s q = p.val → CommitDue (atTime t s) (pgEngine q) → (u.hdrOf (pgEngine q)).cstate ≠ .pending)))

/-- REVERT makes every shadow equal the value in force, and is refused while a commit is pending (R412); a 1 in bit 31 of PAGE_ERR clears
the page's error (R412); a counter clear makes every counter of the page 0 (R86). No value in force changes, and no counter of another page, but for what
a SAFE pair's other core has counted up to now.
Completion of: REVERT, PAGE_ERR_CLEAR, COUNTER_CLEAR.
That a refused REVERT is recorded with SOURCE 1 and INFO 0x008 is the model's choice (DEDUCED, log entry 34), and so is that the core whose page is
cleared counts its pair's other core up to now (DEDUCED, log entry 25). -/
def Obligations.PageCommandsActOnTheirPage : Prop :=
  ∀ (t : Nat) (w : Sender) (page first : Nat) (b : Block) (s : State), HostCan (atTime t s) w page → blockOf page = some (b, first) →
    ((s.hdrOf page).cstate ≠ .pending → ∃ u, exec (.revert t w page) s = .next u ∧ u.regs.force = s.regs.force ∧
      ∀ off ∈ rwsOffsets b, u.shadowOf (addr page off) = s.inForce (addr page off)) ∧
    ((s.hdrOf page).cstate = .pending → exec (.revert t w page) s = .next ((atTime t s).pageErr page 1 0x9007 0x008)) ∧
    exec (.pageErrClear t w page) s = .next ((atTime t s).setHdr page
      { s.hdrOf page with errValid := false, errOverflow := false, errSource := 0, errCode := 0 }) ∧
    (∀ off, clearRegister b = some off →
      ∃ u, exec (.counterClear t w page) s = .next u ∧ (∀ o, o < 4096 → u.counter page o = 0) ∧ u.regs.force = s.regs.force ∧
        (∀ q o, q ≠ page → o < 4096 → (∀ n, b = .core n → ∀ k ∈ unitCores s (unitOf s n), q ≠ pgCore k) → u.counter q o = s.counter q o))

/-- A write of an index register latches the entry it names, as it stands at the write (R190, R319, R388, R483, R509); HOST_RD takes the
value written (R285).
Completion of: PT_INDEX_LATCH, INSTAR_INDEX_LATCH, ST_INDEX_LATCH, PWR_PAIR_INDEX_LATCH, STALLY_INDEX_LATCH, SIEVE_HOST_RD_WRITE.
Model readings it rests on: log entry 34 (DEDUCED). -/
def Obligations.IndexWritesLatch : Prop :=
  (∀ (t : Nat) (w : Sender) (p : Fin 8) (vpn : Word) (s : State), HostCan (atTime t s) w (pgPressP p.val) →
    ∃ u, exec (.ptIndexLatch t w p vpn) s = .next u ∧ (u.part p.val).ptEntry = BitVec.ofNat 64 (pteWord (s.pte p.val vpn.toNat)) ∧
      u.inForce (addr (pgPressP p.val) 0x05C) = vpn.toNat) ∧
  (∀ (t : Nat) (w : Sender) (i : BitVec 12) (s : State), HostCan (atTime t s) w 0x1A0 →
    ∃ u, exec (.instarIndexLatch t w i) s = .next u ∧ u.plans.instarEntry = wordsOf (instarBytes (s.instarAt i.toNat)) 8 ∧
      u.inForce (addr 0x1A0 0x044) = i.toNat) ∧
  (∀ (t : Nat) (w : Sender) (core : BitVec 6) (s : State), HostCan (atTime t s) w pgSt →
    ∃ u, exec (.stIndexLatch t w core) s = .next u ∧ latched u (addr pgSt 0x060) = stCoreWord (atTime t s) core.toNat % 2 ^ 32 ∧
      u.inForce (addr pgSt 0x05C) = core.toNat) ∧
  (∀ (t : Nat) (w : Sender) (pair : BitVec 5) (s : State), HostCan (atTime t s) w 0x1E0 →
    ∃ u, exec (.pwrPairIndexLatch t w pair) s = .next u ∧ latched u (addr 0x1E0 0x08C) = pwrPairWord (atTime t s) pair.toNat % 2 ^ 32 ∧
      u.inForce (addr 0x1E0 0x088) = pair.toNat) ∧
  (∀ (t : Nat) (w : Sender) (i : BitVec 12) (s : State), HostCan (atTime t s) w 0x1F1 →
    ∃ u, exec (.stallyIndexLatch t w i) s = .next u ∧ u.inForce (addr 0x1F1 0x04C) = i.toNat ∧
      (∀ e r, (s.stally i.toNat).counts = e :: r →
        latched u (addr 0x1F1 0x050) = e.1 % 2 ^ 32 ∧ latched u (addr 0x1F1 0x054) = e.2 % 2 ^ 32)) ∧
  (∀ (t : Nat) (w : Sender) (p : Fin 8) (v : Word) (s : State), HostCan (atTime t s) w 0x1C0 →
    ∃ u, exec (.sieveHostRdWrite t w p v) s = .next u ∧ u.inForce (addr 0x1C0 (0x098 + 0x40 * p.val)) = v.toNat)

/-- TALLY_W_ADD adds COUNT to a tally of the partition that no system tally is bound to, and stops at 2^32 − 1 (R311, R323); no other tally
changes. A tally outside PART_TALLY's range or a COUNT of 0 is refused with 0x5046 (R323).
Completion of: TALLY_W_ADD.
That the refusal is recorded with SOURCE 1 and INFO 0x044 is the model's choice (DEDUCED, log entry 34). -/
def Obligations.TallyWritesAdd : Prop :=
  ∀ (t : Nat) (w : Sender) (p : Fin 8) (v : Word) (s : State), HostCan (atTime t s) w (pgTally p.val) →
    (bits v.toNat 31 16 < bits (s.partReg p.val 0x050) 15 0 → bits v.toNat 15 0 ≠ 0 → bindingFor s p.val (bits v.toNat 31 16) = none →
      ∃ u, exec (.tallyWAdd t w p v) s = .next u ∧
        u.tally (devTally s p.val (bits v.toNat 31 16)) = min (s.tally (devTally s p.val (bits v.toNat 31 16)) + bits v.toNat 15 0) (2 ^ 32 - 1) ∧
        ∀ k, k ≠ devTally s p.val (bits v.toNat 31 16) → u.tally k = s.tally k) ∧
    (bits (s.partReg p.val 0x050) 15 0 ≤ bits v.toNat 31 16 ∨ bits v.toNat 15 0 = 0 →
      exec (.tallyWAdd t w p v) s = .next ((atTime t s).pageErr (pgTally p.val) 1 0x5046 0x044))

/-! ### Partition commands -/

/-- A LOAD whose plan passes the checks and finds its frames leaves the partition LOADED with that plan; one that fails a check allocates
nothing, leaves the partition READY and records the check's code (R293, R296, R297). UNLOAD frees the plan and its sequences (R291).
Completion of: LOAD, UNLOAD.
Model readings it rests on: log entry 48 (DEDUCED). -/
def Obligations.PlansLoadAndUnload : Prop :=
  ∀ (t : Nat) (w : Sender) (p : Fin 8) (s : State), HostCan (atTime t s) w (pgPart p.val) → (s.part p.val).cmd = none → (s.proc 2).st = .run →
    ((s.part p.val).st = .ready →
      (∀ pl v, loadCheck (atTime t s) p.val (s.partReg p.val 0x06C) (s.partReg p.val 0x070) = .ok pl →
        installPlan (atTime t s) p.val (dramFrame 4096 + s.partReg p.val 0x06C)
          (sealPlan (loadedBytes (planImage (atTime t s) (s.partReg p.val 0x06C) (s.partReg p.val 0x070)) pl.regions) pl) = some v →
        exec (.load t w p) s = .next v ∧ (v.part p.val).st = .loaded ∧ (v.part p.val).stepNo = 0 ∧ (v.part p.val).plan.isSome = true) ∧
      (∀ code off, loadCheck (atTime t s) p.val (s.partReg p.val 0x06C) (s.partReg p.val 0x070) = .error (code, off) →
        exec (.load t w p) s = .next ((atTime t s).pageErr (pgPart p.val) 3 code off))) ∧
    ((s.part p.val).st = .loaded ∨ (s.part p.val).st = .suspended →
      ∃ u, exec (.unload t w p) s = .next u ∧ (u.part p.val).st = .ready ∧ (u.part p.val).plan = none ∧ (u.part p.val).bind = [] ∧
        ∀ i, (u.instarAt i).st ≠ 0 → (u.instarAt i).part ≠ p.val)

/-- LAUNCH at an instant at least 1 ms ahead makes a LOADED partition RUNNING from that instant, and then finds units for the logical cores and engines
that lost theirs (R291, R294, R385): one that lost none is RUNNING with nothing else changed. It is refused with 0x500B before that (R321, R501). STOP
makes a RUNNING partition STOPPING until its step's end, LOADED where no step is in progress (R291).
At a global launch the instant is the one that the system's clock gives (R502).
Completion of: LAUNCH, STOP.
What LAUNCH restores in the units is the model's choice (DEDUCED, log entry 22 and log entry 48); the states rest on log entry 19 (DEDUCED) and log
entry 23 (DEDUCED). -/
def Obligations.PartitionsLaunchAndStop : Prop :=
  ∀ (t : Nat) (w : Sender) (p : Fin 8) (s : State), HostCan (atTime t s) w (pgPart p.val) → (s.part p.val).cmd = none → (s.proc 2).st = .run →
    ((s.part p.val).st = .loaded →
      ∀ T, (bit (s.partReg p.val 0x074) 0 = false ∧ T = s.partReg p.val 0x06C + 2 ^ 32 * s.partReg p.val 0x070 ∨
        bit (s.partReg p.val 0x074) 0 = true ∧ (atTime t s).clk.time.st = 2 ∧
          T = (s.regsOf 0x020 0x064 + 2 ^ 32 * s.regsOf 0x020 0x068)
            + (s.regsOf 0x020 0x078 + 2 ^ 32 * s.regsOf 0x020 0x07C) * bits (s.regsOf 0x020 0x06C) 17 0 * 1000) →
      ((atTime t s).clk.dev + 1000000 ≤ T →
        exec (.launch t w p) s = .next (restoreUnits ((atTime t s).modPart p.val (fun x => { x with
          st := .running, launchNs := some T, launchGlobal := bit (s.partReg p.val 0x074) 0, stepNo := 0, notBefore := 0 })) p.val)) ∧
      ((atTime t s).clk.dev + 1000000 ≤ T → (s.part p.val).lost = [] →
        ∃ u, exec (.launch t w p) s = .next u ∧ (∀ q, q ≠ p.val → u.part q = s.part q) ∧ (∀ g, g ≠ .plans → Same g (atTime t s) u) ∧
          u.part p.val = { s.part p.val with
            st := .running, launchNs := some T, launchGlobal := bit (s.partReg p.val 0x074) 0, stepNo := 0, notBefore := 0 }) ∧
      (T < (atTime t s).clk.dev + 1000000 → exec (.launch t w p) s = .next ((atTime t s).pageErr (pgPart p.val) 2 0x500B 3))) ∧
    ((s.part p.val).st = .running →
      ((s.part p.val).step.isSome = true → exec (.stop t w p) s = .next ((atTime t s).modPart p.val (fun x => { x with st := .stopping }))) ∧
      ((s.part p.val).step = none → (s.part p.val).resetting = false →
        ∃ u, exec (.stop t w p) s = .next u ∧ (u.part p.val).st = .loaded ∧ (u.part p.val).launchNs = none ∧ (u.part p.val).opens = []))

/-- SEQ_OPEN of a class of the plan: in RUNNING it waits for the step that AT names, in LOADED it takes the first FREE Instar entry of the
partition (R304, R305, R320). SEQ_RETIRE: in RUNNING the entry is RETIRING until that step, in LOADED it is FREE at once.
Completion of: SEQ_OPEN, SEQ_RETIRE.
Model readings it rests on: log entry 56 (DEDUCED). -/
def Obligations.SequencesOpenAndRetire : Prop :=
  ∀ (t : Nat) (w : Sender) (p : Fin 8) (s : State), HostCan (atTime t s) w (pgPart p.val) → (s.part p.val).cmd = none → (s.proc 2).st = .run →
    (∀ (pl : Plan) (c : SClass), (s.part p.val).plan = some pl → pl.classes[bits (s.partReg p.val 0x06C) 7 0]? = some c →
      bits (s.partReg p.val 0x06C) 15 8 < 32 ∨ c.bind = false ∧ bits (s.partReg p.val 0x06C) 15 8 = 0xFF →
      (∀ n, (s.part p.val).st = .running → stepAt (s.part p.val) (s.partReg p.val 0x074) = some n →
        exec (.seqOpen t w p) s = .next ((atTime t s).modPart p.val (fun x => { x with
          openResult := 0, opens := x.opens.map (fun o => { o with last := false }) ++
            [⟨bits (s.partReg p.val 0x06C) 7 0, bits (s.partReg p.val 0x06C) 15 8, s.partReg p.val 0x070, n, true⟩] }))) ∧
      (∀ i v, (s.part p.val).st = .loaded → (instarRange s p.val).find? (fun i => (s.instarAt i).st == 0) = some i →
        allocSequence ((atTime t s).modPart p.val (fun x => { x with openResult := 0 })) p.val i = some v →
        ∃ u, exec (.seqOpen t w p) s = .next u ∧
          u.instarAt i = ⟨(s.part p.val).sid, 1, p.val, bits (s.partReg p.val 0x06C) 7 0, true, false, bits (s.partReg p.val 0x06C) 15 8,
            s.partReg p.val 0x070, 0, 0, 0⟩ ∧
          (u.part p.val).openResult = BitVec.ofNat 32 (2 ^ 31 + (s.part p.val).sid % 2 ^ 18 * 2 ^ 12 + i) ∧
          (∀ j, j ≠ i → u.instarAt j = s.instarAt j))) ∧
    (∀ i, i = bits (s.partReg p.val 0x06C) 11 0 → (s.instarAt i).st = 1 → (s.instarAt i).part = p.val →
      (∀ n, (s.part p.val).st = .running → stepAt (s.part p.val) (s.partReg p.val 0x074) = some n →
        exec (.seqRetire t w p) s = .next ((atTime t s).setInstar i { s.instarAt i with st := 2, retireAt := n })) ∧
      ((s.part p.val).st = .loaded → ∃ u, exec (.seqRetire t w p) s = .next u ∧ (u.instarAt i).st = 0 ∧
        (∀ j, j ≠ i → u.instarAt j = s.instarAt j)))

/-- A partition command in a state that does not allow it is refused with 0x5002 (R321); PART_OPEN_RESULT tells a refused SEQ_OPEN too (R320).
That it reads 0xC0000000 then is the model's choice (DEDUCED, log entry 34). -/
def Obligations.PartitionCommandsCheckTheState : Prop :=
  ∀ (t : Nat) (w : Sender) (p : Fin 8) (s : State), HostCan (atTime t s) w (pgPart p.val) → (s.part p.val).cmd = none → (s.proc 2).st = .run →
    ((s.part p.val).st ≠ .ready → exec (.load t w p) s = .next ((atTime t s).pageErr (pgPart p.val) 2 0x5002 1)) ∧
    ((s.part p.val).st ≠ .loaded → (s.part p.val).st ≠ .suspended →
      exec (.unload t w p) s = .next ((atTime t s).pageErr (pgPart p.val) 2 0x5002 2)) ∧
    ((s.part p.val).st ≠ .loaded → exec (.launch t w p) s = .next ((atTime t s).pageErr (pgPart p.val) 2 0x5002 3)) ∧
    ((s.part p.val).st ≠ .running → exec (.stop t w p) s = .next ((atTime t s).pageErr (pgPart p.val) 2 0x5002 4)) ∧
    ((s.part p.val).st ≠ .loaded → (s.part p.val).st ≠ .running →
      exec (.seqRetire t w p) s = .next ((atTime t s).pageErr (pgPart p.val) 2 0x5002 6) ∧
      ∃ u, exec (.seqOpen t w p) s = .next (u.pageErr (pgPart p.val) 2 0x5002 5) ∧ (u.part p.val).openResult = 0xC0000000#32 ∧
        (∀ q, q ≠ p.val → u.part q = s.part q) ∧ ∀ g, g ≠ .plans → Same g (atTime t s) u)

/-! ### BOOT_CMD, PROC_CMD, SAFE_CMD, ST_CMD, END -/

/-- VERIFY starts the check of the slot that does not run, in recovery of any slot (R443, R455). ACTIVATE is refused with 0x7013 unless the other slot is
VERIFIED, and in MODE LIVE with 0x7017 when the DATA components differ (R456). It begins when no emergency and no restart keeps it waiting: MODE WARM as a
warm start; MODE LIVE with PREFERRED switched in the flash header, the processors whose component differs restarting one after another, QP first, and the
new slot running at once where none differs. Else it waits, log code 0x7108 being written where an emergency keeps it (R457, R459); CANCEL ends the wait
(R457).
Completion of: VERIFY, ACTIVATE, CANCEL.
Model readings it rests on: log entry 43 (DEDUCED). -/
def Obligations.SlotsAreVerifiedAndActivated : Prop :=
  (∀ (t : Nat) (w : Sender) (s : State), HostCanUp (atTime t s) w 3 → s.boot.busy = none → s.boot.live = none →
    (s.phase = .recovery ∨ bit (s.inForce (addr 3 0x054)) 0 ≠ s.boot.running →
      ∃ u, exec (.verify t w) s = .next u ∧ u.boot.busy = some (1, BitVec.ofNat 32 (s.inForce (addr 3 0x054))) ∧
        slotSt u (bit (s.inForce (addr 3 0x054)) 0) = .verifying ∧
        slotSt u (!bit (s.inForce (addr 3 0x054)) 0) = slotSt s (!bit (s.inForce (addr 3 0x054)) 0) ∧ u.mem = s.mem) ∧
    (s.phase = .up → bit (s.inForce (addr 3 0x054)) 0 = s.boot.running →
      exec (.verify t w) s = .next ((atTime t s).pageErr 3 2 0x7010 1))) ∧
  (∀ (t : Nat) (w : Sender) (s : State) (new : Bool) (mode : Nat), HostCan (atTime t s) w 3 → s.boot.busy = none → s.boot.live = none →
    new = !s.boot.running → mode = bits (s.inForce (addr 3 0x054)) 8 8 →
    (slotSt s new ≠ .verified ∨ s.boot.failedMark = some new → exec (.activate t w) s = .next ((atTime t s).pageErr 3 2 0x7013 2)) ∧
    (slotSt s new = .verified → s.boot.failedMark ≠ some new →
      (mode = 0 → compHash s new 4 ≠ compHash s (!new) 4 → exec (.activate t w) s = .next ((atTime t s).pageErr 3 2 0x7017 2)) ∧
      (mode = 1 → activationDue (atTime t s) = true →
        ∃ u, exec (.activate t w) s = .next u ∧ Began u (recentFails (atTime t s)) 2 6) ∧
      (mode = 0 → compHash s new 4 = compHash s (!new) 4 → activationDue (atTime t s) = true → Memory.wf s.mem = true →
        ∃ u, exec (.activate t w) s = .next u ∧ u.phase = .up ∧ u.boot.preferred = new ∧ u.boot.activate = none ∧
          (∀ a, a < flashBase ∨ flashBase + 131072 ≤ a → u.rd a = s.rd a) ∧
          (match [(2, 3), (1, 2), (0, 1)].filter (fun e => compHash u new e.2 != compHash u (!new) e.2) with
            | [] => u.boot.running = new ∧ u.boot.live = none ∧ u.procs = s.procs
            | e :: r => u.boot.running = s.boot.running ∧ u.boot.live = some (r.map (·.1)) ∧ (u.proc e.1).st = .restarting ∧ (u.proc e.1).cause = 6 ∧
                ∀ j, j ≠ e.1 → u.proc j = s.proc j)) ∧
      (mode = 1 ∨ compHash s new 4 = compHash s (!new) 4 → activationDue (atTime t s) = false →
        exec (.activate t w) s = .next (if emergencyOver (atTime t s) then { atTime t s with boot := { s.boot with activate := some mode } }
          else { atTime t s with boot := { s.boot with activate := some mode } }.logEntry 0x7108 0xFF 0xC0 0))) ∧
    exec (.cancel t w) s = .next { atTime t s with boot := { s.boot with activate := none } })

/-- START begins a warm or a cold start by its argument; in recovery it begins a warm start of a good slot and clears the boot counter
(R444). SLEEP with no partition RUNNING or STOPPING and the WAK light dark takes the device to SLEEP, its timer loaded, and is refused with
0x7012 while WAK is lit (R445). SEC_BURN raises MIN_SEC_VERSION to the running image's, no further than 64, once the start is known good
(R432, R444). RESTART with every processor in RUN, no LIVE activation and no slot's check in progress halts the processor it names, with a dump where
DUMP = 1 (R449, R462), and is refused with 0x7014 otherwise.
Completion of: START, SLEEP, SEC_BURN, RESTART.
That RESTART is refused also while the very processor that it names restarts (R459 speaks of another one) is the model's reading (DEDUCED, log entry 41);
that a SEC_VERSION above 64 burns nothing is log entry 42 (DEDUCED); the rest rests on log entry 43 (DEDUCED). -/
def Obligations.StartsSleepAndRestartsOnCommand : Prop :=
  (∀ (t : Nat) (w : Sender) (s : State), HostCan (atTime t s) w 3 → s.boot.busy = none →
    (∃ u, exec (.start t w) s = .next u ∧
      Began u (recentFails (atTime t s)) (if bit (s.inForce (addr 3 0x054)) 4 then 1 else 2) 1) ∧
    (s.boot.live = none →
      ((∀ p, p < 8 → s.active p = false) → s.boot.activate = none →
        (s.aon.wake.lit = false → ∃ u, exec (.sleep t w) s = .next u ∧ u.phase = .sleep ∧
          u.aon.sleepTimer = bits (s.inForce (addr 2 0x054)) 15 0 ∧ u.aon.sleepFrom = u.clk.clock ∧ u.fuses = s.fuses ∧
          ∀ a, flashBase ≤ a → u.rd a = s.rd a) ∧
        (s.aon.wake.lit = true → exec (.sleep t w) s = .next ((atTime t s).pageErr 3 2 0x7012 5))) ∧
      (s.boot.good = true → exec (.secBurn t w) s = .next { atTime t s with fuses := { s.fuses with
        minSec := if le (manifest s s.boot.running) 8 4 ≤ 64 then max s.fuses.minSec (le (manifest s s.boot.running) 8 4) else s.fuses.minSec } }))) ∧
  (∀ (t : Nat) (w : Sender) (s : State), s.phase = .recovery → hbDue (atTime t s) = false → s.link.resetting = none →
    currentSession s w.session = true → s.boot.busy = none →
    ∃ u, exec (.start t w) s = .next u ∧
      (∀ code, imageCheck (atTime t s) (bit (s.inForce (addr 3 0x054)) 0) = some code → u = (atTime t s).pageErr 3 2 code 4) ∧
      (imageCheck (atTime t s) (bit (s.inForce (addr 3 0x054)) 0) = none →
        u.phase = .starting ∧ u.boot.start = ⟨2, 1, u.clk.clock⟩ ∧ u.aon.failures = [])) ∧
  (∀ (t : Nat) (w : Sender) (i : Fin 3) (dump : Bool) (s : State), HostCan (atTime t s) w (pgProc i.val) →
    (allRun s = true → s.boot.live = none → s.boot.busy = none →
      ∃ u, exec (.restart t w i dump) s = .next u ∧ (u.proc i.val).st = .restarting ∧ (u.proc i.val).cause = 2 ∧
        (u.proc i.val).since = u.clk.clock ∧ (u.proc i.val).dumpNew = (dump || (s.proc i.val).dumpNew) ∧
        (dump = true → (u.proc i.val).dump.isSome = true) ∧ ∀ j, j ≠ i.val → u.proc j = s.proc j) ∧
    (allRun s = false ∨ s.boot.live ≠ none ∨ s.boot.busy ≠ none → exec (.restart t w i dump) s = .next ((atTime t s).pageErr (pgProc i.val) 2 0x7014 (1 + 16 * b2n dump))))

/-- A CLEAR of safe states is accepted as a whole or refused as a whole (R347, R361): refused with 0x6001 in the device safe state, with 0x6002
where a partition named is not in the safe state and RUNNING with every logical core and engine bound, or a shared checker has failed (R369);
accepted, it waits for the step boundary of each.
Completion of: SAFE_CLEAR. -/
def Obligations.SafeStatesClearWhole : Prop :=
  ∀ (t : Nat) (w : Sender) (m : BitVec 8) (s : State), HostCan (atTime t s) w pgSafe →
    (s.safety.dev ≠ 0 → exec (.safeClear t w m) s = .next ((atTime t s).pageErr pgSafe 2 0x6001 (m.toNat * 256 + 1))) ∧
    (s.safety.dev = 0 →
      (s.safety.shared = false →
        (∀ p, p < 8 → m.getLsbD p = true → (s.part p).safe.isSome = true ∧ (s.part p).st = .running ∧ unitMissing (s.part p) = false) →
        ∃ u, exec (.safeClear t w m) s = .next u ∧ (∀ p, p < 8 → m.getLsbD p = true → u.part p = { s.part p with clearing := true }) ∧
          (∀ p, m.getLsbD p = false → u.part p = s.part p) ∧ ∀ g, g ≠ .plans → Same g (atTime t s) u) ∧
      (∀ p, p < 8 → m.getLsbD p = true →
        (s.part p).safe = none ∨ (s.part p).st ≠ .running ∨ unitMissing (s.part p) = true ∨ s.safety.shared = true →
        exec (.safeClear t w m) s = .next ((atTime t s).pageErr pgSafe 2 0x6002 (m.toNat * 256 + 1))))

/-- The commands of ST_CMD while SP runs and serves none (R379, R380, R388): VERIFY starts the check of the staged set; ACTIVATE of a VERIFIED
set exchanges the banks, and is refused with 0x6216 otherwise; DISCARD drops the staged set; FENCE takes both cores of a SAFE unit, or the
core, out of use (R382–R384). While SP restarts the command waits (R450).
Completion of: ST_VERIFY, ST_ACTIVATE, DISCARD, ST_FENCE.
Model readings it rests on: log entry 22 (DEDUCED), log entry 57 (DEDUCED). -/
def Obligations.SelfTestCommandsAct : Prop :=
  ∀ (t : Nat) (w : Sender) (s : State), HostCan (atTime t s) w pgSt → s.selftest.busy = false → s.selftest.waiting = none →
    ((s.proc 1).st = .run →
      (∃ u, exec (.stVerify t w) s = .next u ∧ u.selftest.staged = 1 ∧ u.selftest.busy = true ∧ u.selftest.activeBank = s.selftest.activeBank) ∧
      (s.selftest.staged = 2 → ∃ u, exec (.stActivate t w) s = .next u ∧ u.selftest.activeBank = 1 - s.selftest.activeBank ∧
        u.selftest.activeVersion = s.selftest.stagedVersion ∧ u.selftest.staged = 0 ∧
        ∀ n, n < 40 → (s.core n).testing = false → (u.core n).progress = 0) ∧
      (s.selftest.staged ≠ 2 → exec (.stActivate t w) s = .next ((atTime t s).pageErr pgSt 2 0x6216 2)) ∧
      exec (.discard t w) s = .next { atTime t s with selftest := { s.selftest with staged := 0, stagedVersion := 0 } } ∧
      (∀ n, n = s.inForce (addr pgSt 0x04C) → n < 40 → s.coreFused n = false → coreFenced s n = false →
        ∃ u, exec (.stFence t w) s = .next u ∧ ∀ k ∈ unitCores s (unitOf s n), (u.core k).fenced = true)) ∧
    ((s.proc 1).st ≠ .run → exec (.stFence t w) s =
      .next { atTime t s with selftest := { s.selftest with waiting := some (4, s.inForce (addr pgSt 0x04C)) } })

/-! ### Steps and work items -/

/-- At its tick a RUNNING partition's next step begins (R307): the sequences due retire and open before step 0, the display composes, each
group assembles or waits for its HOLD members, and the step builder runs when none waits (R314, R318). Before that instant nothing begins.
Completion of: STEP_TICK.
Model readings it rests on: log entry 11 (DESIGN CHOICE), log entry 17 (DEDUCED). -/
def Obligations.StepsBeginAtTheirTick : Prop :=
  ∀ (t : Nat) (p : Fin 8) (s : State) (T : Nat), s.phase = .up → nextTick (atTime t s) p.val = some T →
    ((atTime t s).clk.dev < T → exec (.stepTick t p) s = .next (atTime t s)) ∧
    (T ≤ (atTime t s).clk.dev → ∃ a b : State,
      a = ((atTime t s).modPart p.val (fun x => { x with step := some (freshStep x.stepNo T), stepNo := x.stepNo + 1 })).bump (pgPart p.val) 0x0A0 1 ∧
      b = displayTick (if (s.part p.val).stepNo = 0 then opensDue (retireDue a p.val 0) p.val 0 else a) p.val ∧
      exec (.stepTick t p) s = .next (runIfReady p.val (tickGroups p.val (groupsOf b p.val) b)))

/-- A group whose waited-for members are all resolved assembles, and the step starts at the last such assembly (R224, R318); HOLD_LIMIT
resolves a member that nothing else has, which marks it late (R224). END on a HOLD channel resolves the member in its group's wait, or is latched for
the next step where no wait is in progress; on any other channel it does nothing (R225, R226).
Completion of: HOLD_ASSEMBLY, HOLD_LIMIT_EXPIRY, END_HOLD.
Model readings it rests on: log entry 50 (DEDUCED). -/
def Obligations.HoldGroupsResolve : Prop :=
  (∀ (t : Nat) (p : Fin 8) (g : Fin 16) (s : State) (st : StepRec) (w : HoldWait), (s.part p.val).step = some st →
    st.waits.find? (fun w => w.group == g.val) = some w →
    (holdResolved (atTime t s) w st.tick = false → exec (.holdAssembly t p g) s = .next (atTime t s)) ∧
    (holdResolved (atTime t s) w st.tick = true → ∃ late,
      (∀ ch, ch ∈ late ↔ (ch, 2) ∈ w.members) ∧
      exec (.holdAssembly t p g) s = .next (startStep p.val (assembleGroup (atTime t s) p.val g.val late)))) ∧
  (∀ (t : Nat) (ch : Fin 32) (p tick : Nat) (s : State), waitOf s ch.val = some (p, tick, 0) →
    settledMember (atTime t s) ch.val tick = false → tick + (s.chanCfg ch.val).holdLimit * 1000000 ≤ (atTime t s).clk.dev →
    ∃ u, exec (.holdLimitExpiry t ch) s = .next u ∧ waitOf u ch.val = some (p, tick, 2) ∧ u.vat = s.vat ∧ u.mem = s.mem) ∧
  (∀ (t : Nat) (w : Sender) (ch : Fin 32) (s : State), HostCan (atTime t s) w (pgChan ch.val) →
    ((s.chanCfg ch.val).hold = false → exec (.endHold t w ch) s = .next (atTime t s)) ∧
    ((s.chanCfg ch.val).hold = true → waitOf s ch.val = none →
      exec (.endHold t w ch) s = .next ((atTime t s).setChan ch.val { s.chan ch.val with endLatched := true })) ∧
    (∀ p tick, (s.chanCfg ch.val).hold = true → waitOf s ch.val = some (p, tick, 0) →
      ∃ u, exec (.endHold t w ch) s = .next u ∧ waitOf u ch.val = some (p, tick, 1) ∧ u.vat = s.vat))

/-- The item at the head of a queue starts on its unit once the unit is free and every wait of it is satisfied (R308), its CRC-32C being right (R328): it
leaves the queue and runs from this instant, its unit in RUN (R22). A Sieve item whose check of the watermarks fails while nothing keeps it from
publishing ends at once (R260). An item whose CRC-32C is wrong never runs, and its step fails. The stores that a CORE item makes are those that its
descriptor list computes on the memory of its partition; a descriptor of one INT8 pass that opens and closes its tile and whose OUT_PATH is 1 stores for
vector n and column c the sum over k of a[n][k] · w[k][c], saturated to INT32, at O_ADDR + n · O_STRIDE + 4c (R37, R38, R75, R77, R79, R81).
Completion of: WORK_ITEM_START.
Model readings it rests on: log entry 8 (DEDUCED), log entry 68 (DEDUCED). -/
def Obligations.WorkItemsStart : Prop :=
  (∀ (t : Nat) (q : QueueId) (s : State) (x : QItem) (rest : List QItem), s.phase = .up → s.queue (queueCode q) = x :: rest →
    unitFree (atTime t s) (queueCode q) = true → waitsMet (atTime t s) x = true → (128 ≤ queueCode q → x.item.sieve.isSome = true) →
    (x.proof = true ∨ itemCorrupt (atTime t s) x = false →
      (queueCode q < 128 ∨ sieveFails (atTime t s) x = false →
        ∃ u, exec (.workItemStart t q) s = .next u ∧ (u.queue (queueCode q)).length = rest.length ∧
          (∃ r, u.run (queueCode q) = some r ∧ r.item = x ∧ r.since = u.clk.clock ∧ r.landed = false ∧
            (queueCode q < 40 → x.proof = false → ∃ (P : Port) (a : ArraySt) (h : HawkSt), P = portOf (atTime t s) x.part ∧
              r.writes = (runComp (runCore P a h (readDescs (atTime t s) x.part x.item.ndesc x.item.descAddr) x.item.hawkAddr)).2.writes)) ∧
          (∀ k, q = .core k → unitRun u k.val = true)) ∧
      (128 ≤ queueCode q → sieveFails (atTime t s) x = true →
        ∃ u, exec (.workItemStart t q) s = .next u ∧ u.run (queueCode q) = none)) ∧
    (x.proof = false → itemCorrupt (atTime t s) x = true →
      ∃ u, exec (.workItemStart t q) s = .next u ∧ u.run (queueCode q) = none ∧ (CanFail s x.part → HasFailed u x.part 0x610E true none))) ∧
  (∀ (P : Port) (m : Nat → Byte) (d : ArrayDesc) (a : ArraySt) (drn : List DrainedEntry),
    (∀ va, P.rd va = .ok (m va)) → (∀ va, P.wr va = .ok ()) → d.aFmt = 2 → d.wFmt = 2 → d.first = true → d.last = true → d.wmode = 1 →
    d.outPath = 1 → d.cols ≤ 128 → (if d.bank then a.fill1 else a.fill0) = false →
    (runComp (runPasses P (a, drn) [passOfDesc P d])).2.writes = (List.range d.vectors).flatMap (fun n => (List.range d.cols).flatMap (fun c =>
      (List.range 4).map (fun i => ⟨d.oAddr + n * d.oStride + c * 4 + i,
        (toLE 4 (BitVec.ofInt 32 (satInt32 (dotInt8 m (d.aAddr + n * d.aStride) d.wAddr d.rows c))).toNat).getD i 0, 0, n, false⟩))))

/-- The item that a unit runs is complete (R312). A proof tile that is awaited, before 60 µs have passed since its emission, frees its unit for SP's
verdict, and one that is no longer awaited at any time (R335, R362). A CORE or SPEC item's stores land; those into an outbound window of another device
leave as messages whose answers the item awaits first (R494, R496), and then its run is over, a core holding what the item left in it, and what the
item's end brings follows. A Sieve result after the proofs is published as the descriptor's record, unless it has one, and what the item's end brings
follows (R269, R336), once the record's messages are answered (R496). At or after the deadline a CORE or SPEC item counts as not complete, and a Sieve
result is discarded and counted (R271, R275).
Completion of: WORK_ITEM_COMPLETE.
That the stores and what the item leaves in array and hawk state land at its completion as computed at its start is the model's choice (DEDUCED, log entry
8); the rest rests on log entry 17 (DEDUCED) and log entry 58 (DEDUCED). -/
def Obligations.WorkItemsComplete : Prop :=
  (∀ (t : Nat) (k : Fin 40) (s : State) (r : Running), s.run (qCore k.val) = some r → r.item.proof = true →
    ((∃ st, (s.part r.item.part).step = some st ∧ k.val ∈ st.proofs) → (atTime t s).clk.clock < r.item.emitted + 60000) →
    ∃ y, exec (.workItemComplete t (.core k)) s = .next (checkEnd y r.item.part) ∧ y.run (qCore k.val) = none ∧ y.plans.parts = s.plans.parts ∧
      y.mem = s.mem ∧ y.safety.proofMax = max s.safety.proofMax (min ((y.clk.clock - r.since) / 10) 0xFFFF)) ∧
  (∀ (t : Nat) (q : QueueId) (s : State) (r : Running) (st : StepRec), s.run (queueCode q) = some r → queueCode q < 128 →
    r.item.proof = false → r.err = none → (s.part r.item.part).step = some st →
    (pastDeadline (atTime t s) r.item.part = true → exec (.workItemComplete t q) s = .next (atTime t s)) ∧
    (pastDeadline (atTime t s) r.item.part = false → r.landed = false →
      (remoteLines (atTime t s) r.item.part (r.writes.map (·.va)) ≠ [] →
        (∀ e ∈ remoteLines (atTime t s) r.item.part (r.writes.map (·.va)), e.1 ≠ devId s) →
        ∃ u, exec (.workItemComplete t q) s = .next u ∧ u.run (queueCode q) = some { r with landed := true } ∧ Landed (atTime t s) u r ∧
          u.net.remote.length = s.net.remote.length + (remoteLines (atTime t s) r.item.part (r.writes.map (·.va))).length) ∧
      (remoteLines (atTime t s) r.item.part (r.writes.map (·.va)) = [] → s.net.remote.any (fun e => e.2 == queueCode q) = false →
        ∃ y, exec (.workItemComplete t q) s = .next (retireItem y r) ∧ y.run (queueCode q) = none ∧ Landed (atTime t s) y r ∧ y.out = s.out ∧
          (∀ k, q = .core k → (y.core k.val).array = r.array ∧ (y.core k.val).hawk = r.hawk))) ∧
    (pastDeadline (atTime t s) r.item.part = false → r.landed = true →
      (s.net.remote.any (fun e => e.2 == queueCode q) = true → exec (.workItemComplete t q) s = .next (atTime t s)) ∧
      (s.net.remote.any (fun e => e.2 == queueCode q) = false →
        ∃ y, exec (.workItemComplete t q) s = .next (retireItem y r) ∧ y.run (queueCode q) = none ∧ y.mem = s.mem ∧ y.out = s.out))) ∧
  (∀ (t : Nat) (n : Fin 8) (s : State) (r : Running) (st : StepRec), s.run (qSieve n.val) = some r → r.item.proof = false → r.err = none →
    (s.part r.item.part).step = some st →
    (∀ (d : SieveDesc) (res : SieveResult), r.landed = false → r.item.item.sieve = some d → r.result = some res → res.integrity = false →
      (pastDeadline (atTime t s) r.item.part = true →
        ∃ u, exec (.workItemComplete t (.sieve n)) s = .next u ∧ u.run (qSieve n.val) = none ∧ u.mem = s.mem ∧
          (u.part r.item.part).wrSeq = (s.part r.item.part).wrSeq ∧
          u.counter 0x1C0 0x050 = (s.counter 0x1C0 0x050 + 1) % 2 ^ 64) ∧
      (pastDeadline (atTime t s) r.item.part = false → st.proofs = [] → s.net.remote.any (fun e => e.2 == qSieve n.val) = false →
        (st.published.any (fun o => o.1 == d.output) = true →
          ∃ y, exec (.workItemComplete t (.sieve n)) s = .next (retireItem y r) ∧ y.run (qSieve n.val) = none ∧ y.mem = s.mem ∧
            (y.part r.item.part).wrSeq = (s.part r.item.part).wrSeq) ∧
        (∀ pl ring, st.published.any (fun o => o.1 == d.output) = false → (s.part r.item.part).plan = some pl → pl.ring = some ring →
          outboundOf s r.item.part = [] →
          ∃ y st', exec (.workItemComplete t (.sieve n)) s = .next (retireItem y r) ∧ y.run (qSieve n.val) = none ∧
            (y.part r.item.part).step = some st' ∧ (y.part r.item.part).wrSeq = (s.part r.item.part).wrSeq + 1 ∧
            st'.published = st.published ++ [(d.output, (s.part r.item.part).safe.isNone)]))) ∧
    (r.landed = true → pastDeadline (atTime t s) r.item.part = false →
      (s.net.remote.any (fun e => e.2 == qSieve n.val) = true → exec (.workItemComplete t (.sieve n)) s = .next (atTime t s)) ∧
      (s.net.remote.any (fun e => e.2 == qSieve n.val) = false →
        ∃ y, exec (.workItemComplete t (.sieve n)) s = .next (retireItem y r) ∧ y.run (qSieve n.val) = none ∧ y.mem = s.mem ∧ y.out = s.out)))

/-- Before SP has passed the proof tile of every bound unit in the attempt, a Sieve work item that starts or is complete publishes no record: the outputs
that have their record are left, and the ring's next number; and memory at its completion, unless a failed check of R260 ends the step. -/
def Obligations.SieveWaitsForProofs : Prop :=
  (∀ (t : Nat) (q : Fin 8) (s : State) (x : QItem) (rest : List QItem) (st : StepRec), s.queue (qSieve q.val) = x :: rest → x.proof = false →
    (s.part x.part).step = some st → st.proofs ≠ [] →
    ∃ u st', exec (.workItemStart t (.sieve q)) s = .next u ∧ (u.part x.part).step = some st' ∧ st'.published = st.published ∧
      (u.part x.part).wrSeq = (s.part x.part).wrSeq) ∧
  (∀ (t : Nat) (q : Fin 8) (s : State) (r : Running) (st : StepRec), s.run (qSieve q.val) = some r → r.item.proof = false →
    (s.part r.item.part).step = some st → st.proofs ≠ [] →
    ∃ u st', exec (.workItemComplete t (.sieve q)) s = .next u ∧ (u.part r.item.part).step = some st' ∧
      st'.published = st.published ∧ st'.proofs = st.proofs ∧ (u.part r.item.part).wrSeq = (s.part r.item.part).wrSeq ∧
      ((∀ res, r.result = some res → res.integrity = false) → u.mem = s.mem))

/-- Two INT4 elements share one byte: element 2i in bits 3 to 0 and element 2i + 1 in bits 7 to 4 of byte i, read and written (R31). What a store makes of
the byte that it finds is its own nibble and the other as it was. -/
def Obligations.TwoIntegersShareAByte : Prop :=
  ∀ (P : Port) (va i v : Nat) (b : Byte), P.rd (va + i) = .ok b → P.wr (va + i) = .ok () →
    (runComp (rdElem P .int4 va (2 * i))).1 = .ok (b.toNat % 16) ∧ (runComp (rdElem P .int4 va (2 * i + 1))).1 = .ok (b.toNat / 16) ∧
    (runComp (wrElem P .int4 va (2 * i) v)).2.writes.map (fun w => (w.va, w.on b)) = [(va + i, BitVec.ofNat 8 (b.toNat / 16 * 16 + v % 16))] ∧
    (runComp (wrElem P .int4 va (2 * i + 1) v)).2.writes.map (fun w => (w.va, w.on b)) = [(va + i, BitVec.ofNat 8 (v % 16 * 16 + b.toNat % 16))]

/-- At the deadline of a step whose result is still missing, the missing records are LATE, or of a safety-relevant partition INVALID with the
safe state, and the step ends (R316, R343). At the SHED instant the queued items that may be shed leave their queues unperformed (R342).
Completion of: PUBLICATION_DEADLINE, SHED_TIMEOUT.
That a failure of the step which SP has not decided on has its strike first is the model's reading (DEDUCED, log entry 20); the rest rests on log entry
18 (DEDUCED). -/
def Obligations.DeadlinesAndShedding : Prop :=
  (∀ (t : Nat) (p : Fin 8) (s c : State) (st : StepRec), (s.part p.val).step = some st → c = claimStrike (atTime t s) p.val →
    (pastDeadline (atTime t s) p.val = false → exec (.publicationDeadline t p) s = .next (atTime t s)) ∧
    (pastDeadline (atTime t s) p.val = true → st.declared = false →
      (c.isSafety p.val = true →
        exec (.publicationDeadline t p) s = .next (endStep (declareInvalid (c.logLimited 0x5101 p.val p.val 0xFF st.n) p.val 0x5101) p.val 4 true)) ∧
      (c.isSafety p.val = false → exec (.publicationDeadline t p) s =
        .next (endStep (abortStep (publishMissing (c.logLimited 0x5101 p.val p.val 0xFF st.n) p.val 2) p.val) p.val 3 true))) ∧
    (pastDeadline (atTime t s) p.val = true → st.declared = true →
      exec (.publicationDeadline t p) s = .next (endStep (abortStep c p.val) p.val 4 false))) ∧
  (∀ (t : Nat) (p : Fin 8) (s : State) (st : StepRec), (s.part p.val).step = some st → st.built = true →
    pastShed (atTime t s) p.val st = true →
    ∃ y, exec (.shedTimeout t p) s = .next (settleUnits (checkEnd (allQueues.foldl sendWaits y) p.val)) ∧
      ∀ q ∈ allQueues, y.queue q = (s.queue q).filter (fun x => !(x.part == p.val && !x.proof && x.item.shed)))

/-! ### The Vat and the display -/

/-- A frame at an enabled S port that no channel takes is counted and discarded: another EtherType (R193), a stream that no enabled channel
matches (R194), one whose FCS is bad (R525). A packet whose subtype does not suit its channel's KIND is counted and changes nothing else (R195). A first packet of a raw frame in
good format and geometry takes a slot and begins the frame in receive (R195–R199, R217).
Completion of: VAT_PACKET_RX.
Model readings it rests on: log entry 49 (DEDUCED). -/
def Obligations.PacketsReachTheirChannel : Prop :=
  ∀ (t : Nat) (port : Fin 8) (f : Bytes) (s : State), s.phase = .up → bit (s.inForce (addr (pgPort port.val) 0x040)) 31 = true →
    (∃ u, exec (.vatPacketRx t port ⟨f, false⟩) s = .next u ∧
      u.counter (pgPort port.val) 0x060 = (s.counter (pgPort port.val) 0x060 + 1) % 2 ^ 64 ∧ ∀ g, g ≠ .regs → Same g (atTime t s) u) ∧
    (be f 12 2 ≠ 0x8100 →
    (be f 12 2 ≠ 0x88F7 → be f 12 2 ≠ 0x22F0 → ∃ u, exec (.vatPacketRx t port ⟨f, true⟩) s = .next u ∧
      u.counter (pgPort port.val) 0x068 = (s.counter (pgPort port.val) 0x068 + 1) % 2 ^ 64 ∧ ∀ g, g ≠ .regs → Same g (atTime t s) u) ∧
    (be f 12 2 = 0x22F0 → matchChan s port.val none (f.drop 14) = none → ∃ u, exec (.vatPacketRx t port ⟨f, true⟩) s = .next u ∧
      u.counter (pgPort port.val) 0x070 = (s.counter (pgPort port.val) 0x070 + 1) % 2 ^ 64 ∧ ∀ g, g ≠ .regs → Same g (atTime t s) u) ∧
    (∀ ch, be f 12 2 = 0x22F0 → matchChan s port.val none (f.drop 14) = some ch → suits (be f 14 1) (s.chanCfg ch).kind = false →
      ∃ u, exec (.vatPacketRx t port ⟨f, true⟩) s = .next u ∧ u.counter (pgChan ch) 0x0E8 = (s.counter (pgChan ch) 0x0E8 + 1) % 2 ^ 64 ∧
        ∀ g, g ≠ .regs → Same g (atTime t s) u) ∧
    (∀ ch k p h c, be f 12 2 = 0x22F0 → matchChan s port.val none (f.drop 14) = some ch → (s.chan ch).rx = none →
      (s.hdrOf (pgChan ch)).cstate ≠ .pending → (s.hdrOf (pgShape ch)).cstate ≠ .pending → be f 14 1 = 0x6F →
      p = (f.drop 14).take (24 + be f 36 2) → h = parseHimir (slice p 24 32) → parseHimir (f.drop 38) = h → c = s.chanCfg ch → h.first = true →
      2 ≤ c.kind → c.kind ≤ 5 → h.version = 1 → h.kind = c.kind →
      h.colFirst = 0 → h.rowFirst = 0 → h.colCount % kindAlign c.kind = 0 → (p.drop 56).length = h.rowCount * tileRowBytes c.kind h.colCount →
      h.fw = c.w → h.fh = c.h → c.w ≤ 8192 → c.h ≤ 8192 → h.colCount ≤ c.w → h.rowCount ≤ c.h → h.last = false →
      (p.drop 56).length ≤ recvBytes c → takeSlot (s.chan ch) c.nslots = some k →
      ∃ u r, exec (.vatPacketRx t port ⟨f, true⟩) s = .next u ∧ (u.chan ch).rx = some r ∧ r.slot = some k ∧ r.data = p.drop 56 ∧ r.seq = be p 2 1 ∧
        r.firstAt = u.clk.dev ∧ r.cfg = c ∧ (h.tsValid = true → r.capture = some (h.capture : Int))))

/-- The first frame of a queue goes to a free decoder, or to the raw path (R215, R216). A decode that completes within its budget leaves the
frame decoded (R215), invalid data drop it as UNDECODABLE; a budget that has run out drops it as LATE (R210, R215).
Completion of: DECODER_TAKE, DECODE_COMPLETE, DECODE_BUDGET_EXPIRY.
Model readings it rests on: log entry 49 (DEDUCED). -/
def Obligations.DecodersWorkInOrder : Prop :=
  (∀ (t : Nat) (s : State) (e : Nat × Nat) (r : List (Nat × Nat)),
    (s.vat.rawPath = none → s.vat.rawQ = e :: r →
      exec (.decoderTake t true) s = .next { atTime t s with vat := { s.vat with rawPath := some e, rawQ := r } }) ∧
    (∀ i, s.vat.decoders.findIdx? (fun d => d.isNone) = some i → s.vat.decodeQ = e :: r →
      ∃ u, exec (.decoderTake t false) s = .next u ∧ u.vat.decoders = s.vat.decoders.set i (some e) ∧ u.vat.decodeQ = r ∧
        ∀ z, s.slot e.1 e.2 = some z → u.slot e.1 e.2 = some { z with budgetFrom := u.clk.clock })) ∧
  (∀ (t : Nat) (ch : Fin 32) (k : Fin 8) (s : State) (z : Slot), s.slot ch.val k.val = some z →
    (stage2 s ch.val k.val z = true → (atTime t s).clk.clock ≤ z.budgetFrom + z.cfg.budgetUs * 1000 → z.corrupt = false →
      ∃ u, exec (.decodeComplete t ch k) s = .next u ∧
        (∀ d, decodeSlot z = some d → ∃ z', u.slot ch.val k.val = some z' ∧
          z'.decoded = some d ∧ z'.wm.stage = 2 ∧ z'.wm.dataCrc = crc32c (decodedBytes d) ∧ z'.wm.captureNs = z.wm.captureNs ∧
          z'.st = (if z.cfg.kind = 8 then .ready else .shaping)) ∧
        (decodeSlot z = none → u.slot ch.val k.val = none ∧
          (u.chan ch.val).history.head? = some ⟨some z.wm.captureNs, 8, z.wm.devFrame, none⟩)) ∧
    (z.st = .decoding → z.cfg.kind ≠ 1 ∨ stage2 s ch.val k.val z = true → z.budgetFrom + z.cfg.budgetUs * 1000 ≤ (atTime t s).clk.clock →
      ∃ u, exec (.decodeBudgetExpiry t ch k) s = .next u ∧ u.slot ch.val k.val = none ∧
        (u.chan ch.val).history.head? = some ⟨some z.wm.captureNs, 7, z.wm.devFrame, none⟩))

/-- A shaping stage that completes leaves its working values in the slot, and its number and their CRC in the watermark (R211, R230); stage 9 leaves the
sample of the input record that names the channel (R239–R241), without one the frame is READY (R253). A handover write that completes writes the sample
from the position's address on and leaves the frame's watermark in the buffer as stage 10 (R249). A frame whose check fails leaves its slot and is
INTEGRITY in the channel's history (R210, R212).
Completion of: SHAPING_STAGE_COMPLETE, HANDOVER_WRITE_COMPLETE.
Model readings it rests on: log entry 50 (DEDUCED). -/
def Obligations.ShapingGoesStageByStage : Prop :=
  (∀ (t : Nat) (ch : Fin 32) (k : Fin 8) (s : State) (z : Slot), s.slot ch.val k.val = some z → z.st = .shaping → z.corrupt = true →
    ∃ u, exec (.shapingStageComplete t ch k) s = .next u ∧ u.slot ch.val k.val = none ∧
      (u.chan ch.val).history.head? = some ⟨some z.wm.captureNs, 9, z.wm.devFrame, none⟩) ∧
  (∀ (t : Nat) (ch : Fin 32) (k : Fin 8) (s : State) (z : Slot) (n : Nat), s.slot ch.val k.val = some z → z.st = .shaping → z.corrupt = false →
    n = nextStage z.shape z.working z.wm.stage →
    (n ≠ 9 → ∃ u z', exec (.shapingStageComplete t ch k) s = .next u ∧ u.slot ch.val k.val = some z' ∧
      z'.working = stageWork (atTime t s) ch.val z n ∧ z'.wm = { z.wm with stage := n, dataCrc := crc32c (levelsBytes z'.working) }) ∧
    (n = 9 → inputsFor s ch.val = none →
      ∃ u, exec (.shapingStageComplete t ch k) s = .next u ∧ u.slot ch.val k.val = some { z with st := .ready }) ∧
    (∀ p i r pos, n = 9 → inputsFor s ch.val = some (p, i, r, pos) →
      ∃ u z', exec (.shapingStageComplete t ch k) s = .next u ∧ u.slot ch.val k.val = some z' ∧ z'.st = .ready ∧
        z'.sample = some (stageSample (atTime t s) p r z) ∧ z'.readyAt = some u.clk.clock ∧
        z'.wm = { z.wm with stage := 9, dataCrc := crc32c (sampleBytes (stageSample (atTime t s) p r z)) })) ∧
  (∀ (t : Nat) (p : Fin 8) (i : Fin 15) (pos : Fin 64) (s : State) (ch k : Nat) (pl : Plan) (r : InputRec) (z : Slot) (cells : List SampleCell),
    (s.part p.val).handovers.lookup (i.val, pos.val) = some (ch, k, z.wm.devFrame) → (s.part p.val).plan = some pl → pl.inputs[i.val]? = some r →
    s.slot ch k = some z → z.corrupt = false → sampleFor z r = some cells →
    ∃ u, exec (.handoverWriteComplete t p i pos) s = .next u ∧ (u.part p.val).handovers.lookup (i.val, pos.val) = none ∧
      (u.part p.val).buffers.lookup (i.val, pos.val) = some { z.wm with stage := 10, dataCrc := crc32c (sampleBytes cells) } ∧
      u.mem = (cells.foldl (fun s c => writeCell s p.val (posVa r pos.val) c)
        (touchRange (atTime t s) p.val 15 (posVa r pos.val) r.sampleBytes)).mem)

/-- A display picture that has been sent leaves as its packets, counts in PIC_COUNT and frees its stream; while its port's EN is 0 nothing leaves and
nothing counts (R524). An encoder fault drops the picture whole (R277, R278).
Completion of: DISPLAY_PICTURE_SENT, DISPLAY_ENCODER_FAULT.
Model readings it rests on: log entry 51 (DEDUCED). -/
def Obligations.PicturesLeaveOrDrop : Prop :=
  ∀ (t : Nat) (n : Fin 4) (s : State), (s.disp n.val).busy = true →
    (portOn s (s.disp n.val).port = false → ∃ u, exec (.displayPictureSent t n) s = .next u ∧ u.out = s.out ∧
      (u.disp n.val).pics = (s.disp n.val).pics ∧ (u.disp n.val).busy = false ∧ u.regs = s.regs) ∧
    (portOn s (s.disp n.val).port = true → ∃ u, exec (.displayPictureSent t n) s = .next u ∧
      u.out = s.out ++ (s.disp n.val).packets.map (fun b => .display (s.disp n.val).port (s.disp n.val).tag b) ∧
      (u.disp n.val).pics = (s.disp n.val).pics + 1 ∧ (u.disp n.val).busy = false) ∧
    (∃ u, exec (.displayEncoderFault t n) s = .next u ∧ u.out = s.out ∧ (u.disp n.val).pics = (s.disp n.val).pics ∧ (u.disp n.val).busy = false)

/-! ### The Press -/

/-- An access to a page that is not resident starts its fill where a frame or a victim is found (R167); the fill leaves the page resident
with the backing frame's bytes (R168), no byte outside its frame changing, and the evictions that a quota commit asked for follow the last of a
partition's fills (R173): where the quota is met, or another fill is pending, nothing else happens. Of a hold released in the cycle of the fault the
fault comes first, so that its page still counts as held (R173). Prefetches are served in the order emitted and dropped where no frame is found (R172).
Completion of: PAGE_FAULT, PAGE_FILL_COMPLETE, PREFETCH_SERVE.
Model readings it rests on: log entry 52 (DEDUCED). -/
def Obligations.PagesFillFromTheirBacking : Prop :=
  (∀ (t : Nat) (p : Fin 8) (vpn key : Nat) (ro : Bool) (s : State), resolve s p.val (vpn * 65536) = some (key, ro) →
    (s.pte p.val key).valid = true → (s.pte p.val key).res = 0 → (s.pte p.val key).filling = false → (s.pte p.val key).poison = false →
    ∀ held, held = (if (s.part p.val).relAt = (atTime t s).clk.clock then (s.part p.val).rels else []) →
    (∀ v, startFill (held.foldl (fun s k => placeHold s p.val k) (atTime t s)) p.val key = some v →
      exec (.pageFault t p vpn) s = .next ((held.foldl (fun s k => releaseHold s p.val k) v).bump (pgPressP p.val) 0x070 1) ∧
        (v.pte p.val key).filling = true) ∧
    (startFill (held.foldl (fun s k => placeHold s p.val k) (atTime t s)) p.val key = none →
      exec (.pageFault t p vpn) s = .next ((atTime t s).bump (pgPressP p.val) 0x088 1))) ∧
  (∀ (t : Nat) (p : Fin 8) (vpn key b : Nat) (ro : Bool) (s : State), resolve s p.val (vpn * 65536) = some (key, ro) →
    (s.pte p.val key).filling = true → (s.pte p.val key).backing = some b → b < 917504 → Memory.wf s.mem = true →
    ∃ y, exec (.pageFillComplete t p vpn) s = .next (shrinkFelt 1504 y p.val) ∧ (y.pte p.val key).res = 2 ∧ (y.pte p.val key).filling = false ∧
      (y.pte p.val key).dirty = false ∧ (∀ k, k ≠ key → y.pte p.val k = s.pte p.val k) ∧
      (∀ o, o < 65536 → feltFrame (s.pte p.val key).loc (s.pte p.val key).frame + 65536 ≤ sheetBase →
        y.rd (feltFrame (s.pte p.val key).loc (s.pte p.val key).frame + o) = s.rd (dramFrame b + o)) ∧
      (∀ a, a < feltFrame (s.pte p.val key).loc (s.pte p.val key).frame ∨ feltFrame (s.pte p.val key).loc (s.pte p.val key).frame + 65536 ≤ a →
        y.rd a = s.rd a) ∧
      (feltResident y p.val ≤ quotaFelt y p.val ∨ (y.part p.val).ptes.any (fun e => e.2.filling) = true →
        exec (.pageFillComplete t p vpn) s = .next y)) ∧
  (∀ (t : Nat) (p : Fin 8) (s : State) (pre : List (Nat × Nat × Bool)) (key id : Nat) (r : List (Nat × Nat × Bool)),
    (s.part p.val).prefetch = pre ++ (key, id, false) :: r → (∀ e ∈ pre, e.2.2 = true) → itemLive s id = true → (s.pte p.val key).valid = true →
    (s.pte p.val key).res = 0 → (s.pte p.val key).filling = false →
    (∀ v, startFill (atTime t s) p.val key = some v →
      exec (.prefetchServe t p) s = .next (v.modPart p.val (fun x => { x with prefetch := pre ++ (key, id, true) :: r }))) ∧
    (startFill (atTime t s) p.val key = none → exec (.prefetchServe t p) s =
      .next (((atTime t s).modPart p.val (fun x => { x with prefetch := pre ++ r })).bump (pgPressP p.val) 0x090 1)))

/-- Errors of a running item's accesses and transfers abort it and fail its step: a translation error without a replay, a poisoned page, hawk
parity against its unit (R90, R171, R176, R337).
Completion of: TRANSLATION_ERROR, POISONED_ACCESS, HAWK_PARITY_ERROR.
Model readings it rests on: log entry 10 (DESIGN CHOICE), log entry 20 (DEDUCED). -/
def Obligations.AccessErrorsFailTheStep : Prop :=
  (∀ (t : Nat) (q : QueueId) (va p : Nat) (w : Bool) (s : State), runPart s (queueCode q) = some p → CanFail s p →
    (∀ x y, access (atTime t s) p va w = .error (.translation x y) →
      ∃ u, exec (.translationError t q va w) s = .next u ∧ HasFailed u p 0x2007 false none) ∧
    (∀ x, access (atTime t s) p va false = .error (.poisoned x) →
      ∃ u, exec (.poisonedAccess t q va) s = .next u ∧ HasFailed u p 0x210A true none)) ∧
  (∀ (t : Nat) (core : Fin 40) (p : Nat) (s : State), runPart s (qCore (unitOf s core.val)) = some p → CanFail s p →
    ∃ u, exec (.hawkParityError t core) s = .next u ∧ HasFailed u p 0x6112 true (unitIdOf (qCore (unitOf s core.val))))

/-- A fabric parity error whose retransmission is good is counted and logged and changes nothing else; a second failure is an uncorrectable parity
event, which fails the step of the item whose transfer it was, and retires no frame (R180, R184, R337, R387).
Completion of: FABRIC_PARITY_ERROR.
That the first is logged with 0x2103 is the model's reading (DEDUCED, log entry 24). -/
def Obligations.FabricErrorsAreRetransmitted : Prop :=
  ∀ (t : Nat) (b : Option QueueId) (s : State), s.phase = .up →
    (∃ u, exec (.fabricParityError t false b) s = .next u ∧ u.counter 0x180 0x058 = (s.counter 0x180 0x058 + 1) % 2 ^ 64 ∧
      ((s.proc 0).st = .run → Logged (atTime t s) u 0x2103) ∧ ∀ g, g ∉ [.regs, .log, .fresh] → Same g (atTime t s) u) ∧
    (∃ u, exec (.fabricParityError t true b) s = .next u ∧ u.aon.retiredSheet = s.aon.retiredSheet ∧ u.aon.retiredFelt = s.aon.retiredFelt ∧
      u.press.dramRetired = s.press.dramRetired ∧
      ∀ q p, b = some q → runPart s (queueCode q) = some p → CanFail s p → HasFailed u p 0x2107 true none)

/-- A frame that fails twice, or a DRAM frame with a double-bit error, is retired; a corrected error is counted and logged and changes no data (R177,
R182). What becomes of the page of a retired DRAM frame (R178): a lost backing frame is written anew from a felt copy that is current, or from SOURCE
ZERO while nothing was written, and the page is poisoned otherwise; a lost DRAM-home frame is zero again from SOURCE ZERO while nothing was written, a
written page of a SOURCE is poisoned, and of a scratch page the work item is aborted. The patrol takes the next allocated line and ends its pass after the
last (R183).
Completion of: SRAM_PARITY_ERROR, DRAM_ECC_ERROR, PATROL_SCRUB.
That a transient SRAM error is logged with 0x2101 or 0x2102 is the model's reading (DEDUCED, log entry 24); the rest rests on log entry 53 (DEDUCED). -/
def Obligations.MemoryErrorsRetireFrames : Prop :=
  (∀ (t : Nat) (fr : SramFrame) (b : Option QueueId) (s : State), s.phase = .up →
    (∃ u, exec (.sramParityError t fr false b) s = .next u ∧
      (match fr with
        | .sheet _ _ => u.counter pgPress 0x050 = (s.counter pgPress 0x050 + 1) % 2 ^ 64 ∧ ((s.proc 0).st = .run → Logged (atTime t s) u 0x2101)
        | .felt _ _ => u.counter pgFelt 0x048 = (s.counter pgFelt 0x048 + 1) % 2 ^ 64 ∧ ((s.proc 0).st = .run → Logged (atTime t s) u 0x2102)) ∧
      ∀ g, g ∉ [.regs, .log, .fresh] → Same g (atTime t s) u) ∧
    (∃ u, exec (.sramParityError t fr true b) s = .next u ∧
      (match fr with | .sheet c f => (c.val, f.val) ∈ u.aon.retiredSheet | .felt q f => (q.val, f.val) ∈ u.aon.retiredFelt))) ∧
  (∀ (t f : Nat) (b : Option QueueId) (s : State), s.phase = .up → f < 917504 →
    (∃ u, exec (.dramEccError t f false b) s = .next u ∧ u.mem = s.mem ∧ u.plans = s.plans ∧
      u.counter pgDram 0x050 = (s.counter pgDram 0x050 + 1) % 2 ^ 64 ∧ ((s.proc 0).st = .run → Logged (atTime t s) u 0x2108)) ∧
    (∃ u, exec (.dramEccError t f true b) s = .next u ∧ f ∈ u.press.dramRetired)) ∧
  (∀ (t f p key n : Nat) (back : Bool) (e : Pte) (b : Option QueueId) (s : State), s.phase = .up → f < 917504 → s.press.dramRetired.elem f = false →
    pageOfDram s f = some (p, key, back) → e = s.pte p key → n < 917504 →
    pickDram { atTime t s with press := { s.press with dramRetired := insNat f s.press.dramRetired } } = some n → Memory.wf s.mem = true →
    ∃ u, exec (.dramEccError t f true b) s = .next u ∧
      (back = true → e.res = 2 → feltFrame e.loc e.frame + 65536 ≤ sheetBase → (u.pte p key).backing = some n ∧ (u.pte p key).poison = e.poison ∧
        ∀ o, o < 65536 → u.rd (dramFrame n + o) = s.rd (feltFrame e.loc e.frame + o)) ∧
      (back = true → e.res ≠ 2 → e.written = false → e.source = 0 → (u.pte p key).backing = some n ∧ (u.pte p key).poison = e.poison ∧
        ∀ o, o < 65536 → u.rd (dramFrame n + o) = 0) ∧
      (back = true → e.res ≠ 2 → e.written = true → (u.pte p key).poison = true) ∧
      (back = false → e.res = 3 → e.backing = none → e.written = false → e.source = 0 → (u.pte p key).frame = n ∧ (u.pte p key).poison = e.poison ∧
        ∀ o, o < 65536 → u.rd (dramFrame n + o) = 0) ∧
      (back = false → e.res = 3 → e.backing = none → e.written = true → e.source ≠ 2 → (u.pte p key).poison = true) ∧
      (∀ q i, back = false → e.res = 3 → e.backing = none → e.source = 2 → b = some q → runPart s (queueCode q) = some i → CanFail s i →
        HasFailed u i 0x2105 true none)) ∧
  (∀ (t f : Nat) (s : State), s.phase = .up → s.press.patrolBusy = true → nextAllocated s (s.press.patrolAt / 1024) = some f →
    (∀ k, nextAllocated s ((max s.press.patrolAt (f * 1024) + 1) / 1024) = some k →
      ∃ u, exec (.patrolScrub t .none) s = .next u ∧ u.press.patrolBusy = true ∧ u.press.patrolAt = max s.press.patrolAt (f * 1024) + 1 ∧
        u.mem = s.mem) ∧
    (nextAllocated s ((max s.press.patrolAt (f * 1024) + 1) / 1024) = none →
      ∃ u, exec (.patrolScrub t .none) s = .next u ∧ u.press.patrolBusy = false ∧ u.press.patrolAt = 0 ∧ u.mem = s.mem))

/-! ### Safety -/

/-- What a checker finds fails the step of the partition that the unit serves: the comparator against its SAFE pair, an engine's two results
or its parity against the engine, a check of a shared block against no unit, each with a replay allowed (R148, R149, R328, R330, R337).
Completion of: COMPARATOR_MISMATCH, SPECTRAL_MISMATCH, SPECTRAL_PARITY_ERROR, SIEVE_CHECKED_MISMATCH, FRAME_TAG_MISMATCH, TALLY_DUPLICATE_MISMATCH,
WORK_ITEM_CRC_MISMATCH.
Model readings it rests on: log entry 20 (DEDUCED), log entry 27 (DEDUCED). -/
def Obligations.CheckersFailTheStep : Prop :=
  (∀ (t : Nat) (i : Fin 20) (c : Fin 7) (p : Nat) (s : State), s.phase = .up → s.pairFused i.val = false → (s.pair i.val).safe = true →
    coreFenced s (2 * i.val) = false → Serves s (2 * i.val) p → CanFail s p →
    ∃ u, exec (.comparatorMismatch t i c) s = .next u ∧ HasFailed u p 0x6101 true (unitIdOf (2 * i.val)) ∧
      (u.pair i.val).lastClass = c.val ∧ (u.pair i.val).lastPart = p) ∧
  (∀ (t : Nat) (q : Fin 4) (p : Nat) (s : State), runPart s (qSpec q.val) = some p → CanFail s p →
    (s.isSafety p = true → ∃ u, exec (.spectralMismatch t q) s = .next u ∧ HasFailed u p 0x610A true (some (.engine q))) ∧
    (∃ u, exec (.spectralParityError t q) s = .next u ∧ HasFailed u p 0x6112 true (some (.engine q)))) ∧
  (∀ (t : Nat) (k : Fin 8) (p : Nat) (s : State), runPart s (qSieve k.val) = some p → s.isSafety k.val = true → CanFail s p →
    ∃ u, exec (.sieveCheckedMismatch t k) s = .next u ∧ HasFailed u p 0x610B true none) ∧
  (∀ (t : Nat) (q : QueueId) (p : Nat) (s : State), runPart s (queueCode q) = some p → CanFail s p →
    ∃ u, exec (.frameTagMismatch t q) s = .next u ∧ HasFailed u p 0x610C true none) ∧
  (∀ (t : Nat) (p : Fin 8) (s : State), s.phase = .up → CanFail s p.val →
    ∃ u, exec (.tallyDuplicateMismatch t p) s = .next u ∧ HasFailed u p.val 0x610D true none) ∧
  (∀ (t : Nat) (q : QueueId) (x : QItem) (r : List QItem) (s : State), s.queue (queueCode q) = r ++ [x] → x.proof = false → CanFail s x.part →
    ∃ u, exec (.workItemCrcMismatch t q) s = .next u ∧ HasFailed u x.part 0x610E true none)

/-- A PLL within 2 % of its set value does nothing; one outside fails the step that its pair's unit serves, and the fabric's takes the device
into its safe state (R328, R346).
Completion of: CLOCK_MONITOR_CHECK.
Model readings it rests on: log entry 20 (DEDUCED), log entry 27 (DEDUCED). -/
def Obligations.ClocksAreMonitored : Prop :=
  ∀ (t : Nat) (pll : Fin 21) (ppm : Int) (s : State), s.phase = .up →
    (ppm.natAbs ≤ 20000 → exec (.clockMonitorCheck t pll ppm) s = .next (atTime t s)) ∧
    (20000 < ppm.natAbs → pll.val = 20 → ∃ u, exec (.clockMonitorCheck t pll ppm) s = .next u ∧
      u.safety.dev = (if s.safety.dev = 0 then 5 else s.safety.dev) ∧
      ∀ p, p < 8 → s.isSafety p = true → (u.part p).safe.isSome = true) ∧
    (20000 < ppm.natAbs → pll.val < 20 → s.pairFused pll.val = false → ∀ p, CanFail s p →
      ((s.pair pll.val).safe = true → coreFenced s (2 * pll.val) = false → Serves s (2 * pll.val) p →
        ∃ u, exec (.clockMonitorCheck t pll ppm) s = .next u ∧ HasFailed u p 0x610F true (unitIdOf (2 * pll.val))) ∧
      ((s.pair pll.val).safe = false → (∃ k ∈ pairUnits s pll.val, coreFenced s k = false ∧ Serves s k p) →
        ∃ u, exec (.clockMonitorCheck t pll ppm) s = .next u ∧ HasFailed u p 0x610F true none))

/-- A proof tile whose signature, the CRC-32C of its result block, is the expected one of the step's VARIANT frees the step of that unit's proof;
another fails the step against the unit and is noted as the last failing core, as does a proof that has not completed 60 µs after its emission
(R334–R336, R362); in the safe state the timeout aborts nothing (R338). SP compares with the signature of the variant that it loads, whose CRC-32C must
hold, and while SP restarts the hold logic with the last one loaded (R335, R450).
Completion of: PROOF_VERDICT, PROOF_TIMEOUT.
That a reference which is not whole lets no tile pass, and where the result block stands, is the model's choice (DESIGN CHOICE, log entry 10); the rest
rests on log entry 27 (DEDUCED). -/
def Obligations.ProofsPassOrFail : Prop :=
  (∀ (t : Nat) (core : Fin 40) (result : Bytes) (ref : ProofRef) (good : Bool) (p u v : Nat) (st : StepRec) (s : State), u = unitOf s core.val →
    Serves s u p → (s.part p).step = some st → u ∈ st.proofs → proofPending s (qCore u) = false → v = st.n % 16 →
    good = (if (s.proc 1).st = .run then ref.variant.val == v && crc32c (toLE 4 ref.sig.toNat) == ref.crc.toNat && ref.sig.toNat == crc32c result
      else s.safety.proofSigs.lookup v == some (crc32c result)) →
    (good = true → ∃ y, exec (.proofVerdict t core result ref) s = .next (checkEnd y p) ∧
      y.part p = { s.part p with step := some { st with proofs := st.proofs.erase u } } ∧
      (result.length = 4096 → Memory.wf s.mem = true → ∀ n ∈ unitCores s u, y.rdN (sheetFrame n 62) 4096 = result)) ∧
    (good = false → CanFail s p → ∃ y, exec (.proofVerdict t core result ref) s = .next y ∧
      HasFailed y p 0x6102 true (unitIdOf u) ∧ y.safety.proofFail = core.val)) ∧
  (∀ (t : Nat) (core : Fin 40) (p u : Nat) (st : StepRec) (x : QItem) (s : State), u = unitOf s core.val → Serves s u p →
    (s.part p).step = some st → u ∈ st.proofs → x.proof = true → x.emitted + 60000 ≤ (atTime t s).clk.clock →
    (∃ r, s.run (qCore u) = some r ∧ r.item = x) ∨ x ∈ s.queue (qCore u) →
    (CanFail s p → ∃ y, exec (.proofTimeout t core) s = .next y ∧ HasFailed y p 0x6103 true (unitIdOf u) ∧ y.safety.proofFail = core.val) ∧
    ((s.part p).safe.isSome = true → recent (atTime t s) (s.core u).strikes = [] →
      ∃ y, exec (.proofTimeout t core) s = .next (checkEnd y p) ∧ y.plans.running = s.plans.running ∧ y.safety.proofFail = core.val ∧
        y.part p = { s.part p with step := some { st with proofs := st.proofs.erase u } }))

/-- SP's decision on a failed step (R339, R340, R343): the strike first, once; then a step that may not be replayed, which one of a partition bound to
the system never may be (R499), or whose deadline is nearer than REPLAY_MIN after the failure, is declared invalid, any other is replayed. Without a decision 1,500 µs after the failure the backstop
declares it (R339). Strikes of 60 s ago and more age out.
Completion of: SP_DECISION, BACKSTOP_DECLARATION, STRIKE_EXPIRY.
Model readings it rests on: log entry 20 (DEDUCED). -/
def Obligations.FailuresAreDecided : Prop :=
  (∀ (t : Nat) (p : Fin 8) (s y : State) (st : StepRec) (f : Failure), (s.proc 1).st = .run → (s.part p.val).step = some st → st.fail = some f →
    y = claimStrike (atTime t s) p.val →
    (f.unit = none → y = atTime t s) ∧
    (∀ w, f.unit = some w → y = strike ((atTime t s).modStep p.val (fun st => { st with fail := some { f with unit := none } })) w) ∧
    ((f.replayable = false ∨ sysBound y p.val = true ∨ st.replay = true ∨ (y.part p.val).st = .suspended ∨
        deadlineOf y p.val st < f.td + replayMin y p.val) →
      exec (.spDecision t p) s = .next (declareInvalid y p.val f.code) ∧
      (f.unit = none → st.declared = false → IsDeclared (declareInvalid y p.val f.code) p.val)) ∧
    (f.replayable = true → sysBound y p.val = false → st.replay = false → (y.part p.val).st ≠ .suspended →
      f.td + replayMin y p.val ≤ deadlineOf y p.val st → exec (.spDecision t p) s = .next (replayStep y p.val))) ∧
  (∀ (t : Nat) (p : Fin 8) (s : State) (st : StepRec) (f : Failure), (s.part p.val).step = some st → st.fail = some f → st.declared = false →
    f.td + 1500000 ≤ (atTime t s).clk.dev → ∃ u, exec (.backstopDeclaration t p) s = .next u ∧ IsDeclared u p.val) ∧
  (∀ (t : Nat) (s : State), (∀ n : Fin 40, ∃ u, exec (.strikeExpiry t (.core n)) s = .next u ∧ (u.core (unitOf s n.val)).strikes =
      (s.core (unitOf s n.val)).strikes.filter (fun x => decide ((atTime t s).clk.dev < x + 60000000000))) ∧
    (∀ q : Fin 4, ∃ u, exec (.strikeExpiry t (.engine q)) s = .next u ∧ (u.engine q.val).strikes =
      (s.engine q.val).strikes.filter (fun x => decide ((atTime t s).clk.dev < x + 60000000000))))

/-- A hold of SP of 50 ms degrades the sentinel's status, one of 200 ms takes the device into its safe state (R355). A sentinel word carries
the status in force and the counter, which then advances (R353, R354); two words in a row that come back different from what was sent
fail the loopback (R367).
Completion of: SP_HOLD_DEGRADED, SP_HOLD_LIMIT, SENTINEL_WORD.
Model readings it rests on: log entry 28 (DEDUCED), log entry 29 (DEDUCED). -/
def Obligations.TheSentinelTellsTheState : Prop :=
  (∀ (t h : Nat) (s : State), s.safety.hold = some h →
    (h + 50000000 ≤ (atTime t s).clk.dev → s.safety.degraded = false →
      ∃ u, exec (.spHoldDegraded t) s = .next u ∧ u.safety = { s.safety with degraded := true } ∧ u.plans = s.plans) ∧
    (h + 200000000 ≤ (atTime t s).clk.dev → s.safety.dev = 0 →
      ∃ u, exec (.spHoldLimit t) s = .next u ∧ u.safety.dev = 2 ∧ ∀ p, p < 8 → s.isSafety p = true → (u.part p).safe.isSome = true)) ∧
  (∀ (t : Nat) (tap : BitVec 16) (s : State) (w : Nat), s.phase ≠ .off → s.phase ≠ .sleep → s.safety.sentinelOn = true →
    w = sentinelWordOf (statusInForce (atTime t s)).1 s.safety.counter →
    ∃ u, exec (.sentinelWord t tap) s = .next u ∧ u.out = s.out ++ [.sentinel (BitVec.ofNat 16 w) (sentinelLight w)] ∧
      u.safety.counter = (s.safety.counter + 1) % 32 ∧ u.safety.tapBad = (tap.toNat != w) ∧
      (tap.toNat ≠ w → s.safety.tapBad = true → s.safety.dev = 0 → u.safety.dev = 4) ∧
      (tap.toNat = w ∨ s.safety.tapBad = false → u.safety.dev = s.safety.dev))

/-! ### Self-test -/

/-- A rotation of the checker tests starts 100 ms after the last with every instance to be tested (R366); an instance that passes is done, those that a
fence has taken away are tested no more, and the last one ends the rotation. An instance that fails fences its unit or its engine; a shared one takes every
RUNNING safety-relevant partition into the safe state, which is not cleared until a start, and one of device scope the device (R369). A test that would disturb a work item or a chunk waits (R368, R377). A rotation that takes 200 ms is late (R370).
Completion of: CHECKER_ROTATION_START, CHECKER_TEST_RESULT, ROTATION_LATE.
Model readings it rests on: log entry 30 (DEDUCED). -/
def Obligations.TheCheckersAreTested : Prop :=
  (∀ (t : Nat) (s : State), s.phase = .up → (s.proc 1).st = .run → s.selftest.rotating = false →
    (∀ x, s.selftest.rotStart = some x → x + 100000000 ≤ (atTime t s).clk.dev) →
    exec (.checkerRotationStart t) s = .next { atTime t s with selftest := { s.selftest with
      rotating := true, rotStart := some (atTime t s).clk.dev, remaining := checkers s } }) ∧
  (∀ (t : Nat) (c : Checker) (l : List Checker) (s : State), (s.proc 1).st = .run → s.selftest.rotating = true → s.selftest.remaining.elem c = true →
    l = (s.selftest.remaining.erase c).filter (stillTested s) →
    (injectionWaits s c = true → ∀ ok, exec (.checkerTestResult t c ok) s = .next (atTime t s)) ∧
    (injectionWaits s c = false →
      (l ≠ [] → exec (.checkerTestResult t c true) s = .next { atTime t s with selftest := { s.selftest with remaining := l } }) ∧
      (l = [] → ∃ u, exec (.checkerTestResult t c true) s = .next u ∧ u.selftest.rotating = false ∧ u.selftest.late = false) ∧
      ∃ u, exec (.checkerTestResult t c false) s = .next u ∧
        (∀ i, c = .comparator i ∨ c = .entryDup i → s.pairFused i.val = false → (s.pair i.val).safe = true → coreFenced s (2 * i.val) = false →
          (u.core (2 * i.val)).fenced = true ∧ (u.core (2 * i.val + 1)).fenced = true) ∧
        (∀ n, c = .coreParity n ∨ c = .crcCore n → s.coreFused n.val = false → coreFenced s n.val = false →
          ∀ k ∈ unitCores s (unitOf s n.val), (u.core k).fenced = true) ∧
        (∀ i, c = .pairClock i → s.pairFused i.val = false → ∀ k ∈ pairUnits s i.val, coreFenced s k = false → (u.core k).fenced = true) ∧
        (∀ q, c = .engineChecked q → (s.engine q.val).fenced = false → (u.engine q.val).fenced = true) ∧
        (c = .fabricClock ∨ c = .deadlineMonitor →
          u.safety.dev = (if s.safety.dev = 0 then (if c = .fabricClock then 5 else 3) else s.safety.dev) ∧
          ∀ p, p < 8 → s.isSafety p = true → (u.part p).safe.isSome = true) ∧
        ((∃ q, c = .crcEngine q) ∨ c = .crcSieve ∨ (∃ q k, c = .feltParity q k) ∨ (∃ k, c = .hopParity k) ∨ (∃ k, c = .frameTag k) ∨
            (∃ k, c = .tallyDup k) ∨ c = .dramSecded ∨ (∃ k, c = .crcUnit k) ∨ c = .sieveChecked →
          u.safety.shared = true ∧ ∀ p, p < 8 → s.isSafety p = true → (s.part p).st = .running → (u.part p).safe.isSome = true))) ∧
  (∀ (t x : Nat) (s : State), s.selftest.rotating = true → s.selftest.late = false → s.selftest.rotStart = some x →
    x + 200000000 ≤ (atTime t s).clk.dev →
    ∃ u, exec (.rotationLate t) s = .next u ∧ u.selftest = { s.selftest with late := true })

/-- A chunk granted to a free unit runs on its cores (R371, R372); one that passes advances its core's list, and the last one completes
the core's coverage (R374, R376); one that fails makes the core SUSPECT with a strike, and fences its unit where the core
failed one, or the unit has a strike, of the last 60 s (R375). A core whose coverage age passes
900 s is OVERDUE (R376). A recorded core is covered after a start, and fenced then where a frame of it is retired that R179 names (R382), or fenced for its failure (R384, R439). The staged set's checks end (R379).
Completion of: CHUNK_GRANT, CHUNK_COMPLETE, COVERAGE_OVERDUE, COVERAGE_RUN_COMPLETE, PATTERN_SET_VERIFIED.
Model readings it rests on: log entry 57 (DEDUCED). -/
def Obligations.ChunksCoverTheCores : Prop :=
  (∀ (t : Nat) (n : Fin 40) (s : State), (s.hdrOf pgSt).cstate ≠ .pending → chunkGrantable (atTime t s) (unitOf s n.val) = true →
    ∃ u, exec (.chunkGrant t n) s = .next u ∧ unitRun u (unitOf s n.val) = true ∧ ∀ k ∈ unitCores s (unitOf s n.val),
      (u.core k).testing = true ∧ (u.core k).chunkFrom = u.clk.clock) ∧
  (∀ (t : Nat) (n : Fin 40) (s : State), (s.core n.val).testing = true → (s.proc 1).st = .run → s.selftest.coreBank.lookup n.val = none →
    (∃ u, exec (.chunkComplete t n true) s = .next u ∧ (u.core n.val).testing = false ∧ (u.core n.val).suspect = false ∧
      ((s.core n.val).progress + 1 < chunkCount s s.selftest.activeBank n.val → (u.core n.val).progress = (s.core n.val).progress + 1) ∧
      (chunkCount s s.selftest.activeBank n.val ≤ (s.core n.val).progress + 1 →
        (u.core n.val).progress = 0 ∧ (u.core n.val).overdue = false ∧ (u.core n.val).covAge = u.clk.opTime)) ∧
    (recent (atTime t s) (s.core (unitOf s n.val)).strikes = [] →
      (s.core n.val).suspect = false ∨ (s.core n.val).suspectAt + 60000000000 ≤ (atTime t s).clk.dev →
      ∃ u, exec (.chunkComplete t n false) s = .next u ∧ (u.core n.val).testing = false ∧ (u.core n.val).suspect = true ∧
        (u.core n.val).suspectAt = u.clk.dev ∧ (u.core (unitOf s n.val)).strikes = [u.clk.dev]) ∧
    (recent (atTime t s) (s.core (unitOf s n.val)).strikes ≠ [] ∨
        (s.core n.val).suspect = true ∧ (atTime t s).clk.dev < (s.core n.val).suspectAt + 60000000000 →
      s.coreFused n.val = false → coreFenced s n.val = false →
      ∃ u, exec (.chunkComplete t n false) s = .next u ∧ ∀ k ∈ unitCores s (unitOf s n.val), (u.core k).fenced = true)) ∧
  (∀ (t : Nat) (n : Fin 40) (s : State), s.coreFused n.val = false → (s.core n.val).overdue = false → 900000000000 < covAgeNs (atTime t s) n.val →
    ∃ u, exec (.coverageOverdue t n) s = .next u ∧ (u.core n.val).overdue = true) ∧
  (∀ (t : Nat) (n : Fin 40) (s : State), s.boot.coverage.elem n.val = true → (s.proc 1).st = .run →
    (∃ y, exec (.coverageRunComplete t n true) s = .next (dueFences y) ∧ y.boot.coverage = s.boot.coverage.filter (fun c => c != n.val) ∧
      (y.core n.val).progress = 0 ∧ (y.core n.val).covAge = y.clk.opTime) ∧
    (∃ u, exec (.coverageRunComplete t n false) s = .next u ∧
      u.boot.coverage = s.boot.coverage.filter (fun c => !(unitCores s (unitOf s n.val)).elem c) ∧ ∀ k ∈ unitCores s (unitOf s n.val), (u.core k).fenced = true)) ∧
  (∀ (t : Nat) (s : State), s.selftest.staged = 1 → (s.proc 1).st = .run →
    ∃ u, exec (.patternSetVerified t) s = .next u ∧
      (patternCheck s = none → u = { atTime t s with selftest := { s.selftest with staged := 2, busy := false } }) ∧
      (∀ code, patternCheck s = some code →
        u = ({ atTime t s with selftest := { s.selftest with staged := 3, busy := false } }).pageErr pgSt 2 code 1))

/-! ### Sirris, time, ports -/

/-- A Sirris link that is trained and not UP sends HELLO; a good HELLO brings it UP with SEQ 0 and every credit (R488, R489); no good frame for 1 ms takes
it DOWN with all it kept, and its port trains again (R488, R490). A DATA frame with the SEQ expected is taken, any other is not and is named in a NACK; ACKSEQ
frees what it acknowledges; a NACK sends again from the SEQ it names (R490). No progress for 20 µs sends all again, and takes the link
DOWN after 32 rounds; 1 µs after the last frame sent an ACK leaves (R490).
Completion of: HELLO_SEND, HELLO, LINK_TIMEOUT, DATA, ACK, NACK, RETRY_TIMEOUT, ACK_IDLE_TIMEOUT.
Model readings it rests on: log entry 45 (DEDUCED). -/
def Obligations.SirrisLinksKeepOrder : Prop :=
  ∀ (t : Nat) (n : Fin 4) (s : State),
    (s.phase = .up → sirTrained s n.val = true → (s.sir n.val).up = false →
      ∃ u, exec (.helloSend t n) s = .next u ∧
        u.out = s.out ++ [.sirris n.val (sirFrame 4 0 0 0 0 0 (toBE 2 (devId s) ++ toBE 6 0))]) ∧
    (∀ fr f, s.phase = .up → sirTrained s n.val = true → be fr 1 1 = 4 → sirCrcOk fr = true → sirParse fr = some f →
      ∃ u, exec (.hello t n fr) s = .next u ∧ (u.sir n.val).up = true ∧ (u.sir n.val).peer = be f.msg 0 2 % 1024 ∧
        (u.sir n.val).lastGood = u.clk.clock ∧
        ((s.sir n.val).up = false → (u.sir n.val).nextSeq = 0 ∧ (u.sir n.val).expected = 0 ∧ (u.sir n.val).credReq = 512 ∧
          (u.sir n.val).credRsp = 512)) ∧
    ((s.sir n.val).up = true → (s.sir n.val).lastGood + 1000000 ≤ (atTime t s).clk.clock →
      ∃ u, exec (.linkTimeout t n) s = .next u ∧ (u.sir n.val).up = false ∧ (u.sir n.val).kept = [] ∧ (u.sir n.val).waiting = [] ∧
        ((s.optical (10 + n.val)).link = 2 → (u.optical (10 + n.val)).link = 1)) ∧
    (∀ fr f, s.phase = .up → sirTrained s n.val = true → (s.sir n.val).up = true → be fr 1 1 = 1 → sirCrcOk fr = true → sirParse fr = some f →
      (f.seq = (s.sir n.val).expected → ∃ u, exec (.data t n fr) s = .next u ∧
        (u.sir n.val).expected = ((s.sir n.val).expected + 1) % 65536) ∧
      (f.seq ≠ (s.sir n.val).expected → ∃ u, exec (.data t n fr) s = .next u ∧ (u.sir n.val).expected = (s.sir n.val).expected ∧
        u.mem = s.mem ∧ u.plans = s.plans ∧
        ((s.sir n.val).lastNack = none → u.out = s.out ++ [.sirris n.val (sirFrame 3 0 (s.sir n.val).expected (s.sir n.val).expected
          (s.sir n.val).owedReq (s.sir n.val).owedRsp [])]))) ∧
    (∀ fr f k r d, s.phase = .up → sirTrained s n.val = true → (s.sir n.val).up = true → sirCrcOk fr = true → sirParse fr = some f →
      (s.sir n.val).kept = k :: r → d = (f.ackseq + 65536 - k.seq) % 65536 → d ≤ (s.sir n.val).kept.length → (s.sir n.val).waiting = [] →
      (be fr 1 1 = 2 → ∃ u, exec (.ack t n fr) s = .next u ∧ (u.sir n.val).kept = (s.sir n.val).kept.drop d ∧ u.out = s.out ∧
        (u.sir n.val).credReq = min 512 ((s.sir n.val).credReq + f.creq)) ∧
      (∀ k' r', be fr 1 1 = 3 → (s.sir n.val).kept.drop d = k' :: r' → (f.seq + 65536 - k'.seq) % 65536 < (k' :: r').length →
        ∃ u, exec (.nack t n fr) s = .next u ∧ (u.sir n.val).kept = k' :: r' ∧
          u.out = s.out ++ ((k' :: r').drop ((f.seq + 65536 - k'.seq) % 65536)).map (fun x => .sirris n.val x.frame))) ∧
    ((s.sir n.val).up = true → (s.sir n.val).kept ≠ [] → (s.sir n.val).lastProgress + 20000 ≤ (atTime t s).clk.clock →
      ((s.sir n.val).rounds < 32 → ∃ u, exec (.retryTimeout t n) s = .next u ∧ (u.sir n.val).rounds = (s.sir n.val).rounds + 1 ∧
        u.out = s.out ++ (s.sir n.val).kept.map (fun x => .sirris n.val x.frame)) ∧
      (32 ≤ (s.sir n.val).rounds → ∃ u, exec (.retryTimeout t n) s = .next u ∧ (u.sir n.val).up = false ∧ (u.sir n.val).kept = [])) ∧
    ((s.sir n.val).up = true → (s.sir n.val).lastTx + 1000 ≤ (atTime t s).clk.clock →
      ∃ u, exec (.ackIdleTimeout t n) s = .next u ∧ (u.sir n.val).owedReq = 0 ∧ (u.sir n.val).owedRsp = 0 ∧
        u.out = s.out ++ [.sirris n.val (sirFrame 2 0 0 (s.sir n.val).expected (s.sir n.val).owedReq (s.sir n.val).owedRsp [])])

/-- An offset of at most 1 ms is slewed away, a larger one steps device time unless a partition is RUNNING; eight offsets within LOCK_NS lock
(R423, R424); that the offset is device time less the grandmaster's is the model's reading (DEDUCED, log entry 31). Loss of Sync is HOLDOVER,
and after HOLDOVER_MS the engine acquires afresh (R423). A frame whose FCS is bad is counted and corrects nothing (R525). A port in training comes UP,
and trains again when its light is lost, which takes the Sirris link on it DOWN (R488, R523).
Completion of: GPTP_MESSAGE, SYNC_LOSS_TIMEOUT, HOLDOVER_EXPIRY, PORT_LINK_TRAINED, PORT_LINK_LOST.
Model readings it rests on: log entry 46 (DESIGN CHOICE). -/
def Obligations.TimeAndPortsFollow : Prop :=
  (∀ (t : Nat) (m : GptpMsg) (s : State), s.phase = .up → m.fcsOk = false → portOn s m.port = true →
    ∃ u, exec (.gptpMessage t m) s = .next u ∧ u.clk = (atTime t s).clk ∧
      u.counter (pgPort m.port) 0x060 = (s.counter (pgPort m.port) 0x060 + 1) % 2 ^ 64) ∧
  (∀ (t : Nat) (m : GptpMsg) (s : State), s.phase = .up ∨ s.phase = .recovery ∧ 8 ≤ m.port → m.fcsOk = true → hears s m.port m.domain = true →
    ∃ u, exec (.gptpMessage t m) s = .next u ∧ u.clk.time.gm = m.gm ∧ u.clk.time.offsets = (m.offset :: (atTime t s).clk.time.offsets).take 8 ∧
      (u.clk.time.st = 2 ↔ u.clk.time.offsets.length = 8 ∧ ∀ o ∈ u.clk.time.offsets, o.natAbs ≤ lockNs s) ∧
      (m.offset.natAbs ≤ 1000000 → u.clk.time.slew = -m.offset ∧ u.clk.dev = (atTime t s).clk.dev) ∧
      (1000000 < m.offset.natAbs → anyRunning s = true → u.clk.time.slew = -m.offset ∧ u.clk.dev = (atTime t s).clk.dev ∧
        u.clk.time.deferred = true) ∧
      (1000000 < m.offset.natAbs → anyRunning s = false → u.clk.dev = (((atTime t s).clk.dev : Int) - m.offset).toNat)) ∧
  (∀ (t : Nat) (s : State), s.phase = .up → (atTime t s).clk.time.st = 1 ∨ (atTime t s).clk.time.st = 2 →
    ∃ u, exec (.syncLossTimeout t) s = .next u ∧ u.clk.time.st = 3 ∧ u.clk.dev = (atTime t s).clk.dev) ∧
  (∀ (t : Nat) (s : State), (atTime t s).clk.time.st = 3 → (atTime t s).clk.time.lastSync + holdoverMs s * 1000000 ≤ (atTime t s).clk.clock →
    ∃ u, exec (.holdoverExpiry t) s = .next u ∧ u.clk.time.st = 1 ∧ u.clk.time.offsets = []) ∧
  (∀ (t : Nat) (port : Fin 14) (s : State), s.phase = .up →
    (bit (s.inForce (addr (pgPort port.val) 0x040)) 31 = true → (s.optical port.val).link ≠ 2 →
      ∃ u, exec (.portLinkTrained t port) s = .next u ∧ (u.optical port.val).link = 2) ∧
    ((s.optical port.val).link = 2 → ∃ u, exec (.portLinkLost t port) s = .next u ∧ (u.optical port.val).link = 1 ∧
      (10 ≤ port.val → (s.sir (port.val - 10)).up = true → (u.sir (port.val - 10)).up = false) ∧
      u.counter (pgPort port.val) 0x078 = (s.counter (pgPort port.val) 0x078 + 1) % 2 ^ 64))
end

