-- ==== Sys2Proof/Laws/Sparse.lean ====
section
/-! SUPPORT. Laws of the sparse tables and of memory: a read after a write, and that every memory operation keeps the canonical form. -/

namespace Sys2Proof.Machine

/-! ### Sparse tables -/

variable {α : Type}

@[simp] theorem sget_nil (d : α) (k : Nat) : sget d [] k = d := rfl

theorem sget_cons (d : α) (j : Nat) (v : α) (r : List (Nat × α)) (k : Nat) :
    sget d ((j, v) :: r) k = if j = k then v else sget d r k := rfl

theorem sget_append (d : α) (l r : List (Nat × α)) (k : Nat) (h : ∀ e ∈ l, e.1 ≠ k) : sget d (l ++ r) k = sget d r k := by
  induction l with
  | nil => rfl
  | cons e l ih =>
    obtain ⟨i, w⟩ := e
    rw [List.cons_append, sget_cons, if_neg (h (i, w) (List.mem_cons_self ..))]
    exact ih (fun x hx => h x (List.mem_cons_of_mem _ hx))

theorem sget_none (d : α) (l : List (Nat × α)) (k : Nat) (h : ∀ e ∈ l, e.1 ≠ k) : sget d l k = d := by
  have := sget_append d l [] k h
  rwa [List.append_nil] at this

/-- The key reads as written. -/
@[simp] theorem sget_sput_self [DecidableEq α] (d : α) (l : List (Nat × α)) (k : Nat) (v : α) : sget d (sput d l k v) k = v := by
  have lo : ∀ e ∈ l.filter (fun e => decide (e.1 < k)), e.1 ≠ k := fun e he => by
    have := (List.mem_filter.1 he).2; simp at this; omega
  have hi : ∀ e ∈ l.filter (fun e => decide (k < e.1)), e.1 ≠ k := fun e he => by
    have := (List.mem_filter.1 he).2; simp at this; omega
  unfold sput
  rw [List.append_assoc, sget_append d _ _ k lo]
  split
  · rename_i h; rw [List.nil_append, sget_none d _ k hi, h]
  · simp [sget_cons]

/-- Another key reads as before. -/
theorem sget_sput_ne [DecidableEq α] (d d' : α) (l : List (Nat × α)) {k j : Nat} (v : α) (h : j ≠ k) :
    sget d (sput d' l k v) j = sget d l j := by
  have filt : ∀ (f : Nat → Bool) (r : List (Nat × α)), f j = true → sget d (r.filter (fun e => f e.1)) j = sget d r j := by
    intro f r hf
    induction r with
    | nil => rfl
    | cons e r ih =>
      obtain ⟨i, w⟩ := e
      by_cases he : f i = true
      · simp only [List.filter_cons, he, if_true, sget_cons, ih]
      · simp only [List.filter_cons, he, sget_cons]
        rw [if_neg (fun c : i = j => he (c ▸ hf))]
        simpa using ih
  have lone : ∀ e ∈ (if v = d' then [] else [(k, v)] : List (Nat × α)), e.1 ≠ j := by
    intro e he; split at he <;> simp at he; subst he; exact fun c => h c.symm
  unfold sput
  rcases Nat.lt_or_gt_of_ne h with hj | hj
  · rw [List.append_assoc]
    have tail : ∀ e ∈ ((if v = d' then [] else [(k, v)]) ++ l.filter (fun e => decide (k < e.1)) : List (Nat × α)), e.1 ≠ j := by
      intro e he
      rcases List.mem_append.1 he with he | he
      · exact lone e he
      · have := (List.mem_filter.1 he).2; simp at this; omega
    have app : ∀ (x y : List (Nat × α)), (∀ e ∈ y, e.1 ≠ j) → sget d (x ++ y) j = sget d x j := by
      intro x y hy
      induction x with
      | nil => exact sget_none d y j hy
      | cons e x ih => obtain ⟨i, w⟩ := e; rw [List.cons_append, sget_cons, sget_cons, ih]
    rw [app _ _ tail]
    exact filt (fun i => decide (i < k)) l (by simpa using hj)
  · rw [List.append_assoc, sget_append d _ _ j (fun e he => by have := (List.mem_filter.1 he).2; simp at this; omega),
      sget_append d _ _ j lone]
    exact filt (fun i => decide (k < i)) l (by simpa using hj)

/-! ### Memory -/

theorem memGet_of_lt (m : List Host.Cell) (lo : Nat) (h : memFrom m lo = true) {a : Nat} (ha : a < lo) : memGet m a = blank a := by
  induction m generalizing lo with
  | nil => rfl
  | cons e r ih =>
    obtain ⟨i, w⟩ := e
    simp only [memFrom, Bool.and_eq_true, decide_eq_true_eq] at h
    show (if i = a then w else memGet r a) = blank a
    rw [if_neg (by omega)]
    exact ih (i + 1) h.2 (by omega)

/-- A byte reads as written. -/
theorem memGet_memPut_self (m : List Host.Cell) (lo : Nat) (h : memFrom m lo = true) (a : Nat) (v : Byte) :
    memGet (memPut m a v) a = v := by
  induction m generalizing lo with
  | nil => unfold memPut; split <;> simp_all [memGet]
  | cons e r ih =>
    obtain ⟨i, w⟩ := e
    simp only [memFrom, Bool.and_eq_true, decide_eq_true_eq] at h
    obtain ⟨_, h3⟩ := h
    unfold memPut
    split
    · rename_i ha
      split
      · rename_i hv
        show (if i = a then w else memGet r a) = v
        rw [if_neg (by omega), hv]
        exact memGet_of_lt r (i + 1) h3 (by omega)
      · simp [memGet]
    · split
      · rename_i ha
        split
        · rename_i hv
          subst ha
          rw [hv]
          exact memGet_of_lt r (a + 1) h3 (by omega)
        · simp [memGet]
      · rename_i ha
        show (if i = a then w else memGet (memPut r a v) a) = v
        rw [if_neg (by omega)]
        exact ih (i + 1) h3

/-- Every other byte reads as before. -/
theorem memGet_memPut_ne (m : List Host.Cell) {a b : Nat} (v : Byte) (h : b ≠ a) : memGet (memPut m a v) b = memGet m b := by
  induction m with
  | nil => unfold memPut; split <;> simp [memGet, Ne.symm h]
  | cons e r ih =>
    obtain ⟨i, w⟩ := e
    unfold memPut
    split
    · split <;> simp [memGet, Ne.symm h]
    · split
      · subst_vars
        split <;> simp [memGet, Ne.symm h]
      · simp only [memGet, ih]

theorem memFrom_mono (m : List Host.Cell) {lo lo' : Nat} (h : memFrom m lo = true) (hl : lo' ≤ lo) : memFrom m lo' = true := by
  cases m with
  | nil => rfl
  | cons e r =>
    obtain ⟨i, w⟩ := e
    simp only [memFrom, Bool.and_eq_true, decide_eq_true_eq] at h ⊢
    exact ⟨⟨by omega, h.1.2⟩, h.2⟩

theorem memFrom_memPut (m : List Host.Cell) (lo : Nat) (h : memFrom m lo = true) {a : Nat} (v : Byte) (ha : lo ≤ a) :
    memFrom (memPut m a v) lo = true := by
  induction m generalizing lo with
  | nil =>
    unfold memPut
    split
    · rfl
    · rename_i hv
      simp [memFrom, hv, ha]
  | cons e r ih =>
    obtain ⟨i, w⟩ := e
    simp only [memFrom, Bool.and_eq_true, decide_eq_true_eq] at h
    obtain ⟨⟨h1, h2⟩, h3⟩ := h
    unfold memPut
    split
    · rename_i hai
      split
      · simp [memFrom, h1, h2, h3]
      · rename_i hv
        simp [memFrom, hv, ha, h2, h3]; omega
    · split
      · rename_i hai
        subst hai
        split
        · exact memFrom_mono r h3 (by omega)
        · rename_i hv
          simp [memFrom, hv, ha, h3]
      · rename_i hai
        simp only [memFrom, Bool.and_eq_true, decide_eq_true_eq]
        exact ⟨⟨h1, h2⟩, ih (i + 1) h3 (by omega)⟩

/-- Writing one byte keeps the canonical form. -/
theorem Memory.wf_memPut {m : List Host.Cell} (h : Memory.wf m = true) (a : Nat) (v : Byte) : Memory.wf (memPut m a v) = true :=
  memFrom_memPut m 0 h v (Nat.zero_le a)

theorem memFrom_filter (m : List Host.Cell) (lo : Nat) (h : memFrom m lo = true) (f : Host.Cell → Bool) : memFrom (m.filter f) lo = true := by
  induction m generalizing lo with
  | nil => rfl
  | cons e r ih =>
    obtain ⟨i, w⟩ := e
    simp only [memFrom, Bool.and_eq_true, decide_eq_true_eq] at h
    obtain ⟨⟨h1, h2⟩, h3⟩ := h
    rw [List.filter_cons]
    split
    · simp only [memFrom, Bool.and_eq_true, decide_eq_true_eq]
      exact ⟨⟨h1, h2⟩, ih (i + 1) h3⟩
    · exact memFrom_mono _ (ih (i + 1) h3) (by omega)

/-- Dropping entries keeps the canonical form. -/
theorem Memory.wf_filter {m : List Host.Cell} (h : Memory.wf m = true) (f : Host.Cell → Bool) : Memory.wf (m.filter f) = true :=
  memFrom_filter m 0 h f

/-- Two canonical pieces, the first below a bound and the second from it on, make one. -/
theorem memFrom_append (m k : List Host.Cell) (lo b : Nat) (hm : memFrom m lo = true) (hk : memFrom k b = true)
    (hb : ∀ c ∈ m, c.1 < b) (hlo : lo ≤ b) : memFrom (m ++ k) lo = true := by
  induction m generalizing lo with
  | nil => exact memFrom_mono k hk hlo
  | cons e r ih =>
    obtain ⟨i, w⟩ := e
    simp only [memFrom, Bool.and_eq_true, decide_eq_true_eq] at hm
    obtain ⟨⟨h1, h2⟩, h3⟩ := hm
    have hi : i < b := hb (i, w) (by simp)
    simp only [List.cons_append, memFrom, Bool.and_eq_true, decide_eq_true_eq]
    exact ⟨⟨h1, h2⟩, ih (i + 1) h3 (fun c hc => hb c (by simp [hc])) (by omega)⟩

theorem memFrom_high (m : List Host.Cell) (lo b : Nat) (h : memFrom m lo = true) (hb : ∀ c ∈ m, b ≤ c.1) : memFrom m b = true := by
  cases m with
  | nil => rfl
  | cons e r =>
    obtain ⟨i, w⟩ := e
    simp only [memFrom, Bool.and_eq_true, decide_eq_true_eq] at h ⊢
    exact ⟨⟨hb (i, w) (by simp), h.1.2⟩, h.2⟩

/-- A shifted range, without what its new place reads as anyway, is canonical from its new place on. -/
theorem memFrom_shift (m : List Host.Cell) (lo src dst : Nat) (h : memFrom m lo = true) (hs : src ≤ lo) (hb : ∀ c ∈ m, src ≤ c.1) :
    memFrom ((m.map (fun c => (c.1 - src + dst, c.2))).filter (fun c => decide (c.2 ≠ blank c.1))) (lo - src + dst) = true := by
  induction m generalizing lo with
  | nil => rfl
  | cons e r ih =>
    obtain ⟨i, w⟩ := e
    simp only [memFrom, Bool.and_eq_true, decide_eq_true_eq] at h
    obtain ⟨⟨h1, h2⟩, h3⟩ := h
    have hi : src ≤ i := hb (i, w) (by simp)
    have ih' := ih (i + 1) h3 (by omega) (fun c hc => hb c (by simp [hc]))
    have e1 : i + 1 - src + dst = i - src + dst + 1 := by omega
    rw [e1] at ih'
    rw [List.map_cons, List.filter_cons]
    split
    · rename_i hv
      simp only [decide_eq_true_eq] at hv
      simp only [memFrom, Bool.and_eq_true, decide_eq_true_eq]
      exact ⟨⟨by omega, hv⟩, ih'⟩
    · exact memFrom_mono _ ih' (by omega)

/-- A bulk copy keeps the canonical form. -/
theorem Memory.wf_copyRam (s : State) (src dst n : Nat) (h : Memory.wf s.mem = true) : Memory.wf (s.copyRam src dst n).mem = true := by
  have hseg := memFrom_shift (memRange s.mem src n) src src dst
    (memFrom_high _ 0 src (memFrom_filter _ 0 h _) (fun c hc => by
      simp only [memRange, List.mem_filter, Bool.and_eq_true, decide_eq_true_eq] at hc; exact hc.2.1)) (le_refl _)
    (fun c hc => by simp only [memRange, List.mem_filter, Bool.and_eq_true, decide_eq_true_eq] at hc; exact hc.2.1)
  rw [Nat.sub_self, Nat.zero_add] at hseg
  have hhi := memFrom_high (s.mem.filter (fun c => decide (dst + n ≤ c.1))) 0 (dst + n) (memFrom_filter _ 0 h _)
    (fun c hc => by simp only [List.mem_filter, decide_eq_true_eq] at hc; exact hc.2)
  have hlo := memFrom_filter s.mem 0 h (fun c => decide (c.1 < dst))
  refine memFrom_append _ _ 0 (dst + n) (memFrom_append _ _ 0 dst hlo hseg ?_ (Nat.zero_le _)) hhi ?_ (Nat.zero_le _)
  · intro c hc
    simp only [List.mem_filter, decide_eq_true_eq] at hc
    exact hc.2
  · intro c hc
    rcases List.mem_append.1 hc with hc | hc
    · simp only [List.mem_filter, decide_eq_true_eq] at hc
      omega
    · simp only [List.mem_filter, List.mem_map, memRange, Bool.and_eq_true, decide_eq_true_eq] at hc
      obtain ⟨⟨x, ⟨_, hx1, hx2⟩, rfl⟩, _⟩ := hc
      show x.1 - src + dst < dst + n
      omega

/-! ### Reading after writing -/

/-- A byte written reads back. -/
theorem State.rd_wr_self (s : State) (h : Memory.wf s.mem = true) (a : Nat) (v : Byte) : (s.wr a v).rd a = v :=
  memGet_memPut_self s.mem 0 h a v

/-- Every other byte reads as before. -/
theorem State.rd_wr_ne (s : State) {a b : Nat} (v : Byte) (h : b ≠ a) : (s.wr a v).rd b = s.rd b := memGet_memPut_ne s.mem v h

theorem State.rd_wrN_out (d : Bytes) (s : State) {a b : Nat} (h : b < a ∨ a + d.length ≤ b) : (s.wrN a d).rd b = s.rd b := by
  induction d generalizing s a with
  | nil => rfl
  | cons v r ih =>
    have h' : b < a + 1 ∨ a + 1 + r.length ≤ b := by
      simp only [List.length_cons] at h
      omega
    show ((s.wr a v).wrN (a + 1) r).rd b = s.rd b
    rw [ih (s.wr a v) h']
    exact State.rd_wr_ne s v (by simp only [List.length_cons] at h; omega)

theorem Memory.wf_wrN (d : Bytes) (s : State) (a : Nat) (h : Memory.wf s.mem = true) : Memory.wf (s.wrN a d).mem = true := by
  induction d generalizing s a with
  | nil => exact h
  | cons v r ih => exact ih (s.wr a v) (a + 1) (Memory.wf_memPut h a v)

/-- Written bytes read back. -/
theorem State.rd_wrN_in (d : Bytes) (s : State) (h : Memory.wf s.mem = true) (a i : Nat) (hi : i < d.length) :
    (s.wrN a d).rd (a + i) = d[i] := by
  induction d generalizing s a i with
  | nil => simp at hi
  | cons v r ih =>
    show ((s.wr a v).wrN (a + 1) r).rd (a + i) = (v :: r)[i]
    cases i with
    | zero =>
      show ((s.wr a v).wrN (a + 1) r).rd a = v
      rw [State.rd_wrN_out r (s.wr a v) (Or.inl (by omega))]
      exact State.rd_wr_self s h a v
    | succ j =>
      have := ih (s.wr a v) (Memory.wf_memPut h a v) (a + 1) j (by simpa using hi)
      rw [show a + (j + 1) = a + 1 + j by omega, this]
      rfl

end Sys2Proof.Machine
end

