-- ==== Sys2Proof/Laws/State.lean ====
section
/-! SUPPORT. What each named update leaves of the state, part by part, and what reads as written. -/

namespace Sys2Proof.Machine

variable (s : State)

@[simp] theorem State.wr_pending (a : Nat) (v : Byte) : (s.wr a v).pending = s.pending := rfl
@[simp] theorem State.wr_out (a : Nat) (v : Byte) : (s.wr a v).out = s.out := rfl
@[simp] theorem State.wr_fresh (a : Nat) (v : Byte) : (s.wr a v).fresh = s.fresh := rfl
@[simp] theorem State.wr_clk (a : Nat) (v : Byte) : (s.wr a v).clk = s.clk := rfl
@[simp] theorem State.wr_phase (a : Nat) (v : Byte) : (s.wr a v).phase = s.phase := rfl
@[simp] theorem State.wr_fuses (a : Nat) (v : Byte) : (s.wr a v).fuses = s.fuses := rfl
@[simp] theorem State.wr_regs (a : Nat) (v : Byte) : (s.wr a v).regs = s.regs := rfl
@[simp] theorem State.wr_units (a : Nat) (v : Byte) : (s.wr a v).units = s.units := rfl
@[simp] theorem State.wr_plans (a : Nat) (v : Byte) : (s.wr a v).plans = s.plans := rfl
@[simp] theorem State.wr_vat (a : Nat) (v : Byte) : (s.wr a v).vat = s.vat := rfl
@[simp] theorem State.wr_press (a : Nat) (v : Byte) : (s.wr a v).press = s.press := rfl
@[simp] theorem State.wr_link (a : Nat) (v : Byte) : (s.wr a v).link = s.link := rfl
@[simp] theorem State.wr_safety (a : Nat) (v : Byte) : (s.wr a v).safety = s.safety := rfl
@[simp] theorem State.wr_selftest (a : Nat) (v : Byte) : (s.wr a v).selftest = s.selftest := rfl
@[simp] theorem State.wr_aon (a : Nat) (v : Byte) : (s.wr a v).aon = s.aon := rfl
@[simp] theorem State.wr_boot (a : Nat) (v : Byte) : (s.wr a v).boot = s.boot := rfl
@[simp] theorem State.wr_procs (a : Nat) (v : Byte) : (s.wr a v).procs = s.procs := rfl
@[simp] theorem State.wr_log (a : Nat) (v : Byte) : (s.wr a v).log = s.log := rfl
@[simp] theorem State.wr_power (a : Nat) (v : Byte) : (s.wr a v).power = s.power := rfl
@[simp] theorem State.wr_net (a : Nat) (v : Byte) : (s.wr a v).net = s.net := rfl

@[simp] theorem State.setCore_pending (n : Nat) (c : CoreSt) : (s.setCore n c).pending = s.pending := rfl
@[simp] theorem State.setCore_out (n : Nat) (c : CoreSt) : (s.setCore n c).out = s.out := rfl
@[simp] theorem State.setCore_fresh (n : Nat) (c : CoreSt) : (s.setCore n c).fresh = s.fresh := rfl
@[simp] theorem State.setCore_clk (n : Nat) (c : CoreSt) : (s.setCore n c).clk = s.clk := rfl
@[simp] theorem State.setCore_phase (n : Nat) (c : CoreSt) : (s.setCore n c).phase = s.phase := rfl
@[simp] theorem State.setCore_fuses (n : Nat) (c : CoreSt) : (s.setCore n c).fuses = s.fuses := rfl
@[simp] theorem State.setCore_mem (n : Nat) (c : CoreSt) : (s.setCore n c).mem = s.mem := rfl
@[simp] theorem State.setCore_regs (n : Nat) (c : CoreSt) : (s.setCore n c).regs = s.regs := rfl
@[simp] theorem State.setCore_units_pairs (n : Nat) (c : CoreSt) : (s.setCore n c).units.pairs = s.units.pairs := rfl
@[simp] theorem State.setCore_units_engines (n : Nat) (c : CoreSt) : (s.setCore n c).units.engines = s.units.engines := rfl
@[simp] theorem State.setCore_plans (n : Nat) (c : CoreSt) : (s.setCore n c).plans = s.plans := rfl
@[simp] theorem State.setCore_vat (n : Nat) (c : CoreSt) : (s.setCore n c).vat = s.vat := rfl
@[simp] theorem State.setCore_press (n : Nat) (c : CoreSt) : (s.setCore n c).press = s.press := rfl
@[simp] theorem State.setCore_link (n : Nat) (c : CoreSt) : (s.setCore n c).link = s.link := rfl
@[simp] theorem State.setCore_safety (n : Nat) (c : CoreSt) : (s.setCore n c).safety = s.safety := rfl
@[simp] theorem State.setCore_selftest (n : Nat) (c : CoreSt) : (s.setCore n c).selftest = s.selftest := rfl
@[simp] theorem State.setCore_aon (n : Nat) (c : CoreSt) : (s.setCore n c).aon = s.aon := rfl
@[simp] theorem State.setCore_boot (n : Nat) (c : CoreSt) : (s.setCore n c).boot = s.boot := rfl
@[simp] theorem State.setCore_procs (n : Nat) (c : CoreSt) : (s.setCore n c).procs = s.procs := rfl
@[simp] theorem State.setCore_log (n : Nat) (c : CoreSt) : (s.setCore n c).log = s.log := rfl
@[simp] theorem State.setCore_power (n : Nat) (c : CoreSt) : (s.setCore n c).power = s.power := rfl
@[simp] theorem State.setCore_net (n : Nat) (c : CoreSt) : (s.setCore n c).net = s.net := rfl

@[simp] theorem State.setPair_pending (n : Nat) (c : PairSt) : (s.setPair n c).pending = s.pending := rfl
@[simp] theorem State.setPair_out (n : Nat) (c : PairSt) : (s.setPair n c).out = s.out := rfl
@[simp] theorem State.setPair_fresh (n : Nat) (c : PairSt) : (s.setPair n c).fresh = s.fresh := rfl
@[simp] theorem State.setPair_clk (n : Nat) (c : PairSt) : (s.setPair n c).clk = s.clk := rfl
@[simp] theorem State.setPair_phase (n : Nat) (c : PairSt) : (s.setPair n c).phase = s.phase := rfl
@[simp] theorem State.setPair_fuses (n : Nat) (c : PairSt) : (s.setPair n c).fuses = s.fuses := rfl
@[simp] theorem State.setPair_mem (n : Nat) (c : PairSt) : (s.setPair n c).mem = s.mem := rfl
@[simp] theorem State.setPair_regs (n : Nat) (c : PairSt) : (s.setPair n c).regs = s.regs := rfl
@[simp] theorem State.setPair_units_cores (n : Nat) (c : PairSt) : (s.setPair n c).units.cores = s.units.cores := rfl
@[simp] theorem State.setPair_units_engines (n : Nat) (c : PairSt) : (s.setPair n c).units.engines = s.units.engines := rfl
@[simp] theorem State.setPair_plans (n : Nat) (c : PairSt) : (s.setPair n c).plans = s.plans := rfl
@[simp] theorem State.setPair_vat (n : Nat) (c : PairSt) : (s.setPair n c).vat = s.vat := rfl
@[simp] theorem State.setPair_press (n : Nat) (c : PairSt) : (s.setPair n c).press = s.press := rfl
@[simp] theorem State.setPair_link (n : Nat) (c : PairSt) : (s.setPair n c).link = s.link := rfl
@[simp] theorem State.setPair_safety (n : Nat) (c : PairSt) : (s.setPair n c).safety = s.safety := rfl
@[simp] theorem State.setPair_selftest (n : Nat) (c : PairSt) : (s.setPair n c).selftest = s.selftest := rfl
@[simp] theorem State.setPair_aon (n : Nat) (c : PairSt) : (s.setPair n c).aon = s.aon := rfl
@[simp] theorem State.setPair_boot (n : Nat) (c : PairSt) : (s.setPair n c).boot = s.boot := rfl
@[simp] theorem State.setPair_procs (n : Nat) (c : PairSt) : (s.setPair n c).procs = s.procs := rfl
@[simp] theorem State.setPair_log (n : Nat) (c : PairSt) : (s.setPair n c).log = s.log := rfl
@[simp] theorem State.setPair_power (n : Nat) (c : PairSt) : (s.setPair n c).power = s.power := rfl
@[simp] theorem State.setPair_net (n : Nat) (c : PairSt) : (s.setPair n c).net = s.net := rfl

@[simp] theorem State.setEngine_pending (n : Nat) (c : EngineSt) : (s.setEngine n c).pending = s.pending := rfl
@[simp] theorem State.setEngine_out (n : Nat) (c : EngineSt) : (s.setEngine n c).out = s.out := rfl
@[simp] theorem State.setEngine_fresh (n : Nat) (c : EngineSt) : (s.setEngine n c).fresh = s.fresh := rfl
@[simp] theorem State.setEngine_clk (n : Nat) (c : EngineSt) : (s.setEngine n c).clk = s.clk := rfl
@[simp] theorem State.setEngine_phase (n : Nat) (c : EngineSt) : (s.setEngine n c).phase = s.phase := rfl
@[simp] theorem State.setEngine_fuses (n : Nat) (c : EngineSt) : (s.setEngine n c).fuses = s.fuses := rfl
@[simp] theorem State.setEngine_mem (n : Nat) (c : EngineSt) : (s.setEngine n c).mem = s.mem := rfl
@[simp] theorem State.setEngine_regs (n : Nat) (c : EngineSt) : (s.setEngine n c).regs = s.regs := rfl
@[simp] theorem State.setEngine_units_cores (n : Nat) (c : EngineSt) : (s.setEngine n c).units.cores = s.units.cores := rfl
@[simp] theorem State.setEngine_units_pairs (n : Nat) (c : EngineSt) : (s.setEngine n c).units.pairs = s.units.pairs := rfl
@[simp] theorem State.setEngine_plans (n : Nat) (c : EngineSt) : (s.setEngine n c).plans = s.plans := rfl
@[simp] theorem State.setEngine_vat (n : Nat) (c : EngineSt) : (s.setEngine n c).vat = s.vat := rfl
@[simp] theorem State.setEngine_press (n : Nat) (c : EngineSt) : (s.setEngine n c).press = s.press := rfl
@[simp] theorem State.setEngine_link (n : Nat) (c : EngineSt) : (s.setEngine n c).link = s.link := rfl
@[simp] theorem State.setEngine_safety (n : Nat) (c : EngineSt) : (s.setEngine n c).safety = s.safety := rfl
@[simp] theorem State.setEngine_selftest (n : Nat) (c : EngineSt) : (s.setEngine n c).selftest = s.selftest := rfl
@[simp] theorem State.setEngine_aon (n : Nat) (c : EngineSt) : (s.setEngine n c).aon = s.aon := rfl
@[simp] theorem State.setEngine_boot (n : Nat) (c : EngineSt) : (s.setEngine n c).boot = s.boot := rfl
@[simp] theorem State.setEngine_procs (n : Nat) (c : EngineSt) : (s.setEngine n c).procs = s.procs := rfl
@[simp] theorem State.setEngine_log (n : Nat) (c : EngineSt) : (s.setEngine n c).log = s.log := rfl
@[simp] theorem State.setEngine_power (n : Nat) (c : EngineSt) : (s.setEngine n c).power = s.power := rfl
@[simp] theorem State.setEngine_net (n : Nat) (c : EngineSt) : (s.setEngine n c).net = s.net := rfl

@[simp] theorem State.setPart_pending (n : Nat) (c : PartSt) : (s.setPart n c).pending = s.pending := rfl
@[simp] theorem State.setPart_out (n : Nat) (c : PartSt) : (s.setPart n c).out = s.out := rfl
@[simp] theorem State.setPart_fresh (n : Nat) (c : PartSt) : (s.setPart n c).fresh = s.fresh := rfl
@[simp] theorem State.setPart_clk (n : Nat) (c : PartSt) : (s.setPart n c).clk = s.clk := rfl
@[simp] theorem State.setPart_phase (n : Nat) (c : PartSt) : (s.setPart n c).phase = s.phase := rfl
@[simp] theorem State.setPart_fuses (n : Nat) (c : PartSt) : (s.setPart n c).fuses = s.fuses := rfl
@[simp] theorem State.setPart_mem (n : Nat) (c : PartSt) : (s.setPart n c).mem = s.mem := rfl
@[simp] theorem State.setPart_regs (n : Nat) (c : PartSt) : (s.setPart n c).regs = s.regs := rfl
@[simp] theorem State.setPart_units (n : Nat) (c : PartSt) : (s.setPart n c).units = s.units := rfl
@[simp] theorem State.setPart_plans_instar (n : Nat) (c : PartSt) : (s.setPart n c).plans.instar = s.plans.instar := rfl
@[simp] theorem State.setPart_plans_instarEntry (n : Nat) (c : PartSt) : (s.setPart n c).plans.instarEntry = s.plans.instarEntry := rfl
@[simp] theorem State.setPart_plans_tallies (n : Nat) (c : PartSt) : (s.setPart n c).plans.tallies = s.plans.tallies := rfl
@[simp] theorem State.setPart_plans_talliesDup (n : Nat) (c : PartSt) : (s.setPart n c).plans.talliesDup = s.plans.talliesDup := rfl
@[simp] theorem State.setPart_plans_queues (n : Nat) (c : PartSt) : (s.setPart n c).plans.queues = s.plans.queues := rfl
@[simp] theorem State.setPart_plans_running (n : Nat) (c : PartSt) : (s.setPart n c).plans.running = s.plans.running := rfl
@[simp] theorem State.setPart_plans_arrival (n : Nat) (c : PartSt) : (s.setPart n c).plans.arrival = s.plans.arrival := rfl
@[simp] theorem State.setPart_plans_hostAdds (n : Nat) (c : PartSt) : (s.setPart n c).plans.hostAdds = s.plans.hostAdds := rfl
@[simp] theorem State.setPart_plans_spares (n : Nat) (c : PartSt) : (s.setPart n c).plans.spares = s.plans.spares := rfl
@[simp] theorem State.setPart_plans_sieveCut (n : Nat) (c : PartSt) : (s.setPart n c).plans.sieveCut = s.plans.sieveCut := rfl
@[simp] theorem State.setPart_vat (n : Nat) (c : PartSt) : (s.setPart n c).vat = s.vat := rfl
@[simp] theorem State.setPart_press (n : Nat) (c : PartSt) : (s.setPart n c).press = s.press := rfl
@[simp] theorem State.setPart_link (n : Nat) (c : PartSt) : (s.setPart n c).link = s.link := rfl
@[simp] theorem State.setPart_safety (n : Nat) (c : PartSt) : (s.setPart n c).safety = s.safety := rfl
@[simp] theorem State.setPart_selftest (n : Nat) (c : PartSt) : (s.setPart n c).selftest = s.selftest := rfl
@[simp] theorem State.setPart_aon (n : Nat) (c : PartSt) : (s.setPart n c).aon = s.aon := rfl
@[simp] theorem State.setPart_boot (n : Nat) (c : PartSt) : (s.setPart n c).boot = s.boot := rfl
@[simp] theorem State.setPart_procs (n : Nat) (c : PartSt) : (s.setPart n c).procs = s.procs := rfl
@[simp] theorem State.setPart_log (n : Nat) (c : PartSt) : (s.setPart n c).log = s.log := rfl
@[simp] theorem State.setPart_power (n : Nat) (c : PartSt) : (s.setPart n c).power = s.power := rfl
@[simp] theorem State.setPart_net (n : Nat) (c : PartSt) : (s.setPart n c).net = s.net := rfl

@[simp] theorem State.modPart_pending (n : Nat) (f : PartSt → PartSt) : (s.modPart n f).pending = s.pending := rfl
@[simp] theorem State.modPart_out (n : Nat) (f : PartSt → PartSt) : (s.modPart n f).out = s.out := rfl
@[simp] theorem State.modPart_fresh (n : Nat) (f : PartSt → PartSt) : (s.modPart n f).fresh = s.fresh := rfl
@[simp] theorem State.modPart_clk (n : Nat) (f : PartSt → PartSt) : (s.modPart n f).clk = s.clk := rfl
@[simp] theorem State.modPart_phase (n : Nat) (f : PartSt → PartSt) : (s.modPart n f).phase = s.phase := rfl
@[simp] theorem State.modPart_fuses (n : Nat) (f : PartSt → PartSt) : (s.modPart n f).fuses = s.fuses := rfl
@[simp] theorem State.modPart_mem (n : Nat) (f : PartSt → PartSt) : (s.modPart n f).mem = s.mem := rfl
@[simp] theorem State.modPart_regs (n : Nat) (f : PartSt → PartSt) : (s.modPart n f).regs = s.regs := rfl
@[simp] theorem State.modPart_units (n : Nat) (f : PartSt → PartSt) : (s.modPart n f).units = s.units := rfl
@[simp] theorem State.modPart_plans_instar (n : Nat) (f : PartSt → PartSt) : (s.modPart n f).plans.instar = s.plans.instar := rfl
@[simp] theorem State.modPart_plans_instarEntry (n : Nat) (f : PartSt → PartSt) : (s.modPart n f).plans.instarEntry = s.plans.instarEntry := rfl
@[simp] theorem State.modPart_plans_tallies (n : Nat) (f : PartSt → PartSt) : (s.modPart n f).plans.tallies = s.plans.tallies := rfl
@[simp] theorem State.modPart_plans_talliesDup (n : Nat) (f : PartSt → PartSt) : (s.modPart n f).plans.talliesDup = s.plans.talliesDup := rfl
@[simp] theorem State.modPart_plans_queues (n : Nat) (f : PartSt → PartSt) : (s.modPart n f).plans.queues = s.plans.queues := rfl
@[simp] theorem State.modPart_plans_running (n : Nat) (f : PartSt → PartSt) : (s.modPart n f).plans.running = s.plans.running := rfl
@[simp] theorem State.modPart_plans_arrival (n : Nat) (f : PartSt → PartSt) : (s.modPart n f).plans.arrival = s.plans.arrival := rfl
@[simp] theorem State.modPart_plans_hostAdds (n : Nat) (f : PartSt → PartSt) : (s.modPart n f).plans.hostAdds = s.plans.hostAdds := rfl
@[simp] theorem State.modPart_plans_spares (n : Nat) (f : PartSt → PartSt) : (s.modPart n f).plans.spares = s.plans.spares := rfl
@[simp] theorem State.modPart_plans_sieveCut (n : Nat) (f : PartSt → PartSt) : (s.modPart n f).plans.sieveCut = s.plans.sieveCut := rfl
@[simp] theorem State.modPart_vat (n : Nat) (f : PartSt → PartSt) : (s.modPart n f).vat = s.vat := rfl
@[simp] theorem State.modPart_press (n : Nat) (f : PartSt → PartSt) : (s.modPart n f).press = s.press := rfl
@[simp] theorem State.modPart_link (n : Nat) (f : PartSt → PartSt) : (s.modPart n f).link = s.link := rfl
@[simp] theorem State.modPart_safety (n : Nat) (f : PartSt → PartSt) : (s.modPart n f).safety = s.safety := rfl
@[simp] theorem State.modPart_selftest (n : Nat) (f : PartSt → PartSt) : (s.modPart n f).selftest = s.selftest := rfl
@[simp] theorem State.modPart_aon (n : Nat) (f : PartSt → PartSt) : (s.modPart n f).aon = s.aon := rfl
@[simp] theorem State.modPart_boot (n : Nat) (f : PartSt → PartSt) : (s.modPart n f).boot = s.boot := rfl
@[simp] theorem State.modPart_procs (n : Nat) (f : PartSt → PartSt) : (s.modPart n f).procs = s.procs := rfl
@[simp] theorem State.modPart_log (n : Nat) (f : PartSt → PartSt) : (s.modPart n f).log = s.log := rfl
@[simp] theorem State.modPart_power (n : Nat) (f : PartSt → PartSt) : (s.modPart n f).power = s.power := rfl
@[simp] theorem State.modPart_net (n : Nat) (f : PartSt → PartSt) : (s.modPart n f).net = s.net := rfl

@[simp] theorem State.setInstar_pending (n : Nat) (c : InstarEntry) : (s.setInstar n c).pending = s.pending := rfl
@[simp] theorem State.setInstar_out (n : Nat) (c : InstarEntry) : (s.setInstar n c).out = s.out := rfl
@[simp] theorem State.setInstar_fresh (n : Nat) (c : InstarEntry) : (s.setInstar n c).fresh = s.fresh := rfl
@[simp] theorem State.setInstar_clk (n : Nat) (c : InstarEntry) : (s.setInstar n c).clk = s.clk := rfl
@[simp] theorem State.setInstar_phase (n : Nat) (c : InstarEntry) : (s.setInstar n c).phase = s.phase := rfl
@[simp] theorem State.setInstar_fuses (n : Nat) (c : InstarEntry) : (s.setInstar n c).fuses = s.fuses := rfl
@[simp] theorem State.setInstar_mem (n : Nat) (c : InstarEntry) : (s.setInstar n c).mem = s.mem := rfl
@[simp] theorem State.setInstar_regs (n : Nat) (c : InstarEntry) : (s.setInstar n c).regs = s.regs := rfl
@[simp] theorem State.setInstar_units (n : Nat) (c : InstarEntry) : (s.setInstar n c).units = s.units := rfl
@[simp] theorem State.setInstar_plans_parts (n : Nat) (c : InstarEntry) : (s.setInstar n c).plans.parts = s.plans.parts := rfl
@[simp] theorem State.setInstar_plans_instarEntry (n : Nat) (c : InstarEntry) : (s.setInstar n c).plans.instarEntry = s.plans.instarEntry := rfl
@[simp] theorem State.setInstar_plans_tallies (n : Nat) (c : InstarEntry) : (s.setInstar n c).plans.tallies = s.plans.tallies := rfl
@[simp] theorem State.setInstar_plans_talliesDup (n : Nat) (c : InstarEntry) : (s.setInstar n c).plans.talliesDup = s.plans.talliesDup := rfl
@[simp] theorem State.setInstar_plans_queues (n : Nat) (c : InstarEntry) : (s.setInstar n c).plans.queues = s.plans.queues := rfl
@[simp] theorem State.setInstar_plans_running (n : Nat) (c : InstarEntry) : (s.setInstar n c).plans.running = s.plans.running := rfl
@[simp] theorem State.setInstar_plans_arrival (n : Nat) (c : InstarEntry) : (s.setInstar n c).plans.arrival = s.plans.arrival := rfl
@[simp] theorem State.setInstar_plans_hostAdds (n : Nat) (c : InstarEntry) : (s.setInstar n c).plans.hostAdds = s.plans.hostAdds := rfl
@[simp] theorem State.setInstar_plans_spares (n : Nat) (c : InstarEntry) : (s.setInstar n c).plans.spares = s.plans.spares := rfl
@[simp] theorem State.setInstar_plans_sieveCut (n : Nat) (c : InstarEntry) : (s.setInstar n c).plans.sieveCut = s.plans.sieveCut := rfl
@[simp] theorem State.setInstar_vat (n : Nat) (c : InstarEntry) : (s.setInstar n c).vat = s.vat := rfl
@[simp] theorem State.setInstar_press (n : Nat) (c : InstarEntry) : (s.setInstar n c).press = s.press := rfl
@[simp] theorem State.setInstar_link (n : Nat) (c : InstarEntry) : (s.setInstar n c).link = s.link := rfl
@[simp] theorem State.setInstar_safety (n : Nat) (c : InstarEntry) : (s.setInstar n c).safety = s.safety := rfl
@[simp] theorem State.setInstar_selftest (n : Nat) (c : InstarEntry) : (s.setInstar n c).selftest = s.selftest := rfl
@[simp] theorem State.setInstar_aon (n : Nat) (c : InstarEntry) : (s.setInstar n c).aon = s.aon := rfl
@[simp] theorem State.setInstar_boot (n : Nat) (c : InstarEntry) : (s.setInstar n c).boot = s.boot := rfl
@[simp] theorem State.setInstar_procs (n : Nat) (c : InstarEntry) : (s.setInstar n c).procs = s.procs := rfl
@[simp] theorem State.setInstar_log (n : Nat) (c : InstarEntry) : (s.setInstar n c).log = s.log := rfl
@[simp] theorem State.setInstar_power (n : Nat) (c : InstarEntry) : (s.setInstar n c).power = s.power := rfl
@[simp] theorem State.setInstar_net (n : Nat) (c : InstarEntry) : (s.setInstar n c).net = s.net := rfl

@[simp] theorem State.setTally_pending (n c : Nat) : (s.setTally n c).pending = s.pending := rfl
@[simp] theorem State.setTally_out (n c : Nat) : (s.setTally n c).out = s.out := rfl
@[simp] theorem State.setTally_fresh (n c : Nat) : (s.setTally n c).fresh = s.fresh := rfl
@[simp] theorem State.setTally_clk (n c : Nat) : (s.setTally n c).clk = s.clk := rfl
@[simp] theorem State.setTally_phase (n c : Nat) : (s.setTally n c).phase = s.phase := rfl
@[simp] theorem State.setTally_fuses (n c : Nat) : (s.setTally n c).fuses = s.fuses := rfl
@[simp] theorem State.setTally_mem (n c : Nat) : (s.setTally n c).mem = s.mem := rfl
@[simp] theorem State.setTally_regs (n c : Nat) : (s.setTally n c).regs = s.regs := rfl
@[simp] theorem State.setTally_units (n c : Nat) : (s.setTally n c).units = s.units := rfl
@[simp] theorem State.setTally_plans_parts (n c : Nat) : (s.setTally n c).plans.parts = s.plans.parts := rfl
@[simp] theorem State.setTally_plans_instar (n c : Nat) : (s.setTally n c).plans.instar = s.plans.instar := rfl
@[simp] theorem State.setTally_plans_instarEntry (n c : Nat) : (s.setTally n c).plans.instarEntry = s.plans.instarEntry := rfl
@[simp] theorem State.setTally_plans_queues (n c : Nat) : (s.setTally n c).plans.queues = s.plans.queues := rfl
@[simp] theorem State.setTally_plans_running (n c : Nat) : (s.setTally n c).plans.running = s.plans.running := rfl
@[simp] theorem State.setTally_plans_arrival (n c : Nat) : (s.setTally n c).plans.arrival = s.plans.arrival := rfl
@[simp] theorem State.setTally_plans_hostAdds (n c : Nat) : (s.setTally n c).plans.hostAdds = s.plans.hostAdds := rfl
@[simp] theorem State.setTally_plans_spares (n c : Nat) : (s.setTally n c).plans.spares = s.plans.spares := rfl
@[simp] theorem State.setTally_plans_sieveCut (n c : Nat) : (s.setTally n c).plans.sieveCut = s.plans.sieveCut := rfl
@[simp] theorem State.setTally_vat (n c : Nat) : (s.setTally n c).vat = s.vat := rfl
@[simp] theorem State.setTally_press (n c : Nat) : (s.setTally n c).press = s.press := rfl
@[simp] theorem State.setTally_link (n c : Nat) : (s.setTally n c).link = s.link := rfl
@[simp] theorem State.setTally_safety (n c : Nat) : (s.setTally n c).safety = s.safety := rfl
@[simp] theorem State.setTally_selftest (n c : Nat) : (s.setTally n c).selftest = s.selftest := rfl
@[simp] theorem State.setTally_aon (n c : Nat) : (s.setTally n c).aon = s.aon := rfl
@[simp] theorem State.setTally_boot (n c : Nat) : (s.setTally n c).boot = s.boot := rfl
@[simp] theorem State.setTally_procs (n c : Nat) : (s.setTally n c).procs = s.procs := rfl
@[simp] theorem State.setTally_log (n c : Nat) : (s.setTally n c).log = s.log := rfl
@[simp] theorem State.setTally_power (n c : Nat) : (s.setTally n c).power = s.power := rfl
@[simp] theorem State.setTally_net (n c : Nat) : (s.setTally n c).net = s.net := rfl

@[simp] theorem State.setQueue_pending (n : Nat) (c : List QItem) : (s.setQueue n c).pending = s.pending := rfl
@[simp] theorem State.setQueue_out (n : Nat) (c : List QItem) : (s.setQueue n c).out = s.out := rfl
@[simp] theorem State.setQueue_fresh (n : Nat) (c : List QItem) : (s.setQueue n c).fresh = s.fresh := rfl
@[simp] theorem State.setQueue_clk (n : Nat) (c : List QItem) : (s.setQueue n c).clk = s.clk := rfl
@[simp] theorem State.setQueue_phase (n : Nat) (c : List QItem) : (s.setQueue n c).phase = s.phase := rfl
@[simp] theorem State.setQueue_fuses (n : Nat) (c : List QItem) : (s.setQueue n c).fuses = s.fuses := rfl
@[simp] theorem State.setQueue_mem (n : Nat) (c : List QItem) : (s.setQueue n c).mem = s.mem := rfl
@[simp] theorem State.setQueue_regs (n : Nat) (c : List QItem) : (s.setQueue n c).regs = s.regs := rfl
@[simp] theorem State.setQueue_units (n : Nat) (c : List QItem) : (s.setQueue n c).units = s.units := rfl
@[simp] theorem State.setQueue_plans_parts (n : Nat) (c : List QItem) : (s.setQueue n c).plans.parts = s.plans.parts := rfl
@[simp] theorem State.setQueue_plans_instar (n : Nat) (c : List QItem) : (s.setQueue n c).plans.instar = s.plans.instar := rfl
@[simp] theorem State.setQueue_plans_instarEntry (n : Nat) (c : List QItem) : (s.setQueue n c).plans.instarEntry = s.plans.instarEntry := rfl
@[simp] theorem State.setQueue_plans_tallies (n : Nat) (c : List QItem) : (s.setQueue n c).plans.tallies = s.plans.tallies := rfl
@[simp] theorem State.setQueue_plans_talliesDup (n : Nat) (c : List QItem) : (s.setQueue n c).plans.talliesDup = s.plans.talliesDup := rfl
@[simp] theorem State.setQueue_plans_running (n : Nat) (c : List QItem) : (s.setQueue n c).plans.running = s.plans.running := rfl
@[simp] theorem State.setQueue_plans_arrival (n : Nat) (c : List QItem) : (s.setQueue n c).plans.arrival = s.plans.arrival := rfl
@[simp] theorem State.setQueue_plans_hostAdds (n : Nat) (c : List QItem) : (s.setQueue n c).plans.hostAdds = s.plans.hostAdds := rfl
@[simp] theorem State.setQueue_plans_spares (n : Nat) (c : List QItem) : (s.setQueue n c).plans.spares = s.plans.spares := rfl
@[simp] theorem State.setQueue_plans_sieveCut (n : Nat) (c : List QItem) : (s.setQueue n c).plans.sieveCut = s.plans.sieveCut := rfl
@[simp] theorem State.setQueue_vat (n : Nat) (c : List QItem) : (s.setQueue n c).vat = s.vat := rfl
@[simp] theorem State.setQueue_press (n : Nat) (c : List QItem) : (s.setQueue n c).press = s.press := rfl
@[simp] theorem State.setQueue_link (n : Nat) (c : List QItem) : (s.setQueue n c).link = s.link := rfl
@[simp] theorem State.setQueue_safety (n : Nat) (c : List QItem) : (s.setQueue n c).safety = s.safety := rfl
@[simp] theorem State.setQueue_selftest (n : Nat) (c : List QItem) : (s.setQueue n c).selftest = s.selftest := rfl
@[simp] theorem State.setQueue_aon (n : Nat) (c : List QItem) : (s.setQueue n c).aon = s.aon := rfl
@[simp] theorem State.setQueue_boot (n : Nat) (c : List QItem) : (s.setQueue n c).boot = s.boot := rfl
@[simp] theorem State.setQueue_procs (n : Nat) (c : List QItem) : (s.setQueue n c).procs = s.procs := rfl
@[simp] theorem State.setQueue_log (n : Nat) (c : List QItem) : (s.setQueue n c).log = s.log := rfl
@[simp] theorem State.setQueue_power (n : Nat) (c : List QItem) : (s.setQueue n c).power = s.power := rfl
@[simp] theorem State.setQueue_net (n : Nat) (c : List QItem) : (s.setQueue n c).net = s.net := rfl

@[simp] theorem State.setRun_pending (n : Nat) (c : Option Running) : (s.setRun n c).pending = s.pending := rfl
@[simp] theorem State.setRun_out (n : Nat) (c : Option Running) : (s.setRun n c).out = s.out := rfl
@[simp] theorem State.setRun_fresh (n : Nat) (c : Option Running) : (s.setRun n c).fresh = s.fresh := rfl
@[simp] theorem State.setRun_clk (n : Nat) (c : Option Running) : (s.setRun n c).clk = s.clk := rfl
@[simp] theorem State.setRun_phase (n : Nat) (c : Option Running) : (s.setRun n c).phase = s.phase := rfl
@[simp] theorem State.setRun_fuses (n : Nat) (c : Option Running) : (s.setRun n c).fuses = s.fuses := rfl
@[simp] theorem State.setRun_mem (n : Nat) (c : Option Running) : (s.setRun n c).mem = s.mem := rfl
@[simp] theorem State.setRun_regs (n : Nat) (c : Option Running) : (s.setRun n c).regs = s.regs := rfl
@[simp] theorem State.setRun_units (n : Nat) (c : Option Running) : (s.setRun n c).units = s.units := rfl
@[simp] theorem State.setRun_plans_parts (n : Nat) (c : Option Running) : (s.setRun n c).plans.parts = s.plans.parts := rfl
@[simp] theorem State.setRun_plans_instar (n : Nat) (c : Option Running) : (s.setRun n c).plans.instar = s.plans.instar := rfl
@[simp] theorem State.setRun_plans_instarEntry (n : Nat) (c : Option Running) : (s.setRun n c).plans.instarEntry = s.plans.instarEntry := rfl
@[simp] theorem State.setRun_plans_tallies (n : Nat) (c : Option Running) : (s.setRun n c).plans.tallies = s.plans.tallies := rfl
@[simp] theorem State.setRun_plans_talliesDup (n : Nat) (c : Option Running) : (s.setRun n c).plans.talliesDup = s.plans.talliesDup := rfl
@[simp] theorem State.setRun_plans_queues (n : Nat) (c : Option Running) : (s.setRun n c).plans.queues = s.plans.queues := rfl
@[simp] theorem State.setRun_plans_arrival (n : Nat) (c : Option Running) : (s.setRun n c).plans.arrival = s.plans.arrival := rfl
@[simp] theorem State.setRun_plans_hostAdds (n : Nat) (c : Option Running) : (s.setRun n c).plans.hostAdds = s.plans.hostAdds := rfl
@[simp] theorem State.setRun_plans_spares (n : Nat) (c : Option Running) : (s.setRun n c).plans.spares = s.plans.spares := rfl
@[simp] theorem State.setRun_plans_sieveCut (n : Nat) (c : Option Running) : (s.setRun n c).plans.sieveCut = s.plans.sieveCut := rfl
@[simp] theorem State.setRun_vat (n : Nat) (c : Option Running) : (s.setRun n c).vat = s.vat := rfl
@[simp] theorem State.setRun_press (n : Nat) (c : Option Running) : (s.setRun n c).press = s.press := rfl
@[simp] theorem State.setRun_link (n : Nat) (c : Option Running) : (s.setRun n c).link = s.link := rfl
@[simp] theorem State.setRun_safety (n : Nat) (c : Option Running) : (s.setRun n c).safety = s.safety := rfl
@[simp] theorem State.setRun_selftest (n : Nat) (c : Option Running) : (s.setRun n c).selftest = s.selftest := rfl
@[simp] theorem State.setRun_aon (n : Nat) (c : Option Running) : (s.setRun n c).aon = s.aon := rfl
@[simp] theorem State.setRun_boot (n : Nat) (c : Option Running) : (s.setRun n c).boot = s.boot := rfl
@[simp] theorem State.setRun_procs (n : Nat) (c : Option Running) : (s.setRun n c).procs = s.procs := rfl
@[simp] theorem State.setRun_log (n : Nat) (c : Option Running) : (s.setRun n c).log = s.log := rfl
@[simp] theorem State.setRun_power (n : Nat) (c : Option Running) : (s.setRun n c).power = s.power := rfl
@[simp] theorem State.setRun_net (n : Nat) (c : Option Running) : (s.setRun n c).net = s.net := rfl

@[simp] theorem State.setChan_pending (n : Nat) (c : ChanSt) : (s.setChan n c).pending = s.pending := rfl
@[simp] theorem State.setChan_out (n : Nat) (c : ChanSt) : (s.setChan n c).out = s.out := rfl
@[simp] theorem State.setChan_fresh (n : Nat) (c : ChanSt) : (s.setChan n c).fresh = s.fresh := rfl
@[simp] theorem State.setChan_clk (n : Nat) (c : ChanSt) : (s.setChan n c).clk = s.clk := rfl
@[simp] theorem State.setChan_phase (n : Nat) (c : ChanSt) : (s.setChan n c).phase = s.phase := rfl
@[simp] theorem State.setChan_fuses (n : Nat) (c : ChanSt) : (s.setChan n c).fuses = s.fuses := rfl
@[simp] theorem State.setChan_mem (n : Nat) (c : ChanSt) : (s.setChan n c).mem = s.mem := rfl
@[simp] theorem State.setChan_regs (n : Nat) (c : ChanSt) : (s.setChan n c).regs = s.regs := rfl
@[simp] theorem State.setChan_units (n : Nat) (c : ChanSt) : (s.setChan n c).units = s.units := rfl
@[simp] theorem State.setChan_plans (n : Nat) (c : ChanSt) : (s.setChan n c).plans = s.plans := rfl
@[simp] theorem State.setChan_vat_devFrame (n : Nat) (c : ChanSt) : (s.setChan n c).vat.devFrame = s.vat.devFrame := rfl
@[simp] theorem State.setChan_vat_decodeQ (n : Nat) (c : ChanSt) : (s.setChan n c).vat.decodeQ = s.vat.decodeQ := rfl
@[simp] theorem State.setChan_vat_decoders (n : Nat) (c : ChanSt) : (s.setChan n c).vat.decoders = s.vat.decoders := rfl
@[simp] theorem State.setChan_vat_rawQ (n : Nat) (c : ChanSt) : (s.setChan n c).vat.rawQ = s.vat.rawQ := rfl
@[simp] theorem State.setChan_vat_rawPath (n : Nat) (c : ChanSt) : (s.setChan n c).vat.rawPath = s.vat.rawPath := rfl
@[simp] theorem State.setChan_vat_display (n : Nat) (c : ChanSt) : (s.setChan n c).vat.display = s.vat.display := rfl
@[simp] theorem State.setChan_vat_expired (n : Nat) (c : ChanSt) : (s.setChan n c).vat.expired = s.vat.expired := rfl
@[simp] theorem State.setChan_press (n : Nat) (c : ChanSt) : (s.setChan n c).press = s.press := rfl
@[simp] theorem State.setChan_link (n : Nat) (c : ChanSt) : (s.setChan n c).link = s.link := rfl
@[simp] theorem State.setChan_safety (n : Nat) (c : ChanSt) : (s.setChan n c).safety = s.safety := rfl
@[simp] theorem State.setChan_selftest (n : Nat) (c : ChanSt) : (s.setChan n c).selftest = s.selftest := rfl
@[simp] theorem State.setChan_aon (n : Nat) (c : ChanSt) : (s.setChan n c).aon = s.aon := rfl
@[simp] theorem State.setChan_boot (n : Nat) (c : ChanSt) : (s.setChan n c).boot = s.boot := rfl
@[simp] theorem State.setChan_procs (n : Nat) (c : ChanSt) : (s.setChan n c).procs = s.procs := rfl
@[simp] theorem State.setChan_log (n : Nat) (c : ChanSt) : (s.setChan n c).log = s.log := rfl
@[simp] theorem State.setChan_power (n : Nat) (c : ChanSt) : (s.setChan n c).power = s.power := rfl
@[simp] theorem State.setChan_net (n : Nat) (c : ChanSt) : (s.setChan n c).net = s.net := rfl

@[simp] theorem State.setDisp_pending (n : Nat) (c : DispSt) : (s.setDisp n c).pending = s.pending := rfl
@[simp] theorem State.setDisp_out (n : Nat) (c : DispSt) : (s.setDisp n c).out = s.out := rfl
@[simp] theorem State.setDisp_fresh (n : Nat) (c : DispSt) : (s.setDisp n c).fresh = s.fresh := rfl
@[simp] theorem State.setDisp_clk (n : Nat) (c : DispSt) : (s.setDisp n c).clk = s.clk := rfl
@[simp] theorem State.setDisp_phase (n : Nat) (c : DispSt) : (s.setDisp n c).phase = s.phase := rfl
@[simp] theorem State.setDisp_fuses (n : Nat) (c : DispSt) : (s.setDisp n c).fuses = s.fuses := rfl
@[simp] theorem State.setDisp_mem (n : Nat) (c : DispSt) : (s.setDisp n c).mem = s.mem := rfl
@[simp] theorem State.setDisp_regs (n : Nat) (c : DispSt) : (s.setDisp n c).regs = s.regs := rfl
@[simp] theorem State.setDisp_units (n : Nat) (c : DispSt) : (s.setDisp n c).units = s.units := rfl
@[simp] theorem State.setDisp_plans (n : Nat) (c : DispSt) : (s.setDisp n c).plans = s.plans := rfl
@[simp] theorem State.setDisp_vat_chans (n : Nat) (c : DispSt) : (s.setDisp n c).vat.chans = s.vat.chans := rfl
@[simp] theorem State.setDisp_vat_devFrame (n : Nat) (c : DispSt) : (s.setDisp n c).vat.devFrame = s.vat.devFrame := rfl
@[simp] theorem State.setDisp_vat_decodeQ (n : Nat) (c : DispSt) : (s.setDisp n c).vat.decodeQ = s.vat.decodeQ := rfl
@[simp] theorem State.setDisp_vat_decoders (n : Nat) (c : DispSt) : (s.setDisp n c).vat.decoders = s.vat.decoders := rfl
@[simp] theorem State.setDisp_vat_rawQ (n : Nat) (c : DispSt) : (s.setDisp n c).vat.rawQ = s.vat.rawQ := rfl
@[simp] theorem State.setDisp_vat_rawPath (n : Nat) (c : DispSt) : (s.setDisp n c).vat.rawPath = s.vat.rawPath := rfl
@[simp] theorem State.setDisp_vat_expired (n : Nat) (c : DispSt) : (s.setDisp n c).vat.expired = s.vat.expired := rfl
@[simp] theorem State.setDisp_press (n : Nat) (c : DispSt) : (s.setDisp n c).press = s.press := rfl
@[simp] theorem State.setDisp_link (n : Nat) (c : DispSt) : (s.setDisp n c).link = s.link := rfl
@[simp] theorem State.setDisp_safety (n : Nat) (c : DispSt) : (s.setDisp n c).safety = s.safety := rfl
@[simp] theorem State.setDisp_selftest (n : Nat) (c : DispSt) : (s.setDisp n c).selftest = s.selftest := rfl
@[simp] theorem State.setDisp_aon (n : Nat) (c : DispSt) : (s.setDisp n c).aon = s.aon := rfl
@[simp] theorem State.setDisp_boot (n : Nat) (c : DispSt) : (s.setDisp n c).boot = s.boot := rfl
@[simp] theorem State.setDisp_procs (n : Nat) (c : DispSt) : (s.setDisp n c).procs = s.procs := rfl
@[simp] theorem State.setDisp_log (n : Nat) (c : DispSt) : (s.setDisp n c).log = s.log := rfl
@[simp] theorem State.setDisp_power (n : Nat) (c : DispSt) : (s.setDisp n c).power = s.power := rfl
@[simp] theorem State.setDisp_net (n : Nat) (c : DispSt) : (s.setDisp n c).net = s.net := rfl

@[simp] theorem State.setProc_pending (n : Nat) (c : ProcSt) : (s.setProc n c).pending = s.pending := rfl
@[simp] theorem State.setProc_out (n : Nat) (c : ProcSt) : (s.setProc n c).out = s.out := rfl
@[simp] theorem State.setProc_fresh (n : Nat) (c : ProcSt) : (s.setProc n c).fresh = s.fresh := rfl
@[simp] theorem State.setProc_clk (n : Nat) (c : ProcSt) : (s.setProc n c).clk = s.clk := rfl
@[simp] theorem State.setProc_phase (n : Nat) (c : ProcSt) : (s.setProc n c).phase = s.phase := rfl
@[simp] theorem State.setProc_fuses (n : Nat) (c : ProcSt) : (s.setProc n c).fuses = s.fuses := rfl
@[simp] theorem State.setProc_mem (n : Nat) (c : ProcSt) : (s.setProc n c).mem = s.mem := rfl
@[simp] theorem State.setProc_regs (n : Nat) (c : ProcSt) : (s.setProc n c).regs = s.regs := rfl
@[simp] theorem State.setProc_units (n : Nat) (c : ProcSt) : (s.setProc n c).units = s.units := rfl
@[simp] theorem State.setProc_plans (n : Nat) (c : ProcSt) : (s.setProc n c).plans = s.plans := rfl
@[simp] theorem State.setProc_vat (n : Nat) (c : ProcSt) : (s.setProc n c).vat = s.vat := rfl
@[simp] theorem State.setProc_press (n : Nat) (c : ProcSt) : (s.setProc n c).press = s.press := rfl
@[simp] theorem State.setProc_link (n : Nat) (c : ProcSt) : (s.setProc n c).link = s.link := rfl
@[simp] theorem State.setProc_safety (n : Nat) (c : ProcSt) : (s.setProc n c).safety = s.safety := rfl
@[simp] theorem State.setProc_selftest (n : Nat) (c : ProcSt) : (s.setProc n c).selftest = s.selftest := rfl
@[simp] theorem State.setProc_aon (n : Nat) (c : ProcSt) : (s.setProc n c).aon = s.aon := rfl
@[simp] theorem State.setProc_boot (n : Nat) (c : ProcSt) : (s.setProc n c).boot = s.boot := rfl
@[simp] theorem State.setProc_log (n : Nat) (c : ProcSt) : (s.setProc n c).log = s.log := rfl
@[simp] theorem State.setProc_power (n : Nat) (c : ProcSt) : (s.setProc n c).power = s.power := rfl
@[simp] theorem State.setProc_net (n : Nat) (c : ProcSt) : (s.setProc n c).net = s.net := rfl

@[simp] theorem State.setSir_pending (n : Nat) (c : SirLink) : (s.setSir n c).pending = s.pending := rfl
@[simp] theorem State.setSir_out (n : Nat) (c : SirLink) : (s.setSir n c).out = s.out := rfl
@[simp] theorem State.setSir_fresh (n : Nat) (c : SirLink) : (s.setSir n c).fresh = s.fresh := rfl
@[simp] theorem State.setSir_clk (n : Nat) (c : SirLink) : (s.setSir n c).clk = s.clk := rfl
@[simp] theorem State.setSir_phase (n : Nat) (c : SirLink) : (s.setSir n c).phase = s.phase := rfl
@[simp] theorem State.setSir_fuses (n : Nat) (c : SirLink) : (s.setSir n c).fuses = s.fuses := rfl
@[simp] theorem State.setSir_mem (n : Nat) (c : SirLink) : (s.setSir n c).mem = s.mem := rfl
@[simp] theorem State.setSir_regs (n : Nat) (c : SirLink) : (s.setSir n c).regs = s.regs := rfl
@[simp] theorem State.setSir_units (n : Nat) (c : SirLink) : (s.setSir n c).units = s.units := rfl
@[simp] theorem State.setSir_plans (n : Nat) (c : SirLink) : (s.setSir n c).plans = s.plans := rfl
@[simp] theorem State.setSir_vat (n : Nat) (c : SirLink) : (s.setSir n c).vat = s.vat := rfl
@[simp] theorem State.setSir_press (n : Nat) (c : SirLink) : (s.setSir n c).press = s.press := rfl
@[simp] theorem State.setSir_link (n : Nat) (c : SirLink) : (s.setSir n c).link = s.link := rfl
@[simp] theorem State.setSir_safety (n : Nat) (c : SirLink) : (s.setSir n c).safety = s.safety := rfl
@[simp] theorem State.setSir_selftest (n : Nat) (c : SirLink) : (s.setSir n c).selftest = s.selftest := rfl
@[simp] theorem State.setSir_aon (n : Nat) (c : SirLink) : (s.setSir n c).aon = s.aon := rfl
@[simp] theorem State.setSir_boot (n : Nat) (c : SirLink) : (s.setSir n c).boot = s.boot := rfl
@[simp] theorem State.setSir_procs (n : Nat) (c : SirLink) : (s.setSir n c).procs = s.procs := rfl
@[simp] theorem State.setSir_log (n : Nat) (c : SirLink) : (s.setSir n c).log = s.log := rfl
@[simp] theorem State.setSir_power (n : Nat) (c : SirLink) : (s.setSir n c).power = s.power := rfl
@[simp] theorem State.setSir_net_tag (n : Nat) (c : SirLink) : (s.setSir n c).net.tag = s.net.tag := rfl
@[simp] theorem State.setSir_net_stallies (n : Nat) (c : SirLink) : (s.setSir n c).net.stallies = s.net.stallies := rfl
@[simp] theorem State.setSir_net_remote (n : Nat) (c : SirLink) : (s.setSir n c).net.remote = s.net.remote := rfl
@[simp] theorem State.setSir_net_ports (n : Nat) (c : SirLink) : (s.setSir n c).net.ports = s.net.ports := rfl

@[simp] theorem State.setStally_pending (n : Nat) (c : SysTally) : (s.setStally n c).pending = s.pending := rfl
@[simp] theorem State.setStally_out (n : Nat) (c : SysTally) : (s.setStally n c).out = s.out := rfl
@[simp] theorem State.setStally_fresh (n : Nat) (c : SysTally) : (s.setStally n c).fresh = s.fresh := rfl
@[simp] theorem State.setStally_clk (n : Nat) (c : SysTally) : (s.setStally n c).clk = s.clk := rfl
@[simp] theorem State.setStally_phase (n : Nat) (c : SysTally) : (s.setStally n c).phase = s.phase := rfl
@[simp] theorem State.setStally_fuses (n : Nat) (c : SysTally) : (s.setStally n c).fuses = s.fuses := rfl
@[simp] theorem State.setStally_mem (n : Nat) (c : SysTally) : (s.setStally n c).mem = s.mem := rfl
@[simp] theorem State.setStally_regs (n : Nat) (c : SysTally) : (s.setStally n c).regs = s.regs := rfl
@[simp] theorem State.setStally_units (n : Nat) (c : SysTally) : (s.setStally n c).units = s.units := rfl
@[simp] theorem State.setStally_plans (n : Nat) (c : SysTally) : (s.setStally n c).plans = s.plans := rfl
@[simp] theorem State.setStally_vat (n : Nat) (c : SysTally) : (s.setStally n c).vat = s.vat := rfl
@[simp] theorem State.setStally_press (n : Nat) (c : SysTally) : (s.setStally n c).press = s.press := rfl
@[simp] theorem State.setStally_link (n : Nat) (c : SysTally) : (s.setStally n c).link = s.link := rfl
@[simp] theorem State.setStally_safety (n : Nat) (c : SysTally) : (s.setStally n c).safety = s.safety := rfl
@[simp] theorem State.setStally_selftest (n : Nat) (c : SysTally) : (s.setStally n c).selftest = s.selftest := rfl
@[simp] theorem State.setStally_aon (n : Nat) (c : SysTally) : (s.setStally n c).aon = s.aon := rfl
@[simp] theorem State.setStally_boot (n : Nat) (c : SysTally) : (s.setStally n c).boot = s.boot := rfl
@[simp] theorem State.setStally_procs (n : Nat) (c : SysTally) : (s.setStally n c).procs = s.procs := rfl
@[simp] theorem State.setStally_log (n : Nat) (c : SysTally) : (s.setStally n c).log = s.log := rfl
@[simp] theorem State.setStally_power (n : Nat) (c : SysTally) : (s.setStally n c).power = s.power := rfl
@[simp] theorem State.setStally_net_tag (n : Nat) (c : SysTally) : (s.setStally n c).net.tag = s.net.tag := rfl
@[simp] theorem State.setStally_net_sirris (n : Nat) (c : SysTally) : (s.setStally n c).net.sirris = s.net.sirris := rfl
@[simp] theorem State.setStally_net_remote (n : Nat) (c : SysTally) : (s.setStally n c).net.remote = s.net.remote := rfl
@[simp] theorem State.setStally_net_ports (n : Nat) (c : SysTally) : (s.setStally n c).net.ports = s.net.ports := rfl

@[simp] theorem State.setOptical_pending (n : Nat) (c : PortSt) : (s.setOptical n c).pending = s.pending := rfl
@[simp] theorem State.setOptical_out (n : Nat) (c : PortSt) : (s.setOptical n c).out = s.out := rfl
@[simp] theorem State.setOptical_fresh (n : Nat) (c : PortSt) : (s.setOptical n c).fresh = s.fresh := rfl
@[simp] theorem State.setOptical_clk (n : Nat) (c : PortSt) : (s.setOptical n c).clk = s.clk := rfl
@[simp] theorem State.setOptical_phase (n : Nat) (c : PortSt) : (s.setOptical n c).phase = s.phase := rfl
@[simp] theorem State.setOptical_fuses (n : Nat) (c : PortSt) : (s.setOptical n c).fuses = s.fuses := rfl
@[simp] theorem State.setOptical_mem (n : Nat) (c : PortSt) : (s.setOptical n c).mem = s.mem := rfl
@[simp] theorem State.setOptical_regs (n : Nat) (c : PortSt) : (s.setOptical n c).regs = s.regs := rfl
@[simp] theorem State.setOptical_units (n : Nat) (c : PortSt) : (s.setOptical n c).units = s.units := rfl
@[simp] theorem State.setOptical_plans (n : Nat) (c : PortSt) : (s.setOptical n c).plans = s.plans := rfl
@[simp] theorem State.setOptical_vat (n : Nat) (c : PortSt) : (s.setOptical n c).vat = s.vat := rfl
@[simp] theorem State.setOptical_press (n : Nat) (c : PortSt) : (s.setOptical n c).press = s.press := rfl
@[simp] theorem State.setOptical_link (n : Nat) (c : PortSt) : (s.setOptical n c).link = s.link := rfl
@[simp] theorem State.setOptical_safety (n : Nat) (c : PortSt) : (s.setOptical n c).safety = s.safety := rfl
@[simp] theorem State.setOptical_selftest (n : Nat) (c : PortSt) : (s.setOptical n c).selftest = s.selftest := rfl
@[simp] theorem State.setOptical_aon (n : Nat) (c : PortSt) : (s.setOptical n c).aon = s.aon := rfl
@[simp] theorem State.setOptical_boot (n : Nat) (c : PortSt) : (s.setOptical n c).boot = s.boot := rfl
@[simp] theorem State.setOptical_procs (n : Nat) (c : PortSt) : (s.setOptical n c).procs = s.procs := rfl
@[simp] theorem State.setOptical_log (n : Nat) (c : PortSt) : (s.setOptical n c).log = s.log := rfl
@[simp] theorem State.setOptical_power (n : Nat) (c : PortSt) : (s.setOptical n c).power = s.power := rfl
@[simp] theorem State.setOptical_net_tag (n : Nat) (c : PortSt) : (s.setOptical n c).net.tag = s.net.tag := rfl
@[simp] theorem State.setOptical_net_sirris (n : Nat) (c : PortSt) : (s.setOptical n c).net.sirris = s.net.sirris := rfl
@[simp] theorem State.setOptical_net_stallies (n : Nat) (c : PortSt) : (s.setOptical n c).net.stallies = s.net.stallies := rfl
@[simp] theorem State.setOptical_net_remote (n : Nat) (c : PortSt) : (s.setOptical n c).net.remote = s.net.remote := rfl

@[simp] theorem State.setHdr_pending (n : Nat) (c : PageHdr) : (s.setHdr n c).pending = s.pending := rfl
@[simp] theorem State.setHdr_out (n : Nat) (c : PageHdr) : (s.setHdr n c).out = s.out := rfl
@[simp] theorem State.setHdr_fresh (n : Nat) (c : PageHdr) : (s.setHdr n c).fresh = s.fresh := rfl
@[simp] theorem State.setHdr_clk (n : Nat) (c : PageHdr) : (s.setHdr n c).clk = s.clk := rfl
@[simp] theorem State.setHdr_phase (n : Nat) (c : PageHdr) : (s.setHdr n c).phase = s.phase := rfl
@[simp] theorem State.setHdr_fuses (n : Nat) (c : PageHdr) : (s.setHdr n c).fuses = s.fuses := rfl
@[simp] theorem State.setHdr_mem (n : Nat) (c : PageHdr) : (s.setHdr n c).mem = s.mem := rfl
@[simp] theorem State.setHdr_regs_force (n : Nat) (c : PageHdr) : (s.setHdr n c).regs.force = s.regs.force := rfl
@[simp] theorem State.setHdr_regs_shadow (n : Nat) (c : PageHdr) : (s.setHdr n c).regs.shadow = s.regs.shadow := rfl
@[simp] theorem State.setHdr_regs_counters (n : Nat) (c : PageHdr) : (s.setHdr n c).regs.counters = s.regs.counters := rfl
@[simp] theorem State.setHdr_regs_latches (n : Nat) (c : PageHdr) : (s.setHdr n c).regs.latches = s.regs.latches := rfl
@[simp] theorem State.setHdr_units (n : Nat) (c : PageHdr) : (s.setHdr n c).units = s.units := rfl
@[simp] theorem State.setHdr_plans (n : Nat) (c : PageHdr) : (s.setHdr n c).plans = s.plans := rfl
@[simp] theorem State.setHdr_vat (n : Nat) (c : PageHdr) : (s.setHdr n c).vat = s.vat := rfl
@[simp] theorem State.setHdr_press (n : Nat) (c : PageHdr) : (s.setHdr n c).press = s.press := rfl
@[simp] theorem State.setHdr_link (n : Nat) (c : PageHdr) : (s.setHdr n c).link = s.link := rfl
@[simp] theorem State.setHdr_safety (n : Nat) (c : PageHdr) : (s.setHdr n c).safety = s.safety := rfl
@[simp] theorem State.setHdr_selftest (n : Nat) (c : PageHdr) : (s.setHdr n c).selftest = s.selftest := rfl
@[simp] theorem State.setHdr_aon (n : Nat) (c : PageHdr) : (s.setHdr n c).aon = s.aon := rfl
@[simp] theorem State.setHdr_boot (n : Nat) (c : PageHdr) : (s.setHdr n c).boot = s.boot := rfl
@[simp] theorem State.setHdr_procs (n : Nat) (c : PageHdr) : (s.setHdr n c).procs = s.procs := rfl
@[simp] theorem State.setHdr_log (n : Nat) (c : PageHdr) : (s.setHdr n c).log = s.log := rfl
@[simp] theorem State.setHdr_power (n : Nat) (c : PageHdr) : (s.setHdr n c).power = s.power := rfl
@[simp] theorem State.setHdr_net (n : Nat) (c : PageHdr) : (s.setHdr n c).net = s.net := rfl

@[simp] theorem State.setForce_pending (n v : Nat) : (s.setForce n v).pending = s.pending := rfl
@[simp] theorem State.setForce_out (n v : Nat) : (s.setForce n v).out = s.out := rfl
@[simp] theorem State.setForce_fresh (n v : Nat) : (s.setForce n v).fresh = s.fresh := rfl
@[simp] theorem State.setForce_clk (n v : Nat) : (s.setForce n v).clk = s.clk := rfl
@[simp] theorem State.setForce_phase (n v : Nat) : (s.setForce n v).phase = s.phase := rfl
@[simp] theorem State.setForce_fuses (n v : Nat) : (s.setForce n v).fuses = s.fuses := rfl
@[simp] theorem State.setForce_mem (n v : Nat) : (s.setForce n v).mem = s.mem := rfl
@[simp] theorem State.setForce_regs_shadow (n v : Nat) : (s.setForce n v).regs.shadow = s.regs.shadow := rfl
@[simp] theorem State.setForce_regs_hdr (n v : Nat) : (s.setForce n v).regs.hdr = s.regs.hdr := rfl
@[simp] theorem State.setForce_regs_counters (n v : Nat) : (s.setForce n v).regs.counters = s.regs.counters := rfl
@[simp] theorem State.setForce_regs_latches (n v : Nat) : (s.setForce n v).regs.latches = s.regs.latches := rfl
@[simp] theorem State.setForce_units (n v : Nat) : (s.setForce n v).units = s.units := rfl
@[simp] theorem State.setForce_plans (n v : Nat) : (s.setForce n v).plans = s.plans := rfl
@[simp] theorem State.setForce_vat (n v : Nat) : (s.setForce n v).vat = s.vat := rfl
@[simp] theorem State.setForce_press (n v : Nat) : (s.setForce n v).press = s.press := rfl
@[simp] theorem State.setForce_link (n v : Nat) : (s.setForce n v).link = s.link := rfl
@[simp] theorem State.setForce_safety (n v : Nat) : (s.setForce n v).safety = s.safety := rfl
@[simp] theorem State.setForce_selftest (n v : Nat) : (s.setForce n v).selftest = s.selftest := rfl
@[simp] theorem State.setForce_aon (n v : Nat) : (s.setForce n v).aon = s.aon := rfl
@[simp] theorem State.setForce_boot (n v : Nat) : (s.setForce n v).boot = s.boot := rfl
@[simp] theorem State.setForce_procs (n v : Nat) : (s.setForce n v).procs = s.procs := rfl
@[simp] theorem State.setForce_log (n v : Nat) : (s.setForce n v).log = s.log := rfl
@[simp] theorem State.setForce_power (n v : Nat) : (s.setForce n v).power = s.power := rfl
@[simp] theorem State.setForce_net (n v : Nat) : (s.setForce n v).net = s.net := rfl

@[simp] theorem State.setShadow_pending (n v : Nat) : (s.setShadow n v).pending = s.pending := rfl
@[simp] theorem State.setShadow_out (n v : Nat) : (s.setShadow n v).out = s.out := rfl
@[simp] theorem State.setShadow_fresh (n v : Nat) : (s.setShadow n v).fresh = s.fresh := rfl
@[simp] theorem State.setShadow_clk (n v : Nat) : (s.setShadow n v).clk = s.clk := rfl
@[simp] theorem State.setShadow_phase (n v : Nat) : (s.setShadow n v).phase = s.phase := rfl
@[simp] theorem State.setShadow_fuses (n v : Nat) : (s.setShadow n v).fuses = s.fuses := rfl
@[simp] theorem State.setShadow_mem (n v : Nat) : (s.setShadow n v).mem = s.mem := rfl
@[simp] theorem State.setShadow_regs_force (n v : Nat) : (s.setShadow n v).regs.force = s.regs.force := rfl
@[simp] theorem State.setShadow_regs_hdr (n v : Nat) : (s.setShadow n v).regs.hdr = s.regs.hdr := rfl
@[simp] theorem State.setShadow_regs_counters (n v : Nat) : (s.setShadow n v).regs.counters = s.regs.counters := rfl
@[simp] theorem State.setShadow_regs_latches (n v : Nat) : (s.setShadow n v).regs.latches = s.regs.latches := rfl
@[simp] theorem State.setShadow_units (n v : Nat) : (s.setShadow n v).units = s.units := rfl
@[simp] theorem State.setShadow_plans (n v : Nat) : (s.setShadow n v).plans = s.plans := rfl
@[simp] theorem State.setShadow_vat (n v : Nat) : (s.setShadow n v).vat = s.vat := rfl
@[simp] theorem State.setShadow_press (n v : Nat) : (s.setShadow n v).press = s.press := rfl
@[simp] theorem State.setShadow_link (n v : Nat) : (s.setShadow n v).link = s.link := rfl
@[simp] theorem State.setShadow_safety (n v : Nat) : (s.setShadow n v).safety = s.safety := rfl
@[simp] theorem State.setShadow_selftest (n v : Nat) : (s.setShadow n v).selftest = s.selftest := rfl
@[simp] theorem State.setShadow_aon (n v : Nat) : (s.setShadow n v).aon = s.aon := rfl
@[simp] theorem State.setShadow_boot (n v : Nat) : (s.setShadow n v).boot = s.boot := rfl
@[simp] theorem State.setShadow_procs (n v : Nat) : (s.setShadow n v).procs = s.procs := rfl
@[simp] theorem State.setShadow_log (n v : Nat) : (s.setShadow n v).log = s.log := rfl
@[simp] theorem State.setShadow_power (n v : Nat) : (s.setShadow n v).power = s.power := rfl
@[simp] theorem State.setShadow_net (n v : Nat) : (s.setShadow n v).net = s.net := rfl

@[simp] theorem State.setBoth_pending (n v : Nat) : (s.setBoth n v).pending = s.pending := rfl
@[simp] theorem State.setBoth_out (n v : Nat) : (s.setBoth n v).out = s.out := rfl
@[simp] theorem State.setBoth_fresh (n v : Nat) : (s.setBoth n v).fresh = s.fresh := rfl
@[simp] theorem State.setBoth_clk (n v : Nat) : (s.setBoth n v).clk = s.clk := rfl
@[simp] theorem State.setBoth_phase (n v : Nat) : (s.setBoth n v).phase = s.phase := rfl
@[simp] theorem State.setBoth_fuses (n v : Nat) : (s.setBoth n v).fuses = s.fuses := rfl
@[simp] theorem State.setBoth_mem (n v : Nat) : (s.setBoth n v).mem = s.mem := rfl
@[simp] theorem State.setBoth_regs_hdr (n v : Nat) : (s.setBoth n v).regs.hdr = s.regs.hdr := rfl
@[simp] theorem State.setBoth_regs_counters (n v : Nat) : (s.setBoth n v).regs.counters = s.regs.counters := rfl
@[simp] theorem State.setBoth_regs_latches (n v : Nat) : (s.setBoth n v).regs.latches = s.regs.latches := rfl
@[simp] theorem State.setBoth_units (n v : Nat) : (s.setBoth n v).units = s.units := rfl
@[simp] theorem State.setBoth_plans (n v : Nat) : (s.setBoth n v).plans = s.plans := rfl
@[simp] theorem State.setBoth_vat (n v : Nat) : (s.setBoth n v).vat = s.vat := rfl
@[simp] theorem State.setBoth_press (n v : Nat) : (s.setBoth n v).press = s.press := rfl
@[simp] theorem State.setBoth_link (n v : Nat) : (s.setBoth n v).link = s.link := rfl
@[simp] theorem State.setBoth_safety (n v : Nat) : (s.setBoth n v).safety = s.safety := rfl
@[simp] theorem State.setBoth_selftest (n v : Nat) : (s.setBoth n v).selftest = s.selftest := rfl
@[simp] theorem State.setBoth_aon (n v : Nat) : (s.setBoth n v).aon = s.aon := rfl
@[simp] theorem State.setBoth_boot (n v : Nat) : (s.setBoth n v).boot = s.boot := rfl
@[simp] theorem State.setBoth_procs (n v : Nat) : (s.setBoth n v).procs = s.procs := rfl
@[simp] theorem State.setBoth_log (n v : Nat) : (s.setBoth n v).log = s.log := rfl
@[simp] theorem State.setBoth_power (n v : Nat) : (s.setBoth n v).power = s.power := rfl
@[simp] theorem State.setBoth_net (n v : Nat) : (s.setBoth n v).net = s.net := rfl

@[simp] theorem State.clearCounters_pending (n : Nat) : (s.clearCounters n).pending = s.pending := rfl
@[simp] theorem State.clearCounters_out (n : Nat) : (s.clearCounters n).out = s.out := rfl
@[simp] theorem State.clearCounters_fresh (n : Nat) : (s.clearCounters n).fresh = s.fresh := rfl
@[simp] theorem State.clearCounters_clk (n : Nat) : (s.clearCounters n).clk = s.clk := rfl
@[simp] theorem State.clearCounters_phase (n : Nat) : (s.clearCounters n).phase = s.phase := rfl
@[simp] theorem State.clearCounters_fuses (n : Nat) : (s.clearCounters n).fuses = s.fuses := rfl
@[simp] theorem State.clearCounters_mem (n : Nat) : (s.clearCounters n).mem = s.mem := rfl
@[simp] theorem State.clearCounters_regs_force (n : Nat) : (s.clearCounters n).regs.force = s.regs.force := rfl
@[simp] theorem State.clearCounters_regs_shadow (n : Nat) : (s.clearCounters n).regs.shadow = s.regs.shadow := rfl
@[simp] theorem State.clearCounters_regs_hdr (n : Nat) : (s.clearCounters n).regs.hdr = s.regs.hdr := rfl
@[simp] theorem State.clearCounters_regs_latches (n : Nat) : (s.clearCounters n).regs.latches = s.regs.latches := rfl
@[simp] theorem State.clearCounters_units (n : Nat) : (s.clearCounters n).units = s.units := rfl
@[simp] theorem State.clearCounters_plans (n : Nat) : (s.clearCounters n).plans = s.plans := rfl
@[simp] theorem State.clearCounters_vat (n : Nat) : (s.clearCounters n).vat = s.vat := rfl
@[simp] theorem State.clearCounters_press (n : Nat) : (s.clearCounters n).press = s.press := rfl
@[simp] theorem State.clearCounters_link (n : Nat) : (s.clearCounters n).link = s.link := rfl
@[simp] theorem State.clearCounters_safety (n : Nat) : (s.clearCounters n).safety = s.safety := rfl
@[simp] theorem State.clearCounters_selftest (n : Nat) : (s.clearCounters n).selftest = s.selftest := rfl
@[simp] theorem State.clearCounters_aon (n : Nat) : (s.clearCounters n).aon = s.aon := rfl
@[simp] theorem State.clearCounters_boot (n : Nat) : (s.clearCounters n).boot = s.boot := rfl
@[simp] theorem State.clearCounters_procs (n : Nat) : (s.clearCounters n).procs = s.procs := rfl
@[simp] theorem State.clearCounters_log (n : Nat) : (s.clearCounters n).log = s.log := rfl
@[simp] theorem State.clearCounters_power (n : Nat) : (s.clearCounters n).power = s.power := rfl
@[simp] theorem State.clearCounters_net (n : Nat) : (s.clearCounters n).net = s.net := rfl

@[simp] theorem State.tick_pending : (s.tick).pending = s.pending := rfl
@[simp] theorem State.tick_out : (s.tick).out = s.out := rfl
@[simp] theorem State.tick_clk : (s.tick).clk = s.clk := rfl
@[simp] theorem State.tick_phase : (s.tick).phase = s.phase := rfl
@[simp] theorem State.tick_fuses : (s.tick).fuses = s.fuses := rfl
@[simp] theorem State.tick_mem : (s.tick).mem = s.mem := rfl
@[simp] theorem State.tick_regs : (s.tick).regs = s.regs := rfl
@[simp] theorem State.tick_units : (s.tick).units = s.units := rfl
@[simp] theorem State.tick_plans : (s.tick).plans = s.plans := rfl
@[simp] theorem State.tick_vat : (s.tick).vat = s.vat := rfl
@[simp] theorem State.tick_press : (s.tick).press = s.press := rfl
@[simp] theorem State.tick_link : (s.tick).link = s.link := rfl
@[simp] theorem State.tick_safety : (s.tick).safety = s.safety := rfl
@[simp] theorem State.tick_selftest : (s.tick).selftest = s.selftest := rfl
@[simp] theorem State.tick_aon : (s.tick).aon = s.aon := rfl
@[simp] theorem State.tick_boot : (s.tick).boot = s.boot := rfl
@[simp] theorem State.tick_procs : (s.tick).procs = s.procs := rfl
@[simp] theorem State.tick_log : (s.tick).log = s.log := rfl
@[simp] theorem State.tick_power : (s.tick).power = s.power := rfl
@[simp] theorem State.tick_net : (s.tick).net = s.net := rfl

@[simp] theorem State.emit_pending (o : Output) : (s.emit o).pending = s.pending := rfl
@[simp] theorem State.emit_fresh (o : Output) : (s.emit o).fresh = s.fresh := rfl
@[simp] theorem State.emit_clk (o : Output) : (s.emit o).clk = s.clk := rfl
@[simp] theorem State.emit_phase (o : Output) : (s.emit o).phase = s.phase := rfl
@[simp] theorem State.emit_fuses (o : Output) : (s.emit o).fuses = s.fuses := rfl
@[simp] theorem State.emit_mem (o : Output) : (s.emit o).mem = s.mem := rfl
@[simp] theorem State.emit_regs (o : Output) : (s.emit o).regs = s.regs := rfl
@[simp] theorem State.emit_units (o : Output) : (s.emit o).units = s.units := rfl
@[simp] theorem State.emit_plans (o : Output) : (s.emit o).plans = s.plans := rfl
@[simp] theorem State.emit_vat (o : Output) : (s.emit o).vat = s.vat := rfl
@[simp] theorem State.emit_press (o : Output) : (s.emit o).press = s.press := rfl
@[simp] theorem State.emit_link (o : Output) : (s.emit o).link = s.link := rfl
@[simp] theorem State.emit_safety (o : Output) : (s.emit o).safety = s.safety := rfl
@[simp] theorem State.emit_selftest (o : Output) : (s.emit o).selftest = s.selftest := rfl
@[simp] theorem State.emit_aon (o : Output) : (s.emit o).aon = s.aon := rfl
@[simp] theorem State.emit_boot (o : Output) : (s.emit o).boot = s.boot := rfl
@[simp] theorem State.emit_procs (o : Output) : (s.emit o).procs = s.procs := rfl
@[simp] theorem State.emit_log (o : Output) : (s.emit o).log = s.log := rfl
@[simp] theorem State.emit_power (o : Output) : (s.emit o).power = s.power := rfl
@[simp] theorem State.emit_net (o : Output) : (s.emit o).net = s.net := rfl

@[simp] theorem State.pageErr_pending (page source code info : Nat) : (s.pageErr page source code info).pending = s.pending := by unfold State.pageErr; dsimp only; split <;> rfl
@[simp] theorem State.pageErr_out (page source code info : Nat) : (s.pageErr page source code info).out = s.out := by unfold State.pageErr; dsimp only; split <;> rfl
@[simp] theorem State.pageErr_fresh (page source code info : Nat) : (s.pageErr page source code info).fresh = s.fresh := by unfold State.pageErr; dsimp only; split <;> rfl
@[simp] theorem State.pageErr_clk (page source code info : Nat) : (s.pageErr page source code info).clk = s.clk := by unfold State.pageErr; dsimp only; split <;> rfl
@[simp] theorem State.pageErr_phase (page source code info : Nat) : (s.pageErr page source code info).phase = s.phase := by unfold State.pageErr; dsimp only; split <;> rfl
@[simp] theorem State.pageErr_fuses (page source code info : Nat) : (s.pageErr page source code info).fuses = s.fuses := by unfold State.pageErr; dsimp only; split <;> rfl
@[simp] theorem State.pageErr_mem (page source code info : Nat) : (s.pageErr page source code info).mem = s.mem := by unfold State.pageErr; dsimp only; split <;> rfl
@[simp] theorem State.pageErr_regs_force (page source code info : Nat) : (s.pageErr page source code info).regs.force = s.regs.force := by unfold State.pageErr; dsimp only; split <;> rfl
@[simp] theorem State.pageErr_regs_shadow (page source code info : Nat) : (s.pageErr page source code info).regs.shadow = s.regs.shadow := by unfold State.pageErr; dsimp only; split <;> rfl
@[simp] theorem State.pageErr_regs_counters (page source code info : Nat) : (s.pageErr page source code info).regs.counters = s.regs.counters := by unfold State.pageErr; dsimp only; split <;> rfl
@[simp] theorem State.pageErr_regs_latches (page source code info : Nat) : (s.pageErr page source code info).regs.latches = s.regs.latches := by unfold State.pageErr; dsimp only; split <;> rfl
@[simp] theorem State.pageErr_units (page source code info : Nat) : (s.pageErr page source code info).units = s.units := by unfold State.pageErr; dsimp only; split <;> rfl
@[simp] theorem State.pageErr_plans (page source code info : Nat) : (s.pageErr page source code info).plans = s.plans := by unfold State.pageErr; dsimp only; split <;> rfl
@[simp] theorem State.pageErr_vat (page source code info : Nat) : (s.pageErr page source code info).vat = s.vat := by unfold State.pageErr; dsimp only; split <;> rfl
@[simp] theorem State.pageErr_press (page source code info : Nat) : (s.pageErr page source code info).press = s.press := by unfold State.pageErr; dsimp only; split <;> rfl
@[simp] theorem State.pageErr_link (page source code info : Nat) : (s.pageErr page source code info).link = s.link := by unfold State.pageErr; dsimp only; split <;> rfl
@[simp] theorem State.pageErr_safety (page source code info : Nat) : (s.pageErr page source code info).safety = s.safety := by unfold State.pageErr; dsimp only; split <;> rfl
@[simp] theorem State.pageErr_selftest (page source code info : Nat) : (s.pageErr page source code info).selftest = s.selftest := by unfold State.pageErr; dsimp only; split <;> rfl
@[simp] theorem State.pageErr_aon (page source code info : Nat) : (s.pageErr page source code info).aon = s.aon := by unfold State.pageErr; dsimp only; split <;> rfl
@[simp] theorem State.pageErr_boot (page source code info : Nat) : (s.pageErr page source code info).boot = s.boot := by unfold State.pageErr; dsimp only; split <;> rfl
@[simp] theorem State.pageErr_procs (page source code info : Nat) : (s.pageErr page source code info).procs = s.procs := by unfold State.pageErr; dsimp only; split <;> rfl
@[simp] theorem State.pageErr_log (page source code info : Nat) : (s.pageErr page source code info).log = s.log := by unfold State.pageErr; dsimp only; split <;> rfl
@[simp] theorem State.pageErr_power (page source code info : Nat) : (s.pageErr page source code info).power = s.power := by unfold State.pageErr; dsimp only; split <;> rfl
@[simp] theorem State.pageErr_net (page source code info : Nat) : (s.pageErr page source code info).net = s.net := by unfold State.pageErr; dsimp only; split <;> rfl

@[simp] theorem State.bump_pending (page off n : Nat) : (s.bump page off n).pending = s.pending := by unfold State.bump; dsimp only; split <;> rfl
@[simp] theorem State.bump_out (page off n : Nat) : (s.bump page off n).out = s.out := by unfold State.bump; dsimp only; split <;> rfl
@[simp] theorem State.bump_fresh (page off n : Nat) : (s.bump page off n).fresh = s.fresh := by unfold State.bump; dsimp only; split <;> rfl
@[simp] theorem State.bump_clk (page off n : Nat) : (s.bump page off n).clk = s.clk := by unfold State.bump; dsimp only; split <;> rfl
@[simp] theorem State.bump_phase (page off n : Nat) : (s.bump page off n).phase = s.phase := by unfold State.bump; dsimp only; split <;> rfl
@[simp] theorem State.bump_fuses (page off n : Nat) : (s.bump page off n).fuses = s.fuses := by unfold State.bump; dsimp only; split <;> rfl
@[simp] theorem State.bump_mem (page off n : Nat) : (s.bump page off n).mem = s.mem := by unfold State.bump; dsimp only; split <;> rfl
@[simp] theorem State.bump_regs_force (page off n : Nat) : (s.bump page off n).regs.force = s.regs.force := by unfold State.bump; dsimp only; split <;> rfl
@[simp] theorem State.bump_regs_shadow (page off n : Nat) : (s.bump page off n).regs.shadow = s.regs.shadow := by unfold State.bump; dsimp only; split <;> rfl
@[simp] theorem State.bump_regs_hdr (page off n : Nat) : (s.bump page off n).regs.hdr = s.regs.hdr := by unfold State.bump; dsimp only; split <;> rfl
@[simp] theorem State.bump_regs_latches (page off n : Nat) : (s.bump page off n).regs.latches = s.regs.latches := by unfold State.bump; dsimp only; split <;> rfl
@[simp] theorem State.bump_units (page off n : Nat) : (s.bump page off n).units = s.units := by unfold State.bump; dsimp only; split <;> rfl
@[simp] theorem State.bump_plans (page off n : Nat) : (s.bump page off n).plans = s.plans := by unfold State.bump; dsimp only; split <;> rfl
@[simp] theorem State.bump_vat (page off n : Nat) : (s.bump page off n).vat = s.vat := by unfold State.bump; dsimp only; split <;> rfl
@[simp] theorem State.bump_press (page off n : Nat) : (s.bump page off n).press = s.press := by unfold State.bump; dsimp only; split <;> rfl
@[simp] theorem State.bump_link (page off n : Nat) : (s.bump page off n).link = s.link := by unfold State.bump; dsimp only; split <;> rfl
@[simp] theorem State.bump_safety (page off n : Nat) : (s.bump page off n).safety = s.safety := by unfold State.bump; dsimp only; split <;> rfl
@[simp] theorem State.bump_selftest (page off n : Nat) : (s.bump page off n).selftest = s.selftest := by unfold State.bump; dsimp only; split <;> rfl
@[simp] theorem State.bump_aon (page off n : Nat) : (s.bump page off n).aon = s.aon := by unfold State.bump; dsimp only; split <;> rfl
@[simp] theorem State.bump_boot (page off n : Nat) : (s.bump page off n).boot = s.boot := by unfold State.bump; dsimp only; split <;> rfl
@[simp] theorem State.bump_procs (page off n : Nat) : (s.bump page off n).procs = s.procs := by unfold State.bump; dsimp only; split <;> rfl
@[simp] theorem State.bump_log (page off n : Nat) : (s.bump page off n).log = s.log := by unfold State.bump; dsimp only; split <;> rfl
@[simp] theorem State.bump_power (page off n : Nat) : (s.bump page off n).power = s.power := by unfold State.bump; dsimp only; split <;> rfl
@[simp] theorem State.bump_net (page off n : Nat) : (s.bump page off n).net = s.net := by unfold State.bump; dsimp only; split <;> rfl

@[simp] theorem State.blockErr_pending (page code : Nat) : (s.blockErr page code).pending = s.pending := by unfold State.blockErr; simp
@[simp] theorem State.blockErr_out (page code : Nat) : (s.blockErr page code).out = s.out := by unfold State.blockErr; simp
@[simp] theorem State.blockErr_clk (page code : Nat) : (s.blockErr page code).clk = s.clk := by unfold State.blockErr; simp
@[simp] theorem State.blockErr_phase (page code : Nat) : (s.blockErr page code).phase = s.phase := by unfold State.blockErr; simp
@[simp] theorem State.blockErr_fuses (page code : Nat) : (s.blockErr page code).fuses = s.fuses := by unfold State.blockErr; simp
@[simp] theorem State.blockErr_mem (page code : Nat) : (s.blockErr page code).mem = s.mem := by unfold State.blockErr; simp
@[simp] theorem State.blockErr_regs_force (page code : Nat) : (s.blockErr page code).regs.force = s.regs.force := by unfold State.blockErr; simp
@[simp] theorem State.blockErr_regs_shadow (page code : Nat) : (s.blockErr page code).regs.shadow = s.regs.shadow := by unfold State.blockErr; simp
@[simp] theorem State.blockErr_regs_counters (page code : Nat) : (s.blockErr page code).regs.counters = s.regs.counters := by unfold State.blockErr; simp
@[simp] theorem State.blockErr_regs_latches (page code : Nat) : (s.blockErr page code).regs.latches = s.regs.latches := by unfold State.blockErr; simp
@[simp] theorem State.blockErr_units (page code : Nat) : (s.blockErr page code).units = s.units := by unfold State.blockErr; simp
@[simp] theorem State.blockErr_plans (page code : Nat) : (s.blockErr page code).plans = s.plans := by unfold State.blockErr; simp
@[simp] theorem State.blockErr_vat (page code : Nat) : (s.blockErr page code).vat = s.vat := by unfold State.blockErr; simp
@[simp] theorem State.blockErr_press (page code : Nat) : (s.blockErr page code).press = s.press := by unfold State.blockErr; simp
@[simp] theorem State.blockErr_link (page code : Nat) : (s.blockErr page code).link = s.link := by unfold State.blockErr; simp
@[simp] theorem State.blockErr_safety (page code : Nat) : (s.blockErr page code).safety = s.safety := by unfold State.blockErr; simp
@[simp] theorem State.blockErr_selftest (page code : Nat) : (s.blockErr page code).selftest = s.selftest := by unfold State.blockErr; simp
@[simp] theorem State.blockErr_aon (page code : Nat) : (s.blockErr page code).aon = s.aon := by unfold State.blockErr; simp
@[simp] theorem State.blockErr_boot (page code : Nat) : (s.blockErr page code).boot = s.boot := by unfold State.blockErr; simp
@[simp] theorem State.blockErr_procs (page code : Nat) : (s.blockErr page code).procs = s.procs := by unfold State.blockErr; simp
@[simp] theorem State.blockErr_log (page code : Nat) : (s.blockErr page code).log = s.log := by unfold State.blockErr; simp
@[simp] theorem State.blockErr_power (page code : Nat) : (s.blockErr page code).power = s.power := by unfold State.blockErr; simp
@[simp] theorem State.blockErr_net (page code : Nat) : (s.blockErr page code).net = s.net := by unfold State.blockErr; simp

@[simp] theorem State.logEntryOf_pending (code part unit step : Nat) (m : Option (Option Nat × Nat)) : (s.logEntryOf code part unit step m).pending = s.pending := by unfold State.logEntryOf; split <;> simp
@[simp] theorem State.logEntryOf_out (code part unit step : Nat) (m : Option (Option Nat × Nat)) : (s.logEntryOf code part unit step m).out = s.out := by unfold State.logEntryOf; split <;> simp
@[simp] theorem State.logEntryOf_clk (code part unit step : Nat) (m : Option (Option Nat × Nat)) : (s.logEntryOf code part unit step m).clk = s.clk := by unfold State.logEntryOf; split <;> simp
@[simp] theorem State.logEntryOf_phase (code part unit step : Nat) (m : Option (Option Nat × Nat)) : (s.logEntryOf code part unit step m).phase = s.phase := by unfold State.logEntryOf; split <;> simp
@[simp] theorem State.logEntryOf_fuses (code part unit step : Nat) (m : Option (Option Nat × Nat)) : (s.logEntryOf code part unit step m).fuses = s.fuses := by unfold State.logEntryOf; split <;> simp
@[simp] theorem State.logEntryOf_mem (code part unit step : Nat) (m : Option (Option Nat × Nat)) : (s.logEntryOf code part unit step m).mem = s.mem := by unfold State.logEntryOf; split <;> simp
@[simp] theorem State.logEntryOf_regs_force (code part unit step : Nat) (m : Option (Option Nat × Nat)) : (s.logEntryOf code part unit step m).regs.force = s.regs.force := by unfold State.logEntryOf; split <;> simp
@[simp] theorem State.logEntryOf_regs_shadow (code part unit step : Nat) (m : Option (Option Nat × Nat)) : (s.logEntryOf code part unit step m).regs.shadow = s.regs.shadow := by unfold State.logEntryOf; split <;> simp
@[simp] theorem State.logEntryOf_regs_hdr (code part unit step : Nat) (m : Option (Option Nat × Nat)) : (s.logEntryOf code part unit step m).regs.hdr = s.regs.hdr := by unfold State.logEntryOf; split <;> simp
@[simp] theorem State.logEntryOf_regs_latches (code part unit step : Nat) (m : Option (Option Nat × Nat)) : (s.logEntryOf code part unit step m).regs.latches = s.regs.latches := by unfold State.logEntryOf; split <;> simp
@[simp] theorem State.logEntryOf_units (code part unit step : Nat) (m : Option (Option Nat × Nat)) : (s.logEntryOf code part unit step m).units = s.units := by unfold State.logEntryOf; split <;> simp
@[simp] theorem State.logEntryOf_plans (code part unit step : Nat) (m : Option (Option Nat × Nat)) : (s.logEntryOf code part unit step m).plans = s.plans := by unfold State.logEntryOf; split <;> simp
@[simp] theorem State.logEntryOf_vat (code part unit step : Nat) (m : Option (Option Nat × Nat)) : (s.logEntryOf code part unit step m).vat = s.vat := by unfold State.logEntryOf; split <;> simp
@[simp] theorem State.logEntryOf_press (code part unit step : Nat) (m : Option (Option Nat × Nat)) : (s.logEntryOf code part unit step m).press = s.press := by unfold State.logEntryOf; split <;> simp
@[simp] theorem State.logEntryOf_link (code part unit step : Nat) (m : Option (Option Nat × Nat)) : (s.logEntryOf code part unit step m).link = s.link := by unfold State.logEntryOf; split <;> simp
@[simp] theorem State.logEntryOf_safety (code part unit step : Nat) (m : Option (Option Nat × Nat)) : (s.logEntryOf code part unit step m).safety = s.safety := by unfold State.logEntryOf; split <;> simp
@[simp] theorem State.logEntryOf_selftest (code part unit step : Nat) (m : Option (Option Nat × Nat)) : (s.logEntryOf code part unit step m).selftest = s.selftest := by unfold State.logEntryOf; split <;> simp
@[simp] theorem State.logEntryOf_aon (code part unit step : Nat) (m : Option (Option Nat × Nat)) : (s.logEntryOf code part unit step m).aon = s.aon := by unfold State.logEntryOf; split <;> simp
@[simp] theorem State.logEntryOf_boot (code part unit step : Nat) (m : Option (Option Nat × Nat)) : (s.logEntryOf code part unit step m).boot = s.boot := by unfold State.logEntryOf; split <;> simp
@[simp] theorem State.logEntryOf_procs (code part unit step : Nat) (m : Option (Option Nat × Nat)) : (s.logEntryOf code part unit step m).procs = s.procs := by unfold State.logEntryOf; split <;> simp
@[simp] theorem State.logEntryOf_power (code part unit step : Nat) (m : Option (Option Nat × Nat)) : (s.logEntryOf code part unit step m).power = s.power := by unfold State.logEntryOf; split <;> simp
@[simp] theorem State.logEntryOf_net (code part unit step : Nat) (m : Option (Option Nat × Nat)) : (s.logEntryOf code part unit step m).net = s.net := by unfold State.logEntryOf; split <;> simp

@[simp] theorem State.logEntry_pending (code part unit step : Nat) : (s.logEntry code part unit step).pending = s.pending := by simp [State.logEntry]
@[simp] theorem State.logEntry_out (code part unit step : Nat) : (s.logEntry code part unit step).out = s.out := by simp [State.logEntry]
@[simp] theorem State.logEntry_clk (code part unit step : Nat) : (s.logEntry code part unit step).clk = s.clk := by simp [State.logEntry]
@[simp] theorem State.logEntry_phase (code part unit step : Nat) : (s.logEntry code part unit step).phase = s.phase := by simp [State.logEntry]
@[simp] theorem State.logEntry_fuses (code part unit step : Nat) : (s.logEntry code part unit step).fuses = s.fuses := by simp [State.logEntry]
@[simp] theorem State.logEntry_mem (code part unit step : Nat) : (s.logEntry code part unit step).mem = s.mem := by simp [State.logEntry]
@[simp] theorem State.logEntry_regs_force (code part unit step : Nat) : (s.logEntry code part unit step).regs.force = s.regs.force := by simp [State.logEntry]
@[simp] theorem State.logEntry_regs_shadow (code part unit step : Nat) : (s.logEntry code part unit step).regs.shadow = s.regs.shadow := by simp [State.logEntry]
@[simp] theorem State.logEntry_regs_hdr (code part unit step : Nat) : (s.logEntry code part unit step).regs.hdr = s.regs.hdr := by simp [State.logEntry]
@[simp] theorem State.logEntry_regs_latches (code part unit step : Nat) : (s.logEntry code part unit step).regs.latches = s.regs.latches := by simp [State.logEntry]
@[simp] theorem State.logEntry_units (code part unit step : Nat) : (s.logEntry code part unit step).units = s.units := by simp [State.logEntry]
@[simp] theorem State.logEntry_plans (code part unit step : Nat) : (s.logEntry code part unit step).plans = s.plans := by simp [State.logEntry]
@[simp] theorem State.logEntry_vat (code part unit step : Nat) : (s.logEntry code part unit step).vat = s.vat := by simp [State.logEntry]
@[simp] theorem State.logEntry_press (code part unit step : Nat) : (s.logEntry code part unit step).press = s.press := by simp [State.logEntry]
@[simp] theorem State.logEntry_link (code part unit step : Nat) : (s.logEntry code part unit step).link = s.link := by simp [State.logEntry]
@[simp] theorem State.logEntry_safety (code part unit step : Nat) : (s.logEntry code part unit step).safety = s.safety := by simp [State.logEntry]
@[simp] theorem State.logEntry_selftest (code part unit step : Nat) : (s.logEntry code part unit step).selftest = s.selftest := by simp [State.logEntry]
@[simp] theorem State.logEntry_aon (code part unit step : Nat) : (s.logEntry code part unit step).aon = s.aon := by simp [State.logEntry]
@[simp] theorem State.logEntry_boot (code part unit step : Nat) : (s.logEntry code part unit step).boot = s.boot := by simp [State.logEntry]
@[simp] theorem State.logEntry_procs (code part unit step : Nat) : (s.logEntry code part unit step).procs = s.procs := by simp [State.logEntry]
@[simp] theorem State.logEntry_power (code part unit step : Nat) : (s.logEntry code part unit step).power = s.power := by simp [State.logEntry]
@[simp] theorem State.logEntry_net (code part unit step : Nat) : (s.logEntry code part unit step).net = s.net := by simp [State.logEntry]

@[simp] theorem State.logLimited_pending (code scope part unit step : Nat) : (s.logLimited code scope part unit step).pending = s.pending := by unfold State.logLimited; split <;> (try split) <;> simp
@[simp] theorem State.logLimited_out (code scope part unit step : Nat) : (s.logLimited code scope part unit step).out = s.out := by unfold State.logLimited; split <;> (try split) <;> simp
@[simp] theorem State.logLimited_clk (code scope part unit step : Nat) : (s.logLimited code scope part unit step).clk = s.clk := by unfold State.logLimited; split <;> (try split) <;> simp
@[simp] theorem State.logLimited_phase (code scope part unit step : Nat) : (s.logLimited code scope part unit step).phase = s.phase := by unfold State.logLimited; split <;> (try split) <;> simp
@[simp] theorem State.logLimited_fuses (code scope part unit step : Nat) : (s.logLimited code scope part unit step).fuses = s.fuses := by unfold State.logLimited; split <;> (try split) <;> simp
@[simp] theorem State.logLimited_mem (code scope part unit step : Nat) : (s.logLimited code scope part unit step).mem = s.mem := by unfold State.logLimited; split <;> (try split) <;> simp
@[simp] theorem State.logLimited_regs_force (code scope part unit step : Nat) : (s.logLimited code scope part unit step).regs.force = s.regs.force := by unfold State.logLimited; split <;> (try split) <;> simp
@[simp] theorem State.logLimited_regs_shadow (code scope part unit step : Nat) : (s.logLimited code scope part unit step).regs.shadow = s.regs.shadow := by unfold State.logLimited; split <;> (try split) <;> simp
@[simp] theorem State.logLimited_regs_hdr (code scope part unit step : Nat) : (s.logLimited code scope part unit step).regs.hdr = s.regs.hdr := by unfold State.logLimited; split <;> (try split) <;> simp
@[simp] theorem State.logLimited_regs_latches (code scope part unit step : Nat) : (s.logLimited code scope part unit step).regs.latches = s.regs.latches := by unfold State.logLimited; split <;> (try split) <;> simp
@[simp] theorem State.logLimited_units (code scope part unit step : Nat) : (s.logLimited code scope part unit step).units = s.units := by unfold State.logLimited; split <;> (try split) <;> simp
@[simp] theorem State.logLimited_plans (code scope part unit step : Nat) : (s.logLimited code scope part unit step).plans = s.plans := by unfold State.logLimited; split <;> (try split) <;> simp
@[simp] theorem State.logLimited_vat (code scope part unit step : Nat) : (s.logLimited code scope part unit step).vat = s.vat := by unfold State.logLimited; split <;> (try split) <;> simp
@[simp] theorem State.logLimited_press (code scope part unit step : Nat) : (s.logLimited code scope part unit step).press = s.press := by unfold State.logLimited; split <;> (try split) <;> simp
@[simp] theorem State.logLimited_link (code scope part unit step : Nat) : (s.logLimited code scope part unit step).link = s.link := by unfold State.logLimited; split <;> (try split) <;> simp
@[simp] theorem State.logLimited_safety (code scope part unit step : Nat) : (s.logLimited code scope part unit step).safety = s.safety := by unfold State.logLimited; split <;> (try split) <;> simp
@[simp] theorem State.logLimited_selftest (code scope part unit step : Nat) : (s.logLimited code scope part unit step).selftest = s.selftest := by unfold State.logLimited; split <;> (try split) <;> simp
@[simp] theorem State.logLimited_aon (code scope part unit step : Nat) : (s.logLimited code scope part unit step).aon = s.aon := by unfold State.logLimited; split <;> (try split) <;> simp
@[simp] theorem State.logLimited_boot (code scope part unit step : Nat) : (s.logLimited code scope part unit step).boot = s.boot := by unfold State.logLimited; split <;> (try split) <;> simp
@[simp] theorem State.logLimited_procs (code scope part unit step : Nat) : (s.logLimited code scope part unit step).procs = s.procs := by unfold State.logLimited; split <;> (try split) <;> simp
@[simp] theorem State.logLimited_power (code scope part unit step : Nat) : (s.logLimited code scope part unit step).power = s.power := by unfold State.logLimited; split <;> (try split) <;> simp
@[simp] theorem State.logLimited_net (code scope part unit step : Nat) : (s.logLimited code scope part unit step).net = s.net := by unfold State.logLimited; split <;> (try split) <;> simp

@[simp] theorem atTime_pending (t : Nat) : (atTime t s).pending = s.pending := rfl
@[simp] theorem atTime_out (t : Nat) : (atTime t s).out = s.out := rfl
@[simp] theorem atTime_fresh (t : Nat) : (atTime t s).fresh = s.fresh := rfl
@[simp] theorem atTime_phase (t : Nat) : (atTime t s).phase = s.phase := rfl
@[simp] theorem atTime_fuses (t : Nat) : (atTime t s).fuses = s.fuses := rfl
@[simp] theorem atTime_mem (t : Nat) : (atTime t s).mem = s.mem := rfl
@[simp] theorem atTime_regs (t : Nat) : (atTime t s).regs = s.regs := rfl
@[simp] theorem atTime_units (t : Nat) : (atTime t s).units = s.units := rfl
@[simp] theorem atTime_plans (t : Nat) : (atTime t s).plans = s.plans := rfl
@[simp] theorem atTime_vat (t : Nat) : (atTime t s).vat = s.vat := rfl
@[simp] theorem atTime_press (t : Nat) : (atTime t s).press = s.press := rfl
@[simp] theorem atTime_link (t : Nat) : (atTime t s).link = s.link := rfl
@[simp] theorem atTime_safety (t : Nat) : (atTime t s).safety = s.safety := rfl
@[simp] theorem atTime_selftest (t : Nat) : (atTime t s).selftest = s.selftest := rfl
@[simp] theorem atTime_aon (t : Nat) : (atTime t s).aon = s.aon := rfl
@[simp] theorem atTime_boot (t : Nat) : (atTime t s).boot = s.boot := rfl
@[simp] theorem atTime_procs (t : Nat) : (atTime t s).procs = s.procs := rfl
@[simp] theorem atTime_log (t : Nat) : (atTime t s).log = s.log := rfl
@[simp] theorem atTime_power (t : Nat) : (atTime t s).power = s.power := rfl
@[simp] theorem atTime_net (t : Nat) : (atTime t s).net = s.net := rfl
@[simp] theorem atTime_core (t n : Nat) : (atTime t s).core n = s.core n := rfl
@[simp] theorem atTime_pair (t n : Nat) : (atTime t s).pair n = s.pair n := rfl
@[simp] theorem atTime_engine (t n : Nat) : (atTime t s).engine n = s.engine n := rfl
@[simp] theorem atTime_part (t n : Nat) : (atTime t s).part n = s.part n := rfl
@[simp] theorem atTime_instarAt (t n : Nat) : (atTime t s).instarAt n = s.instarAt n := rfl
@[simp] theorem atTime_tally (t n : Nat) : (atTime t s).tally n = s.tally n := rfl
@[simp] theorem atTime_queue (t n : Nat) : (atTime t s).queue n = s.queue n := rfl
@[simp] theorem atTime_run (t n : Nat) : (atTime t s).run n = s.run n := rfl
@[simp] theorem atTime_chan (t n : Nat) : (atTime t s).chan n = s.chan n := rfl
@[simp] theorem atTime_disp (t n : Nat) : (atTime t s).disp n = s.disp n := rfl
@[simp] theorem atTime_proc (t n : Nat) : (atTime t s).proc n = s.proc n := rfl
@[simp] theorem atTime_sir (t n : Nat) : (atTime t s).sir n = s.sir n := rfl
@[simp] theorem atTime_stally (t n : Nat) : (atTime t s).stally n = s.stally n := rfl
@[simp] theorem atTime_optical (t n : Nat) : (atTime t s).optical n = s.optical n := rfl
@[simp] theorem atTime_hdrOf (t n : Nat) : (atTime t s).hdrOf n = s.hdrOf n := rfl
@[simp] theorem atTime_inForce (t n : Nat) : (atTime t s).inForce n = s.inForce n := rfl
@[simp] theorem atTime_shadowOf (t n : Nat) : (atTime t s).shadowOf n = s.shadowOf n := rfl
@[simp] theorem atTime_rd (t n : Nat) : (atTime t s).rd n = s.rd n := rfl
@[simp] theorem atTime_coreFused (t n : Nat) : (atTime t s).coreFused n = s.coreFused n := rfl
@[simp] theorem atTime_pairFused (t n : Nat) : (atTime t s).pairFused n = s.pairFused n := rfl
@[simp] theorem atTime_isRT (t n : Nat) : (atTime t s).isRT n = s.isRT n := rfl
@[simp] theorem atTime_isSafety (t n : Nat) : (atTime t s).isSafety n = s.isSafety n := rfl
@[simp] theorem atTime_active (t n : Nat) : (atTime t s).active n = s.active n := rfl
@[simp] theorem atTime_periodNs (t n : Nat) : (atTime t s).periodNs n = s.periodNs n := rfl
@[simp] theorem atTime_budgetNs (t n : Nat) : (atTime t s).budgetNs n = s.budgetNs n := rfl
@[simp] theorem atTime_counting (t n : Nat) : (atTime t s).counting n = s.counting n := rfl
@[simp] theorem atTime_partReg (t n m : Nat) : (atTime t s).partReg n m = s.partReg n m := rfl
@[simp] theorem atTime_counter (t n m : Nat) : (atTime t s).counter n m = s.counter n m := rfl
/-- The reference clock stands at the instant, and never goes back. -/
theorem atTime_clock (t : Nat) : (atTime t s).clk.clock = max s.clk.clock t := by
  show (nextClk t s).clock = _
  unfold nextClk; dsimp only; split
  · omega
  · split
    · show t = _; omega
    · show t = _; omega

/-! ### What a table reads after an update -/

@[simp] theorem State.setCore_core_self (n : Nat) (c : CoreSt) : (s.setCore n c).core n = c := sget_sput_self _ _ _ _
theorem State.setCore_core_ne {n m : Nat} (c : CoreSt) (h : m ≠ n) : (s.setCore n c).core m = s.core m := sget_sput_ne _ _ _ _ h
@[simp] theorem State.setPair_pair_self (n : Nat) (c : PairSt) : (s.setPair n c).pair n = c := sget_sput_self _ _ _ _
theorem State.setPair_pair_ne {n m : Nat} (c : PairSt) (h : m ≠ n) : (s.setPair n c).pair m = s.pair m := sget_sput_ne _ _ _ _ h
@[simp] theorem State.setEngine_engine_self (n : Nat) (c : EngineSt) : (s.setEngine n c).engine n = c := sget_sput_self _ _ _ _
theorem State.setEngine_engine_ne {n m : Nat} (c : EngineSt) (h : m ≠ n) : (s.setEngine n c).engine m = s.engine m := sget_sput_ne _ _ _ _ h
@[simp] theorem State.setPart_part_self (n : Nat) (c : PartSt) : (s.setPart n c).part n = c := sget_sput_self _ _ _ _
theorem State.setPart_part_ne {n m : Nat} (c : PartSt) (h : m ≠ n) : (s.setPart n c).part m = s.part m := sget_sput_ne _ _ _ _ h
@[simp] theorem State.setInstar_instarAt_self (n : Nat) (c : InstarEntry) : (s.setInstar n c).instarAt n = c := sget_sput_self _ _ _ _
theorem State.setInstar_instarAt_ne {n m : Nat} (c : InstarEntry) (h : m ≠ n) : (s.setInstar n c).instarAt m = s.instarAt m := sget_sput_ne _ _ _ _ h
@[simp] theorem State.setTally_tally_self (n : Nat) (c : Nat) : (s.setTally n c).tally n = c := sget_sput_self _ _ _ _
theorem State.setTally_tally_ne {n m : Nat} (c : Nat) (h : m ≠ n) : (s.setTally n c).tally m = s.tally m := sget_sput_ne _ _ _ _ h
@[simp] theorem State.setQueue_queue_self (n : Nat) (c : List QItem) : (s.setQueue n c).queue n = c := sget_sput_self _ _ _ _
theorem State.setQueue_queue_ne {n m : Nat} (c : List QItem) (h : m ≠ n) : (s.setQueue n c).queue m = s.queue m := sget_sput_ne _ _ _ _ h
@[simp] theorem State.setChan_chan_self (n : Nat) (c : ChanSt) : (s.setChan n c).chan n = c := sget_sput_self _ _ _ _
theorem State.setChan_chan_ne {n m : Nat} (c : ChanSt) (h : m ≠ n) : (s.setChan n c).chan m = s.chan m := sget_sput_ne _ _ _ _ h
@[simp] theorem State.setDisp_disp_self (n : Nat) (c : DispSt) : (s.setDisp n c).disp n = c := sget_sput_self _ _ _ _
theorem State.setDisp_disp_ne {n m : Nat} (c : DispSt) (h : m ≠ n) : (s.setDisp n c).disp m = s.disp m := sget_sput_ne _ _ _ _ h
@[simp] theorem State.setProc_proc_self (n : Nat) (c : ProcSt) : (s.setProc n c).proc n = c := sget_sput_self _ _ _ _
theorem State.setProc_proc_ne {n m : Nat} (c : ProcSt) (h : m ≠ n) : (s.setProc n c).proc m = s.proc m := sget_sput_ne _ _ _ _ h
@[simp] theorem State.setSir_sir_self (n : Nat) (c : SirLink) : (s.setSir n c).sir n = c := sget_sput_self _ _ _ _
theorem State.setSir_sir_ne {n m : Nat} (c : SirLink) (h : m ≠ n) : (s.setSir n c).sir m = s.sir m := sget_sput_ne _ _ _ _ h
@[simp] theorem State.setStally_stally_self (n : Nat) (c : SysTally) : (s.setStally n c).stally n = c := sget_sput_self _ _ _ _
theorem State.setStally_stally_ne {n m : Nat} (c : SysTally) (h : m ≠ n) : (s.setStally n c).stally m = s.stally m := sget_sput_ne _ _ _ _ h
@[simp] theorem State.setOptical_optical_self (n : Nat) (c : PortSt) : (s.setOptical n c).optical n = c := sget_sput_self _ _ _ _
theorem State.setOptical_optical_ne {n m : Nat} (c : PortSt) (h : m ≠ n) : (s.setOptical n c).optical m = s.optical m := sget_sput_ne _ _ _ _ h
@[simp] theorem State.setHdr_hdrOf_self (n : Nat) (c : PageHdr) : (s.setHdr n c).hdrOf n = c := sget_sput_self _ _ _ _
theorem State.setHdr_hdrOf_ne {n m : Nat} (c : PageHdr) (h : m ≠ n) : (s.setHdr n c).hdrOf m = s.hdrOf m := sget_sput_ne _ _ _ _ h
@[simp] theorem State.modPart_part_self (n : Nat) (f : PartSt → PartSt) : (s.modPart n f).part n = f (s.part n) := sget_sput_self _ _ _ _
theorem State.modPart_part_ne {n m : Nat} (f : PartSt → PartSt) (h : m ≠ n) : (s.modPart n f).part m = s.part m := sget_sput_ne _ _ _ _ h
@[simp] theorem State.setForce_inForce_self (k v : Nat) : (s.setForce k v).inForce k = v % 2 ^ 32 := by
  simp [State.inForce, State.setForce]
theorem State.setForce_inForce_ne {k j : Nat} (v : Nat) (h : j ≠ k) : (s.setForce k v).inForce j = s.inForce j := by
  simp only [State.inForce, State.setForce, sget_sput_ne _ _ _ _ h]
@[simp] theorem State.setShadow_shadowOf_self (k v : Nat) : (s.setShadow k v).shadowOf k = v % 2 ^ 32 := by
  simp [State.shadowOf, State.setShadow]
theorem State.setShadow_shadowOf_ne {k j : Nat} (v : Nat) (h : j ≠ k) : (s.setShadow k v).shadowOf j = s.shadowOf j := by
  simp only [State.shadowOf, State.setShadow, sget_sput_ne _ _ _ _ h]

/-- A counter that counts advances modulo 2^64. -/
theorem State.bump_counter_self {page off : Nat} (n : Nat) (h : s.counting page = true) :
    (s.bump page off n).counter page off = (s.counter page off + n) % 2 ^ 64 := by
  unfold State.bump
  rw [if_pos h]
  exact sget_sput_self _ _ _ _
theorem State.bump_counter_ne {page off page' off' : Nat} (n : Nat) (h : addr page' off' ≠ addr page off) :
    (s.bump page off n).counter page' off' = s.counter page' off' := by
  unfold State.bump
  split
  · exact sget_sput_ne _ _ _ _ h
  · rfl
@[simp] theorem State.bump_inForce (page off n k : Nat) : (s.bump page off n).inForce k = s.inForce k := by
  simp [State.inForce]
@[simp] theorem State.bump_counting (page off n page' : Nat) : (s.bump page off n).counting page' = s.counting page' := by
  simp [State.counting]

/-- What is RUNNING on a queue after an update. -/
@[simp] theorem State.setRun_run_none (q : Nat) : (s.setRun q none).run q = none := by
  simp only [State.run, State.setRun]
  rw [List.lookup_eq_none_iff]
  intro e he
  have h := (List.mem_filter.1 he).2
  rw [bne_iff_ne] at h
  simpa using fun c : q = e.1 => h c.symm

end Sys2Proof.Machine
end

