-- ==== Sys2Proof/Laws/Frame.lean ====
section
/-! SUPPORT. What an operation may change: `Frame W a s` says that s came from a by changing no part of the state outside W, that memory
is canonical, and what no operation ever does: the waiting commands change, an output is taken back, a fuse is lost, a counter of free
values or of log entries goes back. Every operation of the model has one lemma of this form. -/

namespace Sys2Proof.Machine

-- one theorem at a time: as one text the package has too many for a thread each
set_option Elab.async false

/-- s came from a by changing parts in W only. -/
structure Frame (W : List Field) (a s : State) : Prop where
  same : ∀ f, f ∉ W → Same f a s
  pending : s.pending = a.pending
  mem : Memory.wf a.mem = true → Memory.wf s.mem = true
  fuses : { s.fuses with minSec := a.fuses.minSec } = a.fuses
  minSec : a.fuses.minSec ≤ s.fuses.minSec
  clock : s.clk.clock = a.clk.clock
  out : a.out <+: s.out
  fresh : a.fresh ≤ s.fresh
  seq : a.log.nextSeq ≤ s.log.nextSeq

variable {W : List Field} {a : State}

theorem Frame.refl (W : List Field) (a : State) : Frame W a a :=
  ⟨fun f _ => by cases f <;> first | rfl | exact ⟨rfl, rfl⟩ | exact fun _ => ⟨rfl, rfl, rfl, rfl⟩, rfl, id, rfl, le_refl _, rfl, List.prefix_refl _, le_refl _, le_refl _⟩

/-- A part of a list of parts in W is in W. -/
theorem in_frame {L : List Field} {f : Field} (h : L ⊆ W) (hf : f ∈ L) : f ∈ W := h hf

/-- A state put together from the parts of one in the frame and new parts in W. -/
theorem frame_mk {s : State} {out fresh clk phase fuses mem regs units plans vat press link safety selftest aon boot procs log power net}
    (h : Frame W a s)
    (h1 : out = s.out ∨ Field.out ∈ W ∧ s.out <+: out)
    (h2 : fresh = s.fresh ∨ Field.fresh ∈ W ∧ s.fresh ≤ fresh)
    (h3 : clk = s.clk ∨ Field.clk ∈ W ∧ clk.clock = s.clk.clock)
    (h4 : phase = s.phase ∨ Field.phase ∈ W)
    (h5 : fuses = s.fuses ∨ Field.fuses ∈ W ∧ { fuses with minSec := s.fuses.minSec } = s.fuses ∧ s.fuses.minSec ≤ fuses.minSec)
    (h6 : mem = s.mem ∨ Field.mem ∈ W ∧ (Memory.wf s.mem = true → Memory.wf mem = true))
    (h7 : regs = s.regs ∨ Field.regs ∈ W)
    (h8 : units = s.units ∨ Field.units ∈ W)
    (h9 : plans = s.plans ∨ Field.plans ∈ W)
    (h10 : vat = s.vat ∨ Field.vat ∈ W)
    (h11 : press = s.press ∨ Field.press ∈ W)
    (h12 : link = s.link ∨ Field.link ∈ W)
    (h13 : safety = s.safety ∨ Field.safety ∈ W)
    (h14 : selftest = s.selftest ∨ Field.selftest ∈ W)
    (h15 : aon = s.aon ∨ Field.aon ∈ W)
    (h16 : boot = s.boot ∨ Field.boot ∈ W)
    (h17 : procs = s.procs ∨ Field.procs ∈ W)
    (h18 : log = s.log ∨ Field.log ∈ W ∧ s.log.nextSeq ≤ log.nextSeq)
    (h19 : power = s.power ∨ Field.power ∈ W)
    (h20 : net = s.net ∨ Field.net ∈ W)
    (h21 : (regs.force, regs.shadow) = (s.regs.force, s.regs.shadow) ∨ Field.settings ∈ W := by
      first | exact Or.inl rfl | exact Or.inr (in_frame (by assumption) (by decide)))
    (h22 : regs.hdr = s.regs.hdr ∨ Field.commits ∈ W := by
      first | exact Or.inl rfl | exact Or.inr (in_frame (by assumption) (by decide))) :
    Frame W a ⟨s.pending, out, fresh, clk, phase, fuses, mem, regs, units, plans, vat, press, link, safety, selftest, aon, boot, procs, log,
      power, net⟩ := by
  obtain ⟨g, g1, g2, g3, g4, g5, g6, g7, g8⟩ := h
  refine ⟨?_, g1, ?_, ?_, ?_, ?_, ?_, ?_, ?_⟩
  · intro f hf
    have e := g f hf
    cases f with
    | out => rcases h1 with h | h; exacts [h.trans e, absurd h.1 hf]
    | fresh => rcases h2 with h | h; exacts [h.trans e, absurd h.1 hf]
    | clk => rcases h3 with h | h; exacts [h.trans e, absurd h.1 hf]
    | phase => rcases h4 with h | h; exacts [h.trans e, absurd h hf]
    | fuses => rcases h5 with h | h; exacts [h.trans e, absurd h.1 hf]
    | mem => rcases h6 with h | h; exacts [h.trans e, absurd h.1 hf]
    | regs => rcases h7 with h | h; exacts [h.trans e, absurd h hf]
    | units => rcases h8 with h | h; exacts [h.trans e, absurd h hf]
    | plans => rcases h9 with h | h; exacts [h.trans e, absurd h hf]
    | vat => rcases h10 with h | h; exacts [h.trans e, absurd h hf]
    | press => rcases h11 with h | h; exacts [h.trans e, absurd h hf]
    | link => rcases h12 with h | h; exacts [h.trans e, absurd h hf]
    | safety => rcases h13 with h | h; exacts [h.trans e, absurd h hf]
    | selftest => rcases h14 with h | h; exacts [h.trans e, absurd h hf]
    | aon => rcases h15 with h | h; exacts [h.trans e, absurd h hf]
    | boot => rcases h16 with h | h; exacts [h.trans e, absurd h hf]
    | procs => rcases h17 with h | h; exacts [h.trans e, absurd h hf]
    | log => rcases h18 with h | h; exacts [h.trans e, absurd h.1 hf]
    | power => rcases h19 with h | h; exacts [h.trans e, absurd h hf]
    | net => rcases h20 with h | h; exacts [h.trans e, absurd h hf]
    | settings =>
      rcases h21 with h | h
      · obtain ⟨h1, h2⟩ := Prod.ext_iff.1 h
        exact ⟨h1.trans e.1, h2.trans e.2⟩
      · exact absurd h hf
    | commits =>
      rcases h22 with h | h
      · intro k
        have ek := e k
        simp only [State.hdrOf] at ek ⊢
        rw [h]; exact ek
      · exact absurd h hf
  · rcases h6 with h | h
    · rw [h]; exact g2
    · exact fun x => h.2 (g2 x)
  · rcases h5 with h | h
    · rw [h]; exact g3
    · show ({ fuses with minSec := a.fuses.minSec } : Fuses) = a.fuses
      have e : ({ fuses with minSec := a.fuses.minSec } : Fuses) = { s.fuses with minSec := a.fuses.minSec } := by
        rw [← h.2.1]
      rw [e]; exact g3
  · rcases h5 with h | h
    · rw [h]; exact g4
    · exact le_trans g4 h.2.2
  · rcases h3 with h | h
    · rw [h]; exact g5
    · exact h.2.trans g5
  · rcases h1 with h | h
    · rw [h]; exact g6
    · exact g6.trans h.2
  · rcases h2 with h | h
    · rw [h]; exact g7
    · exact le_trans g7 h.2
  · rcases h18 with h | h
    · rw [h]; exact g8
    · exact le_trans g8 h.2

theorem frame_ite {s t : State} {c : Prop} [Decidable c] (h : Frame W a s) (h' : Frame W a t) : Frame W a (if c then s else t) := by
  split <;> assumption

/-- A fold over operations that stay in the frame. -/
theorem frame_foldl {β : Type} {s : State} {f : State → β → State} (l : List β) (h : Frame W a s)
    (hf : ∀ t x, Frame W a t → Frame W a (f t x)) : Frame W a (l.foldl f s) := by
  induction l generalizing s with
  | nil => exact h
  | cons x r ih => exact ih (hf s x h)

theorem frame_foldl_fst {β γ : Type} {p : State × γ} {f : State × γ → β → State × γ} (l : List β) (h : Frame W a p.1)
    (hf : ∀ t x, Frame W a t.1 → Frame W a (f t x).1) : Frame W a (l.foldl f p).1 := by
  induction l generalizing p with
  | nil => exact h
  | cons x r ih => exact ih (hf p x h)

/-- A smaller set of parts is enough. -/
theorem Frame.mono {V W : List Field} {a s : State} (h : Frame V a s) (hw : V ⊆ W) : Frame W a s :=
  ⟨fun f hf => h.same f (fun hv => hf (hw hv)), h.pending, h.mem, h.fuses, h.minSec, h.clock, h.out, h.fresh, h.seq⟩

theorem Frame.trans {W : List Field} {a s t : State} (h : Frame W a s) (h' : Frame W s t) : Frame W a t := by
  refine ⟨fun f hf => ?_, h'.pending.trans h.pending, fun x => h'.mem (h.mem x), ?_, le_trans h.minSec h'.minSec, h'.clock.trans h.clock, h.out.trans h'.out,
    le_trans h.fresh h'.fresh, le_trans h.seq h'.seq⟩
  · have e := h.same f hf
    have e' := h'.same f hf
    cases f with
    | settings => exact ⟨e'.1.trans e.1, e'.2.trans e.2⟩
    | commits => exact fun k => ⟨(e' k).1.trans (e k).1, (e' k).2.1.trans (e k).2.1, (e' k).2.2.1.trans (e k).2.2.1, (e' k).2.2.2.trans (e k).2.2.2⟩
    | _ => exact Eq.trans e' e
  · have e := h.fuses
    have e' := h'.fuses
    have : ({ t.fuses with minSec := a.fuses.minSec } : Fuses) = { s.fuses with minSec := a.fuses.minSec } := by rw [← e']
    rw [this]; exact e

/-! One part replaced. -/

theorem Frame.set_phase {s : State} {v : Phase} (h : Frame W a s) (hw : .phase ∈ W) : Frame W a { s with phase := v } :=
  frame_mk h (.inl rfl) (.inl rfl) (.inl rfl) (.inr hw) (.inl rfl) (.inl rfl) (.inl rfl) (.inl rfl) (.inl rfl) (.inl rfl) (.inl rfl) (.inl rfl) (.inl rfl) (.inl rfl) (.inl rfl) (.inl rfl) (.inl rfl) (.inl rfl) (.inl rfl) (.inl rfl)

theorem Frame.set_regs {s : State} {v : Regs} (h : Frame W a s) (hw : .regs ∈ W)
    (hs : (v.force, v.shadow) = (s.regs.force, s.regs.shadow) ∨ .settings ∈ W := by
      first | exact Or.inl rfl | exact Or.inr (in_frame (by assumption) (by decide)))
    (hc : v.hdr = s.regs.hdr ∨ .commits ∈ W := by
      first | exact Or.inl rfl | exact Or.inr (in_frame (by assumption) (by decide))) : Frame W a { s with regs := v } :=
  frame_mk h (.inl rfl) (.inl rfl) (.inl rfl) (.inl rfl) (.inl rfl) (.inl rfl) (.inr hw) (.inl rfl) (.inl rfl) (.inl rfl) (.inl rfl) (.inl rfl) (.inl rfl) (.inl rfl) (.inl rfl) (.inl rfl) (.inl rfl) (.inl rfl) (.inl rfl) (.inl rfl) hs hc

/-- A page's header changes outside its commit. -/
theorem Frame.set_err {s : State} {page : Nat} {v : PageHdr} (h : Frame W a s) (hw : .regs ∈ W) (hc : SameCommit (s.hdrOf page) v) :
    Frame W a (s.setHdr page v) := by
  have h1 : Frame (.commits :: W) a (s.setHdr page v) :=
    Frame.set_regs (h.mono (List.subset_cons_self _ _)) (List.mem_cons_of_mem _ hw) (.inl rfl) (.inr (List.mem_cons_self ..))
  refine ⟨fun f hf => ?_, h1.pending, h1.mem, h1.fuses, h1.minSec, h1.clock, h1.out, h1.fresh, h1.seq⟩
  by_cases e : f = .commits
  · subst e
    have e := h.same _ hf
    intro k
    have ek := e k
    by_cases x : k = page
    · subst x
      rw [State.setHdr_hdrOf_self]
      exact ⟨hc.1.trans ek.1, hc.2.1.trans ek.2.1, hc.2.2.1.trans ek.2.2.1, hc.2.2.2.trans ek.2.2.2⟩
    · rw [State.setHdr_hdrOf_ne _ _ x]; exact ek
  · exact h1.same f (fun hm => (List.mem_cons.1 hm).elim e hf)

theorem Frame.set_units {s : State} {v : Units} (h : Frame W a s) (hw : .units ∈ W) : Frame W a { s with units := v } :=
  frame_mk h (.inl rfl) (.inl rfl) (.inl rfl) (.inl rfl) (.inl rfl) (.inl rfl) (.inl rfl) (.inr hw) (.inl rfl) (.inl rfl) (.inl rfl) (.inl rfl) (.inl rfl) (.inl rfl) (.inl rfl) (.inl rfl) (.inl rfl) (.inl rfl) (.inl rfl) (.inl rfl)

theorem Frame.set_plans {s : State} {v : Plans} (h : Frame W a s) (hw : .plans ∈ W) : Frame W a { s with plans := v } :=
  frame_mk h (.inl rfl) (.inl rfl) (.inl rfl) (.inl rfl) (.inl rfl) (.inl rfl) (.inl rfl) (.inl rfl) (.inr hw) (.inl rfl) (.inl rfl) (.inl rfl) (.inl rfl) (.inl rfl) (.inl rfl) (.inl rfl) (.inl rfl) (.inl rfl) (.inl rfl) (.inl rfl)

theorem Frame.set_vat {s : State} {v : Vat} (h : Frame W a s) (hw : .vat ∈ W) : Frame W a { s with vat := v } :=
  frame_mk h (.inl rfl) (.inl rfl) (.inl rfl) (.inl rfl) (.inl rfl) (.inl rfl) (.inl rfl) (.inl rfl) (.inl rfl) (.inr hw) (.inl rfl) (.inl rfl) (.inl rfl) (.inl rfl) (.inl rfl) (.inl rfl) (.inl rfl) (.inl rfl) (.inl rfl) (.inl rfl)

theorem Frame.set_press {s : State} {v : Press} (h : Frame W a s) (hw : .press ∈ W) : Frame W a { s with press := v } :=
  frame_mk h (.inl rfl) (.inl rfl) (.inl rfl) (.inl rfl) (.inl rfl) (.inl rfl) (.inl rfl) (.inl rfl) (.inl rfl) (.inl rfl) (.inr hw) (.inl rfl) (.inl rfl) (.inl rfl) (.inl rfl) (.inl rfl) (.inl rfl) (.inl rfl) (.inl rfl) (.inl rfl)

theorem Frame.set_link {s : State} {v : LinkSt} (h : Frame W a s) (hw : .link ∈ W) : Frame W a { s with link := v } :=
  frame_mk h (.inl rfl) (.inl rfl) (.inl rfl) (.inl rfl) (.inl rfl) (.inl rfl) (.inl rfl) (.inl rfl) (.inl rfl) (.inl rfl) (.inl rfl) (.inr hw) (.inl rfl) (.inl rfl) (.inl rfl) (.inl rfl) (.inl rfl) (.inl rfl) (.inl rfl) (.inl rfl)

theorem Frame.set_safety {s : State} {v : SafetySt} (h : Frame W a s) (hw : .safety ∈ W) : Frame W a { s with safety := v } :=
  frame_mk h (.inl rfl) (.inl rfl) (.inl rfl) (.inl rfl) (.inl rfl) (.inl rfl) (.inl rfl) (.inl rfl) (.inl rfl) (.inl rfl) (.inl rfl) (.inl rfl) (.inr hw) (.inl rfl) (.inl rfl) (.inl rfl) (.inl rfl) (.inl rfl) (.inl rfl) (.inl rfl)

theorem Frame.set_selftest {s : State} {v : SelfTestSt} (h : Frame W a s) (hw : .selftest ∈ W) : Frame W a { s with selftest := v } :=
  frame_mk h (.inl rfl) (.inl rfl) (.inl rfl) (.inl rfl) (.inl rfl) (.inl rfl) (.inl rfl) (.inl rfl) (.inl rfl) (.inl rfl) (.inl rfl) (.inl rfl) (.inl rfl) (.inr hw) (.inl rfl) (.inl rfl) (.inl rfl) (.inl rfl) (.inl rfl) (.inl rfl)

theorem Frame.set_aon {s : State} {v : AonSt} (h : Frame W a s) (hw : .aon ∈ W) : Frame W a { s with aon := v } :=
  frame_mk h (.inl rfl) (.inl rfl) (.inl rfl) (.inl rfl) (.inl rfl) (.inl rfl) (.inl rfl) (.inl rfl) (.inl rfl) (.inl rfl) (.inl rfl) (.inl rfl) (.inl rfl) (.inl rfl) (.inr hw) (.inl rfl) (.inl rfl) (.inl rfl) (.inl rfl) (.inl rfl)

theorem Frame.set_boot {s : State} {v : BootSt} (h : Frame W a s) (hw : .boot ∈ W) : Frame W a { s with boot := v } :=
  frame_mk h (.inl rfl) (.inl rfl) (.inl rfl) (.inl rfl) (.inl rfl) (.inl rfl) (.inl rfl) (.inl rfl) (.inl rfl) (.inl rfl) (.inl rfl) (.inl rfl) (.inl rfl) (.inl rfl) (.inl rfl) (.inr hw) (.inl rfl) (.inl rfl) (.inl rfl) (.inl rfl)

theorem Frame.set_procs {s : State} {v : List (Nat × ProcSt)} (h : Frame W a s) (hw : .procs ∈ W) : Frame W a { s with procs := v } :=
  frame_mk h (.inl rfl) (.inl rfl) (.inl rfl) (.inl rfl) (.inl rfl) (.inl rfl) (.inl rfl) (.inl rfl) (.inl rfl) (.inl rfl) (.inl rfl) (.inl rfl) (.inl rfl) (.inl rfl) (.inl rfl) (.inl rfl) (.inr hw) (.inl rfl) (.inl rfl) (.inl rfl)

theorem Frame.set_power {s : State} {v : PowerSt} (h : Frame W a s) (hw : .power ∈ W) : Frame W a { s with power := v } :=
  frame_mk h (.inl rfl) (.inl rfl) (.inl rfl) (.inl rfl) (.inl rfl) (.inl rfl) (.inl rfl) (.inl rfl) (.inl rfl) (.inl rfl) (.inl rfl) (.inl rfl) (.inl rfl) (.inl rfl) (.inl rfl) (.inl rfl) (.inl rfl) (.inl rfl) (.inr hw) (.inl rfl)

theorem Frame.set_net {s : State} {v : Net} (h : Frame W a s) (hw : .net ∈ W) : Frame W a { s with net := v } :=
  frame_mk h (.inl rfl) (.inl rfl) (.inl rfl) (.inl rfl) (.inl rfl) (.inl rfl) (.inl rfl) (.inl rfl) (.inl rfl) (.inl rfl) (.inl rfl) (.inl rfl) (.inl rfl) (.inl rfl) (.inl rfl) (.inl rfl) (.inl rfl) (.inl rfl) (.inl rfl) (.inr hw)

theorem Frame.set_clk {s : State} {v : Clk} (h : Frame W a s) (hw : .clk ∈ W) (e : v.clock = s.clk.clock) : Frame W a { s with clk := v } :=
  frame_mk h (.inl rfl) (.inl rfl) (.inr ⟨hw, e⟩) (.inl rfl) (.inl rfl) (.inl rfl) (.inl rfl) (.inl rfl) (.inl rfl) (.inl rfl) (.inl rfl) (.inl rfl) (.inl rfl) (.inl rfl) (.inl rfl) (.inl rfl) (.inl rfl) (.inl rfl) (.inl rfl) (.inl rfl)

theorem Frame.set_log {s : State} {v : LogSt} (h : Frame W a s) (hw : .log ∈ W) (e : s.log.nextSeq ≤ v.nextSeq) : Frame W a { s with log := v } :=
  frame_mk h (.inl rfl) (.inl rfl) (.inl rfl) (.inl rfl) (.inl rfl) (.inl rfl) (.inl rfl) (.inl rfl) (.inl rfl) (.inl rfl) (.inl rfl) (.inl rfl) (.inl rfl) (.inl rfl) (.inl rfl) (.inl rfl) (.inl rfl) (.inr ⟨hw, e⟩) (.inl rfl) (.inl rfl)

end Sys2Proof.Machine
end

