-- ==== Sys2Proof/Laws/FrameMem.lean ====
section
/-! SUPPORT. Frames of the named operations over the state and of the Press as memory. Each lemma names the parts of the state that its operation may change. -/

set_option linter.unusedTactic false
set_option linter.unreachableTactic false

namespace Sys2Proof.Machine

-- one theorem at a time: as one text the package has too many for a thread each
set_option Elab.async false

variable {W : List Field} {base : State}

theorem State.wr_frame {s : State} {x : Nat} {v : Byte} (hF : Frame W base s) (hW : [.mem] ⊆ W) : Frame W base (s.wr x v) := by
  unfold State.wr
  apply frame_mk hF <;> first | exact Or.inl (by with_reducible rfl) | exact Or.inr ⟨hW (by decide), fun g => Memory.wf_memPut g _ _⟩

theorem State.wrN_frame {d : Bytes} {s : State} {x : Nat} (hF : Frame W base s) (hW : [.mem] ⊆ W) : Frame W base (s.wrN x d) := by
  induction d generalizing s x with
  | nil => exact hF
  | cons v r ih => exact ih (State.wr_frame hF hW)

theorem State.wipe_frame {s : State} {x n : Nat} (hF : Frame W base s) (hW : [.mem] ⊆ W) : Frame W base (s.wipe x n) := by
  unfold State.wipe
  apply frame_mk hF <;> first | exact Or.inl (by with_reducible rfl) | exact Or.inr ⟨hW (by decide), fun g => Memory.wf_filter g _⟩

theorem State.setCore_frame {s : State} {n : Nat} {c : CoreSt} (hF : Frame W base s) (hW : [.units] ⊆ W) : Frame W base (State.setCore s n c) := by
  unfold State.setCore
  repeat' with_reducible first
    | assumption
    | exact List.Subset.trans (by decide) hW
    | exact Or.inr (in_frame hW (by decide))
    | exact Or.inl rfl
    | refine Frame.set_units ?_ (in_frame hW (by decide))
    | apply frame_mk

theorem State.setPair_frame {s : State} {n : Nat} {c : PairSt} (hF : Frame W base s) (hW : [.units] ⊆ W) : Frame W base (State.setPair s n c) := by
  unfold State.setPair
  repeat' with_reducible first
    | assumption
    | exact List.Subset.trans (by decide) hW
    | exact Or.inr (in_frame hW (by decide))
    | exact Or.inl rfl
    | refine Frame.set_units ?_ (in_frame hW (by decide))
    | apply frame_mk

theorem State.setEngine_frame {s : State} {n : Nat} {c : EngineSt} (hF : Frame W base s) (hW : [.units] ⊆ W) : Frame W base (State.setEngine s n c) := by
  unfold State.setEngine
  repeat' with_reducible first
    | assumption
    | exact List.Subset.trans (by decide) hW
    | exact Or.inr (in_frame hW (by decide))
    | exact Or.inl rfl
    | refine Frame.set_units ?_ (in_frame hW (by decide))
    | apply frame_mk

theorem State.setPart_frame {s : State} {p : Nat} {c : PartSt} (hF : Frame W base s) (hW : [.plans] ⊆ W) : Frame W base (State.setPart s p c) := by
  unfold State.setPart
  repeat' with_reducible first
    | assumption
    | exact List.Subset.trans (by decide) hW
    | exact Or.inr (in_frame hW (by decide))
    | exact Or.inl rfl
    | refine Frame.set_plans ?_ (in_frame hW (by decide))
    | apply frame_mk

theorem State.modPart_frame {s : State} {p : Nat} {f : PartSt → PartSt} (hF : Frame W base s) (hW : [.plans] ⊆ W) : Frame W base (State.modPart s p f) := by
  unfold State.modPart
  repeat' with_reducible first
    | assumption
    | exact List.Subset.trans (by decide) hW
    | apply State.setPart_frame

theorem State.setInstar_frame {s : State} {i : Nat} {e : InstarEntry} (hF : Frame W base s) (hW : [.plans] ⊆ W) : Frame W base (State.setInstar s i e) := by
  unfold State.setInstar
  repeat' with_reducible first
    | assumption
    | exact List.Subset.trans (by decide) hW
    | exact Or.inr (in_frame hW (by decide))
    | exact Or.inl rfl
    | refine Frame.set_plans ?_ (in_frame hW (by decide))
    | apply frame_mk

theorem State.setTally_frame {s : State} {t v : Nat} (hF : Frame W base s) (hW : [.plans] ⊆ W) : Frame W base (State.setTally s t v) := by
  unfold State.setTally
  repeat' with_reducible first
    | assumption
    | exact List.Subset.trans (by decide) hW
    | exact Or.inr (in_frame hW (by decide))
    | exact Or.inl rfl
    | refine Frame.set_plans ?_ (in_frame hW (by decide))
    | apply frame_mk

theorem State.setQueue_frame {s : State} {q : Nat} {l : List QItem} (hF : Frame W base s) (hW : [.plans] ⊆ W) : Frame W base (State.setQueue s q l) := by
  unfold State.setQueue
  repeat' with_reducible first
    | assumption
    | exact List.Subset.trans (by decide) hW
    | exact Or.inr (in_frame hW (by decide))
    | exact Or.inl rfl
    | refine Frame.set_plans ?_ (in_frame hW (by decide))
    | apply frame_mk

theorem State.setRun_frame {s : State} {q : Nat} {r : Option Running} (hF : Frame W base s) (hW : [.plans] ⊆ W) : Frame W base (State.setRun s q r) := by
  unfold State.setRun
  repeat' with_reducible first
    | assumption
    | exact List.Subset.trans (by decide) hW
    | exact Or.inr (in_frame hW (by decide))
    | exact Or.inl rfl
    | split
    | extract_lets
    | refine Frame.set_plans ?_ (in_frame hW (by decide))
    | apply frame_mk

theorem State.setChan_frame {s : State} {n : Nat} {c : ChanSt} (hF : Frame W base s) (hW : [.vat] ⊆ W) : Frame W base (State.setChan s n c) := by
  unfold State.setChan
  repeat' with_reducible first
    | assumption
    | exact List.Subset.trans (by decide) hW
    | exact Or.inr (in_frame hW (by decide))
    | exact Or.inl rfl
    | refine Frame.set_vat ?_ (in_frame hW (by decide))
    | apply frame_mk

theorem State.setDisp_frame {s : State} {n : Nat} {c : DispSt} (hF : Frame W base s) (hW : [.vat] ⊆ W) : Frame W base (State.setDisp s n c) := by
  unfold State.setDisp
  repeat' with_reducible first
    | assumption
    | exact List.Subset.trans (by decide) hW
    | exact Or.inr (in_frame hW (by decide))
    | exact Or.inl rfl
    | refine Frame.set_vat ?_ (in_frame hW (by decide))
    | apply frame_mk

theorem State.setProc_frame {s : State} {n : Nat} {c : ProcSt} (hF : Frame W base s) (hW : [.procs] ⊆ W) : Frame W base (State.setProc s n c) := by
  unfold State.setProc
  repeat' with_reducible first
    | assumption
    | exact List.Subset.trans (by decide) hW
    | exact Or.inr (in_frame hW (by decide))
    | exact Or.inl rfl
    | refine Frame.set_procs ?_ (in_frame hW (by decide))
    | apply frame_mk

theorem State.setSir_frame {s : State} {n : Nat} {c : SirLink} (hF : Frame W base s) (hW : [.net] ⊆ W) : Frame W base (State.setSir s n c) := by
  unfold State.setSir
  repeat' with_reducible first
    | assumption
    | exact List.Subset.trans (by decide) hW
    | exact Or.inr (in_frame hW (by decide))
    | exact Or.inl rfl
    | refine Frame.set_net ?_ (in_frame hW (by decide))
    | apply frame_mk

theorem State.sirOwe_frame {s : State} {n : Option Nat} {cls : Nat} {msg : Bytes} (hF : Frame W base s) (hW : [.net] ⊆ W) : Frame W base (State.sirOwe s n cls msg) := by
  unfold State.sirOwe
  repeat' with_reducible first
    | apply frame_ite
    | assumption
    | exact List.Subset.trans (by decide) hW
    | apply State.setSir_frame
    | split
    | extract_lets

theorem State.endSir_frame {s : State} {n : Nat} {x : SirLink} (hF : Frame W base s) (hW : [.net] ⊆ W) : Frame W base (State.endSir s n x) := by
  unfold State.endSir
  repeat' with_reducible first
    | assumption
    | exact List.Subset.trans (by decide) hW
    | apply State.sirOwe_frame
    | apply State.setSir_frame
    | apply frame_foldl
    | intro _ _ _

theorem State.setStally_frame {s : State} {n : Nat} {c : SysTally} (hF : Frame W base s) (hW : [.net] ⊆ W) : Frame W base (State.setStally s n c) := by
  unfold State.setStally
  repeat' with_reducible first
    | assumption
    | exact List.Subset.trans (by decide) hW
    | exact Or.inr (in_frame hW (by decide))
    | exact Or.inl rfl
    | refine Frame.set_net ?_ (in_frame hW (by decide))
    | apply frame_mk

theorem State.setOptical_frame {s : State} {n : Nat} {c : PortSt} (hF : Frame W base s) (hW : [.net] ⊆ W) : Frame W base (State.setOptical s n c) := by
  unfold State.setOptical
  repeat' with_reducible first
    | assumption
    | exact List.Subset.trans (by decide) hW
    | exact Or.inr (in_frame hW (by decide))
    | exact Or.inl rfl
    | refine Frame.set_net ?_ (in_frame hW (by decide))
    | apply frame_mk

theorem State.setHdr_frame {s : State} {page : Nat} {h : PageHdr} (hF : Frame W base s) (hW : [.regs, .commits] ⊆ W) : Frame W base (State.setHdr s page h) := by
  unfold State.setHdr
  repeat' with_reducible first
    | assumption
    | exact List.Subset.trans (by decide) hW
    | exact Or.inr (in_frame hW (by decide))
    | exact Or.inl rfl
    | refine Frame.set_regs ?_ (in_frame hW (by decide))
    | apply frame_mk

theorem State.setForce_frame {s : State} {key v : Nat} (hF : Frame W base s) (hW : [.regs, .settings] ⊆ W) : Frame W base (State.setForce s key v) := by
  unfold State.setForce
  repeat' with_reducible first
    | assumption
    | exact List.Subset.trans (by decide) hW
    | exact Or.inr (in_frame hW (by decide))
    | exact Or.inl rfl
    | refine Frame.set_regs ?_ (in_frame hW (by decide))
    | apply frame_mk

theorem State.setShadow_frame {s : State} {key v : Nat} (hF : Frame W base s) (hW : [.regs, .settings] ⊆ W) : Frame W base (State.setShadow s key v) := by
  unfold State.setShadow
  repeat' with_reducible first
    | assumption
    | exact List.Subset.trans (by decide) hW
    | exact Or.inr (in_frame hW (by decide))
    | exact Or.inl rfl
    | refine Frame.set_regs ?_ (in_frame hW (by decide))
    | apply frame_mk

theorem State.setBoth_frame {s : State} {key v : Nat} (hF : Frame W base s) (hW : [.regs, .settings] ⊆ W) : Frame W base (State.setBoth s key v) := by
  unfold State.setBoth
  repeat' with_reducible first
    | assumption
    | exact List.Subset.trans (by decide) hW
    | apply State.setForce_frame
    | apply State.setShadow_frame

theorem State.pageErr_frame {s : State} {page source code info : Nat} (hF : Frame W base s) (hW : [.regs] ⊆ W) :
    Frame W base (s.pageErr page source code info) := by
  unfold State.pageErr
  exact frame_ite (Frame.set_err hF (in_frame hW (by decide)) ⟨rfl, rfl, rfl, rfl⟩) (Frame.set_err hF (in_frame hW (by decide)) ⟨rfl, rfl, rfl, rfl⟩)

theorem setLatch_frame {s : State} {a v : Nat} (hF : Frame W base s) (hW : [.regs] ⊆ W) : Frame W base (setLatch s a v) := by
  unfold setLatch
  repeat' with_reducible first
    | assumption
    | exact List.Subset.trans (by decide) hW
    | exact Or.inr (in_frame hW (by decide))
    | exact Or.inl rfl
    | refine Frame.set_regs ?_ (in_frame hW (by decide))
    | apply frame_mk

theorem State.bump_frame {s : State} {page off n : Nat} (hF : Frame W base s) (hW : [.regs] ⊆ W) : Frame W base (s.bump page off n) := by
  unfold State.bump
  generalize (s.counter page off + n) % 2 ^ 64 = v
  refine frame_ite ?_ hF
  apply frame_mk hF <;> with_reducible first | exact Or.inl rfl | exact Or.inr (in_frame hW (by decide))

theorem State.unbump_frame {s : State} {page off n : Nat} (hF : Frame W base s) (hW : [.regs] ⊆ W) : Frame W base (State.unbump s page off n) := by
  unfold State.unbump
  repeat' with_reducible first
    | apply frame_ite
    | assumption
    | exact List.Subset.trans (by decide) hW
    | exact Or.inr (in_frame hW (by decide))
    | exact Or.inl rfl
    | split
    | extract_lets
    | refine Frame.set_regs ?_ (in_frame hW (by decide))
    | apply frame_mk

theorem State.clearCounters_frame {s : State} {page : Nat} (hF : Frame W base s) (hW : [.regs] ⊆ W) : Frame W base (State.clearCounters s page) := by
  unfold State.clearCounters
  repeat' with_reducible first
    | assumption
    | exact List.Subset.trans (by decide) hW
    | exact Or.inr (in_frame hW (by decide))
    | exact Or.inl rfl
    | refine Frame.set_regs ?_ (in_frame hW (by decide))
    | apply frame_mk

theorem State.tick_frame {s : State} (hF : Frame W base s) (hW : [.fresh] ⊆ W) : Frame W base s.tick := by
  unfold State.tick
  apply frame_mk hF <;> first | exact Or.inl (by with_reducible rfl) | exact Or.inr ⟨hW (by decide), Nat.le_succ _⟩

theorem State.emit_frame {s : State} {o : Output} (hF : Frame W base s) (hW : [.out] ⊆ W) : Frame W base (s.emit o) := by
  unfold State.emit
  apply frame_mk hF <;> first | exact Or.inl (by with_reducible rfl) | exact Or.inr ⟨hW (by decide), List.prefix_append _ _⟩

theorem State.logEntryOf_frame {s : State} {code part unit step : Nat} {spot : Option (Option Nat × Nat)} (hF : Frame W base s) (hW : [.fresh, .regs, .log] ⊆ W) :
    Frame W base (s.logEntryOf code part unit step spot) := by
  unfold State.logEntryOf
  have hb : Frame W base (s.bump 0x003 0x0A0 1) := State.bump_frame hF (List.Subset.trans (by decide) hW)
  apply frame_ite
  · apply frame_mk hb <;> first
      | exact Or.inl (by with_reducible rfl)
      | exact Or.inr ⟨hW (by decide), by unfold State.bump; split <;> exact le_refl _⟩
  · apply frame_mk hF <;> first
      | exact Or.inl (by with_reducible rfl)
      | exact Or.inr ⟨hW (by decide), Nat.le_succ _⟩
      | exact Or.inr ⟨hW (by decide), le_refl _⟩

theorem State.logEntry_frame {s : State} {code part unit step : Nat} (hF : Frame W base s) (hW : [.fresh, .regs, .log] ⊆ W) : Frame W base (State.logEntry s code part unit step) := by
  unfold State.logEntry
  repeat' with_reducible first
    | assumption
    | exact List.Subset.trans (by decide) hW
    | apply State.logEntryOf_frame

theorem State.logLimited_frame {s : State} {code scope part unit step : Nat} (hF : Frame W base s) (hW : [.fresh, .regs, .log] ⊆ W) :
    Frame W base (s.logLimited code scope part unit step) := by
  have hl : Frame W base (s.logEntry code part unit step) := State.logEntry_frame hF hW
  unfold State.logLimited
  split
  · apply frame_ite hF
    apply frame_mk hl <;> first | exact Or.inl (by with_reducible rfl) | exact Or.inr ⟨hW (by decide), le_refl _⟩
  · apply frame_mk hl <;> first | exact Or.inl (by with_reducible rfl) | exact Or.inr ⟨hW (by decide), le_refl _⟩

theorem State.blockErr_frame {s : State} {page code : Nat} (hF : Frame W base s) (hW : [.fresh, .regs] ⊆ W) : Frame W base (State.blockErr s page code) := by
  unfold State.blockErr
  repeat' with_reducible first
    | assumption
    | exact List.Subset.trans (by decide) hW
    | apply State.pageErr_frame
    | apply State.tick_frame

theorem whenUp_frame {s : State} {f : State → State} (hF : Frame W base s) (hf : Frame W base (f s)) : Frame W base (whenUp f s) := by
  unfold whenUp
  split <;> assumption

theorem State.setPte_frame {s : State} {p key : Nat} {e : Pte} (hF : Frame W base s) (hW : [.plans] ⊆ W) : Frame W base (State.setPte s p key e) := by
  unfold State.setPte
  repeat' with_reducible first
    | assumption
    | exact List.Subset.trans (by decide) hW
    | apply State.modPart_frame

theorem State.copyRam_frame {s : State} {src dst n : Nat} (hF : Frame W base s) (hW : [.mem] ⊆ W) : Frame W base (s.copyRam src dst n) := by
  have g := Memory.wf_copyRam s src dst n
  unfold State.copyRam at g ⊢
  apply frame_mk hF <;> first | exact Or.inl (by with_reducible rfl) | exact Or.inr ⟨hW (by decide), g⟩

theorem partWrite_frame {s : State} {p va : Nat} {b : Byte} (hF : Frame W base s) (hW : [.mem, .plans] ⊆ W) : Frame W base (partWrite s p va b) := by
  unfold partWrite
  repeat' with_reducible first
    | assumption
    | exact List.Subset.trans (by decide) hW
    | apply State.wr_frame
    | apply State.setPte_frame
    | apply frame_foldl
    | intro _ _ _
    | split
    | extract_lets

theorem landPut_frame {s : State} {p : Nat} {w : Put} (hF : Frame W base s) (hW : [.mem, .plans] ⊆ W) : Frame W base (landPut s p w) := by
  unfold landPut
  repeat' with_reducible first
    | assumption
    | exact List.Subset.trans (by decide) hW
    | apply partWrite_frame
    | split
    | extract_lets

theorem partWrites_frame {s : State} {p : Nat} {ws : List Put} (hF : Frame W base s) (hW : [.mem, .plans] ⊆ W) : Frame W base (partWrites s p ws) := by
  unfold partWrites
  repeat' with_reducible first
    | assumption
    | exact List.Subset.trans (by decide) hW
    | apply landPut_frame
    | apply frame_foldl
    | intro _ _ _

theorem partStore_frame {s : State} {p va : Nat} {bs : Bytes} (hF : Frame W base s) (hW : [.mem, .plans] ⊆ W) : Frame W base (partStore s p va bs) := by
  unfold partStore
  repeat' with_reducible first
    | assumption
    | exact List.Subset.trans (by decide) hW
    | apply partWrite_frame
    | apply frame_foldl
    | intro _ _ _

theorem fromImage_frame {s : State} {image : List Nat} {off dst : Nat} (hF : Frame W base s) (hW : [.mem] ⊆ W) : Frame W base (fromImage s image off dst) := by
  unfold fromImage
  repeat' with_reducible first
    | apply frame_ite
    | assumption
    | exact List.Subset.trans (by decide) hW
    | apply State.copyRam_frame
    | split
    | extract_lets

theorem initFrame_frame {s : State} {image : List Nat} {e : Pte} {dst : Nat} (hF : Frame W base s) (hW : [.mem] ⊆ W) : Frame W base (initFrame s image e dst) := by
  unfold initFrame
  repeat' with_reducible first
    | apply frame_ite
    | assumption
    | exact List.Subset.trans (by decide) hW
    | apply fromImage_frame
    | apply State.wipe_frame
    | split
    | extract_lets

theorem grantOne_frame {s : State} {port : Nat} (hF : Frame W base s) (hW : [.regs, .press] ⊆ W) : Frame W base (grantOne s port) := by
  unfold grantOne
  extract_lets a mine waits c
  clear_value c a mine waits
  split
  · exact hF
  · split
    · exact hF
    · extract_lets a' s1
      have h : Frame W base s1 := Frame.set_press hF (in_frame hW (by decide))
      exact frame_ite (State.bump_frame h (List.Subset.trans (by decide) hW)) h

theorem grantAll_frame {port n : Nat} {s : State} (hF : Frame W base s) (hW : [.regs, .press] ⊆ W) : Frame W base (grantAll port n s) := by
  induction n generalizing s with
  | zero => exact hF
  | succ n ih => exact ih (grantOne_frame hF hW)

theorem serveArbs_frame {s : State} (hF : Frame W base s) (hW : [.regs, .press] ⊆ W) : Frame W base (serveArbs s) := by
  unfold serveArbs
  refine frame_ite hF ?_
  exact Frame.set_press (frame_foldl _ hF (fun _ _ h => grantAll_frame h hW)) (in_frame hW (by decide))

theorem request_frame {s : State} {r : Req} (hF : Frame W base s) (hW : [.regs, .press] ⊆ W) : Frame W base (request s r) := by
  unfold request
  repeat' with_reducible first
    | apply frame_ite
    | assumption
    | exact List.Subset.trans (by decide) hW
    | apply serveArbs_frame
    | exact Or.inr (in_frame hW (by decide))
    | exact Or.inl rfl
    | split
    | extract_lets
    | refine Frame.set_press ?_ (in_frame hW (by decide))
    | apply frame_mk

theorem requestFill_frame {s : State} {p q : Nat} (hF : Frame W base s) (hW : [.regs, .press] ⊆ W) : Frame W base (requestFill s p q) := by
  unfold requestFill
  repeat' with_reducible first
    | assumption
    | exact List.Subset.trans (by decide) hW
    | apply request_frame

theorem requestBack_frame {s : State} {cls up : Nat} (hF : Frame W base s) (hW : [.regs, .press] ⊆ W) : Frame W base (requestBack s cls up) := by
  unfold requestBack
  repeat' with_reducible first
    | assumption
    | exact List.Subset.trans (by decide) hW
    | apply request_frame

theorem requestInit_frame {s : State} {p : Nat} {e : Pte} {into : Option Nat} (hF : Frame W base s) (hW : [.regs, .press] ⊆ W) : Frame W base (requestInit s p e into) := by
  unfold requestInit
  repeat' with_reducible first
    | apply frame_ite
    | assumption
    | exact List.Subset.trans (by decide) hW
    | apply requestFill_frame
    | apply request_frame
    | apply requestBack_frame
    | split
    | extract_lets

theorem grantAccess_frame {s : State} {cls up : Nat} {e : Pte} (hF : Frame W base s) (hW : [.fresh, .regs, .press] ⊆ W) : Frame W base (grantAccess s cls up e) := by
  unfold grantAccess
  repeat' with_reducible first
    | apply frame_ite
    | assumption
    | exact List.Subset.trans (by decide) hW
    | apply request_frame
    | apply State.tick_frame
    | split
    | extract_lets

theorem touchPage_frame {s : State} {p cls up va : Nat} (hF : Frame W base s) (hW : [.fresh, .regs, .plans, .press] ⊆ W) : Frame W base (touchPage s p cls up va) := by
  unfold touchPage
  repeat' with_reducible first
    | apply frame_ite
    | assumption
    | exact List.Subset.trans (by decide) hW
    | apply grantAccess_frame
    | apply State.setPte_frame
    | split
    | extract_lets

theorem touchPages_frame {s : State} {p up : Nat} {vpns : List Nat} (hF : Frame W base s) (hW : [.fresh, .regs, .plans, .press] ⊆ W) : Frame W base (touchPages s p up vpns) := by
  unfold touchPages
  repeat' with_reducible first
    | assumption
    | exact List.Subset.trans (by decide) hW
    | apply touchPage_frame
    | apply frame_foldl
    | intro _ _ _

theorem touchRange_frame {s : State} {p cls va n : Nat} (hF : Frame W base s) (hW : [.fresh, .regs, .plans, .press] ⊆ W) : Frame W base (touchRange s p cls va n) := by
  unfold touchRange
  repeat' with_reducible first
    | apply frame_ite
    | assumption
    | exact List.Subset.trans (by decide) hW
    | apply touchPage_frame
    | apply frame_foldl
    | intro _ _ _
    | split
    | extract_lets

theorem sysAccess_frame {s : State} (hF : Frame W base s) (hW : [.fresh, .regs, .press] ⊆ W) : Frame W base (sysAccess s) := by
  unfold sysAccess
  repeat' with_reducible first
    | assumption
    | exact List.Subset.trans (by decide) hW
    | apply request_frame
    | apply State.tick_frame

theorem evict_frame {s : State} {p key : Nat} (hF : Frame W base s) (hW : [.mem, .regs, .plans, .press] ⊆ W) : Frame W base (evict s p key) := by
  unfold evict
  repeat' with_reducible first
    | apply frame_ite
    | assumption
    | exact List.Subset.trans (by decide) hW
    | apply State.bump_frame
    | apply requestBack_frame
    | apply State.copyRam_frame
    | apply State.setPte_frame
    | split
    | extract_lets

theorem freeFelt_frame {s t : State} {p : Nat} {slice : State → Option Nat} {q f : Nat} (e : freeFelt s p slice = some (q, f, t))
    (hF : Frame W base s) (hW : [.fresh] ⊆ W) : Frame W base t := by
  unfold freeFelt at e
  split at e
  · split at e
    · split at e
      · simp only [Option.some.injEq, Prod.mk.injEq] at e
        rw [← e.2.2]
        exact State.tick_frame hF hW
      · simp at e
    · simp at e
  · simp at e

theorem takeFelt_frame {s t : State} {p : Nat} {aff : Option Nat} {q f : Nat} (e : takeFelt s p aff = some (q, f, t)) (hF : Frame W base s)
    (hW : [.fresh, .mem, .regs, .plans, .press] ⊆ W) : Frame W base t := by
  unfold takeFelt at e
  split at e
  · rename_i r hr
    exact freeFelt_frame (hr.trans e) hF (List.Subset.trans (by decide) hW)
  · split at e
    · simp at e
    · exact freeFelt_frame e (evict_frame hF (List.Subset.trans (by decide) hW)) (List.Subset.trans (by decide) hW)

theorem takeFeltIn_frame {s t : State} {p k : Nat} {q f : Nat} (e : takeFeltIn s p k = some (q, f, t)) (hF : Frame W base s)
    (hW : [.fresh, .mem, .regs, .plans, .press] ⊆ W) : Frame W base t := by
  unfold takeFeltIn at e
  split at e
  · rename_i r hr
    exact freeFelt_frame (hr.trans e) hF (List.Subset.trans (by decide) hW)
  · split at e
    · simp at e
    · exact freeFelt_frame e (evict_frame hF (List.Subset.trans (by decide) hW)) (List.Subset.trans (by decide) hW)

theorem shrinkFelt_frame {n : Nat} {s : State} {p : Nat} (hF : Frame W base s) (hW : [.mem, .regs, .plans, .press] ⊆ W) :
    Frame W base (shrinkFelt n s p) := by
  induction n generalizing s with
  | zero => exact hF
  | succ n ih =>
    unfold shrinkFelt
    split
    · split
      · exact ih (evict_frame hF (List.Subset.trans (by decide) hW))
      · exact hF
    · exact hF

theorem allocPage_frame {s t : State} {p : Nat} {image : List Nat} {bind : List (Option Nat)} {r : Region} {key src : Nat}
    (e : allocPage s p image bind r key src = some t) (hF : Frame W base s) (hW : [.fresh, .mem, .regs, .plans, .press] ⊆ W) :
    Frame W base t := by
  have tick : Frame W base s.tick := State.tick_frame hF (List.Subset.trans (by decide) hW)
  have init : ∀ {z : State} {img : List Nat} {e : Pte} {dst : Nat} {q : Option Nat}, Frame W base z →
      Frame W base (requestInit (initFrame z img e dst) p e q) :=
    fun hz => requestInit_frame (initFrame_frame hz (List.Subset.trans (by decide) hW)) (List.Subset.trans (by decide) hW)
  have put : ∀ {z : State} {e : Pte}, Frame W base z → Frame W base (z.setPte p key e) :=
    fun hz => State.setPte_frame hz (List.Subset.trans (by decide) hW)
  unfold allocPage at e
  dsimp only at e
  split at e
  · split at e
    · simp at e
    · cases e
      exact put (init tick)
  · split at e
    · split at e
      · split at e
        · simp at e
        · cases e
          exact put (frame_foldl _ tick (fun _ _ h => init h))
      · simp at e
    · split at e
      · simp at e
      · rename_i b z hb
        have hz : Frame W base z := by
          split at hb
          · split at hb
            · simp at hb
            · cases hb
              exact init tick
          · cases hb
            exact hF
        split at e
        · split at e
          · simp at e
          · rename_i hf
            cases e
            exact put (init (takeFelt_frame hf (put hz) hW))
        · cases e
          exact put hz

theorem allocPages_frame {l : List Nat} {s t : State} {p : Nat} {image : List Nat} {bind : List (Option Nat)} {r : Region} {keyOf : Nat → Nat}
    (e : allocPages s p image bind r keyOf l = some t) (hF : Frame W base s) (hW : [.fresh, .mem, .regs, .plans, .press] ⊆ W) :
    Frame W base t := by
  induction l generalizing s with
  | nil => cases e; exact hF
  | cons k ks ih =>
    unfold allocPages at e
    split at e
    · rename_i s' hs
      exact ih e (allocPage_frame hs hF hW)
    · simp at e

theorem allocRegions_frame {l : List Region} {s t : State} {p : Nat} {image : List Nat} {bind : List (Option Nat)}
    (e : allocRegions s p image bind l = some t) (hF : Frame W base s) (hW : [.fresh, .mem, .regs, .plans, .press] ⊆ W) : Frame W base t := by
  induction l generalizing s with
  | nil => cases e; exact hF
  | cons k ks ih =>
    unfold allocRegions at e
    split at e
    · exact ih e hF
    · split at e
      · rename_i s' hs
        exact ih e (allocPages_frame hs hF hW)
      · simp at e

theorem allocPads_frame {l : List SClass} {i : Nat} {s t : State} {p : Nat} {image : List Nat} {bind : List (Option Nat)} {regions : List Region}
    (e : allocPads s p image bind regions i l = some t) (hF : Frame W base s) (hW : [.fresh, .mem, .regs, .plans, .press] ⊆ W) :
    Frame W base t := by
  induction l generalizing s i with
  | nil => cases e; exact hF
  | cons k ks ih =>
    unfold allocPads at e
    split at e
    · simp at e
    · split at e
      · rename_i s' hs
        exact ih e (allocPages_frame hs hF hW)
      · simp at e

theorem freeKeys_frame {s : State} {p : Nat} {dead : Nat → Bool} (hF : Frame W base s) (hW : [.plans] ⊆ W) : Frame W base (freeKeys s p dead) := by
  unfold freeKeys
  repeat' with_reducible first
    | assumption
    | exact List.Subset.trans (by decide) hW
    | apply State.modPart_frame

theorem allocSequence_frame {s t : State} {p idx : Nat} (e : allocSequence s p idx = some t) (hF : Frame W base s)
    (hW : [.fresh, .mem, .regs, .plans, .press] ⊆ W) : Frame W base t := by
  have fold : ∀ (image : List Nat) (bind : State → List (Option Nat)) (l : List Region) (o : Option State),
      (∀ z, o = some z → Frame W base z) →
      l.foldl (fun o r => match o with
        | some s => allocPages s p image (bind s) r (r.key idx) (List.range r.pages)
        | none => none) o = some t → Frame W base t := by
    intro image bind l
    induction l with
    | nil => intro o ho e; exact ho t e
    | cons r rs ih =>
      intro o ho e
      refine ih _ ?_ e
      intro z hz
      cases o with
      | none => simp at hz
      | some s' => exact allocPages_frame hz (ho s' rfl) hW
  unfold allocSequence at e
  dsimp only at e
  split at e
  · simp at e
  · split at e
    · simp at e
    · split at e
      · simp at e
      · exact fold _ (fun s => (s.part p).bind) _ _ (fun z hz => by cases hz; exact hF) e

theorem freeSequence_frame {s : State} {p idx : Nat} (hF : Frame W base s) (hW : [.plans] ⊆ W) : Frame W base (freeSequence s p idx) := by
  unfold freeSequence
  repeat' with_reducible first
    | assumption
    | exact List.Subset.trans (by decide) hW
    | apply freeKeys_frame
    | split
    | extract_lets

theorem rebuildSheets_frame {s : State} {p logical : Nat} (hF : Frame W base s) (hW : [.fresh, .mem, .regs, .plans, .press] ⊆ W) : Frame W base (rebuildSheets s p logical).1 := by
  unfold rebuildSheets
  dsimp only
  repeat' with_reducible first
    | assumption
    | exact List.Subset.trans (by decide) hW
    | apply freeKeys_frame
    | refine allocPages_frame (by assumption) ?_ ?_
    | apply frame_foldl
    | apply frame_foldl_fst
    | intro _ _ _
    | split
    | extract_lets
theorem rebuildSheets_frame' {s z : State} {p logical : Nat} {out_} (eq : rebuildSheets s p logical = (z, out_)) (hF : Frame W base s) (hW : [.fresh, .mem, .regs, .plans, .press] ⊆ W) : Frame W base z := by
  have := rebuildSheets_frame (p := p) (logical := logical) hF hW
  rw [eq] at this
  exact this

theorem placeHold_frame {s : State} {p key : Nat} (hF : Frame W base s) (hW : [.plans] ⊆ W) : Frame W base (placeHold s p key) := by
  unfold placeHold
  repeat' with_reducible first
    | apply frame_ite
    | assumption
    | exact List.Subset.trans (by decide) hW
    | apply State.setPte_frame
    | split
    | extract_lets

theorem releaseHold_frame {s : State} {p key : Nat} (hF : Frame W base s) (hW : [.plans] ⊆ W) : Frame W base (releaseHold s p key) := by
  unfold releaseHold
  repeat' with_reducible first
    | apply frame_ite
    | assumption
    | exact List.Subset.trans (by decide) hW
    | apply State.setPte_frame
    | split
    | extract_lets

theorem poisonPage_frame {s : State} {p key : Nat} (hF : Frame W base s) (hW : [.plans] ⊆ W) : Frame W base (poisonPage s p key).1 := by
  unfold poisonPage
  dsimp only
  repeat' with_reducible first
    | assumption
    | exact List.Subset.trans (by decide) hW
    | apply State.setPte_frame
theorem poisonPage_frame' {s z : State} {p key : Nat} {out_} (eq : poisonPage s p key = (z, out_)) (hF : Frame W base s) (hW : [.plans] ⊆ W) : Frame W base z := by
  have := poisonPage_frame (p := p) (key := key) hF hW
  rw [eq] at this
  exact this

theorem recoverBacking_frame {s : State} {p key : Nat} (hF : Frame W base s) (hW : [.fresh, .mem, .plans] ⊆ W) : Frame W base (recoverBacking s p key).1 := by
  unfold recoverBacking
  dsimp only
  repeat' with_reducible first
    | apply frame_ite
    | assumption
    | exact List.Subset.trans (by decide) hW
    | apply poisonPage_frame
    | refine poisonPage_frame' (by assumption) ?_ ?_
    | apply State.tick_frame
    | apply State.setPte_frame
    | apply State.copyRam_frame
    | apply initFrame_frame
    | split
    | extract_lets
theorem recoverBacking_frame' {s z : State} {p key : Nat} {out_} (eq : recoverBacking s p key = (z, out_)) (hF : Frame W base s) (hW : [.fresh, .mem, .plans] ⊆ W) : Frame W base z := by
  have := recoverBacking_frame (p := p) (key := key) hF hW
  rw [eq] at this
  exact this

theorem grantRecovery_frame {s : State} {p key : Nat} (hF : Frame W base s) (hW : [.regs, .press] ⊆ W) : Frame W base (grantRecovery s p key) := by
  unfold grantRecovery
  repeat' with_reducible first
    | apply frame_ite
    | assumption
    | exact List.Subset.trans (by decide) hW
    | apply requestFill_frame
    | apply requestBack_frame
    | split
    | extract_lets

theorem recoverOwn_frame {s : State} {p key : Nat} (hF : Frame W base s) (hW : [.fresh, .mem, .regs, .plans, .press] ⊆ W) :
    Frame W base (recoverOwn s p key).1 := by
  have init : ∀ {z : State} {img : List Nat} {e : Pte} {dst : Nat}, Frame W base z → Frame W base (initFrame z img e dst) :=
    fun hz => initFrame_frame hz (List.Subset.trans (by decide) hW)
  have copy : ∀ {z : State} {a b n : Nat}, Frame W base z → Frame W base (z.copyRam a b n) :=
    fun hz => State.copyRam_frame hz (List.Subset.trans (by decide) hW)
  have put : ∀ {z : State} {e : Pte}, Frame W base z → Frame W base (z.setPte p key e) :=
    fun hz => State.setPte_frame hz (List.Subset.trans (by decide) hW)
  have tick : ∀ {z : State}, Frame W base z → Frame W base z.tick := fun hz => State.tick_frame hz (List.Subset.trans (by decide) hW)
  unfold recoverOwn
  dsimp only
  repeat' with_reducible first
    | assumption
    | exact List.Subset.trans (by decide) hW
    | apply put
    | apply tick
    | apply init
    | apply copy
    | apply poisonPage_frame
    | refine takeFeltIn_frame (by assumption) ?_ ?_
    | apply frame_foldl
    | intro _ _ _
    | split
theorem recoverOwn_frame' {s t : State} {p key : Nat} {r} (e : recoverOwn s p key = (t, r)) (hF : Frame W base s)
    (hW : [.fresh, .mem, .regs, .plans, .press] ⊆ W) : Frame W base t := by
  have := recoverOwn_frame (p := p) (key := key) hF hW
  rw [e] at this
  exact this

theorem freeUpTo_frame {l : List Nat} {s : State} {total : Nat} (hF : Frame W base s) (hW : [.fresh] ⊆ W) :
    Frame W base (freeUpTo s total l).2 := by
  induction l generalizing s total with
  | nil => exact hF
  | cons v r ih => exact ih (State.tick_frame hF hW)
theorem freeUpTo_frame' {l : List Nat} {s t : State} {total : Nat} {r} (e : freeUpTo s total l = (r, t)) (hF : Frame W base s)
    (hW : [.fresh] ⊆ W) : Frame W base t := by
  have := freeUpTo_frame (l := l) (total := total) hF hW
  rw [e] at this
  exact this

theorem bumpRow_frame {l : List Nat} {s : State} {page off : Nat} (hF : Frame W base s) (hW : [.regs] ⊆ W) :
    Frame W base (bumpRow s page off l) := by
  induction l generalizing s off with
  | nil => exact hF
  | cons v r ih => exact ih (State.bump_frame hF hW)

theorem modUnit_frame {s : State} {u : Nat} {f : CoreSt → CoreSt} (hF : Frame W base s) (hW : [.units] ⊆ W) : Frame W base (modUnit s u f) := by
  unfold modUnit
  repeat' with_reducible first
    | assumption
    | exact List.Subset.trans (by decide) hW
    | apply State.setCore_frame
    | apply frame_foldl
    | intro _ _ _

theorem account_frame {s : State} {u : Nat} (hF : Frame W base s) (hW : [.fresh, .regs, .units] ⊆ W) : Frame W base (account s u) := by
  unfold account
  repeat' with_reducible first
    | apply frame_ite
    | assumption
    | exact List.Subset.trans (by decide) hW
    | apply freeUpTo_frame
    | refine freeUpTo_frame' (by assumption) ?_ ?_
    | apply bumpRow_frame
    | apply modUnit_frame
    | apply frame_foldl
    | intro _ _ _
    | split
    | extract_lets

theorem accountDone_frame {s : State} {u : Nat} {r : Running} (hF : Frame W base s) (hW : [.regs, .units] ⊆ W) : Frame W base (accountDone s u r) := by
  unfold accountDone
  repeat' with_reducible first
    | apply frame_ite
    | assumption
    | exact List.Subset.trans (by decide) hW
    | apply bumpRow_frame
    | apply modUnit_frame
    | apply frame_foldl
    | intro _ _ _
    | split
    | extract_lets

theorem accountEngine_frame {s : State} {q : Nat} (hF : Frame W base s) (hW : [.fresh, .regs, .plans] ⊆ W) : Frame W base (accountEngine s q) := by
  unfold accountEngine
  repeat' with_reducible first
    | assumption
    | exact List.Subset.trans (by decide) hW
    | apply freeUpTo_frame
    | refine freeUpTo_frame' (by assumption) ?_ ?_
    | apply bumpRow_frame
    | apply State.setRun_frame
    | split
    | extract_lets

theorem accountPage_frame {s : State} {b : Block} (hF : Frame W base s) (hW : [.fresh, .regs, .units, .plans, .press] ⊆ W) : Frame W base (accountPage s b) := by
  unfold accountPage
  repeat' with_reducible first
    | assumption
    | exact List.Subset.trans (by decide) hW
    | apply account_frame
    | apply accountEngine_frame
    | apply serveArbs_frame
    | split
    | extract_lets

theorem accountAll_frame {s : State} (hF : Frame W base s) (hW : [.fresh, .regs, .units, .plans, .press] ⊆ W) : Frame W base (accountAll s) := by
  unfold accountAll
  repeat' with_reducible first
    | apply frame_ite
    | assumption
    | exact List.Subset.trans (by decide) hW
    | apply account_frame
    | apply serveArbs_frame
    | apply accountEngine_frame
    | apply frame_foldl
    | intro _ _ _
    | split
    | extract_lets

end Sys2Proof.Machine
end

