-- ==== Sys2Proof/Laws/FrameStep.lean ====
section
/-! SUPPORT. Frames of what befalls commits, sessions, tallies, steps and work items. Each lemma names the parts of the state that its operation may change. -/

set_option linter.unusedTactic false
set_option linter.unreachableTactic false

namespace Sys2Proof.Machine

-- one theorem at a time: as one text the package has too many for a thread each
set_option Elab.async false

variable {W : List Field} {base : State}

theorem forceAll_frame {s : State} {snap : List (Nat × Word)} (hF : Frame W base s) (hW : [.regs, .settings] ⊆ W) : Frame W base (forceAll s snap) := by
  unfold forceAll
  repeat' with_reducible first
    | assumption
    | exact List.Subset.trans (by decide) hW
    | apply State.setForce_frame
    | apply frame_foldl
    | intro _ _ _

theorem revertPage_frame {s : State} {b : Block} {page : Nat} (hF : Frame W base s) (hW : [.regs, .settings] ⊆ W) : Frame W base (revertPage s b page) := by
  unfold revertPage
  repeat' with_reducible first
    | assumption
    | exact List.Subset.trans (by decide) hW
    | apply State.setShadow_frame
    | apply frame_foldl
    | intro _ _ _

theorem applyPart_frame {s : State} {p : Nat} (hF : Frame W base s) (hW : [.units, .plans] ⊆ W) : Frame W base (applyPart s p) := by
  unfold applyPart
  repeat' with_reducible first
    | apply frame_ite
    | assumption
    | exact List.Subset.trans (by decide) hW
    | apply State.setPair_frame
    | apply State.setEngine_frame
    | apply State.modPart_frame
    | apply frame_foldl
    | intro _ _ _
    | split
    | extract_lets

theorem applyChan_frame {s : State} {n : Nat} {old : ChanCfg} (hF : Frame W base s) (hW : [.vat] ⊆ W) : Frame W base (applyChan s n old) := by
  unfold applyChan
  repeat' with_reducible first
    | apply frame_ite
    | assumption
    | exact List.Subset.trans (by decide) hW
    | apply State.setChan_frame
    | split
    | extract_lets

theorem dropOffLinks_frame {s : State} (hF : Frame W base s) (hW : [.net] ⊆ W) : Frame W base (dropOffLinks s) := by
  unfold dropOffLinks
  repeat' with_reducible first
    | apply frame_ite
    | assumption
    | exact List.Subset.trans (by decide) hW
    | apply State.endSir_frame
    | apply frame_foldl
    | intro _ _ _
    | split
    | extract_lets

theorem applyPort_frame {s : State} {i : Nat} {oldEn : Bool} (hF : Frame W base s) (hW : [.regs, .net] ⊆ W) : Frame W base (applyPort s i oldEn) := by
  unfold applyPort
  repeat' with_reducible first
    | apply frame_ite
    | assumption
    | exact List.Subset.trans (by decide) hW
    | apply State.setOptical_frame
    | apply State.bump_frame
    | apply dropOffLinks_frame
    | exact Or.inr (in_frame hW (by decide))
    | exact Or.inl rfl
    | split
    | extract_lets
    | apply frame_mk

theorem applyTime_frame {s : State} {old : Nat} (hF : Frame W base s) (hW : [.clk] ⊆ W) : Frame W base (applyTime s old) := by
  unfold applyTime
  repeat' with_reducible first
    | apply frame_ite
    | assumption
    | exact List.Subset.trans (by decide) hW
    | exact Or.inr (in_frame hW (by decide))
    | exact Or.inl rfl
    | exact Or.inr ⟨in_frame hW (by decide), rfl⟩
    | split
    | extract_lets
    | apply frame_mk

theorem applySnapshot_frame {s : State} {b : Block} {page : Nat} {snap : List (Nat × Word)} (hF : Frame W base s) (hW : [.fresh, .clk, .mem, .regs, .units, .plans, .vat, .press, .net, .settings] ⊆ W) : Frame W base (applySnapshot s b page snap) := by
  unfold applySnapshot
  repeat' with_reducible first
    | assumption
    | exact List.Subset.trans (by decide) hW
    | apply accountPage_frame
    | apply forceAll_frame
    | apply applyPart_frame
    | apply applyChan_frame
    | apply shrinkFelt_frame
    | apply applyPort_frame
    | apply applyTime_frame
    | apply dropOffLinks_frame
    | split
    | extract_lets

theorem settle_frame {s : State} {b : Block} {page : Nat} (hF : Frame W base s) (hW : [.fresh, .clk, .mem, .regs, .units, .plans, .vat, .press, .net, .settings, .commits] ⊆ W) : Frame W base (settle s b page) := by
  unfold settle
  repeat' with_reducible first
    | apply frame_ite
    | assumption
    | exact List.Subset.trans (by decide) hW
    | apply State.setHdr_frame
    | apply State.pageErr_frame
    | apply applySnapshot_frame
    | split
    | extract_lets

theorem settleTimed_frame {s : State} {b : Block} {page : Nat} (hF : Frame W base s) (hW : [.fresh, .clk, .mem, .regs, .units, .plans, .vat, .press, .net, .settings, .commits] ⊆ W) : Frame W base (settleTimed s b page) := by
  unfold settleTimed
  repeat' with_reducible first
    | apply frame_ite
    | assumption
    | exact List.Subset.trans (by decide) hW
    | apply settle_frame
    | split
    | extract_lets

theorem settleDl_frame {s : State} {ready : Nat → Bool} (hF : Frame W base s) (hW : [.regs, .settings, .commits] ⊆ W) : Frame W base (settleDl s ready) := by
  unfold settleDl
  repeat' with_reducible first
    | apply frame_ite
    | assumption
    | exact List.Subset.trans (by decide) hW
    | apply State.setHdr_frame
    | apply State.pageErr_frame
    | apply forceAll_frame
    | split
    | extract_lets

theorem commitWrite_frame {s : State} {page : Nat} {token : BitVec 16} (hF : Frame W base s) (hW : [.fresh, .clk, .mem, .regs, .units, .plans, .vat, .press, .net, .settings, .commits] ⊆ W) : Frame W base (commitWrite s page token) := by
  unfold commitWrite
  repeat' with_reducible first
    | apply frame_ite
    | assumption
    | exact List.Subset.trans (by decide) hW
    | apply State.pageErr_frame
    | apply State.setHdr_frame
    | apply settleDl_frame
    | apply settle_frame
    | split
    | extract_lets

theorem commitSafePoint_frame {s : State} {page : Nat} (hF : Frame W base s) (hW : [.fresh, .clk, .mem, .regs, .units, .plans, .vat, .press, .net, .settings, .commits] ⊆ W) : Frame W base (commitSafePoint s page) := by
  unfold commitSafePoint
  repeat' with_reducible first
    | apply frame_ite
    | assumption
    | exact List.Subset.trans (by decide) hW
    | apply settleDl_frame
    | apply settle_frame
    | split
    | extract_lets

theorem boundaryCommits_frame {s : State} {p : Nat} (hF : Frame W base s) (hW : [.fresh, .clk, .mem, .regs, .units, .plans, .vat, .press, .net, .settings, .commits] ⊆ W) : Frame W base (boundaryCommits s p) := by
  unfold boundaryCommits
  repeat' with_reducible first
    | apply frame_ite
    | assumption
    | exact List.Subset.trans (by decide) hW
    | apply settleTimed_frame
    | apply settleDl_frame
    | apply frame_foldl
    | intro _ _ _
    | split
    | extract_lets

theorem recordSession_frame {s : State} {n : Nat} (hF : Frame W base s) (hW : [.mem] ⊆ W) : Frame W base (recordSession s n) := by
  unfold recordSession
  repeat' with_reducible first
    | assumption
    | exact List.Subset.trans (by decide) hW
    | apply State.wipe_frame
    | apply State.wrN_frame

theorem grantClaim_frame {s : State} {port version : Nat} {warm : Bool} (hF : Frame W base s) (hW : [.mem, .regs, .link, .aon] ⊆ W) : Frame W base (grantClaim s port version warm) := by
  unfold grantClaim
  repeat' with_reducible first
    | apply frame_ite
    | assumption
    | exact List.Subset.trans (by decide) hW
    | apply recordSession_frame
    | apply State.bump_frame
    | exact Or.inr (in_frame hW (by decide))
    | exact Or.inl rfl
    | split
    | extract_lets
    | refine Frame.set_link ?_ (in_frame hW (by decide))
    | refine Frame.set_aon ?_ (in_frame hW (by decide))
    | apply frame_mk

theorem finishReset_frame {s : State} (hF : Frame W base s) (hW : [.mem, .regs, .units, .plans, .link, .aon, .settings] ⊆ W) : Frame W base (finishReset s) := by
  unfold finishReset
  repeat' with_reducible first
    | apply frame_ite
    | assumption
    | exact List.Subset.trans (by decide) hW
    | apply applyPart_frame
    | apply State.setBoth_frame
    | apply grantClaim_frame
    | apply frame_foldl
    | intro _ _ _
    | split
    | extract_lets

theorem sirTx_frame {s : State} {n : Nat} {frame : Bytes} (hF : Frame W base s) (hW : [.out, .regs, .net] ⊆ W) : Frame W base (sirTx s n frame) := by
  unfold sirTx
  repeat' with_reducible first
    | assumption
    | exact List.Subset.trans (by decide) hW
    | apply State.setSir_frame
    | apply State.emit_frame
    | apply State.bump_frame

theorem sirControl_frame {s : State} {n typ seq : Nat} {msg : Bytes} (hF : Frame W base s) (hW : [.out, .regs, .net] ⊆ W) : Frame W base (sirControl s n typ seq msg) := by
  unfold sirControl
  repeat' with_reducible first
    | assumption
    | exact List.Subset.trans (by decide) hW
    | apply sirTx_frame
    | apply State.setSir_frame

theorem sirSendNow_frame {s : State} {n cls : Nat} {msg : Bytes} (hF : Frame W base s) (hW : [.out, .regs, .net] ⊆ W) : Frame W base (sirSendNow s n cls msg) := by
  unfold sirSendNow
  repeat' with_reducible first
    | apply frame_ite
    | assumption
    | exact List.Subset.trans (by decide) hW
    | apply sirTx_frame
    | apply State.setSir_frame
    | split
    | extract_lets

theorem sirSend_frame {s : State} {n cls : Nat} {msg : Bytes} {src : Option Nat} (hF : Frame W base s) (hW : [.out, .regs, .net] ⊆ W) : Frame W base (sirSend s n cls msg src) := by
  unfold sirSend
  repeat' with_reducible first
    | apply frame_ite
    | assumption
    | exact List.Subset.trans (by decide) hW
    | apply sirSendNow_frame
    | apply State.sirOwe_frame
    | apply State.setSir_frame
    | split
    | extract_lets

theorem sirDrain_frame {l : List (Nat × Bytes × Option Nat)} {n : Nat} {s : State} (hF : Frame W base s) (hW : [.out, .regs, .net] ⊆ W) :
    Frame W base (sirDrain n l s) := by
  induction l generalizing s with
  | nil => exact hF
  | cons w r ih => exact ih (sirSend_frame hF hW)

theorem sirFlush_frame {s : State} {n : Nat} (hF : Frame W base s) (hW : [.out, .regs, .net] ⊆ W) : Frame W base (sirFlush s n) := by
  unfold sirFlush
  repeat' with_reducible first
    | assumption
    | exact List.Subset.trans (by decide) hW
    | apply sirDrain_frame
    | apply State.setSir_frame

theorem sirPass_frame {s : State} {cls dst : Nat} {msg : Bytes} {src : Option Nat} (hF : Frame W base s) (hW : [.out, .fresh, .regs, .log, .net] ⊆ W) : Frame W base (sirPass s cls dst msg src) := by
  unfold sirPass
  repeat' with_reducible first
    | assumption
    | exact List.Subset.trans (by decide) hW
    | apply sirSend_frame
    | apply State.bump_frame
    | apply State.logLimited_frame
    | apply State.sirOwe_frame
    | split
    | extract_lets

theorem sirForward_frame {s : State} {cls dst : Nat} {msg : Bytes} (hF : Frame W base s) (hW : [.out, .fresh, .regs, .log, .net] ⊆ W) : Frame W base (sirForward s cls dst msg) := by
  unfold sirForward
  repeat' with_reducible first
    | assumption
    | exact List.Subset.trans (by decide) hW
    | apply sirPass_frame

theorem sirWake_frame {s : State} {tag : Nat} (hF : Frame W base s) (hW : [.plans] ⊆ W) : Frame W base (sirWake s tag) := by
  unfold sirWake
  repeat' with_reducible first
    | assumption
    | exact List.Subset.trans (by decide) hW
    | apply State.setQueue_frame
    | apply frame_foldl
    | intro _ _ _
    | split
    | extract_lets

theorem sysWake_frame {s : State} {sys : Nat} (hF : Frame W base s) (hW : [.out, .fresh, .regs, .plans, .log, .net] ⊆ W) : Frame W base (sysWake s sys) := by
  unfold sysWake
  repeat' with_reducible first
    | apply frame_ite
    | assumption
    | exact List.Subset.trans (by decide) hW
    | apply State.setStally_frame
    | apply sirWake_frame
    | apply sirForward_frame
    | apply State.bump_frame
    | apply frame_foldl
    | intro _ _ _
    | split
    | extract_lets

theorem sysAdd_frame {s : State} {sys step n : Nat} (hF : Frame W base s) (hW : [.out, .fresh, .regs, .plans, .log, .net] ⊆ W) : Frame W base (sysAdd s sys step n) := by
  unfold sysAdd
  repeat' with_reducible first
    | apply frame_ite
    | assumption
    | exact List.Subset.trans (by decide) hW
    | apply State.bump_frame
    | apply sysWake_frame
    | apply State.setStally_frame
    | split
    | extract_lets

theorem sysWait_frame {s : State} {sys step v src part tag : Nat} (hF : Frame W base s) (hW : [.out, .fresh, .regs, .plans, .log, .net] ⊆ W) : Frame W base (sysWait s sys step v src part tag) := by
  unfold sysWait
  repeat' with_reducible first
    | assumption
    | exact List.Subset.trans (by decide) hW
    | apply State.bump_frame
    | apply sysWake_frame
    | apply State.setStally_frame
    | split
    | extract_lets

theorem takeWrite_frame {s : State} {src p a : Nat} {data : Bytes} (hF : Frame W base s) (hW : [.fresh, .mem, .regs, .plans, .press, .log] ⊆ W) : Frame W base (takeWrite s src p a data).1 := by
  unfold takeWrite
  dsimp only
  repeat' with_reducible first
    | apply frame_ite
    | assumption
    | exact List.Subset.trans (by decide) hW
    | apply partStore_frame
    | apply touchRange_frame
    | apply State.logEntry_frame
    | split
    | extract_lets
theorem takeWrite_frame' {s z : State} {src p a : Nat} {data : Bytes} {out_} (eq : takeWrite s src p a data = (z, out_)) (hF : Frame W base s) (hW : [.fresh, .mem, .regs, .plans, .press, .log] ⊆ W) : Frame W base z := by
  have := takeWrite_frame (src := src) (p := p) (a := a) (data := data) hF hW
  rw [eq] at this
  exact this

theorem sendLine_frame {s : State} {p : Nat} {q : Option Nat} {e : Nat × Nat × Nat × Nat} (hF : Frame W base s) (hW : [.out, .fresh, .mem, .regs, .plans, .press, .log, .net] ⊆ W) : Frame W base (sendLine s p q e).1 := by
  unfold sendLine
  dsimp only
  repeat' with_reducible first
    | apply frame_ite
    | assumption
    | exact List.Subset.trans (by decide) hW
    | apply touchRange_frame
    | apply takeWrite_frame
    | refine takeWrite_frame' (by assumption) ?_ ?_
    | apply sirForward_frame
    | exact Or.inr (in_frame hW (by decide))
    | exact Or.inl rfl
    | split
    | extract_lets
    | refine Frame.set_net ?_ (in_frame hW (by decide))
    | apply frame_mk
theorem sendLine_frame' {s z : State} {p : Nat} {q : Option Nat} {e : Nat × Nat × Nat × Nat} {out_} (eq : sendLine s p q e = (z, out_)) (hF : Frame W base s) (hW : [.out, .fresh, .mem, .regs, .plans, .press, .log, .net] ⊆ W) : Frame W base z := by
  have := sendLine_frame (p := p) (q := q) (e := e) hF hW
  rw [eq] at this
  exact this

theorem sendWritten_frame {s : State} {p : Nat} {q : Option Nat} {vas : List Nat} (hF : Frame W base s) (hW : [.out, .fresh, .mem, .regs, .plans, .press, .log, .net] ⊆ W) : Frame W base (sendWritten s p q vas).1 := by
  unfold sendWritten
  dsimp only
  repeat' with_reducible first
    | assumption
    | exact List.Subset.trans (by decide) hW
    | apply sendLine_frame
    | refine sendLine_frame' (by assumption) ?_ ?_
    | apply frame_foldl
    | apply frame_foldl_fst
    | intro _ _ _
    | split
    | extract_lets
theorem sendWritten_frame' {s z : State} {p : Nat} {q : Option Nat} {vas : List Nat} {out_} (eq : sendWritten s p q vas = (z, out_)) (hF : Frame W base s) (hW : [.out, .fresh, .mem, .regs, .plans, .press, .log, .net] ⊆ W) : Frame W base z := by
  have := sendWritten_frame (p := p) (q := q) (vas := vas) hF hW
  rw [eq] at this
  exact this

theorem tallyAdd_frame {s : State} {p t n : Nat} (hF : Frame W base s) (hW : [.out, .fresh, .regs, .plans, .log, .net] ⊆ W) :
    Frame W base (tallyAdd s p t n) := by
  have send : ∀ (k : Nat) (m : Bytes) (net : Net), Frame W base ((sirForward { s with net := net } 0 k m).bump pgStally 0x080 1) := by
    intro k m net
    refine State.bump_frame (sirForward_frame ?_ (List.Subset.trans (by decide) hW)) (List.Subset.trans (by decide) hW)
    apply frame_mk hF <;> first | exact Or.inl (by with_reducible rfl) | exact Or.inr (hW (by decide))
  unfold tallyAdd
  split
  · exact State.setTally_frame hF (List.Subset.trans (by decide) hW)
  · apply frame_ite
    · exact sysAdd_frame hF (List.Subset.trans (by decide) hW)
    · exact send _ _ _

theorem hostAdd_frame {s : State} {p t n : Nat} (hF : Frame W base s) (hW : [.out, .fresh, .regs, .plans, .log, .net] ⊆ W) : Frame W base (hostAdd s p t n) := by
  unfold hostAdd
  repeat' with_reducible first
    | apply frame_ite
    | assumption
    | exact List.Subset.trans (by decide) hW
    | apply tallyAdd_frame
    | exact Or.inr (in_frame hW (by decide))
    | exact Or.inl rfl
    | split
    | extract_lets
    | refine Frame.set_plans ?_ (in_frame hW (by decide))
    | apply frame_mk

theorem tallyAdds_frame {s : State} {p : Nat} {adds : List (Nat × Nat)} (hF : Frame W base s) (hW : [.out, .fresh, .regs, .plans, .log, .net] ⊆ W) : Frame W base (tallyAdds s p adds) := by
  unfold tallyAdds
  repeat' with_reducible first
    | assumption
    | exact List.Subset.trans (by decide) hW
    | apply tallyAdd_frame
    | apply frame_foldl
    | intro _ _ _

theorem sendWaits_frame {s : State} {q : Nat} (hF : Frame W base s) (hW : [.out, .fresh, .regs, .plans, .log, .net] ⊆ W) :
    Frame W base (sendWaits s q) := by
  unfold sendWaits
  split
  · exact hF
  · apply frame_ite hF
    apply frame_ite hF
    apply State.setQueue_frame _ (List.Subset.trans (by decide) hW)
    refine frame_foldl_fst (p := (s, [])) _ hF ?_
    intro t x ht
    extract_lets tag m _ _ s1
    have h1 : Frame W base s1 := Frame.set_net ht (in_frame hW (by decide))
    show Frame W base ((sirForward s1 0 x.2.1.home m).bump pgStally 0x090 1)
    exact State.bump_frame (sirForward_frame h1 (List.Subset.trans (by decide) hW)) (List.Subset.trans (by decide) hW)

theorem resetTallies_frame {s : State} {p : Nat} (hF : Frame W base s) (hW : [.plans] ⊆ W) : Frame W base (resetTallies s p) := by
  unfold resetTallies
  repeat' with_reducible first
    | assumption
    | exact List.Subset.trans (by decide) hW
    | apply State.setTally_frame
    | exact Or.inr (in_frame hW (by decide))
    | exact Or.inl rfl
    | apply frame_foldl
    | intro _ _ _
    | refine Frame.set_plans ?_ (in_frame hW (by decide))
    | apply frame_mk

theorem State.modStep_frame {s : State} {p : Nat} {f : StepRec → StepRec} (hF : Frame W base s) (hW : [.plans] ⊆ W) : Frame W base (State.modStep s p f) := by
  unfold State.modStep
  repeat' with_reducible first
    | assumption
    | exact List.Subset.trans (by decide) hW
    | apply State.modPart_frame

theorem judgeOvers_frame {s : State} {p hostRd : Nat} (hF : Frame W base s) (hW : [.regs, .plans] ⊆ W) : Frame W base (judgeOvers s p hostRd) := by
  unfold judgeOvers
  repeat' with_reducible first
    | apply frame_ite
    | assumption
    | exact List.Subset.trans (by decide) hW
    | apply State.bump_frame
    | apply State.unbump_frame
    | apply State.modPart_frame
    | apply frame_foldl
    | intro _ _ _
    | split
    | extract_lets

theorem publishFor_frame {s : State} {p : Nat} {d : SieveDesc} {validity : Nat} {shed integrity : Bool} {res : Option SieveResult} {q : Option Nat} (hF : Frame W base s) (hW : [.out, .fresh, .mem, .regs, .plans, .press, .log, .net] ⊆ W) : Frame W base (publishFor s p d validity shed integrity res q).1 := by
  unfold publishFor
  dsimp only
  repeat' with_reducible first
    | apply frame_ite
    | assumption
    | exact List.Subset.trans (by decide) hW
    | apply touchRange_frame
    | apply sendWritten_frame
    | refine sendWritten_frame' (by assumption) ?_ ?_
    | apply partStore_frame
    | apply State.bump_frame
    | apply State.logLimited_frame
    | apply State.modPart_frame
    | apply State.modStep_frame
    | split
    | extract_lets
theorem publishFor_frame' {s z : State} {p : Nat} {d : SieveDesc} {validity : Nat} {shed integrity : Bool} {res : Option SieveResult} {q : Option Nat} {out_} (eq : publishFor s p d validity shed integrity res q = (z, out_)) (hF : Frame W base s) (hW : [.out, .fresh, .mem, .regs, .plans, .press, .log, .net] ⊆ W) : Frame W base z := by
  have := publishFor_frame (p := p) (d := d) (validity := validity) (shed := shed) (integrity := integrity) (res := res) (q := q) hF hW
  rw [eq] at this
  exact this

theorem publish_frame {s : State} {p : Nat} {d : SieveDesc} {validity : Nat} {shed integrity : Bool} {res : Option SieveResult} (hF : Frame W base s) (hW : [.out, .fresh, .mem, .regs, .plans, .press, .log, .net] ⊆ W) : Frame W base (publish s p d validity shed integrity res) := by
  unfold publish
  repeat' with_reducible first
    | assumption
    | exact List.Subset.trans (by decide) hW
    | apply publishFor_frame
    | refine publishFor_frame' (by assumption) ?_ ?_

theorem publishMissing_frame {s : State} {p validity : Nat} (hF : Frame W base s) (hW : [.out, .fresh, .mem, .regs, .plans, .press, .log, .net] ⊆ W) : Frame W base (publishMissing s p validity) := by
  unfold publishMissing
  repeat' with_reducible first
    | apply frame_ite
    | assumption
    | exact List.Subset.trans (by decide) hW
    | apply publish_frame
    | apply frame_foldl
    | intro _ _ _
    | split
    | extract_lets

theorem dropPrefetch_frame {s : State} {p id : Nat} (hF : Frame W base s) (hW : [.plans] ⊆ W) : Frame W base (dropPrefetch s p id) := by
  unfold dropPrefetch
  repeat' with_reducible first
    | assumption
    | exact List.Subset.trans (by decide) hW
    | apply State.modPart_frame

theorem stopUnit_frame {s : State} {u : Nat} (hF : Frame W base s) (hW : [.fresh, .regs, .units] ⊆ W) : Frame W base (stopUnit s u) := by
  unfold stopUnit
  repeat' with_reducible first
    | apply frame_ite
    | assumption
    | exact List.Subset.trans (by decide) hW
    | apply account_frame
    | apply modUnit_frame
    | exact Or.inr (in_frame hW (by decide))
    | exact Or.inl rfl
    | split
    | extract_lets
    | apply frame_mk

theorem lapse_frame {s : State} {u : Nat} (hF : Frame W base s) (hW : [.fresh, .regs, .units] ⊆ W) : Frame W base (lapse s u) := by
  unfold lapse
  repeat' with_reducible first
    | apply frame_ite
    | assumption
    | exact List.Subset.trans (by decide) hW
    | apply modUnit_frame
    | apply account_frame
    | exact Or.inr (in_frame hW (by decide))
    | exact Or.inl rfl
    | split
    | extract_lets
    | apply frame_mk

theorem settleCore_frame {s : State} {u : Nat} (hF : Frame W base s) (hW : [.fresh, .regs, .units] ⊆ W) : Frame W base (settleCore s u) := by
  unfold settleCore
  repeat' with_reducible first
    | apply frame_ite
    | assumption
    | exact List.Subset.trans (by decide) hW
    | apply lapse_frame
    | apply stopUnit_frame
    | split
    | extract_lets

theorem wakeUnit_frame {s : State} {u : Nat} (hF : Frame W base s) (hW : [.fresh, .regs, .units] ⊆ W) : Frame W base (wakeUnit s u) := by
  unfold wakeUnit
  repeat' with_reducible first
    | apply frame_ite
    | assumption
    | exact List.Subset.trans (by decide) hW
    | apply lapse_frame
    | apply modUnit_frame
    | apply State.bump_frame
    | apply State.setPair_frame
    | exact Or.inr (in_frame hW (by decide))
    | exact Or.inl rfl
    | apply frame_foldl
    | intro _ _ _
    | split
    | extract_lets
    | apply frame_mk

theorem chooseFreq_frame {s : State} {i f : Nat} (hF : Frame W base s) (hW : [.fresh, .regs, .units] ⊆ W) : Frame W base (chooseFreq s i f) := by
  unfold chooseFreq
  repeat' with_reducible first
    | apply frame_ite
    | assumption
    | exact List.Subset.trans (by decide) hW
    | apply State.setPair_frame
    | apply account_frame
    | apply frame_foldl
    | intro _ _ _
    | split
    | extract_lets

theorem settleUnit_frame {s : State} {u : Nat} (hF : Frame W base s) (hW : [.fresh, .regs, .units] ⊆ W) : Frame W base (settleUnit s u) := by
  unfold settleUnit
  repeat' with_reducible first
    | apply frame_ite
    | assumption
    | exact List.Subset.trans (by decide) hW
    | apply lapse_frame
    | apply settleCore_frame
    | apply modUnit_frame
    | apply wakeUnit_frame
    | split
    | extract_lets

theorem settleUnits_frame {s : State} (hF : Frame W base s) (hW : [.fresh, .regs, .units] ⊆ W) : Frame W base (settleUnits s) := by
  unfold settleUnits
  repeat' with_reducible first
    | apply frame_ite
    | assumption
    | exact List.Subset.trans (by decide) hW
    | apply settleUnit_frame
    | apply frame_foldl
    | intro _ _ _
    | split
    | extract_lets

theorem undefUnit_frame {s : State} {u : Nat} {active1 : Bool} (hF : Frame W base s) (hW : [.fresh, .units] ⊆ W) : Frame W base (undefUnit s u active1) := by
  unfold undefUnit
  repeat' with_reducible first
    | assumption
    | exact List.Subset.trans (by decide) hW
    | apply modUnit_frame
    | apply State.tick_frame

theorem endFiller_frame {s : State} {u : Nat} (hF : Frame W base s) (hW : [.fresh, .regs, .units] ⊆ W) : Frame W base (endFiller s u) := by
  unfold endFiller
  repeat' with_reducible first
    | apply frame_ite
    | assumption
    | exact List.Subset.trans (by decide) hW
    | apply account_frame
    | apply undefUnit_frame
    | apply modUnit_frame
    | split
    | extract_lets

theorem sieveCounts_frame {s : State} {p : Nat} {res : SieveResult} (hF : Frame W base s) (hW : [.fresh, .regs, .log] ⊆ W) : Frame W base (sieveCounts s p res) := by
  unfold sieveCounts
  repeat' with_reducible first
    | apply frame_ite
    | assumption
    | exact List.Subset.trans (by decide) hW
    | apply State.bump_frame
    | apply State.logEntry_frame
    | split
    | extract_lets

theorem cutSieve_frame {s : State} {q capped dropped : Nat} (hF : Frame W base s) (hW : [.plans] ⊆ W) : Frame W base (cutSieve s q capped dropped) := by
  unfold cutSieve
  repeat' with_reducible first
    | assumption
    | exact List.Subset.trans (by decide) hW
    | exact Or.inr (in_frame hW (by decide))
    | exact Or.inl rfl
    | refine Frame.set_plans ?_ (in_frame hW (by decide))
    | apply frame_mk

theorem abortUnit_frame {s : State} {q : Nat} (hF : Frame W base s) (hW : [.out, .fresh, .mem, .regs, .units, .plans, .press, .log, .net] ⊆ W) : Frame W base (abortUnit s q) := by
  unfold abortUnit
  repeat' with_reducible first
    | apply frame_ite
    | assumption
    | exact List.Subset.trans (by decide) hW
    | apply account_frame
    | apply accountEngine_frame
    | apply State.tick_frame
    | apply touchPages_frame
    | apply sendWritten_frame
    | refine sendWritten_frame' (by assumption) ?_ ?_
    | apply partWrites_frame
    | apply State.setRun_frame
    | apply dropPrefetch_frame
    | apply undefUnit_frame
    | apply settleCore_frame
    | apply cutSieve_frame
    | apply sieveCounts_frame
    | apply State.bump_frame
    | exact Or.inr (in_frame hW (by decide))
    | exact Or.inl rfl
    | split
    | extract_lets
    | refine Frame.set_net ?_ (in_frame hW (by decide))
    | apply frame_mk

theorem abortStep_frame {s : State} {p : Nat} (hF : Frame W base s) (hW : [.out, .fresh, .mem, .regs, .units, .plans, .press, .log, .net] ⊆ W) : Frame W base (abortStep s p) := by
  unfold abortStep
  repeat' with_reducible first
    | apply frame_ite
    | assumption
    | exact List.Subset.trans (by decide) hW
    | apply abortUnit_frame
    | apply settleUnits_frame
    | apply dropPrefetch_frame
    | apply State.setQueue_frame
    | apply frame_foldl
    | intro _ _ _
    | split
    | extract_lets

theorem abortItem_frame {s : State} {q : Nat} (hF : Frame W base s) (hW : [.out, .fresh, .mem, .regs, .units, .plans, .press, .log, .net] ⊆ W) : Frame W base (abortItem s q) := by
  unfold abortItem
  repeat' with_reducible first
    | assumption
    | exact List.Subset.trans (by decide) hW
    | apply abortUnit_frame
    | apply State.modStep_frame
    | split
    | extract_lets

theorem enterSafe_frame {s : State} {p code : Nat} (hF : Frame W base s) (hW : [.fresh, .regs, .plans, .log] ⊆ W) : Frame W base (enterSafe s p code) := by
  unfold enterSafe
  repeat' with_reducible first
    | apply frame_ite
    | assumption
    | exact List.Subset.trans (by decide) hW
    | apply State.setPart_frame
    | apply State.bump_frame
    | apply State.logEntry_frame
    | split
    | extract_lets

theorem deviceSafe_frame {s : State} {cause code : Nat} (hF : Frame W base s) (hW : [.fresh, .regs, .plans, .safety, .log] ⊆ W) :
    Frame W base (deviceSafe s cause code) := by
  unfold deviceSafe
  apply frame_foldl
  · exact frame_ite (Frame.set_safety hF (in_frame hW (by decide))) hF
  · intro t x ht
    exact enterSafe_frame ht (List.Subset.trans (by decide) hW)

theorem suspend_frame {s : State} {p code : Nat} (hF : Frame W base s) (hW : [.out, .fresh, .mem, .regs, .units, .plans, .press, .log, .net] ⊆ W) : Frame W base (suspend s p code) := by
  unfold suspend
  repeat' with_reducible first
    | assumption
    | exact List.Subset.trans (by decide) hW
    | apply State.modPart_frame
    | apply abortStep_frame
    | apply State.modStep_frame
    | apply enterSafe_frame

theorem abortChunk_frame {s : State} {u : Nat} (hF : Frame W base s) (hW : [.fresh, .regs, .units, .selftest] ⊆ W) : Frame W base (abortChunk s u) := by
  unfold abortChunk
  repeat' with_reducible first
    | apply frame_ite
    | assumption
    | exact List.Subset.trans (by decide) hW
    | apply account_frame
    | apply State.unbump_frame
    | apply modUnit_frame
    | apply undefUnit_frame
    | apply State.bump_frame
    | apply State.setCore_frame
    | apply settleCore_frame
    | exact Or.inr (in_frame hW (by decide))
    | exact Or.inl rfl
    | apply frame_foldl
    | intro _ _ _
    | split
    | extract_lets
    | refine Frame.set_selftest ?_ (in_frame hW (by decide))
    | apply frame_mk

theorem takeUnit_frame {s : State} {p u code : Nat} (hF : Frame W base s) (hW : [.out, .fresh, .mem, .regs, .units, .plans, .press, .log, .net] ⊆ W) : Frame W base (takeUnit s p u code) := by
  unfold takeUnit
  repeat' with_reducible first
    | apply frame_ite
    | assumption
    | exact List.Subset.trans (by decide) hW
    | apply State.setPair_frame
    | apply State.modPart_frame
    | apply State.setPart_frame
    | apply suspend_frame
    | split
    | extract_lets

theorem bindCore_frame {s : State} {p l u : Nat} (hF : Frame W base s) (hW : [.units, .plans] ⊆ W) : Frame W base (bindCore s p l u) := by
  unfold bindCore
  repeat' with_reducible first
    | assumption
    | exact List.Subset.trans (by decide) hW
    | apply modUnit_frame
    | apply State.modPart_frame

theorem placeCore_frame {s : State} {p l u code : Nat} (hF : Frame W base s) (hW : [.out, .fresh, .mem, .regs, .units, .plans, .press, .selftest, .log, .net] ⊆ W) : Frame W base (placeCore s p l u code) := by
  unfold placeCore
  repeat' with_reducible first
    | assumption
    | exact List.Subset.trans (by decide) hW
    | apply settleUnit_frame
    | apply endFiller_frame
    | apply abortChunk_frame
    | apply bindCore_frame
    | apply takeUnit_frame

theorem moveCore_frame {s : State} {p l old code : Nat} (hF : Frame W base s) (hW : [.out, .fresh, .mem, .regs, .units, .plans, .press, .selftest, .log, .net] ⊆ W) : Frame W base (moveCore s p l old code) := by
  unfold moveCore
  repeat' with_reducible first
    | apply frame_ite
    | assumption
    | exact List.Subset.trans (by decide) hW
    | apply modUnit_frame
    | apply State.modPart_frame
    | apply suspend_frame
    | apply placeCore_frame
    | apply State.setQueue_frame
    | apply settleUnits_frame
    | apply rebuildSheets_frame
    | refine rebuildSheets_frame' (by assumption) ?_ ?_
    | split
    | extract_lets

theorem endRotation_frame {s : State} (hF : Frame W base s) (hW : [.regs, .selftest] ⊆ W) : Frame W base (endRotation s) := by
  unfold endRotation
  repeat' with_reducible first
    | apply frame_ite
    | assumption
    | exact List.Subset.trans (by decide) hW
    | apply State.bump_frame
    | exact Or.inr (in_frame hW (by decide))
    | exact Or.inl rfl
    | split
    | extract_lets
    | refine Frame.set_selftest ?_ (in_frame hW (by decide))
    | apply frame_mk

theorem powerOff_frame {s : State} {ns : List Nat} (hF : Frame W base s) (hW : [.mem, .units] ⊆ W) : Frame W base (powerOff s ns) := by
  unfold powerOff
  repeat' with_reducible first
    | assumption
    | exact List.Subset.trans (by decide) hW
    | apply State.wipe_frame
    | apply State.setCore_frame
    | exact Or.inr (in_frame hW (by decide))
    | exact Or.inl rfl
    | apply frame_foldl
    | intro _ _ _
    | apply frame_mk

theorem fenceCore_frame {s : State} {n cause : Nat} {faulty : Option Nat} (hF : Frame W base s) (hW : [.out, .fresh, .mem, .regs, .units, .plans, .press, .selftest, .aon, .log, .net] ⊆ W) : Frame W base (fenceCore s n cause faulty) := by
  unfold fenceCore
  repeat' with_reducible first
    | apply frame_ite
    | assumption
    | exact List.Subset.trans (by decide) hW
    | apply endFiller_frame
    | apply abortChunk_frame
    | apply abortItem_frame
    | apply powerOff_frame
    | apply account_frame
    | apply settleCore_frame
    | apply wakeUnit_frame
    | apply State.bump_frame
    | apply State.logEntry_frame
    | apply endRotation_frame
    | apply moveCore_frame
    | exact Or.inr (in_frame hW (by decide))
    | exact Or.inl rfl
    | split
    | extract_lets
    | refine Frame.set_aon ?_ (in_frame hW (by decide))
    | apply frame_mk

theorem placeEngine_frame {s : State} {p l e : Nat} (hF : Frame W base s) (hW : [.units, .plans] ⊆ W) : Frame W base (placeEngine s p l e) := by
  unfold placeEngine
  repeat' with_reducible first
    | assumption
    | exact List.Subset.trans (by decide) hW
    | apply State.setEngine_frame
    | apply State.modPart_frame

theorem restoreUnits_frame {s : State} {p : Nat} (hF : Frame W base s) (hW : [.out, .fresh, .mem, .regs, .units, .plans, .press, .selftest, .log, .net] ⊆ W) : Frame W base (restoreUnits s p) := by
  unfold restoreUnits
  repeat' with_reducible first
    | apply frame_ite
    | assumption
    | exact List.Subset.trans (by decide) hW
    | apply placeEngine_frame
    | apply suspend_frame
    | apply rebuildSheets_frame
    | refine rebuildSheets_frame' (by assumption) ?_ ?_
    | apply placeCore_frame
    | apply State.modPart_frame
    | apply frame_foldl
    | intro _ _ _
    | split
    | extract_lets

theorem fenceEngine_frame {s : State} {q cause : Nat} (hF : Frame W base s) (hW : [.out, .fresh, .mem, .regs, .units, .plans, .press, .selftest, .log, .net] ⊆ W) : Frame W base (fenceEngine s q cause) := by
  unfold fenceEngine
  repeat' with_reducible first
    | apply frame_ite
    | assumption
    | exact List.Subset.trans (by decide) hW
    | apply abortItem_frame
    | apply State.setEngine_frame
    | apply endRotation_frame
    | apply State.bump_frame
    | apply State.logEntry_frame
    | apply State.modPart_frame
    | apply suspend_frame
    | apply placeEngine_frame
    | apply State.setQueue_frame
    | split
    | extract_lets

theorem strike_frame {s : State} {u : UnitId} (hF : Frame W base s) (hW : [.out, .fresh, .mem, .regs, .units, .plans, .press, .selftest, .aon, .log, .net] ⊆ W) : Frame W base (strike s u) := by
  unfold strike
  repeat' with_reducible first
    | apply frame_ite
    | assumption
    | exact List.Subset.trans (by decide) hW
    | apply State.setCore_frame
    | apply State.bump_frame
    | apply fenceCore_frame
    | apply State.setEngine_frame
    | apply fenceEngine_frame
    | split
    | extract_lets

theorem oweStrike_frame {s : State} {u : UnitId} (hF : Frame W base s) (hW : [.out, .fresh, .mem, .regs, .units, .plans, .press, .safety, .selftest, .aon, .log, .net] ⊆ W) : Frame W base (oweStrike s u) := by
  unfold oweStrike
  repeat' with_reducible first
    | apply frame_ite
    | assumption
    | exact List.Subset.trans (by decide) hW
    | apply strike_frame
    | exact Or.inr (in_frame hW (by decide))
    | exact Or.inl rfl
    | split
    | extract_lets
    | refine Frame.set_safety ?_ (in_frame hW (by decide))
    | apply frame_mk

theorem payStrikes_frame {s : State} (hF : Frame W base s) (hW : [.out, .fresh, .mem, .regs, .units, .plans, .press, .safety, .selftest, .aon, .log, .net] ⊆ W) : Frame W base (payStrikes s) := by
  unfold payStrikes
  repeat' with_reducible first
    | assumption
    | exact List.Subset.trans (by decide) hW
    | apply strike_frame
    | exact Or.inr (in_frame hW (by decide))
    | exact Or.inl rfl
    | apply frame_foldl
    | intro _ _ _
    | refine Frame.set_safety ?_ (in_frame hW (by decide))
    | apply frame_mk

theorem claimStrike_frame {s : State} {p : Nat} (hF : Frame W base s) (hW : [.out, .fresh, .mem, .regs, .units, .plans, .press, .safety, .selftest, .aon, .log, .net] ⊆ W) : Frame W base (claimStrike s p) := by
  unfold claimStrike
  repeat' with_reducible first
    | assumption
    | exact List.Subset.trans (by decide) hW
    | apply oweStrike_frame
    | apply State.modStep_frame
    | split
    | extract_lets

theorem declareInvalid_frame {s : State} {p code : Nat} (hF : Frame W base s) (hW : [.out, .fresh, .mem, .regs, .units, .plans, .press, .safety, .selftest, .aon, .log, .net] ⊆ W) : Frame W base (declareInvalid s p code) := by
  unfold declareInvalid
  repeat' with_reducible first
    | apply frame_ite
    | assumption
    | exact List.Subset.trans (by decide) hW
    | apply claimStrike_frame
    | apply abortStep_frame
    | apply State.modStep_frame
    | apply State.bump_frame
    | apply State.logEntry_frame
    | apply publishMissing_frame
    | apply enterSafe_frame
    | split
    | extract_lets

theorem failStep_frame {s : State} {p code : Nat} {replayable : Bool} {u : Option UnitId} (hF : Frame W base s) (hW : [.out, .fresh, .mem, .regs, .units, .plans, .press, .safety, .selftest, .aon, .log, .net] ⊆ W) : Frame W base (failStep s p code replayable u) := by
  unfold failStep
  repeat' with_reducible first
    | apply frame_ite
    | assumption
    | exact List.Subset.trans (by decide) hW
    | apply oweStrike_frame
    | apply abortStep_frame
    | apply State.modStep_frame
    | split
    | extract_lets

theorem fenceUnit_frame {s : State} {n cause : Nat} {faulty : Option Nat} (hF : Frame W base s) (hW : [.out, .fresh, .mem, .regs, .units, .plans, .press, .safety, .selftest, .aon, .log, .net] ⊆ W) : Frame W base (fenceUnit s n cause faulty) := by
  unfold fenceUnit
  repeat' with_reducible first
    | apply frame_ite
    | assumption
    | exact List.Subset.trans (by decide) hW
    | apply fenceCore_frame
    | apply failStep_frame
    | split
    | extract_lets

theorem fenceEngineUnit_frame {s : State} {q cause : Nat} (hF : Frame W base s) (hW : [.out, .fresh, .mem, .regs, .units, .plans, .press, .safety, .selftest, .aon, .log, .net] ⊆ W) : Frame W base (fenceEngineUnit s q cause) := by
  unfold fenceEngineUnit
  repeat' with_reducible first
    | apply frame_ite
    | assumption
    | exact List.Subset.trans (by decide) hW
    | apply fenceEngine_frame
    | apply failStep_frame
    | split
    | extract_lets

theorem dueFences_frame {s : State} (hF : Frame W base s) (hW : [.out, .fresh, .mem, .regs, .units, .plans, .press, .safety, .selftest, .aon, .log, .net] ⊆ W) : Frame W base (dueFences s) := by
  unfold dueFences
  repeat' with_reducible first
    | apply frame_ite
    | assumption
    | exact List.Subset.trans (by decide) hW
    | apply fenceUnit_frame
    | exact Or.inr (in_frame hW (by decide))
    | exact Or.inl rfl
    | apply frame_foldl
    | intro _ _ _
    | split
    | extract_lets
    | refine Frame.set_safety ?_ (in_frame hW (by decide))
    | apply frame_mk

theorem crcRefuse_frame {s : State} {q : Nat} {x : QItem} (hF : Frame W base s) (hW : [.out, .fresh, .mem, .regs, .units, .plans, .press, .safety, .selftest, .aon, .log, .net] ⊆ W) : Frame W base (crcRefuse s q x) := by
  unfold crcRefuse
  repeat' with_reducible first
    | assumption
    | exact List.Subset.trans (by decide) hW
    | apply State.setQueue_frame
    | apply State.modStep_frame
    | apply dropPrefetch_frame
    | apply settleUnits_frame
    | apply failStep_frame
    | apply State.bump_frame
    | apply State.logEntry_frame

theorem failItem_frame {s : State} {q code : Nat} {replayable : Bool} {u : Option UnitId} (hF : Frame W base s) (hW : [.out, .fresh, .mem, .regs, .units, .plans, .press, .safety, .selftest, .aon, .log, .net] ⊆ W) : Frame W base (failItem s q code replayable u) := by
  unfold failItem
  repeat' with_reducible first
    | assumption
    | exact List.Subset.trans (by decide) hW
    | apply failStep_frame
    | apply abortItem_frame
    | split
    | extract_lets

theorem State.setSlot_frame {s : State} {ch k : Nat} {v : Option Slot} (hF : Frame W base s) (hW : [.vat] ⊆ W) : Frame W base (State.setSlot s ch k v) := by
  unfold State.setSlot
  repeat' with_reducible first
    | assumption
    | exact List.Subset.trans (by decide) hW
    | apply State.setChan_frame

theorem outcome_frame {s : State} {ch status : Nat} {capture : Option Int} {devFrame : Nat} {ends : Bool} (hF : Frame W base s) (hW : [.fresh, .regs, .vat, .log] ⊆ W) : Frame W base (outcome s ch status capture devFrame ends) := by
  unfold outcome
  repeat' with_reducible first
    | apply frame_ite
    | assumption
    | exact List.Subset.trans (by decide) hW
    | apply State.setChan_frame
    | apply State.bump_frame
    | apply State.logLimited_frame
    | split
    | extract_lets

theorem dropSlot_frame {s : State} {ch k status : Nat} (hF : Frame W base s) (hW : [.fresh, .regs, .vat, .log] ⊆ W) : Frame W base (dropSlot s ch k status) := by
  unfold dropSlot
  repeat' with_reducible first
    | assumption
    | exact List.Subset.trans (by decide) hW
    | apply outcome_frame
    | apply State.setSlot_frame
    | split
    | extract_lets

theorem noteShaped_frame {s : State} {ch dev : Nat} (hF : Frame W base s) (hW : [.vat] ⊆ W) : Frame W base (noteShaped s ch dev) := by
  unfold noteShaped
  repeat' with_reducible first
    | apply frame_ite
    | assumption
    | exact List.Subset.trans (by decide) hW
    | apply State.setChan_frame
    | split
    | extract_lets

theorem reviveSlot_frame {s : State} {ch k : Nat} (hF : Frame W base s) (hW : [.regs, .vat, .log] ⊆ W) : Frame W base (reviveSlot s ch k) := by
  unfold reviveSlot
  repeat' with_reducible first
    | apply frame_ite
    | assumption
    | exact List.Subset.trans (by decide) hW
    | apply State.setSlot_frame
    | apply State.setChan_frame
    | apply State.unbump_frame
    | exact Or.inr (in_frame hW (by decide))
    | exact Or.inl rfl
    | exact Or.inr ⟨in_frame hW (by decide), le_refl _⟩
    | split
    | extract_lets
    | refine Frame.set_vat ?_ (in_frame hW (by decide))
    | apply frame_mk

theorem integrityReport_frame {s : State} {ch : Nat} (hF : Frame W base s) (hW : [.out, .fresh, .mem, .regs, .units, .plans, .vat, .press, .safety, .selftest, .aon, .log, .net] ⊆ W) : Frame W base (integrityReport s ch) := by
  unfold integrityReport
  repeat' with_reducible first
    | apply frame_ite
    | assumption
    | exact List.Subset.trans (by decide) hW
    | apply State.setChan_frame
    | apply declareInvalid_frame
    | apply enterSafe_frame
    | split
    | extract_lets

theorem integritySlot_frame {s : State} {ch k : Nat} (hF : Frame W base s) (hW : [.out, .fresh, .mem, .regs, .units, .plans, .vat, .press, .safety, .selftest, .aon, .log, .net] ⊆ W) : Frame W base (integritySlot s ch k) := by
  unfold integritySlot
  repeat' with_reducible first
    | assumption
    | exact List.Subset.trans (by decide) hW
    | apply integrityReport_frame
    | apply dropSlot_frame

theorem writeCell_frame {s : State} {p va : Nat} {c : SampleCell} (hF : Frame W base s) (hW : [.mem, .plans] ⊆ W) : Frame W base (writeCell s p va c) := by
  unfold writeCell
  repeat' with_reducible first
    | apply frame_ite
    | assumption
    | exact List.Subset.trans (by decide) hW
    | apply partWrite_frame
    | split
    | extract_lets

theorem zeroPages_frame {fuel : Nat} {s : State} {p va n : Nat} (hF : Frame W base s) (hW : [.mem, .plans] ⊆ W) :
    Frame W base (zeroPages fuel s p va n) := by
  induction fuel generalizing s va n with
  | zero => exact hF
  | succ k ih =>
    unfold zeroPages
    dsimp only
    split
    · exact hF
    · apply ih
      split
      · refine State.setPte_frame ?_ (List.Subset.trans (by decide) hW)
        exact frame_foldl _ hF (fun t x ht => State.wipe_frame ht (List.Subset.trans (by decide) hW))
      · exact hF

theorem setBuffer_frame {s : State} {p i pos : Nat} {w : Option Watermark} (hF : Frame W base s) (hW : [.plans] ⊆ W) : Frame W base (setBuffer s p i pos w) := by
  unfold setBuffer
  repeat' with_reducible first
    | assumption
    | exact List.Subset.trans (by decide) hW
    | apply State.modPart_frame
    | split
    | extract_lets

theorem copySample_frame {s : State} {p i pos : Nat} {r : InputRec} {z : Slot} (hF : Frame W base s) (hW : [.fresh, .mem, .regs, .plans, .press] ⊆ W) : Frame W base (copySample s p i pos r z) := by
  unfold copySample
  repeat' with_reducible first
    | assumption
    | exact List.Subset.trans (by decide) hW
    | apply touchRange_frame
    | apply writeCell_frame
    | apply setBuffer_frame
    | apply frame_foldl
    | intro _ _ _
    | split
    | extract_lets

theorem startHandover_frame {s : State} {p i pos ch k : Nat} (hF : Frame W base s) (hW : [.plans] ⊆ W) : Frame W base (startHandover s p i pos ch k) := by
  unfold startHandover
  repeat' with_reducible first
    | apply frame_ite
    | assumption
    | exact List.Subset.trans (by decide) hW
    | apply State.setPart_frame
    | split
    | extract_lets

theorem handover_frame {s : State} {ch k : Nat} (hF : Frame W base s) (hW : [.plans] ⊆ W) : Frame W base (handover s ch k) := by
  unfold handover
  repeat' with_reducible first
    | assumption
    | exact List.Subset.trans (by decide) hW
    | apply startHandover_frame
    | split
    | extract_lets

theorem refreshBuffers_frame {s : State} {p : Nat} {sets : List FrameSet} (hF : Frame W base s) (hW : [.plans] ⊆ W) : Frame W base (refreshBuffers s p sets) := by
  unfold refreshBuffers
  repeat' with_reducible first
    | assumption
    | exact List.Subset.trans (by decide) hW
    | apply startHandover_frame
    | apply frame_foldl
    | intro _ _ _
    | split
    | extract_lets

theorem releaseSlots_frame {s : State} {p n : Nat} (hF : Frame W base s) (hW : [.vat] ⊆ W) : Frame W base (releaseSlots s p n) := by
  unfold releaseSlots
  repeat' with_reducible first
    | apply frame_ite
    | assumption
    | exact List.Subset.trans (by decide) hW
    | apply State.setChan_frame
    | apply frame_foldl
    | intro _ _ _
    | split
    | extract_lets

theorem fillRecord_frame {s : State} {p i : Nat} {r : InputRec} {es : List FrameEntry} (hF : Frame W base s) (hW : [.out, .fresh, .mem, .regs, .units, .plans, .vat, .press, .safety, .selftest, .aon, .log, .net] ⊆ W) : Frame W base (fillRecord s p i r es).1 := by
  unfold fillRecord
  dsimp only
  repeat' with_reducible first
    | apply frame_ite
    | assumption
    | exact List.Subset.trans (by decide) hW
    | apply integritySlot_frame
    | apply copySample_frame
    | apply frame_foldl
    | apply frame_foldl_fst
    | intro _ _ _
    | split
    | extract_lets
theorem fillRecord_frame' {s z : State} {p i : Nat} {r : InputRec} {es : List FrameEntry} {out_} (eq : fillRecord s p i r es = (z, out_)) (hF : Frame W base s) (hW : [.out, .fresh, .mem, .regs, .units, .plans, .vat, .press, .safety, .selftest, .aon, .log, .net] ⊆ W) : Frame W base z := by
  have := fillRecord_frame (p := p) (i := i) (r := r) (es := es) hF hW
  rw [eq] at this
  exact this

theorem headRecord_frame {s : State} {p i step gm : Nat} {r : InputRec} {es : List FrameEntry} (hF : Frame W base s) (hW : [.out, .fresh, .mem, .regs, .plans, .press, .log, .net] ⊆ W) : Frame W base (headRecord s p i step gm r es) := by
  unfold headRecord
  repeat' with_reducible first
    | apply frame_ite
    | assumption
    | exact List.Subset.trans (by decide) hW
    | apply setBuffer_frame
    | apply zeroPages_frame
    | apply partStore_frame
    | apply touchRange_frame
    | apply tallyAdd_frame
    | apply frame_foldl
    | intro _ _ _
    | split
    | extract_lets

theorem noteMember_frame {s : State} {p n : Nat} {e : FrameEntry} (hF : Frame W base s) (hW : [.fresh, .regs, .vat, .log] ⊆ W) : Frame W base (noteMember s p n e) := by
  unfold noteMember
  repeat' with_reducible first
    | apply frame_ite
    | assumption
    | exact List.Subset.trans (by decide) hW
    | apply State.setSlot_frame
    | apply State.setChan_frame
    | apply State.bump_frame
    | apply State.logEntry_frame
    | split
    | extract_lets

theorem assembleGroup_frame {s : State} {p group : Nat} {timeouts : List Nat} (hF : Frame W base s) (hW : [.out, .fresh, .mem, .regs, .units, .plans, .vat, .press, .safety, .selftest, .aon, .log, .net] ⊆ W) : Frame W base (assembleGroup s p group timeouts) := by
  unfold assembleGroup
  repeat' with_reducible first
    | assumption
    | exact List.Subset.trans (by decide) hW
    | apply State.tick_frame
    | apply fillRecord_frame
    | refine fillRecord_frame' (by assumption) ?_ ?_
    | apply noteMember_frame
    | apply headRecord_frame
    | apply State.modStep_frame
    | apply State.modPart_frame
    | apply frame_foldl
    | apply frame_foldl_fst
    | intro _ _ _
    | split
    | extract_lets

theorem touchNewest_frame {s : State} {p output op : Nat} (hF : Frame W base s) (hW : [.fresh, .regs, .plans, .press] ⊆ W) : Frame W base (touchNewest s p output op) := by
  unfold touchNewest
  repeat' with_reducible first
    | assumption
    | exact List.Subset.trans (by decide) hW
    | apply touchRange_frame
    | apply frame_foldl
    | intro _ _ _
    | split
    | extract_lets

theorem releasePicture_frame {s : State} {n : Nat} (hF : Frame W base s) (hW : [.vat] ⊆ W) : Frame W base (releasePicture s n) := by
  unfold releasePicture
  repeat' with_reducible first
    | assumption
    | exact List.Subset.trans (by decide) hW
    | apply State.setSlot_frame
    | apply State.setDisp_frame
    | apply frame_foldl
    | intro _ _ _
    | split
    | extract_lets

theorem composeStream_frame {s : State} {tick n : Nat} (hF : Frame W base s) (hW : [.fresh, .regs, .plans, .vat, .press] ⊆ W) : Frame W base (composeStream s tick n) := by
  unfold composeStream
  repeat' with_reducible first
    | apply frame_ite
    | assumption
    | exact List.Subset.trans (by decide) hW
    | apply State.bump_frame
    | apply sysAccess_frame
    | apply touchNewest_frame
    | apply State.setSlot_frame
    | apply State.setDisp_frame
    | apply releasePicture_frame
    | apply frame_foldl
    | intro _ _ _
    | split
    | extract_lets

theorem displayTick_frame {s : State} {p : Nat} (hF : Frame W base s) (hW : [.fresh, .clk, .mem, .regs, .units, .plans, .vat, .press, .net, .settings, .commits] ⊆ W) : Frame W base (displayTick s p) := by
  unfold displayTick
  repeat' with_reducible first
    | apply frame_ite
    | assumption
    | exact List.Subset.trans (by decide) hW
    | apply settleTimed_frame
    | apply State.tick_frame
    | apply composeStream_frame
    | apply frame_foldl
    | intro _ _ _
    | split
    | extract_lets

theorem displaySent_frame {s : State} {n : Nat} (hF : Frame W base s) (hW : [.out, .regs, .vat] ⊆ W) : Frame W base (displaySent s n) := by
  unfold displaySent
  repeat' with_reducible first
    | apply frame_ite
    | assumption
    | exact List.Subset.trans (by decide) hW
    | apply releasePicture_frame
    | apply State.emit_frame
    | apply State.bump_frame
    | apply State.setDisp_frame
    | apply frame_foldl
    | intro _ _ _
    | split
    | extract_lets

theorem displayFault_frame {s : State} {n : Nat} (hF : Frame W base s) (hW : [.fresh, .regs, .vat, .log] ⊆ W) : Frame W base (displayFault s n) := by
  unfold displayFault
  repeat' with_reducible first
    | apply frame_ite
    | assumption
    | exact List.Subset.trans (by decide) hW
    | apply releasePicture_frame
    | apply State.bump_frame
    | apply State.logEntry_frame
    | split
    | extract_lets

theorem refuseOpen_frame {s : State} {p : Nat} (hF : Frame W base s) (hW : [.fresh, .regs, .log] ⊆ W) : Frame W base (refuseOpen s p) := by
  unfold refuseOpen
  repeat' with_reducible first
    | assumption
    | exact List.Subset.trans (by decide) hW
    | apply State.bump_frame
    | apply State.logLimited_frame

theorem openSeq_frame {s : State} {p : Nat} {o : PendingOpen} {first : Nat} (hF : Frame W base s) (hW : [.fresh, .mem, .regs, .plans, .press, .log] ⊆ W) : Frame W base (openSeq s p o first).1 := by
  unfold openSeq
  dsimp only
  repeat' with_reducible first
    | assumption
    | exact List.Subset.trans (by decide) hW
    | apply refuseOpen_frame
    | refine allocSequence_frame (by assumption) ?_ ?_
    | apply State.setInstar_frame
    | apply State.modPart_frame
    | apply State.bump_frame
    | split
    | extract_lets
theorem openSeq_frame' {s z : State} {p : Nat} {o : PendingOpen} {first : Nat} {out_} (eq : openSeq s p o first = (z, out_)) (hF : Frame W base s) (hW : [.fresh, .mem, .regs, .plans, .press, .log] ⊆ W) : Frame W base z := by
  have := openSeq_frame (p := p) (o := o) (first := first) hF hW
  rw [eq] at this
  exact this

theorem hostOpen_frame {s : State} {p : Nat} {o : PendingOpen} {first : Nat} (hF : Frame W base s) (hW : [.fresh, .mem, .regs, .plans, .press, .log] ⊆ W) : Frame W base (hostOpen s p o first) := by
  unfold hostOpen
  repeat' with_reducible first
    | apply frame_ite
    | assumption
    | exact List.Subset.trans (by decide) hW
    | apply openSeq_frame
    | refine openSeq_frame' (by assumption) ?_ ?_
    | apply State.modPart_frame
    | apply State.pageErr_frame
    | split
    | extract_lets

theorem retireSeq_frame {s : State} {p i : Nat} (hF : Frame W base s) (hW : [.regs, .plans] ⊆ W) : Frame W base (retireSeq s p i) := by
  unfold retireSeq
  repeat' with_reducible first
    | assumption
    | exact List.Subset.trans (by decide) hW
    | apply freeSequence_frame
    | apply State.setInstar_frame
    | apply State.bump_frame

theorem retireDue_frame {s : State} {p m : Nat} (hF : Frame W base s) (hW : [.regs, .plans] ⊆ W) : Frame W base (retireDue s p m) := by
  unfold retireDue
  repeat' with_reducible first
    | apply frame_ite
    | assumption
    | exact List.Subset.trans (by decide) hW
    | apply retireSeq_frame
    | apply frame_foldl
    | intro _ _ _
    | split
    | extract_lets

theorem opensDue_frame {s : State} {p m : Nat} (hF : Frame W base s) (hW : [.fresh, .mem, .regs, .plans, .press, .log] ⊆ W) : Frame W base (opensDue s p m) := by
  unfold opensDue
  repeat' with_reducible first
    | assumption
    | exact List.Subset.trans (by decide) hW
    | apply State.modPart_frame
    | apply hostOpen_frame
    | apply frame_foldl
    | intro _ _ _

theorem readRequest_frame {s : State} {p m ci : Nat} {c : SClass} {e : Bytes} {opens : List PendingOpen} (hF : Frame W base s) (hW : [.regs, .plans] ⊆ W) : Frame W base (readRequest s p m ci c e opens).1 := by
  unfold readRequest
  dsimp only
  repeat' with_reducible first
    | apply frame_ite
    | assumption
    | exact List.Subset.trans (by decide) hW
    | apply State.bump_frame
    | apply State.setInstar_frame
    | split
    | extract_lets
theorem readRequest_frame' {s z : State} {p m ci : Nat} {c : SClass} {e : Bytes} {opens : List PendingOpen} {out_} (eq : readRequest s p m ci c e opens = (z, out_)) (hF : Frame W base s) (hW : [.regs, .plans] ⊆ W) : Frame W base z := by
  have := readRequest_frame (p := p) (m := m) (ci := ci) (c := c) (e := e) (opens := opens) hF hW
  rw [eq] at this
  exact this

theorem readRequests_frame {s : State} {p m : Nat} (hF : Frame W base s) (hW : [.fresh, .mem, .regs, .plans, .press] ⊆ W) : Frame W base (readRequests s p m).1 := by
  unfold readRequests
  dsimp only
  repeat' with_reducible first
    | apply frame_ite
    | assumption
    | exact List.Subset.trans (by decide) hW
    | apply touchRange_frame
    | apply readRequest_frame
    | refine readRequest_frame' (by assumption) ?_ ?_
    | apply partStore_frame
    | apply frame_foldl
    | apply frame_foldl_fst
    | intro _ _ _
    | split
    | extract_lets
theorem readRequests_frame' {s z : State} {p m : Nat} {out_} (eq : readRequests s p m = (z, out_)) (hF : Frame W base s) (hW : [.fresh, .mem, .regs, .plans, .press] ⊆ W) : Frame W base z := by
  have := readRequests_frame (p := p) (m := m) hF hW
  rw [eq] at this
  exact this

theorem flipSeq_frame {s : State} {i : Nat} (hF : Frame W base s) (hW : [.plans] ⊆ W) : Frame W base (flipSeq s i) := by
  unfold flipSeq
  repeat' with_reducible first
    | apply frame_ite
    | assumption
    | exact List.Subset.trans (by decide) hW
    | apply State.setInstar_frame
    | split
    | extract_lets

theorem unloadPart_frame {s : State} {p : Nat} (hF : Frame W base s) (hW : [.out, .fresh, .mem, .regs, .units, .plans, .vat, .press, .log, .net] ⊆ W) : Frame W base (unloadPart s p) := by
  unfold unloadPart
  repeat' with_reducible first
    | apply frame_ite
    | assumption
    | exact List.Subset.trans (by decide) hW
    | apply abortStep_frame
    | apply releaseSlots_frame
    | apply modUnit_frame
    | apply State.setInstar_frame
    | apply State.setChan_frame
    | apply State.modPart_frame
    | apply frame_foldl
    | intro _ _ _
    | split
    | extract_lets

theorem stepClear_frame {s : State} {p : Nat} (hF : Frame W base s) (hW : [.fresh, .regs, .units, .plans, .press] ⊆ W) : Frame W base (stepClear s p) := by
  unfold stepClear
  repeat' with_reducible first
    | apply frame_ite
    | assumption
    | exact List.Subset.trans (by decide) hW
    | apply accountPage_frame
    | apply State.clearCounters_frame
    | apply State.modPart_frame
    | apply frame_foldl
    | intro _ _ _
    | split
    | extract_lets

theorem endSafe_frame {s : State} {p : Nat} (hF : Frame W base s) (hW : [.fresh, .regs, .plans, .log] ⊆ W) : Frame W base (endSafe s p) := by
  unfold endSafe
  repeat' with_reducible first
    | apply frame_ite
    | assumption
    | exact List.Subset.trans (by decide) hW
    | apply State.setPart_frame
    | apply State.logEntry_frame
    | split
    | extract_lets

theorem withdrawOverdue_frame {s : State} {p : Nat} (hF : Frame W base s) (hW : [.out, .fresh, .mem, .regs, .units, .plans, .press, .selftest, .log, .net] ⊆ W) : Frame W base (withdrawOverdue s p) := by
  unfold withdrawOverdue
  repeat' with_reducible first
    | apply frame_ite
    | assumption
    | exact List.Subset.trans (by decide) hW
    | apply moveCore_frame
    | apply frame_foldl
    | intro _ _ _
    | split
    | extract_lets

theorem stopAtEnd_frame {s : State} {p : Nat} (hF : Frame W base s) (hW : [.out, .fresh, .mem, .regs, .units, .plans, .vat, .press, .link, .aon, .log, .net, .settings] ⊆ W) : Frame W base (stopAtEnd s p) := by
  unfold stopAtEnd
  repeat' with_reducible first
    | apply frame_ite
    | assumption
    | exact List.Subset.trans (by decide) hW
    | apply State.modPart_frame
    | apply retireSeq_frame
    | apply hostOpen_frame
    | apply finishReset_frame
    | apply unloadPart_frame
    | apply frame_foldl
    | intro _ _ _
    | split
    | extract_lets

theorem stepBoundary_frame {s : State} {p : Nat} {st : StepRec} {complete : Bool} (hF : Frame W base s) (hW : [.out, .fresh, .clk, .mem, .regs, .units, .plans, .vat, .press, .link, .safety, .selftest, .aon, .log, .net, .settings, .commits] ⊆ W) : Frame W base (stepBoundary s p st complete) := by
  unfold stepBoundary
  repeat' with_reducible first
    | apply frame_ite
    | assumption
    | exact List.Subset.trans (by decide) hW
    | apply flipSeq_frame
    | apply readRequests_frame
    | refine readRequests_frame' (by assumption) ?_ ?_
    | apply retireDue_frame
    | apply openSeq_frame
    | refine openSeq_frame' (by assumption) ?_ ?_
    | apply opensDue_frame
    | apply releaseHold_frame
    | apply releaseSlots_frame
    | apply State.modPart_frame
    | apply refreshBuffers_frame
    | apply resetTallies_frame
    | apply dueFences_frame
    | apply boundaryCommits_frame
    | apply stepClear_frame
    | apply stopAtEnd_frame
    | apply withdrawOverdue_frame
    | apply endSafe_frame
    | apply frame_foldl
    | intro _ _ _
    | split
    | extract_lets

theorem endStep_frame {s : State} {p outcome : Nat} {missed : Bool} (hF : Frame W base s) (hW : [.out, .fresh, .clk, .mem, .regs, .units, .plans, .vat, .press, .link, .safety, .selftest, .aon, .log, .net, .settings, .commits] ⊆ W) : Frame W base (endStep s p outcome missed) := by
  unfold endStep
  repeat' with_reducible first
    | apply frame_ite
    | assumption
    | exact List.Subset.trans (by decide) hW
    | apply outcome_frame
    | apply State.bump_frame
    | apply State.logEntry_frame
    | apply State.tick_frame
    | apply State.modPart_frame
    | apply stepBoundary_frame
    | split
    | extract_lets

theorem checkEnd_frame {s : State} {p : Nat} (hF : Frame W base s) (hW : [.out, .fresh, .clk, .mem, .regs, .units, .plans, .vat, .press, .link, .safety, .selftest, .aon, .log, .net, .settings, .commits] ⊆ W) : Frame W base (checkEnd s p) := by
  unfold checkEnd
  repeat' with_reducible first
    | apply frame_ite
    | assumption
    | exact List.Subset.trans (by decide) hW
    | apply endStep_frame
    | split
    | extract_lets

theorem enqueue_frame {s : State} {p q : Nat} {proof : Bool} {it : WorkItem} (hF : Frame W base s) (hW : [.fresh, .regs, .units, .plans, .selftest] ⊆ W) : Frame W base (enqueue s p q proof it) := by
  unfold enqueue
  repeat' with_reducible first
    | apply frame_ite
    | assumption
    | exact List.Subset.trans (by decide) hW
    | apply endFiller_frame
    | apply abortChunk_frame
    | apply State.setQueue_frame
    | apply settleUnit_frame
    | exact Or.inr (in_frame hW (by decide))
    | exact Or.inl rfl
    | split
    | extract_lets
    | refine Frame.set_plans ?_ (in_frame hW (by decide))
    | apply frame_mk

theorem emitItem_frame {s : State} {p : Nat} {it : WorkItem} (hF : Frame W base s) (hW : [.fresh, .regs, .units, .plans, .press, .selftest] ⊆ W) : Frame W base (emitItem s p it) := by
  unfold emitItem
  repeat' with_reducible first
    | assumption
    | exact List.Subset.trans (by decide) hW
    | apply touchRange_frame
    | apply enqueue_frame
    | apply State.modPart_frame
    | split
    | extract_lets

theorem shedItems_frame {s : State} {p : Nat} {items : List WorkItem} (hF : Frame W base s) (hW : [.out, .fresh, .mem, .regs, .plans, .press, .log, .net] ⊆ W) : Frame W base (shedItems s p items) := by
  unfold shedItems
  repeat' with_reducible first
    | apply frame_ite
    | assumption
    | exact List.Subset.trans (by decide) hW
    | apply tallyAdds_frame
    | apply publish_frame
    | apply State.modStep_frame
    | apply frame_foldl
    | intro _ _ _
    | split
    | extract_lets

theorem unusedAdds_frame {s : State} {p : Nat} (hF : Frame W base s) (hW : [.out, .fresh, .regs, .plans, .log, .net] ⊆ W) : Frame W base (unusedAdds s p) := by
  unfold unusedAdds
  repeat' with_reducible first
    | assumption
    | exact List.Subset.trans (by decide) hW
    | apply tallyAdds_frame
    | apply frame_foldl
    | intro _ _ _
    | split
    | extract_lets

theorem emitStep_frame {s : State} {p : Nat} (hF : Frame W base s)
    (hW : [.out, .fresh, .clk, .mem, .regs, .units, .plans, .vat, .press, .link, .safety, .selftest, .aon, .log, .net, .settings, .commits] ⊆ W) :
    Frame W base (emitStep s p) := by
  unfold emitStep
  split
  · exact hF
  · rename_i st hst
    apply settleUnits_frame _ (List.Subset.trans (by decide) hW)
    apply checkEnd_frame _ (List.Subset.trans (by decide) hW)
    apply frame_foldl
    · apply shedItems_frame _ (List.Subset.trans (by decide) hW)
      apply unusedAdds_frame _ (List.Subset.trans (by decide) hW)
      apply frame_foldl
      · apply frame_foldl
        · exact Frame.set_safety (State.modStep_frame hF (List.Subset.trans (by decide) hW)) (in_frame hW (by decide))
        · intro t x ht
          exact enqueue_frame ht (List.Subset.trans (by decide) hW)
      · intro t x ht
        exact emitItem_frame ht (List.Subset.trans (by decide) hW)
    · intro t x ht
      exact sendWaits_frame ht (List.Subset.trans (by decide) hW)

theorem batchClasses_frame {s : State} {p : Nat} {pl : Plan} {st : StepRec} (hF : Frame W base s) (hW : [.fresh, .regs, .log] ⊆ W) : Frame W base (batchClasses s p pl st).1 := by
  unfold batchClasses
  dsimp only
  repeat' with_reducible first
    | apply frame_ite
    | assumption
    | exact List.Subset.trans (by decide) hW
    | apply State.bump_frame
    | apply State.logLimited_frame
    | apply frame_foldl
    | apply frame_foldl_fst
    | intro _ _ _
    | split
    | extract_lets
theorem batchClasses_frame' {s z : State} {p : Nat} {pl : Plan} {st : StepRec} {out_} (eq : batchClasses s p pl st = (z, out_)) (hF : Frame W base s) (hW : [.fresh, .regs, .log] ⊆ W) : Frame W base z := by
  have := batchClasses_frame (p := p) (pl := pl) (st := st) hF hW
  rw [eq] at this
  exact this

theorem passHints_frame {s : State} {p tick : Nat} {pl : Plan} (hF : Frame W base s) (hW : [.power] ⊆ W) : Frame W base (passHints s p tick pl) := by
  unfold passHints
  repeat' with_reducible first
    | assumption
    | exact List.Subset.trans (by decide) hW
    | exact Or.inr (in_frame hW (by decide))
    | exact Or.inl rfl
    | refine Frame.set_power ?_ (in_frame hW (by decide))
    | apply frame_mk

theorem buildStep_frame {s : State} {p : Nat} (hF : Frame W base s) (hW : [.out, .fresh, .clk, .mem, .regs, .units, .plans, .vat, .press, .link, .safety, .selftest, .aon, .log, .power, .net, .settings, .commits] ⊆ W) : Frame W base (buildStep s p) := by
  unfold buildStep
  repeat' with_reducible first
    | apply frame_ite
    | assumption
    | exact List.Subset.trans (by decide) hW
    | apply batchClasses_frame
    | refine batchClasses_frame' (by assumption) ?_ ?_
    | apply State.modStep_frame
    | apply placeHold_frame
    | apply partStore_frame
    | apply touchRange_frame
    | apply passHints_frame
    | apply State.tick_frame
    | apply State.modPart_frame
    | apply State.bump_frame
    | apply publishMissing_frame
    | apply emitStep_frame
    | apply declareInvalid_frame
    | apply frame_foldl
    | intro _ _ _
    | split
    | extract_lets

theorem startWait_frame {s : State} {p group : Nat} (hF : Frame W base s) (hW : [.plans, .vat] ⊆ W) : Frame W base (startWait s p group) := by
  unfold startWait
  repeat' with_reducible first
    | apply frame_ite
    | assumption
    | exact List.Subset.trans (by decide) hW
    | apply State.setChan_frame
    | apply State.modStep_frame
    | apply frame_foldl
    | intro _ _ _
    | split
    | extract_lets

theorem stepTickOp_frame {s : State} {p : Nat} (hF : Frame W base s) (hW : [.out, .fresh, .clk, .mem, .regs, .units, .plans, .vat, .press, .link, .safety, .selftest, .aon, .log, .power, .net, .settings, .commits] ⊆ W) : Frame W base (stepTickOp s p) := by
  unfold stepTickOp
  repeat' with_reducible first
    | apply frame_ite
    | assumption
    | exact List.Subset.trans (by decide) hW
    | apply State.modPart_frame
    | apply State.bump_frame
    | apply opensDue_frame
    | apply retireDue_frame
    | apply displayTick_frame
    | apply assembleGroup_frame
    | apply startWait_frame
    | apply buildStep_frame
    | apply frame_foldl
    | intro _ _ _
    | split
    | extract_lets

theorem holdAssemblyOp_frame {s : State} {p group : Nat} (hF : Frame W base s) (hW : [.out, .fresh, .clk, .mem, .regs, .units, .plans, .vat, .press, .link, .safety, .selftest, .aon, .log, .power, .net, .settings, .commits] ⊆ W) : Frame W base (holdAssemblyOp s p group) := by
  unfold holdAssemblyOp
  repeat' with_reducible first
    | apply frame_ite
    | assumption
    | exact List.Subset.trans (by decide) hW
    | apply State.tick_frame
    | apply assembleGroup_frame
    | apply buildStep_frame
    | apply State.modStep_frame
    | split
    | extract_lets

theorem markMember_frame {s : State} {p ch v : Nat} (hF : Frame W base s) (hW : [.plans] ⊆ W) : Frame W base (markMember s p ch v) := by
  unfold markMember
  repeat' with_reducible first
    | apply frame_ite
    | assumption
    | exact List.Subset.trans (by decide) hW
    | apply State.modStep_frame
    | split
    | extract_lets

theorem holdLimitOp_frame {s : State} {ch : Nat} (hF : Frame W base s) (hW : [.plans] ⊆ W) : Frame W base (holdLimitOp s ch) := by
  unfold holdLimitOp
  repeat' with_reducible first
    | apply frame_ite
    | assumption
    | exact List.Subset.trans (by decide) hW
    | apply markMember_frame
    | split
    | extract_lets

theorem endOp_frame {s : State} {ch : Nat} (hF : Frame W base s) (hW : [.plans, .vat] ⊆ W) : Frame W base (endOp s ch) := by
  unfold endOp
  repeat' with_reducible first
    | apply frame_ite
    | assumption
    | exact List.Subset.trans (by decide) hW
    | apply markMember_frame
    | apply State.setChan_frame
    | split
    | extract_lets

theorem deadlineOp_frame {s : State} {p : Nat} (hF : Frame W base s) (hW : [.out, .fresh, .clk, .mem, .regs, .units, .plans, .vat, .press, .link, .safety, .selftest, .aon, .log, .net, .settings, .commits] ⊆ W) : Frame W base (deadlineOp s p) := by
  unfold deadlineOp
  repeat' with_reducible first
    | apply frame_ite
    | assumption
    | exact List.Subset.trans (by decide) hW
    | apply claimStrike_frame
    | apply endStep_frame
    | apply abortStep_frame
    | apply State.logLimited_frame
    | apply declareInvalid_frame
    | apply publishMissing_frame
    | split
    | extract_lets

theorem shedOp_frame {s : State} {p : Nat} (hF : Frame W base s) (hW : [.out, .fresh, .clk, .mem, .regs, .units, .plans, .vat, .press, .link, .safety, .selftest, .aon, .log, .net, .settings, .commits] ⊆ W) : Frame W base (shedOp s p) := by
  unfold shedOp
  repeat' with_reducible first
    | apply frame_ite
    | assumption
    | exact List.Subset.trans (by decide) hW
    | apply State.setQueue_frame
    | apply dropPrefetch_frame
    | apply shedItems_frame
    | apply settleUnits_frame
    | apply checkEnd_frame
    | apply sendWaits_frame
    | apply frame_foldl
    | intro _ _ _
    | split
    | extract_lets

theorem replayStep_frame {s : State} {p : Nat} (hF : Frame W base s) (hW : [.out, .fresh, .clk, .mem, .regs, .units, .plans, .vat, .press, .link, .safety, .selftest, .aon, .log, .net, .settings, .commits] ⊆ W) : Frame W base (replayStep s p) := by
  unfold replayStep
  repeat' with_reducible first
    | apply frame_ite
    | assumption
    | exact List.Subset.trans (by decide) hW
    | apply resetTallies_frame
    | apply tallyAdd_frame
    | apply State.modStep_frame
    | apply State.bump_frame
    | apply State.logEntry_frame
    | apply emitStep_frame
    | apply frame_foldl
    | intro _ _ _
    | split
    | extract_lets

theorem proofReads_frame {s : State} {p u : Nat} (hF : Frame W base s) (hW : [.fresh, .regs, .press] ⊆ W) : Frame W base (proofReads s p u) := by
  unfold proofReads
  repeat' with_reducible first
    | apply frame_ite
    | assumption
    | exact List.Subset.trans (by decide) hW
    | apply request_frame
    | apply State.tick_frame
    | split
    | extract_lets

theorem startCore_frame {s : State} {q : Nat} {x : QItem} (hF : Frame W base s) (hW : [.fresh, .regs, .units, .plans, .press] ⊆ W) : Frame W base (startCore s q x) := by
  unfold startCore
  repeat' with_reducible first
    | apply frame_ite
    | assumption
    | exact List.Subset.trans (by decide) hW
    | apply wakeUnit_frame
    | apply endFiller_frame
    | apply account_frame
    | apply modUnit_frame
    | apply proofReads_frame
    | apply State.setRun_frame
    | apply touchPages_frame
    | apply State.tick_frame
    | split
    | extract_lets

theorem startSpec_frame {s : State} {q : Nat} {x : QItem} (hF : Frame W base s) (hW : [.fresh, .regs, .plans, .press] ⊆ W) : Frame W base (startSpec s q x) := by
  unfold startSpec
  repeat' with_reducible first
    | apply frame_ite
    | assumption
    | exact List.Subset.trans (by decide) hW
    | apply touchPages_frame
    | apply State.tick_frame
    | apply State.setRun_frame
    | split
    | extract_lets

theorem retireItem_frame {s : State} {r : Running} (hF : Frame W base s) (hW : [.out, .fresh, .clk, .mem, .regs, .units, .plans, .vat, .press, .link, .safety, .selftest, .aon, .log, .net, .settings, .commits] ⊆ W) : Frame W base (retireItem s r) := by
  unfold retireItem
  repeat' with_reducible first
    | apply frame_ite
    | assumption
    | exact List.Subset.trans (by decide) hW
    | apply tallyAdds_frame
    | apply dropPrefetch_frame
    | apply settleUnits_frame
    | apply checkEnd_frame
    | apply sendWaits_frame
    | apply frame_foldl
    | intro _ _ _
    | split
    | extract_lets

theorem sieveFault_frame {s : State} {q : Nat} {r : Running} {d : SieveDesc} {res : SieveResult} (hF : Frame W base s) (hW : [.out, .fresh, .clk, .mem, .regs, .units, .plans, .vat, .press, .link, .safety, .selftest, .aon, .log, .net, .settings, .commits] ⊆ W) : Frame W base (sieveFault s q r d res) := by
  unfold sieveFault
  repeat' with_reducible first
    | apply frame_ite
    | assumption
    | exact List.Subset.trans (by decide) hW
    | apply dropPrefetch_frame
    | apply State.setRun_frame
    | apply State.bump_frame
    | apply publish_frame
    | apply sieveCounts_frame
    | apply retireItem_frame
    | apply failStep_frame
    | apply State.modStep_frame
    | split
    | extract_lets

theorem startSieve_frame {s : State} {q : Nat} {x : QItem} (hF : Frame W base s) (hW : [.out, .fresh, .clk, .mem, .regs, .units, .plans, .vat, .press, .link, .safety, .selftest, .aon, .log, .net, .settings, .commits] ⊆ W) : Frame W base (startSieve s q x) := by
  unfold startSieve
  repeat' with_reducible first
    | apply frame_ite
    | assumption
    | exact List.Subset.trans (by decide) hW
    | apply touchPages_frame
    | apply State.tick_frame
    | apply State.setRun_frame
    | apply sieveFault_frame
    | split
    | extract_lets

theorem startOp_frame {s : State} {q : Nat} (hF : Frame W base s) (hW : [.out, .fresh, .clk, .mem, .regs, .units, .plans, .vat, .press, .link, .safety, .selftest, .aon, .log, .net, .settings, .commits] ⊆ W) : Frame W base (startOp s q) := by
  unfold startOp
  repeat' with_reducible first
    | apply frame_ite
    | assumption
    | exact List.Subset.trans (by decide) hW
    | apply crcRefuse_frame
    | apply State.setQueue_frame
    | apply startCore_frame
    | apply startSpec_frame
    | apply startSieve_frame
    | apply sendWaits_frame
    | split
    | extract_lets

theorem endProof_frame {s : State} {u : Nat} (hF : Frame W base s) (hW : [.out, .fresh, .clk, .mem, .regs, .units, .plans, .vat, .press, .link, .safety, .selftest, .aon, .log, .net, .settings, .commits] ⊆ W) : Frame W base (endProof s u) := by
  unfold endProof
  repeat' with_reducible first
    | apply frame_ite
    | assumption
    | exact List.Subset.trans (by decide) hW
    | apply State.bump_frame
    | apply account_frame
    | apply undefUnit_frame
    | apply checkEnd_frame
    | apply settleCore_frame
    | apply State.setRun_frame
    | exact Or.inr (in_frame hW (by decide))
    | exact Or.inl rfl
    | exact Or.inr ⟨in_frame hW (by decide), rfl⟩
    | apply frame_foldl
    | intro _ _ _
    | split
    | extract_lets
    | refine Frame.set_safety ?_ (in_frame hW (by decide))
    | apply frame_mk

theorem finishUnit_frame {s : State} {q : Nat} {r : Running} (hF : Frame W base s) (hW : [.out, .fresh, .clk, .mem, .regs, .units, .plans, .vat, .press, .link, .safety, .selftest, .aon, .log, .net, .settings, .commits] ⊆ W) : Frame W base (finishUnit s q r) := by
  unfold finishUnit
  repeat' with_reducible first
    | apply frame_ite
    | assumption
    | exact List.Subset.trans (by decide) hW
    | apply accountDone_frame
    | apply modUnit_frame
    | apply State.bump_frame
    | apply bumpRow_frame
    | apply retireItem_frame
    | apply State.setRun_frame
    | apply frame_foldl
    | intro _ _ _
    | split
    | extract_lets

theorem remoteFail_frame {s : State} {q p : Nat} (hF : Frame W base s) (hW : [.out, .fresh, .mem, .regs, .units, .plans, .press, .safety, .selftest, .aon, .log, .net] ⊆ W) : Frame W base (remoteFail s q p) := by
  unfold remoteFail
  repeat' with_reducible first
    | assumption
    | exact List.Subset.trans (by decide) hW
    | apply failItem_frame
    | apply State.blockErr_frame

theorem completeUnit_frame {s : State} {q : Nat} {r : Running} (hF : Frame W base s) (hW : [.out, .fresh, .clk, .mem, .regs, .units, .plans, .vat, .press, .link, .safety, .selftest, .aon, .log, .net, .settings, .commits] ⊆ W) : Frame W base (completeUnit s q r) := by
  unfold completeUnit
  repeat' with_reducible first
    | apply frame_ite
    | assumption
    | exact List.Subset.trans (by decide) hW
    | apply finishUnit_frame
    | apply touchPages_frame
    | apply partWrites_frame
    | apply sendWritten_frame
    | refine sendWritten_frame' (by assumption) ?_ ?_
    | apply State.setRun_frame
    | apply remoteFail_frame
    | split
    | extract_lets

theorem completeSieve_frame {s : State} {q : Nat} {r : Running} {d : SieveDesc} {res : SieveResult} {st : StepRec} (hF : Frame W base s) (hW : [.out, .fresh, .clk, .mem, .regs, .units, .plans, .vat, .press, .link, .safety, .selftest, .aon, .log, .net, .settings, .commits] ⊆ W) : Frame W base (completeSieve s q r d res st) := by
  unfold completeSieve
  repeat' with_reducible first
    | apply frame_ite
    | assumption
    | exact List.Subset.trans (by decide) hW
    | apply touchPages_frame
    | apply sieveFault_frame
    | apply sieveCounts_frame
    | apply State.setRun_frame
    | apply State.bump_frame
    | apply publishFor_frame
    | refine publishFor_frame' (by assumption) ?_ ?_
    | apply remoteFail_frame
    | apply retireItem_frame
    | split
    | extract_lets

theorem completeOp_frame {s : State} {q : Nat} (hF : Frame W base s) (hW : [.out, .fresh, .clk, .mem, .regs, .units, .plans, .vat, .press, .link, .safety, .selftest, .aon, .log, .net, .settings, .commits] ⊆ W) : Frame W base (completeOp s q) := by
  unfold completeOp
  repeat' with_reducible first
    | apply frame_ite
    | assumption
    | exact List.Subset.trans (by decide) hW
    | apply State.bump_frame
    | apply endProof_frame
    | apply sieveFault_frame
    | apply sieveCounts_frame
    | apply dropPrefetch_frame
    | apply State.setRun_frame
    | apply State.modStep_frame
    | apply completeUnit_frame
    | apply retireItem_frame
    | apply completeSieve_frame
    | exact Or.inr (in_frame hW (by decide))
    | exact Or.inl rfl
    | exact Or.inr ⟨in_frame hW (by decide), rfl⟩
    | split
    | extract_lets
    | refine Frame.set_plans ?_ (in_frame hW (by decide))
    | apply frame_mk

end Sys2Proof.Machine
end

