-- ==== Sys2Proof/Laws/FrameCmds.lean ====
section
/-! SUPPORT. Frames of the operations of the commands other than the host's. Each lemma names the parts of the state that its operation may change. -/

set_option linter.unusedTactic false
set_option linter.unreachableTactic false

namespace Sys2Proof.Machine

-- one theorem at a time: as one text the package has too many for a thread each
set_option Elab.async false

variable {W : List Field} {base : State}

theorem copyImage_frame {l : List Nat} {s t : State} {p src bytes : Nat} {pl : Plan} (e : copyImage s p src bytes pl l = some t)
    (hF : Frame W base s) (hW : [.fresh, .mem, .regs, .plans, .press] ⊆ W) : Frame W base t := by
  induction l generalizing s with
  | nil => cases e; exact hF
  | cons k ks ih =>
    unfold copyImage at e
    dsimp only at e
    split at e
    · simp at e
    · refine ih e ?_
      refine State.modPart_frame ?_ (List.Subset.trans (by decide) hW)
      refine requestBack_frame ?_ (List.Subset.trans (by decide) hW)
      refine requestBack_frame ?_ (List.Subset.trans (by decide) hW)
      refine State.copyRam_frame ?_ (List.Subset.trans (by decide) hW)
      refine State.wipe_frame ?_ (List.Subset.trans (by decide) hW)
      exact State.tick_frame hF (List.Subset.trans (by decide) hW)

theorem installPlan_frame {s t : State} {p src : Nat} {pl : Plan} (e : installPlan s p src pl = some t) (hF : Frame W base s)
    (hW : [.out, .fresh, .mem, .regs, .units, .plans, .press, .log, .net] ⊆ W) : Frame W base t := by
  unfold installPlan at e
  extract_lets us es s1 s2 at e
  have h1 : Frame W base s1 := frame_foldl _ hF (fun t u ht => takeUnit_frame ht (List.Subset.trans (by decide) hW))
  have h2 : Frame W base s2 := State.modPart_frame h1 (List.Subset.trans (by decide) hW)
  split at e
  · simp at e
  · rename_i s3 e3
    have h3 := copyImage_frame e3 h2 (List.Subset.trans (by decide) hW)
    extract_lets image bind at e
    split at e
    · simp at e
    · rename_i s4 e4
      have h4 := allocRegions_frame e4 h3 (List.Subset.trans (by decide) hW)
      split at e
      · simp at e
      · rename_i s5 e5
        have h5 := allocPads_frame e5 h4 (List.Subset.trans (by decide) hW)
        extract_lets s6 at e
        have h6 : Frame W base s6 := frame_foldl _ h5 (fun t u ht => modUnit_frame ht (List.Subset.trans (by decide) hW))
        cases e
        exact resetTallies_frame (State.modPart_frame h6 (List.Subset.trans (by decide) hW)) (List.Subset.trans (by decide) hW)

theorem loadPlan_frame {s : State} {p arg0 arg1 : Nat} (hF : Frame W base s) (hW : [.out, .fresh, .mem, .regs, .units, .plans, .press, .log, .net] ⊆ W) : Frame W base (loadPlan s p arg0 arg1) := by
  unfold loadPlan
  repeat' with_reducible first
    | assumption
    | exact List.Subset.trans (by decide) hW
    | apply State.pageErr_frame
    | refine installPlan_frame (by assumption) ?_ ?_
    | split
    | extract_lets

theorem refuseCmd_frame {s : State} {p code value : Nat} (hF : Frame W base s) (hW : [.regs] ⊆ W) : Frame W base (refuseCmd s p code value) := by
  unfold refuseCmd
  repeat' with_reducible first
    | assumption
    | exact List.Subset.trans (by decide) hW
    | apply State.pageErr_frame

theorem launchOp_frame {s : State} {p arg0 arg1 arg2 value : Nat} (hF : Frame W base s) (hW : [.out, .fresh, .mem, .regs, .units, .plans, .press, .selftest, .log, .net] ⊆ W) : Frame W base (launchOp s p arg0 arg1 arg2 value) := by
  unfold launchOp
  repeat' with_reducible first
    | apply frame_ite
    | assumption
    | exact List.Subset.trans (by decide) hW
    | apply refuseCmd_frame
    | apply State.modPart_frame
    | apply restoreUnits_frame
    | split
    | extract_lets

theorem stopOp_frame {s : State} {p : Nat} (hF : Frame W base s) (hW : [.out, .fresh, .mem, .regs, .units, .plans, .vat, .press, .link, .aon, .log, .net, .settings] ⊆ W) : Frame W base (stopOp s p) := by
  unfold stopOp
  repeat' with_reducible first
    | apply frame_ite
    | assumption
    | exact List.Subset.trans (by decide) hW
    | apply State.modPart_frame
    | apply stopAtEnd_frame
    | split
    | extract_lets

theorem refuseSeqOpen_frame {s : State} {p code value : Nat} (hF : Frame W base s) (hW : [.regs, .plans] ⊆ W) : Frame W base (refuseSeqOpen s p code value) := by
  unfold refuseSeqOpen
  repeat' with_reducible first
    | assumption
    | exact List.Subset.trans (by decide) hW
    | apply refuseCmd_frame
    | apply State.modPart_frame

theorem seqOpenOp_frame {s : State} {p arg0 arg1 arg2 value : Nat} (hF : Frame W base s) (hW : [.fresh, .mem, .regs, .plans, .press, .log] ⊆ W) : Frame W base (seqOpenOp s p arg0 arg1 arg2 value) := by
  unfold seqOpenOp
  repeat' with_reducible first
    | apply frame_ite
    | assumption
    | exact List.Subset.trans (by decide) hW
    | apply refuseSeqOpen_frame
    | apply hostOpen_frame
    | apply State.modPart_frame
    | split
    | extract_lets

theorem seqRetireOp_frame {s : State} {p arg0 arg2 value : Nat} (hF : Frame W base s) (hW : [.regs, .plans] ⊆ W) : Frame W base (seqRetireOp s p arg0 arg2 value) := by
  unfold seqRetireOp
  repeat' with_reducible first
    | apply frame_ite
    | assumption
    | exact List.Subset.trans (by decide) hW
    | apply refuseCmd_frame
    | apply retireSeq_frame
    | apply State.setInstar_frame
    | split
    | extract_lets

theorem partCommand_frame {s : State} {p value arg0 arg1 arg2 : Nat} (hF : Frame W base s) (hW : [.out, .fresh, .mem, .regs, .units, .plans, .vat, .press, .link, .selftest, .aon, .log, .net, .settings] ⊆ W) : Frame W base (partCommand s p value arg0 arg1 arg2) := by
  unfold partCommand
  repeat' with_reducible first
    | assumption
    | exact List.Subset.trans (by decide) hW
    | apply loadPlan_frame
    | apply unloadPart_frame
    | apply launchOp_frame
    | apply stopOp_frame
    | apply seqOpenOp_frame
    | apply seqRetireOp_frame
    | apply refuseSeqOpen_frame
    | apply refuseCmd_frame
    | split
    | extract_lets

theorem partCmdWrite_frame {s : State} {p value : Nat} (hF : Frame W base s) (hW : [.out, .fresh, .mem, .regs, .units, .plans, .vat, .press, .link, .selftest, .aon, .log, .net, .settings] ⊆ W) : Frame W base (partCmdWrite s p value) := by
  unfold partCmdWrite
  repeat' with_reducible first
    | apply frame_ite
    | assumption
    | exact List.Subset.trans (by decide) hW
    | apply refuseCmd_frame
    | apply partCommand_frame
    | apply State.setPart_frame
    | split
    | extract_lets

theorem servePartCmds_frame {s : State} (hF : Frame W base s) (hW : [.out, .fresh, .mem, .regs, .units, .plans, .vat, .press, .link, .selftest, .aon, .log, .net, .settings] ⊆ W) : Frame W base (servePartCmds s) := by
  unfold servePartCmds
  repeat' with_reducible first
    | assumption
    | exact List.Subset.trans (by decide) hW
    | apply partCommand_frame
    | apply State.modPart_frame
    | apply frame_foldl
    | intro _ _ _
    | split
    | extract_lets

theorem startFill_frame {s t : State} {p key : Nat} (e : startFill s p key = some t) (hF : Frame W base s)
    (hW : [.fresh, .mem, .regs, .plans, .press] ⊆ W) : Frame W base t := by
  unfold startFill at e
  split at e
  · simp at e
  · rename_i e1
    cases e
    exact State.setPte_frame (takeFelt_frame e1 hF (List.Subset.trans (by decide) hW)) (List.Subset.trans (by decide) hW)

theorem pageFaultOp_frame {s : State} {p vpn : Nat} (hF : Frame W base s) (hW : [.fresh, .mem, .regs, .plans, .press] ⊆ W) : Frame W base (pageFaultOp s p vpn) := by
  unfold pageFaultOp
  repeat' with_reducible first
    | apply frame_ite
    | assumption
    | exact List.Subset.trans (by decide) hW
    | apply releaseHold_frame
    | refine startFill_frame (by assumption) ?_ ?_
    | apply placeHold_frame
    | apply State.bump_frame
    | apply frame_foldl
    | intro _ _ _
    | split
    | extract_lets

theorem pageFillOp_frame {s : State} {p vpn : Nat} (hF : Frame W base s) (hW : [.mem, .regs, .plans, .press] ⊆ W) : Frame W base (pageFillOp s p vpn) := by
  unfold pageFillOp
  repeat' with_reducible first
    | apply frame_ite
    | assumption
    | exact List.Subset.trans (by decide) hW
    | apply requestFill_frame
    | apply State.copyRam_frame
    | apply shrinkFelt_frame
    | apply State.setPte_frame
    | split
    | extract_lets

theorem serveList_frame {l pre : List (Nat × Nat × Bool)} {s : State} {p : Nat} (hF : Frame W base s)
    (hW : [.fresh, .mem, .regs, .plans, .press] ⊆ W) : Frame W base (serveList s p pre l) := by
  induction l generalizing pre with
  | nil => exact hF
  | cons e r ih =>
    obtain ⟨key, id, b⟩ := e
    cases b with
    | true => exact ih
    | false =>
      have mod : ∀ {z : State} {f : PartSt → PartSt}, Frame W base z → Frame W base (z.modPart p f) :=
        fun hz => State.modPart_frame hz (List.Subset.trans (by decide) hW)
      unfold serveList
      dsimp only
      repeat' first
        | assumption
        | exact List.Subset.trans (by decide) hW
        | apply mod
        | apply State.bump_frame
        | refine startFill_frame (by assumption) ?_ ?_
        | split

theorem prefetchOp_frame {s : State} {p : Nat} (hF : Frame W base s) (hW : [.fresh, .mem, .regs, .plans, .press] ⊆ W) : Frame W base (prefetchOp s p) := by
  unfold prefetchOp
  repeat' with_reducible first
    | assumption
    | exact List.Subset.trans (by decide) hW
    | apply serveList_frame

theorem translationOp_frame {s : State} {q va : Nat} {write : Bool} (hF : Frame W base s) (hW : [.out, .fresh, .mem, .regs, .units, .plans, .press, .safety, .selftest, .aon, .log, .net] ⊆ W) : Frame W base (translationOp s q va write) := by
  unfold translationOp
  repeat' with_reducible first
    | apply frame_ite
    | assumption
    | exact List.Subset.trans (by decide) hW
    | apply State.blockErr_frame
    | apply State.bump_frame
    | apply failItem_frame
    | apply State.logEntry_frame
    | split
    | extract_lets

theorem poisonedOp_frame {s : State} {q va : Nat} (hF : Frame W base s) (hW : [.out, .fresh, .mem, .regs, .units, .plans, .press, .safety, .selftest, .aon, .log, .net] ⊆ W) : Frame W base (poisonedOp s q va) := by
  unfold poisonedOp
  repeat' with_reducible first
    | apply frame_ite
    | assumption
    | exact List.Subset.trans (by decide) hW
    | apply State.blockErr_frame
    | apply State.bump_frame
    | apply failItem_frame
    | apply State.logEntryOf_frame
    | split
    | extract_lets

theorem memLog_frame {s : State} {code unit : Nat} {pg : Option (Nat × Nat)} {frame : Nat} (hF : Frame W base s) (hW : [.fresh, .regs, .log] ⊆ W) : Frame W base (memLog s code unit pg frame) := by
  unfold memLog
  repeat' with_reducible first
    | assumption
    | exact List.Subset.trans (by decide) hW
    | apply State.logEntryOf_frame
    | split
    | extract_lets

theorem settleRecovery_frame {s : State} {p key unit code : Nat} {q : Option Nat} {frame : Nat} {r : Recovery} (hF : Frame W base s) (hW : [.out, .fresh, .mem, .regs, .units, .plans, .press, .safety, .selftest, .aon, .log, .net] ⊆ W) : Frame W base (settleRecovery s p key unit code q frame r) := by
  unfold settleRecovery
  repeat' with_reducible first
    | apply frame_ite
    | assumption
    | exact List.Subset.trans (by decide) hW
    | apply memLog_frame
    | apply grantRecovery_frame
    | apply failItem_frame
    | apply State.bump_frame
    | split
    | extract_lets

theorem retireSheet_frame {s : State} {c f : Nat} {q : Option Nat} (hF : Frame W base s) (hW : [.out, .fresh, .mem, .regs, .units, .plans, .press, .safety, .selftest, .aon, .log, .net] ⊆ W) : Frame W base (retireSheet s c f q) := by
  unfold retireSheet
  repeat' with_reducible first
    | apply frame_ite
    | assumption
    | exact List.Subset.trans (by decide) hW
    | apply State.bump_frame
    | apply recoverOwn_frame
    | refine recoverOwn_frame' (by assumption) ?_ ?_
    | apply settleRecovery_frame
    | apply memLog_frame
    | apply fenceUnit_frame
    | exact Or.inr (in_frame hW (by decide))
    | exact Or.inl rfl
    | split
    | extract_lets
    | refine Frame.set_safety ?_ (in_frame hW (by decide))
    | refine Frame.set_aon ?_ (in_frame hW (by decide))
    | apply frame_mk

theorem retireFelt_frame {s : State} {sl f : Nat} {q : Option Nat} (hF : Frame W base s)
    (hW : [.out, .fresh, .mem, .regs, .units, .plans, .press, .safety, .selftest, .aon, .log, .net] ⊆ W) : Frame W base (retireFelt s sl f q) := by
  unfold retireFelt
  apply frame_ite hF
  extract_lets pg _ s1 s2
  have h1 : Frame W base s1 := Frame.set_aon hF (in_frame hW (by decide))
  have h2 : Frame W base s2 := State.bump_frame h1 (List.Subset.trans (by decide) hW)
  clear_value pg
  split
  · exact settleRecovery_frame (recoverOwn_frame h2 (List.Subset.trans (by decide) hW)) (List.Subset.trans (by decide) hW)
  · exact memLog_frame h2 (List.Subset.trans (by decide) hW)

theorem sramParityOp_frame {s : State} {fr : SramFrame} {second : Bool} {q : Option Nat} (hF : Frame W base s) (hW : [.out, .fresh, .mem, .regs, .units, .plans, .press, .safety, .selftest, .aon, .log, .net] ⊆ W) : Frame W base (sramParityOp s fr second q) := by
  unfold sramParityOp
  repeat' with_reducible first
    | apply frame_ite
    | assumption
    | exact List.Subset.trans (by decide) hW
    | apply retireSheet_frame
    | apply memLog_frame
    | apply State.bump_frame
    | apply retireFelt_frame
    | split
    | extract_lets

theorem fabricParityOp_frame {s : State} {second : Bool} {q : Option Nat} (hF : Frame W base s) (hW : [.out, .fresh, .mem, .regs, .units, .plans, .press, .safety, .selftest, .aon, .log, .net] ⊆ W) : Frame W base (fabricParityOp s second q) := by
  unfold fabricParityOp
  repeat' with_reducible first
    | apply frame_ite
    | assumption
    | exact List.Subset.trans (by decide) hW
    | apply State.bump_frame
    | apply State.logEntryOf_frame
    | apply failItem_frame
    | split
    | extract_lets

theorem spoilSlot_frame {s : State} (hF : Frame W base s) (hW : [.fresh, .vat] ⊆ W) : Frame W base (spoilSlot s) := by
  unfold spoilSlot
  repeat' with_reducible first
    | apply frame_ite
    | assumption
    | exact List.Subset.trans (by decide) hW
    | apply State.setChan_frame
    | apply State.tick_frame
    | split
    | extract_lets

theorem retireDram_frame {s : State} {f : Nat} {q : Option Nat} (hF : Frame W base s)
    (hW : [.out, .fresh, .mem, .regs, .units, .plans, .vat, .press, .safety, .selftest, .aon, .log, .net] ⊆ W) : Frame W base (retireDram s f q) := by
  unfold retireDram
  extract_lets +onlyGivenNames s1
  have h1 : Frame W base s1 := State.bump_frame hF (List.Subset.trans (by decide) hW)
  apply frame_ite h1
  extract_lets +onlyGivenNames pg src s2 s3
  have h2 : Frame W base s2 := Frame.set_press h1 (in_frame hW (by decide))
  have h3 : Frame W base s3 := State.bump_frame h2 (List.Subset.trans (by decide) hW)
  clear_value pg
  split
  · rename_i p key back
    have h4 : Frame W base (if back then recoverBacking s3 p key else recoverOwn s3 p key).1 := by
      split
      · exact recoverBacking_frame h3 (List.Subset.trans (by decide) hW)
      · exact recoverOwn_frame h3 (List.Subset.trans (by decide) hW)
    exact settleRecovery_frame h4 (List.Subset.trans (by decide) hW)
  · extract_lets +onlyGivenNames s4
    have h4 : Frame W base s4 := memLog_frame h3 (List.Subset.trans (by decide) hW)
    exact frame_ite (spoilSlot_frame h4 (List.Subset.trans (by decide) hW)) h4

theorem dramError_frame {s : State} {f : Nat} {double : Bool} {q : Option Nat} (hF : Frame W base s) (hW : [.out, .fresh, .mem, .regs, .units, .plans, .vat, .press, .safety, .selftest, .aon, .log, .net] ⊆ W) : Frame W base (dramError s f double q) := by
  unfold dramError
  repeat' with_reducible first
    | apply frame_ite
    | assumption
    | exact List.Subset.trans (by decide) hW
    | apply retireDram_frame
    | apply memLog_frame
    | apply State.bump_frame
    | split
    | extract_lets

theorem patrolOp_frame {s : State} {err : LineError} (hF : Frame W base s) (hW : [.out, .fresh, .clk, .mem, .regs, .units, .plans, .vat, .press, .safety, .selftest, .aon, .log, .net, .settings, .commits] ⊆ W) : Frame W base (patrolOp s err) := by
  unfold patrolOp
  repeat' with_reducible first
    | apply frame_ite
    | assumption
    | exact List.Subset.trans (by decide) hW
    | apply settleTimed_frame
    | apply State.bump_frame
    | apply request_frame
    | apply dramError_frame
    | exact Or.inr (in_frame hW (by decide))
    | exact Or.inl rfl
    | exact Or.inr ⟨in_frame hW (by decide), rfl⟩
    | split
    | extract_lets
    | refine Frame.set_press ?_ (in_frame hW (by decide))
    | apply frame_mk

theorem hawkParityOp_frame {s : State} {c : Nat} (hF : Frame W base s) (hW : [.out, .fresh, .mem, .regs, .units, .plans, .press, .safety, .selftest, .aon, .log, .net] ⊆ W) : Frame W base (hawkParityOp s c) := by
  unfold hawkParityOp
  repeat' with_reducible first
    | assumption
    | exact List.Subset.trans (by decide) hW
    | apply State.bump_frame
    | apply State.logEntry_frame
    | apply failItem_frame
    | split
    | extract_lets

theorem endRx_frame {s : State} {ch status : Nat} (hF : Frame W base s) (hW : [.fresh, .regs, .vat, .log] ⊆ W) : Frame W base (endRx s ch status) := by
  unfold endRx
  repeat' with_reducible first
    | assumption
    | exact List.Subset.trans (by decide) hW
    | apply outcome_frame
    | apply State.setChan_frame
    | split
    | extract_lets

theorem State.modRx_frame {s : State} {ch : Nat} {f : RxFrame → RxFrame} (hF : Frame W base s) (hW : [.vat] ⊆ W) : Frame W base (State.modRx s ch f) := by
  unfold State.modRx
  repeat' with_reducible first
    | assumption
    | exact List.Subset.trans (by decide) hW
    | apply State.setChan_frame

theorem takeRxSlot_frame {s : State} {ch : Nat} (hF : Frame W base s) (hW : [.fresh, .regs, .vat, .log] ⊆ W) : Frame W base (takeRxSlot s ch) := by
  unfold takeRxSlot
  repeat' with_reducible first
    | assumption
    | exact List.Subset.trans (by decide) hW
    | apply endRx_frame
    | apply State.setChan_frame
    | split
    | extract_lets

theorem joinQueue_frame {s : State} {ch k kind : Nat} (hF : Frame W base s) (hW : [.fresh, .regs, .vat, .log] ⊆ W) : Frame W base (joinQueue s ch k kind) := by
  unfold joinQueue
  repeat' with_reducible first
    | apply frame_ite
    | assumption
    | exact List.Subset.trans (by decide) hW
    | apply dropSlot_frame
    | exact Or.inr (in_frame hW (by decide))
    | exact Or.inl rfl
    | apply frame_foldl
    | intro _ _ _
    | split
    | extract_lets
    | refine Frame.set_vat ?_ (in_frame hW (by decide))
    | apply frame_mk

theorem shiftDevs_frame {s : State} {d : Nat} (hF : Frame W base s) (hW : [.vat] ⊆ W) : Frame W base (shiftDevs s d) := by
  unfold shiftDevs
  repeat' with_reducible first
    | apply frame_ite
    | assumption
    | exact List.Subset.trans (by decide) hW
    | apply State.setChan_frame
    | apply frame_foldl
    | intro _ _ _
    | split
    | extract_lets

theorem acceptFrame_frame {s : State} {ch : Nat} {r : RxFrame} {k : Nat} {cap : Int} {count : Option Nat} {data : Bytes} (hF : Frame W base s) (hW : [.fresh, .regs, .vat, .log] ⊆ W) : Frame W base (acceptFrame s ch r k cap count data) := by
  unfold acceptFrame
  repeat' with_reducible first
    | apply frame_ite
    | assumption
    | exact List.Subset.trans (by decide) hW
    | apply shiftDevs_frame
    | apply State.setChan_frame
    | apply State.bump_frame
    | apply joinQueue_frame
    | apply outcome_frame
    | exact Or.inr (in_frame hW (by decide))
    | exact Or.inl rfl
    | split
    | extract_lets
    | refine Frame.set_vat ?_ (in_frame hW (by decide))
    | apply frame_mk

theorem eofRx_frame {s : State} {ch : Nat} {count : Option Nat} {crcOk : Bool} {data : Bytes} (hF : Frame W base s) (hW : [.fresh, .regs, .vat, .log] ⊆ W) : Frame W base (eofRx s ch count crcOk data) := by
  unfold eofRx
  repeat' with_reducible first
    | apply frame_ite
    | assumption
    | exact List.Subset.trans (by decide) hW
    | apply endRx_frame
    | apply acceptFrame_frame
    | split
    | extract_lets

theorem beginRx_frame {s : State} {ch seq : Nat} {capture : Option Int} {head : List Nat} (hF : Frame W base s) (hW : [.vat] ⊆ W) : Frame W base (beginRx s ch seq capture head) := by
  unfold beginRx
  repeat' with_reducible first
    | assumption
    | exact List.Subset.trans (by decide) hW
    | apply State.setChan_frame

theorem noteSeen_frame {s : State} {ch : Nat} (hF : Frame W base s) (hW : [.vat] ⊆ W) : Frame W base (noteSeen s ch) := by
  unfold noteSeen
  repeat' with_reducible first
    | assumption
    | exact List.Subset.trans (by decide) hW
    | apply State.setChan_frame
    | split
    | extract_lets

theorem himirPacket_frame {s : State} {ch seq : Nat} {first : Bool} {hb data : Bytes} (hF : Frame W base s) (hW : [.fresh, .regs, .vat, .log] ⊆ W) : Frame W base (himirPacket s ch seq first hb data) := by
  unfold himirPacket
  repeat' with_reducible first
    | apply frame_ite
    | assumption
    | exact List.Subset.trans (by decide) hW
    | apply endRx_frame
    | apply noteSeen_frame
    | apply takeRxSlot_frame
    | apply State.modRx_frame
    | apply eofRx_frame
    | split
    | extract_lets

theorem jpegPacket_frame {s : State} {ch seq : Nat} {first : Bool} {p : Bytes} (hF : Frame W base s)
    (hW : [.fresh, .regs, .vat, .log] ⊆ W) : Frame W base (jpegPacket s ch seq first p) := by
  unfold jpegPacket
  split
  · exact hF
  · extract_lets +onlyGivenNames c j all sofs sof dims given codingBad m fmtBad
    apply frame_ite (endRx_frame hF (List.Subset.trans (by decide) hW))
    extract_lets +onlyGivenNames s1 geomBad
    have h1 : Frame W base s1 := frame_ite (noteSeen_frame hF (List.Subset.trans (by decide) hW)) hF
    apply frame_ite (endRx_frame h1 (List.Subset.trans (by decide) hW))
    extract_lets +onlyGivenNames s2
    have h2 : Frame W base s2 := frame_ite (takeRxSlot_frame h1 (List.Subset.trans (by decide) hW)) h1
    split
    · exact h2
    · apply frame_ite (endRx_frame h2 (List.Subset.trans (by decide) hW))
      apply frame_ite (endRx_frame h2 (List.Subset.trans (by decide) hW))
      extract_lets +onlyGivenNames s3
      have h3 : Frame W base s3 := State.modRx_frame h2 (List.Subset.trans (by decide) hW)
      apply frame_ite h3
      apply frame_ite
      · exact eofRx_frame h3 (List.Subset.trans (by decide) hW)
      · exact eofRx_frame h3 (List.Subset.trans (by decide) hW)

theorem chanPacket_frame {s : State} {ch : Nat} {p : Bytes} (hF : Frame W base s) (hW : [.fresh, .regs, .vat, .press, .log] ⊆ W) : Frame W base (chanPacket s ch p) := by
  unfold chanPacket
  repeat' with_reducible first
    | apply frame_ite
    | assumption
    | exact List.Subset.trans (by decide) hW
    | apply State.bump_frame
    | apply sysAccess_frame
    | apply beginRx_frame
    | apply jpegPacket_frame
    | apply himirPacket_frame
    | split
    | extract_lets

theorem avtpFrame_frame {s : State} {port : Nat} {vid : Option Nat} {p : Bytes} (hF : Frame W base s) (hW : [.fresh, .clk, .mem, .regs, .units, .plans, .vat, .press, .log, .net, .settings, .commits] ⊆ W) : Frame W base (avtpFrame s port vid p) := by
  unfold avtpFrame
  repeat' with_reducible first
    | apply frame_ite
    | assumption
    | exact List.Subset.trans (by decide) hW
    | apply State.bump_frame
    | apply endRx_frame
    | apply settleTimed_frame
    | apply chanPacket_frame
    | split
    | extract_lets

theorem vatRxOp_frame {s : State} {port : Nat} {f : Bytes} {fcsOk : Bool} (hF : Frame W base s) (hW : [.fresh, .clk, .mem, .regs, .units, .plans, .vat, .press, .log, .net, .settings, .commits] ⊆ W) : Frame W base (vatRxOp s port f fcsOk) := by
  unfold vatRxOp
  repeat' with_reducible first
    | apply frame_ite
    | assumption
    | exact List.Subset.trans (by decide) hW
    | apply State.bump_frame
    | apply avtpFrame_frame
    | split
    | extract_lets

theorem decoderTakeOp_frame {s : State} {raw : Bool} (hF : Frame W base s) (hW : [.vat] ⊆ W) : Frame W base (decoderTakeOp s raw) := by
  unfold decoderTakeOp
  repeat' with_reducible first
    | apply frame_ite
    | assumption
    | exact List.Subset.trans (by decide) hW
    | apply State.setSlot_frame
    | exact Or.inr (in_frame hW (by decide))
    | exact Or.inl rfl
    | split
    | extract_lets
    | refine Frame.set_vat ?_ (in_frame hW (by decide))
    | apply frame_mk

theorem freeDecoder_frame {s : State} {ch k : Nat} (hF : Frame W base s) (hW : [.vat] ⊆ W) : Frame W base (freeDecoder s ch k) := by
  unfold freeDecoder
  repeat' with_reducible first
    | apply frame_ite
    | assumption
    | exact List.Subset.trans (by decide) hW
    | exact Or.inr (in_frame hW (by decide))
    | exact Or.inl rfl
    | split
    | extract_lets
    | refine Frame.set_vat ?_ (in_frame hW (by decide))
    | apply frame_mk

theorem decodeCompleteOp_frame {s : State} {ch k : Nat} (hF : Frame W base s) (hW : [.out, .fresh, .mem, .regs, .units, .plans, .vat, .press, .safety, .selftest, .aon, .log, .net] ⊆ W) : Frame W base (decodeCompleteOp s ch k) := by
  unfold decodeCompleteOp
  repeat' with_reducible first
    | apply frame_ite
    | assumption
    | exact List.Subset.trans (by decide) hW
    | apply reviveSlot_frame
    | apply freeDecoder_frame
    | apply sysAccess_frame
    | apply integritySlot_frame
    | apply dropSlot_frame
    | apply State.setSlot_frame
    | apply handover_frame
    | apply noteShaped_frame
    | split
    | extract_lets

theorem budgetExpiryOp_frame {s : State} {ch k : Nat} (hF : Frame W base s) (hW : [.fresh, .regs, .vat, .log] ⊆ W) : Frame W base (budgetExpiryOp s ch k) := by
  unfold budgetExpiryOp
  repeat' with_reducible first
    | apply frame_ite
    | assumption
    | exact List.Subset.trans (by decide) hW
    | apply dropSlot_frame
    | apply freeDecoder_frame
    | exact Or.inr (in_frame hW (by decide))
    | exact Or.inl rfl
    | split
    | extract_lets
    | refine Frame.set_vat ?_ (in_frame hW (by decide))
    | apply frame_mk

theorem shapingOp_frame {s : State} {ch k : Nat} (hF : Frame W base s) (hW : [.out, .fresh, .mem, .regs, .units, .plans, .vat, .press, .safety, .selftest, .aon, .log, .net] ⊆ W) : Frame W base (shapingOp s ch k) := by
  unfold shapingOp
  repeat' with_reducible first
    | apply frame_ite
    | assumption
    | exact List.Subset.trans (by decide) hW
    | apply integritySlot_frame
    | apply sysAccess_frame
    | apply State.setSlot_frame
    | apply handover_frame
    | apply noteShaped_frame
    | split
    | extract_lets

theorem handoverOp_frame {s : State} {p i pos : Nat} (hF : Frame W base s) (hW : [.out, .fresh, .mem, .regs, .units, .plans, .vat, .press, .safety, .selftest, .aon, .log, .net] ⊆ W) : Frame W base (handoverOp s p i pos) := by
  unfold handoverOp
  repeat' with_reducible first
    | apply frame_ite
    | assumption
    | exact List.Subset.trans (by decide) hW
    | apply State.setPart_frame
    | apply integritySlot_frame
    | apply copySample_frame
    | split
    | extract_lets

theorem unitLog_frame {s : State} {code p unit : Nat} (hF : Frame W base s) (hW : [.fresh, .regs, .log] ⊆ W) : Frame W base (unitLog s code p unit) := by
  unfold unitLog
  repeat' with_reducible first
    | apply frame_ite
    | assumption
    | exact List.Subset.trans (by decide) hW
    | apply State.logEntry_frame
    | split
    | extract_lets

theorem failUnit_frame {s : State} {u code : Nat} {att : Option UnitId} (hF : Frame W base s) (hW : [.out, .fresh, .mem, .regs, .units, .plans, .press, .safety, .selftest, .aon, .log, .net] ⊆ W) : Frame W base (failUnit s u code att) := by
  unfold failUnit
  repeat' with_reducible first
    | apply frame_ite
    | assumption
    | exact List.Subset.trans (by decide) hW
    | apply failStep_frame
    | apply strike_frame
    | split
    | extract_lets

theorem mismatchOp_frame {s : State} {i cls : Nat} (hF : Frame W base s) (hW : [.out, .fresh, .mem, .regs, .units, .plans, .press, .safety, .selftest, .aon, .log, .net] ⊆ W) : Frame W base (mismatchOp s i cls) := by
  unfold mismatchOp
  repeat' with_reducible first
    | apply frame_ite
    | assumption
    | exact List.Subset.trans (by decide) hW
    | apply State.setPair_frame
    | apply failUnit_frame
    | apply unitLog_frame
    | apply State.bump_frame
    | split
    | extract_lets

theorem proofGiven_frame {s : State} {p u : Nat} (hF : Frame W base s) (hW : [.plans] ⊆ W) : Frame W base (proofGiven s p u) := by
  unfold proofGiven
  repeat' with_reducible first
    | assumption
    | exact List.Subset.trans (by decide) hW
    | apply State.modStep_frame

theorem proofFailed_frame {s : State} {u core code cnt : Nat} (hF : Frame W base s) (hW : [.out, .fresh, .clk, .mem, .regs, .units, .plans, .vat, .press, .link, .safety, .selftest, .aon, .log, .net, .settings, .commits] ⊆ W) : Frame W base (proofFailed s u core code cnt) := by
  unfold proofFailed
  repeat' with_reducible first
    | apply frame_ite
    | assumption
    | exact List.Subset.trans (by decide) hW
    | apply failUnit_frame
    | apply unitLog_frame
    | apply State.bump_frame
    | apply checkEnd_frame
    | apply proofGiven_frame
    | exact Or.inr (in_frame hW (by decide))
    | exact Or.inl rfl
    | exact Or.inr ⟨in_frame hW (by decide), rfl⟩
    | split
    | extract_lets
    | refine Frame.set_safety ?_ (in_frame hW (by decide))
    | apply frame_mk

theorem storeProof_frame {s : State} {u : Nat} {result : Bytes} (hF : Frame W base s) (hW : [.mem] ⊆ W) : Frame W base (storeProof s u result) := by
  unfold storeProof
  repeat' with_reducible first
    | assumption
    | exact List.Subset.trans (by decide) hW
    | apply State.wrN_frame
    | apply frame_foldl
    | intro _ _ _

theorem loadSig_frame {s : State} {v : Nat} {ref : ProofRef} (hF : Frame W base s) (hW : [.safety] ⊆ W) : Frame W base (loadSig s v ref) := by
  unfold loadSig
  repeat' with_reducible first
    | apply frame_ite
    | assumption
    | exact List.Subset.trans (by decide) hW
    | exact Or.inr (in_frame hW (by decide))
    | exact Or.inl rfl
    | split
    | extract_lets
    | refine Frame.set_safety ?_ (in_frame hW (by decide))
    | apply frame_mk

theorem verdictOp_frame {s : State} {core : Nat} {result : Bytes} {ref : ProofRef} (hF : Frame W base s) (hW : [.out, .fresh, .clk, .mem, .regs, .units, .plans, .vat, .press, .link, .safety, .selftest, .aon, .log, .net, .settings, .commits] ⊆ W) : Frame W base (verdictOp s core result ref) := by
  unfold verdictOp
  repeat' with_reducible first
    | apply frame_ite
    | assumption
    | exact List.Subset.trans (by decide) hW
    | apply loadSig_frame
    | apply storeProof_frame
    | apply checkEnd_frame
    | apply proofGiven_frame
    | apply proofFailed_frame
    | split
    | extract_lets

theorem proofTimeoutOp_frame {s : State} {core : Nat} (hF : Frame W base s) (hW : [.out, .fresh, .clk, .mem, .regs, .units, .plans, .vat, .press, .link, .safety, .selftest, .aon, .log, .net, .settings, .commits] ⊆ W) : Frame W base (proofTimeoutOp s core) := by
  unfold proofTimeoutOp
  repeat' with_reducible first
    | apply frame_ite
    | assumption
    | exact List.Subset.trans (by decide) hW
    | apply abortUnit_frame
    | apply State.setQueue_frame
    | apply proofFailed_frame
    | split
    | extract_lets

theorem engineFail_frame {s : State} {q cnt code : Nat} (hF : Frame W base s) (hW : [.out, .fresh, .mem, .regs, .units, .plans, .press, .safety, .selftest, .aon, .log, .net] ⊆ W) : Frame W base (engineFail s q cnt code) := by
  unfold engineFail
  repeat' with_reducible first
    | assumption
    | exact List.Subset.trans (by decide) hW
    | apply unitLog_frame
    | apply State.bump_frame
    | apply failItem_frame
    | split
    | extract_lets

theorem spectralMismatchOp_frame {s : State} {q : Nat} (hF : Frame W base s) (hW : [.out, .fresh, .mem, .regs, .units, .plans, .press, .safety, .selftest, .aon, .log, .net] ⊆ W) : Frame W base (spectralMismatchOp s q) := by
  unfold spectralMismatchOp
  repeat' with_reducible first
    | apply frame_ite
    | assumption
    | exact List.Subset.trans (by decide) hW
    | apply engineFail_frame
    | split
    | extract_lets

theorem spectralParityOp_frame {s : State} {q : Nat} (hF : Frame W base s) (hW : [.out, .fresh, .mem, .regs, .units, .plans, .press, .safety, .selftest, .aon, .log, .net] ⊆ W) : Frame W base (spectralParityOp s q) := by
  unfold spectralParityOp
  repeat' with_reducible first
    | assumption
    | exact List.Subset.trans (by decide) hW
    | apply engineFail_frame

theorem sharedFail_frame {s : State} {q cnt code unit : Nat} (hF : Frame W base s) (hW : [.out, .fresh, .mem, .regs, .units, .plans, .press, .safety, .selftest, .aon, .log, .net] ⊆ W) : Frame W base (sharedFail s q cnt code unit) := by
  unfold sharedFail
  repeat' with_reducible first
    | assumption
    | exact List.Subset.trans (by decide) hW
    | apply failStep_frame
    | apply unitLog_frame
    | apply State.bump_frame
    | split
    | extract_lets

theorem sieveMismatchOp_frame {s : State} {p : Nat} (hF : Frame W base s) (hW : [.out, .fresh, .mem, .regs, .units, .plans, .press, .safety, .selftest, .aon, .log, .net] ⊆ W) : Frame W base (sieveMismatchOp s p) := by
  unfold sieveMismatchOp
  repeat' with_reducible first
    | apply frame_ite
    | assumption
    | exact List.Subset.trans (by decide) hW
    | apply sharedFail_frame
    | split
    | extract_lets

theorem tagMismatchOp_frame {s : State} {q : Nat} (hF : Frame W base s) (hW : [.out, .fresh, .mem, .regs, .units, .plans, .press, .safety, .selftest, .aon, .log, .net] ⊆ W) : Frame W base (tagMismatchOp s q) := by
  unfold tagMismatchOp
  repeat' with_reducible first
    | assumption
    | exact List.Subset.trans (by decide) hW
    | apply sharedFail_frame

theorem tallyDupOp_frame {s : State} {p : Nat} (hF : Frame W base s) (hW : [.out, .fresh, .mem, .regs, .units, .plans, .press, .safety, .selftest, .aon, .log, .net] ⊆ W) : Frame W base (tallyDupOp s p) := by
  unfold tallyDupOp
  repeat' with_reducible first
    | assumption
    | exact List.Subset.trans (by decide) hW
    | apply failStep_frame
    | apply unitLog_frame
    | apply State.bump_frame

theorem itemCrcOp_frame {s : State} {q : Nat} (hF : Frame W base s) (hW : [.out, .fresh, .mem, .regs, .units, .plans, .press, .safety, .selftest, .aon, .log, .net] ⊆ W) : Frame W base (itemCrcOp s q) := by
  unfold itemCrcOp
  repeat' with_reducible first
    | apply frame_ite
    | assumption
    | exact List.Subset.trans (by decide) hW
    | apply crcRefuse_frame
    | split
    | extract_lets

theorem clockCheckOp_frame {s : State} {pll : Nat} {ppm : Int} (hF : Frame W base s) (hW : [.out, .fresh, .mem, .regs, .units, .plans, .press, .safety, .selftest, .aon, .log, .net] ⊆ W) : Frame W base (clockCheckOp s pll ppm) := by
  unfold clockCheckOp
  repeat' with_reducible first
    | apply frame_ite
    | assumption
    | exact List.Subset.trans (by decide) hW
    | apply deviceSafe_frame
    | apply State.logEntry_frame
    | apply unitLog_frame
    | apply State.bump_frame
    | apply failUnit_frame
    | apply frame_foldl
    | intro _ _ _
    | split
    | extract_lets

theorem decisionOp_frame {s : State} {p : Nat} (hF : Frame W base s) (hW : [.out, .fresh, .clk, .mem, .regs, .units, .plans, .vat, .press, .link, .safety, .selftest, .aon, .log, .net, .settings, .commits] ⊆ W) : Frame W base (decisionOp s p) := by
  unfold decisionOp
  repeat' with_reducible first
    | apply frame_ite
    | assumption
    | exact List.Subset.trans (by decide) hW
    | apply claimStrike_frame
    | apply declareInvalid_frame
    | apply replayStep_frame
    | split
    | extract_lets

theorem backstopOp_frame {s : State} {p : Nat} (hF : Frame W base s) (hW : [.out, .fresh, .mem, .regs, .units, .plans, .press, .safety, .selftest, .aon, .log, .net] ⊆ W) : Frame W base (backstopOp s p) := by
  unfold backstopOp
  repeat' with_reducible first
    | apply frame_ite
    | assumption
    | exact List.Subset.trans (by decide) hW
    | apply declareInvalid_frame
    | apply State.bump_frame
    | apply State.logEntry_frame
    | split
    | extract_lets

theorem strikeExpiryOp_frame {s : State} {u : UnitId} (hF : Frame W base s) (hW : [.units] ⊆ W) : Frame W base (strikeExpiryOp s u) := by
  unfold strikeExpiryOp
  repeat' with_reducible first
    | assumption
    | exact List.Subset.trans (by decide) hW
    | apply State.setCore_frame
    | apply State.setEngine_frame
    | split
    | extract_lets

theorem holdDegradedOp_frame {s : State} (hF : Frame W base s) (hW : [.fresh, .regs, .safety, .log] ⊆ W) : Frame W base (holdDegradedOp s) := by
  unfold holdDegradedOp
  repeat' with_reducible first
    | apply frame_ite
    | assumption
    | exact List.Subset.trans (by decide) hW
    | apply State.logEntry_frame
    | exact Or.inr (in_frame hW (by decide))
    | exact Or.inl rfl
    | split
    | extract_lets
    | refine Frame.set_safety ?_ (in_frame hW (by decide))
    | apply frame_mk

theorem holdLimitSpOp_frame {s : State} (hF : Frame W base s) (hW : [.fresh, .regs, .plans, .safety, .log] ⊆ W) : Frame W base (holdLimitSpOp s) := by
  unfold holdLimitSpOp
  repeat' with_reducible first
    | apply frame_ite
    | assumption
    | exact List.Subset.trans (by decide) hW
    | apply deviceSafe_frame
    | split
    | extract_lets

theorem sentinelOp_frame {s : State} {tap : BitVec 16} (hF : Frame W base s) (hW : [.out, .fresh, .regs, .plans, .safety, .log] ⊆ W) : Frame W base (sentinelOp s tap) := by
  unfold sentinelOp
  repeat' with_reducible first
    | apply frame_ite
    | assumption
    | exact List.Subset.trans (by decide) hW
    | apply State.emit_frame
    | apply State.bump_frame
    | apply deviceSafe_frame
    | apply State.logEntry_frame
    | exact Or.inr (in_frame hW (by decide))
    | exact Or.inl rfl
    | split
    | extract_lets
    | refine Frame.set_safety ?_ (in_frame hW (by decide))
    | apply frame_mk

theorem safeCmdWrite_frame {s : State} {value : Nat} (hF : Frame W base s) (hW : [.regs, .plans] ⊆ W) : Frame W base (safeCmdWrite s value) := by
  unfold safeCmdWrite
  repeat' with_reducible first
    | apply frame_ite
    | assumption
    | exact List.Subset.trans (by decide) hW
    | apply State.pageErr_frame
    | apply State.modPart_frame
    | apply frame_foldl
    | intro _ _ _
    | split
    | extract_lets

theorem rotationStartOp_frame {s : State} (hF : Frame W base s) (hW : [.selftest] ⊆ W) : Frame W base (rotationStartOp s) := by
  unfold rotationStartOp
  repeat' with_reducible first
    | apply frame_ite
    | assumption
    | exact List.Subset.trans (by decide) hW
    | exact Or.inr (in_frame hW (by decide))
    | exact Or.inl rfl
    | split
    | extract_lets
    | refine Frame.set_selftest ?_ (in_frame hW (by decide))
    | apply frame_mk

theorem sharedChecker_frame {s : State} (hF : Frame W base s) (hW : [.out, .fresh, .mem, .regs, .units, .plans, .press, .safety, .selftest, .aon, .log, .net] ⊆ W) : Frame W base (sharedChecker s) := by
  unfold sharedChecker
  repeat' with_reducible first
    | assumption
    | exact List.Subset.trans (by decide) hW
    | apply State.logEntry_frame
    | apply enterSafe_frame
    | apply declareInvalid_frame
    | exact Or.inr (in_frame hW (by decide))
    | exact Or.inl rfl
    | apply frame_foldl
    | intro _ _ _
    | refine Frame.set_safety ?_ (in_frame hW (by decide))
    | apply frame_mk

theorem checkerFailed_frame {s : State} {c : Checker} (hF : Frame W base s) (hW : [.out, .fresh, .mem, .regs, .units, .plans, .press, .safety, .selftest, .aon, .log, .net] ⊆ W) : Frame W base (checkerFailed s c) := by
  unfold checkerFailed
  repeat' with_reducible first
    | assumption
    | exact List.Subset.trans (by decide) hW
    | apply fenceUnit_frame
    | apply fenceEngineUnit_frame
    | apply deviceSafe_frame
    | apply State.logEntry_frame
    | apply sharedChecker_frame
    | apply frame_foldl
    | intro _ _ _
    | split
    | extract_lets

theorem testResultOp_frame {s : State} {c : Checker} {ok : Bool} (hF : Frame W base s) (hW : [.out, .fresh, .mem, .regs, .units, .plans, .press, .safety, .selftest, .aon, .log, .net] ⊆ W) : Frame W base (testResultOp s c ok) := by
  unfold testResultOp
  repeat' with_reducible first
    | apply frame_ite
    | assumption
    | exact List.Subset.trans (by decide) hW
    | apply endRotation_frame
    | apply checkerFailed_frame
    | apply State.bump_frame
    | exact Or.inr (in_frame hW (by decide))
    | exact Or.inl rfl
    | split
    | extract_lets
    | refine Frame.set_selftest ?_ (in_frame hW (by decide))
    | apply frame_mk

theorem rotationLateOp_frame {s : State} (hF : Frame W base s) (hW : [.fresh, .regs, .selftest, .log] ⊆ W) : Frame W base (rotationLateOp s) := by
  unfold rotationLateOp
  repeat' with_reducible first
    | apply frame_ite
    | assumption
    | exact List.Subset.trans (by decide) hW
    | apply State.bump_frame
    | apply State.logEntry_frame
    | exact Or.inr (in_frame hW (by decide))
    | exact Or.inl rfl
    | split
    | extract_lets
    | refine Frame.set_selftest ?_ (in_frame hW (by decide))
    | apply frame_mk

theorem chunkGrantOp_frame {s : State} {n : Nat} (hF : Frame W base s) (hW : [.fresh, .clk, .mem, .regs, .units, .plans, .vat, .press, .net, .settings, .commits] ⊆ W) : Frame W base (chunkGrantOp s n) := by
  unfold chunkGrantOp
  repeat' with_reducible first
    | apply frame_ite
    | assumption
    | exact List.Subset.trans (by decide) hW
    | apply settleTimed_frame
    | apply modUnit_frame
    | apply endFiller_frame
    | apply wakeUnit_frame
    | apply account_frame
    | split
    | extract_lets

theorem chunkStrike_frame {s : State} {n : Nat} (hF : Frame W base s) (hW : [.out, .fresh, .mem, .regs, .units, .plans, .press, .safety, .selftest, .aon, .log, .net] ⊆ W) : Frame W base (chunkStrike s n) := by
  unfold chunkStrike
  repeat' with_reducible first
    | apply frame_ite
    | assumption
    | exact List.Subset.trans (by decide) hW
    | apply State.bump_frame
    | apply State.setCore_frame
    | apply fenceUnit_frame
    | apply unitLog_frame
    | split
    | extract_lets

theorem coverageDone_frame {s : State} {n : Nat} (hF : Frame W base s) (hW : [.fresh, .regs, .units, .log] ⊆ W) : Frame W base (coverageDone s n) := by
  unfold coverageDone
  repeat' with_reducible first
    | apply frame_ite
    | assumption
    | exact List.Subset.trans (by decide) hW
    | apply State.setCore_frame
    | apply unitLog_frame
    | split
    | extract_lets

theorem chunkPassed_frame {s : State} {n : Nat} {bank : Nat} (hF : Frame W base s) (hW : [.fresh, .regs, .units, .log] ⊆ W) : Frame W base (chunkPassed s n bank) := by
  unfold chunkPassed
  repeat' with_reducible first
    | apply frame_ite
    | assumption
    | exact List.Subset.trans (by decide) hW
    | apply State.setCore_frame
    | apply coverageDone_frame
    | split
    | extract_lets

theorem chunkCompleteOp_frame {s : State} {n : Nat} {pass : Bool} (hF : Frame W base s) (hW : [.out, .fresh, .mem, .regs, .units, .plans, .press, .safety, .selftest, .aon, .log, .net] ⊆ W) : Frame W base (chunkCompleteOp s n pass) := by
  unfold chunkCompleteOp
  repeat' with_reducible first
    | apply frame_ite
    | assumption
    | exact List.Subset.trans (by decide) hW
    | apply account_frame
    | apply State.setCore_frame
    | apply settleCore_frame
    | apply undefUnit_frame
    | apply State.bump_frame
    | apply chunkPassed_frame
    | apply chunkStrike_frame
    | exact Or.inr (in_frame hW (by decide))
    | exact Or.inl rfl
    | split
    | extract_lets
    | refine Frame.set_selftest ?_ (in_frame hW (by decide))
    | apply frame_mk

theorem overdueOp_frame {s : State} {n : Nat} (hF : Frame W base s) (hW : [.out, .fresh, .mem, .regs, .units, .plans, .press, .selftest, .log, .net] ⊆ W) : Frame W base (overdueOp s n) := by
  unfold overdueOp
  repeat' with_reducible first
    | apply frame_ite
    | assumption
    | exact List.Subset.trans (by decide) hW
    | apply unitLog_frame
    | apply State.setCore_frame
    | apply State.bump_frame
    | apply moveCore_frame
    | split
    | extract_lets

theorem coverageRunOp_frame {s : State} {n : Nat} {pass : Bool} (hF : Frame W base s) (hW : [.out, .fresh, .mem, .regs, .units, .plans, .press, .safety, .selftest, .aon, .boot, .log, .net] ⊆ W) : Frame W base (coverageRunOp s n pass) := by
  unfold coverageRunOp
  repeat' with_reducible first
    | apply frame_ite
    | assumption
    | exact List.Subset.trans (by decide) hW
    | apply account_frame
    | apply dueFences_frame
    | apply coverageDone_frame
    | apply settleCore_frame
    | apply powerOff_frame
    | apply wakeUnit_frame
    | exact Or.inr (in_frame hW (by decide))
    | exact Or.inl rfl
    | split
    | extract_lets
    | refine Frame.set_boot ?_ (in_frame hW (by decide))
    | apply frame_mk

theorem latchStCore_frame {s : State} {n : Nat} (hF : Frame W base s) (hW : [.regs] ⊆ W) : Frame W base (latchStCore s n) := by
  unfold latchStCore
  repeat' with_reducible first
    | assumption
    | exact List.Subset.trans (by decide) hW
    | apply setLatch_frame

theorem patternVerifiedOp_frame {s : State} (hF : Frame W base s) (hW : [.regs, .selftest] ⊆ W) : Frame W base (patternVerifiedOp s) := by
  unfold patternVerifiedOp
  repeat' with_reducible first
    | apply frame_ite
    | assumption
    | exact List.Subset.trans (by decide) hW
    | apply State.pageErr_frame
    | exact Or.inr (in_frame hW (by decide))
    | exact Or.inl rfl
    | split
    | extract_lets
    | refine Frame.set_selftest ?_ (in_frame hW (by decide))
    | apply frame_mk

theorem patternActivate_frame {s : State} (hF : Frame W base s) (hW : [.fresh, .regs, .units, .selftest, .log] ⊆ W) : Frame W base (patternActivate s) := by
  unfold patternActivate
  repeat' with_reducible first
    | apply frame_ite
    | assumption
    | exact List.Subset.trans (by decide) hW
    | apply State.setCore_frame
    | apply State.logEntry_frame
    | exact Or.inr (in_frame hW (by decide))
    | exact Or.inl rfl
    | apply frame_foldl
    | intro _ _ _
    | split
    | extract_lets
    | refine Frame.set_regs ?_ (in_frame hW (by decide))
    | refine Frame.set_selftest ?_ (in_frame hW (by decide))
    | apply frame_mk

theorem stCommand_frame {s : State} {value arg : Nat} (hF : Frame W base s) (hW : [.out, .fresh, .mem, .regs, .units, .plans, .press, .safety, .selftest, .aon, .log, .net] ⊆ W) : Frame W base (stCommand s value arg) := by
  unfold stCommand
  repeat' with_reducible first
    | apply frame_ite
    | assumption
    | exact List.Subset.trans (by decide) hW
    | apply patternActivate_frame
    | apply State.pageErr_frame
    | apply fenceUnit_frame
    | exact Or.inr (in_frame hW (by decide))
    | exact Or.inl rfl
    | split
    | extract_lets
    | refine Frame.set_selftest ?_ (in_frame hW (by decide))
    | apply frame_mk

theorem stCmdWrite_frame {s : State} {value : Nat} (hF : Frame W base s) (hW : [.out, .fresh, .mem, .regs, .units, .plans, .press, .safety, .selftest, .aon, .log, .net] ⊆ W) : Frame W base (stCmdWrite s value) := by
  unfold stCmdWrite
  repeat' with_reducible first
    | apply frame_ite
    | assumption
    | exact List.Subset.trans (by decide) hW
    | apply State.pageErr_frame
    | apply stCommand_frame
    | exact Or.inr (in_frame hW (by decide))
    | exact Or.inl rfl
    | split
    | extract_lets
    | refine Frame.set_selftest ?_ (in_frame hW (by decide))
    | apply frame_mk

theorem serveStCmd_frame {s : State} (hF : Frame W base s) (hW : [.out, .fresh, .mem, .regs, .units, .plans, .press, .safety, .selftest, .aon, .log, .net] ⊆ W) : Frame W base (serveStCmd s) := by
  unfold serveStCmd
  repeat' with_reducible first
    | assumption
    | exact List.Subset.trans (by decide) hW
    | apply dueFences_frame
    | apply payStrikes_frame
    | apply stCommand_frame
    | exact Or.inr (in_frame hW (by decide))
    | exact Or.inl rfl
    | split
    | extract_lets
    | refine Frame.set_selftest ?_ (in_frame hW (by decide))
    | apply frame_mk

theorem setFrequencies_frame {s : State} (hF : Frame W base s) (hW : [.fresh, .regs, .units, .power] ⊆ W) : Frame W base (setFrequencies s) := by
  unfold setFrequencies
  repeat' with_reducible first
    | assumption
    | exact List.Subset.trans (by decide) hW
    | apply chooseFreq_frame
    | exact Or.inr (in_frame hW (by decide))
    | exact Or.inl rfl
    | apply frame_foldl
    | intro _ _ _
    | refine Frame.set_power ?_ (in_frame hW (by decide))
    | apply frame_mk

theorem hwLower_frame {s : State} {i cap : Nat} (hF : Frame W base s) (hW : [.fresh, .regs, .units] ⊆ W) : Frame W base (hwLower s i cap) := by
  unfold hwLower
  repeat' with_reducible first
    | assumption
    | exact List.Subset.trans (by decide) hW
    | apply chooseFreq_frame
    | apply State.setPair_frame

theorem lowerGroup_frame {s : State} {g : Nat × Nat} (hF : Frame W base s) (hW : [.units, .power] ⊆ W) : Frame W base (lowerGroup s g) := by
  unfold lowerGroup
  repeat' with_reducible first
    | apply frame_ite
    | assumption
    | exact List.Subset.trans (by decide) hW
    | apply State.setPair_frame
    | exact Or.inr (in_frame hW (by decide))
    | exact Or.inl rfl
    | apply frame_foldl
    | intro _ _ _
    | split
    | extract_lets
    | refine Frame.set_power ?_ (in_frame hW (by decide))
    | apply frame_mk

theorem logReduce3_frame {s : State} (hF : Frame W base s) (hW : [.fresh, .regs, .log] ⊆ W) : Frame W base (logReduce3 s) := by
  unfold logReduce3
  repeat' with_reducible first
    | apply frame_ite
    | assumption
    | exact List.Subset.trans (by decide) hW
    | apply State.logEntry_frame
    | exact Or.inr (in_frame hW (by decide))
    | exact Or.inl rfl
    | exact Or.inr ⟨in_frame hW (by decide), le_refl _⟩
    | split
    | extract_lets
    | apply frame_mk

theorem lowerFirst_frame {s : State} (hF : Frame W base s) (hW : [.fresh, .regs, .units, .log, .power] ⊆ W) : Frame W base (lowerFirst s) := by
  unfold lowerFirst
  repeat' with_reducible first
    | apply frame_ite
    | assumption
    | exact List.Subset.trans (by decide) hW
    | apply lowerGroup_frame
    | apply logReduce3_frame
    | split
    | extract_lets

theorem raiseLast_frame {s : State} (hF : Frame W base s) (hW : [.units] ⊆ W) : Frame W base (raiseLast s) := by
  unfold raiseLast
  repeat' with_reducible first
    | assumption
    | exact List.Subset.trans (by decide) hW
    | apply State.setPair_frame
    | apply frame_foldl
    | intro _ _ _
    | split
    | extract_lets

theorem hintLower_frame {s : State} (hF : Frame W base s) (hW : [.units, .power] ⊆ W) : Frame W base (hintLower s) := by
  unfold hintLower
  repeat' with_reducible first
    | apply frame_ite
    | assumption
    | exact List.Subset.trans (by decide) hW
    | apply lowerGroup_frame
    | apply frame_foldl
    | intro _ _ _
    | split
    | extract_lets

theorem hwRise_frame {s : State} (hF : Frame W base s) (hW : [.units] ⊆ W) : Frame W base (hwRise s) := by
  unfold hwRise
  repeat' with_reducible first
    | apply frame_ite
    | assumption
    | exact List.Subset.trans (by decide) hW
    | apply State.setPair_frame
    | apply frame_foldl
    | intro _ _ _
    | split
    | extract_lets

theorem powerLoopOp_frame {s : State} {m : PowerSample} (hF : Frame W base s) (hW : [.fresh, .regs, .units, .log, .power] ⊆ W) : Frame W base (powerLoopOp s m) := by
  unfold powerLoopOp
  repeat' with_reducible first
    | apply frame_ite
    | assumption
    | exact List.Subset.trans (by decide) hW
    | apply hwRise_frame
    | apply State.bump_frame
    | apply lowerFirst_frame
    | apply raiseLast_frame
    | apply hintLower_frame
    | apply setFrequencies_frame
    | exact Or.inr (in_frame hW (by decide))
    | exact Or.inl rfl
    | split
    | extract_lets
    | refine Frame.set_power ?_ (in_frame hW (by decide))
    | apply frame_mk

theorem hintOp_frame {s : State} {p idx : Nat} (hF : Frame W base s) (hW : [.fresh, .regs, .units, .power] ⊆ W) : Frame W base (hintOp s p idx) := by
  unfold hintOp
  repeat' with_reducible first
    | apply frame_ite
    | assumption
    | exact List.Subset.trans (by decide) hW
    | apply setFrequencies_frame
    | apply hintLower_frame
    | exact Or.inr (in_frame hW (by decide))
    | exact Or.inl rfl
    | split
    | extract_lets
    | refine Frame.set_power ?_ (in_frame hW (by decide))
    | apply frame_mk

theorem emergEnd_frame {s : State} {was : Bool} (hF : Frame W base s) (hW : [.fresh, .regs, .boot, .log] ⊆ W) : Frame W base (emergEnd s was) := by
  unfold emergEnd
  repeat' with_reducible first
    | apply frame_ite
    | assumption
    | exact List.Subset.trans (by decide) hW
    | apply State.logEntry_frame
    | exact Or.inr (in_frame hW (by decide))
    | exact Or.inl rfl
    | split
    | extract_lets
    | refine Frame.set_boot ?_ (in_frame hW (by decide))
    | apply frame_mk

theorem thermalEnd_frame {s : State} (hF : Frame W base s) (hW : [.fresh, .regs, .boot, .log, .power] ⊆ W) : Frame W base (thermalEnd s) := by
  unfold thermalEnd
  repeat' with_reducible first
    | apply frame_ite
    | assumption
    | exact List.Subset.trans (by decide) hW
    | apply emergEnd_frame
    | exact Or.inr (in_frame hW (by decide))
    | exact Or.inl rfl
    | split
    | extract_lets
    | refine Frame.set_power ?_ (in_frame hW (by decide))
    | apply frame_mk

theorem setSensors_frame {s : State} {q : Nat} {temps : List Int} (hF : Frame W base s) (hW : [.power] ⊆ W) : Frame W base (setSensors s q temps) := by
  unfold setSensors
  repeat' with_reducible first
    | apply frame_ite
    | assumption
    | exact List.Subset.trans (by decide) hW
    | exact Or.inr (in_frame hW (by decide))
    | exact Or.inl rfl
    | split
    | extract_lets
    | refine Frame.set_power ?_ (in_frame hW (by decide))
    | apply frame_mk

theorem moveTherm_frame {s : State} {q : Nat} {f : Nat → Nat} (hF : Frame W base s) (hW : [.units] ⊆ W) : Frame W base (moveTherm s q f) := by
  unfold moveTherm
  repeat' with_reducible first
    | apply frame_ite
    | assumption
    | exact List.Subset.trans (by decide) hW
    | apply State.setPair_frame
    | apply frame_foldl
    | intro _ _ _
    | split
    | extract_lets

theorem thermalLoopOp_frame {s : State} {q : Nat} {temps : List Int} (hF : Frame W base s) (hW : [.fresh, .regs, .units, .boot, .log, .power] ⊆ W) : Frame W base (thermalLoopOp s q temps) := by
  unfold thermalLoopOp
  repeat' with_reducible first
    | apply frame_ite
    | assumption
    | exact List.Subset.trans (by decide) hW
    | apply thermalEnd_frame
    | apply setSensors_frame
    | apply State.bump_frame
    | apply moveTherm_frame
    | apply setFrequencies_frame
    | exact Or.inr (in_frame hW (by decide))
    | exact Or.inl rfl
    | split
    | extract_lets
    | refine Frame.set_power ?_ (in_frame hW (by decide))
    | apply frame_mk

theorem emergBegin_frame {s : State} {code : Nat} (hF : Frame W base s) (hW : [.fresh, .regs, .log, .power] ⊆ W) : Frame W base (emergBegin s code) := by
  unfold emergBegin
  repeat' with_reducible first
    | assumption
    | exact List.Subset.trans (by decide) hW
    | apply State.bump_frame
    | apply State.logEntry_frame
    | exact Or.inr (in_frame hW (by decide))
    | exact Or.inl rfl
    | refine Frame.set_power ?_ (in_frame hW (by decide))
    | apply frame_mk

theorem throttleStartOp_frame {s : State} {sensor : Nat} {temp : Int} (hF : Frame W base s) (hW : [.fresh, .regs, .log, .power] ⊆ W) : Frame W base (throttleStartOp s sensor temp) := by
  unfold throttleStartOp
  repeat' with_reducible first
    | apply frame_ite
    | assumption
    | exact List.Subset.trans (by decide) hW
    | apply setSensors_frame
    | apply State.bump_frame
    | apply emergBegin_frame
    | apply State.logEntry_frame
    | exact Or.inr (in_frame hW (by decide))
    | exact Or.inl rfl
    | split
    | extract_lets
    | refine Frame.set_power ?_ (in_frame hW (by decide))
    | apply frame_mk

theorem throttleStepOp_frame {s : State} {q : Nat} (hF : Frame W base s) (hW : [.fresh, .regs, .units] ⊆ W) : Frame W base (throttleStepOp s q) := by
  unfold throttleStepOp
  repeat' with_reducible first
    | apply frame_ite
    | assumption
    | exact List.Subset.trans (by decide) hW
    | apply hwLower_frame
    | apply frame_foldl
    | intro _ _ _
    | split
    | extract_lets

theorem throttleClearOp_frame {s : State} {q : Nat} {temps : List Int} (hF : Frame W base s) (hW : [.fresh, .regs, .boot, .log, .power] ⊆ W) : Frame W base (throttleClearOp s q temps) := by
  unfold throttleClearOp
  repeat' with_reducible first
    | apply frame_ite
    | assumption
    | exact List.Subset.trans (by decide) hW
    | apply setSensors_frame
    | apply thermalEnd_frame
    | exact Or.inr (in_frame hW (by decide))
    | exact Or.inl rfl
    | split
    | extract_lets
    | refine Frame.set_power ?_ (in_frame hW (by decide))
    | apply frame_mk

theorem currentOp_frame {s : State} {rail mA : Nat} (hF : Frame W base s) (hW : [.fresh, .regs, .units, .log, .power] ⊆ W) : Frame W base (currentOp s rail mA) := by
  unfold currentOp
  repeat' with_reducible first
    | apply frame_ite
    | assumption
    | exact List.Subset.trans (by decide) hW
    | apply hwLower_frame
    | apply emergBegin_frame
    | exact Or.inr (in_frame hW (by decide))
    | exact Or.inl rfl
    | apply frame_foldl
    | intro _ _ _
    | split
    | extract_lets
    | refine Frame.set_power ?_ (in_frame hW (by decide))
    | apply frame_mk

theorem currentClearOp_frame {s : State} {rail : Nat} (hF : Frame W base s) (hW : [.fresh, .regs, .boot, .log, .power] ⊆ W) : Frame W base (currentClearOp s rail) := by
  unfold currentClearOp
  repeat' with_reducible first
    | apply frame_ite
    | assumption
    | exact List.Subset.trans (by decide) hW
    | apply emergEnd_frame
    | exact Or.inr (in_frame hW (by decide))
    | exact Or.inl rfl
    | split
    | extract_lets
    | refine Frame.set_power ?_ (in_frame hW (by decide))
    | apply frame_mk

theorem supplyEmergOp_frame {s : State} (hF : Frame W base s) (hW : [.fresh, .regs, .units, .log, .power] ⊆ W) : Frame W base (supplyEmergOp s) := by
  unfold supplyEmergOp
  repeat' with_reducible first
    | apply frame_ite
    | assumption
    | exact List.Subset.trans (by decide) hW
    | apply emergBegin_frame
    | apply hwLower_frame
    | exact Or.inr (in_frame hW (by decide))
    | exact Or.inl rfl
    | apply frame_foldl
    | intro _ _ _
    | split
    | extract_lets
    | refine Frame.set_power ?_ (in_frame hW (by decide))
    | apply frame_mk

theorem supplyClearOp_frame {s : State} (hF : Frame W base s) (hW : [.fresh, .regs, .boot, .log, .power] ⊆ W) : Frame W base (supplyClearOp s) := by
  unfold supplyClearOp
  repeat' with_reducible first
    | apply frame_ite
    | assumption
    | exact List.Subset.trans (by decide) hW
    | apply emergEnd_frame
    | exact Or.inr (in_frame hW (by decide))
    | exact Or.inl rfl
    | split
    | extract_lets
    | refine Frame.set_power ?_ (in_frame hW (by decide))
    | apply frame_mk

theorem setFiller_frame {s : State} {u n : Nat} (hF : Frame W base s) (hW : [.fresh, .regs, .units] ⊆ W) : Frame W base (setFiller s u n) := by
  unfold setFiller
  repeat' with_reducible first
    | apply frame_ite
    | assumption
    | exact List.Subset.trans (by decide) hW
    | apply settleUnit_frame
    | apply endFiller_frame
    | apply modUnit_frame
    | apply account_frame
    | apply lapse_frame
    | apply State.setPair_frame
    | exact Or.inr (in_frame hW (by decide))
    | exact Or.inl rfl
    | split
    | extract_lets
    | apply frame_mk

theorem fillerOp_frame {s : State} {iWork : Nat} (hF : Frame W base s) (hW : [.fresh, .regs, .units, .power] ⊆ W) : Frame W base (fillerOp s iWork) := by
  unfold fillerOp
  repeat' with_reducible first
    | apply frame_ite
    | assumption
    | exact List.Subset.trans (by decide) hW
    | apply setFiller_frame
    | apply State.bump_frame
    | exact Or.inr (in_frame hW (by decide))
    | exact Or.inl rfl
    | apply frame_foldl
    | intro _ _ _
    | split
    | extract_lets
    | refine Frame.set_power ?_ (in_frame hW (by decide))
    | apply frame_mk

theorem writeHeader_frame {s : State} {pref : Bool} (hF : Frame W base s) (hW : [.mem, .boot] ⊆ W) : Frame W base (writeHeader s pref) := by
  unfold writeHeader
  extract_lets +onlyGivenNames s1
  have h1 : Frame W base s1 := State.wrN_frame hF (List.Subset.trans (by decide) hW)
  exact Frame.set_boot h1 (in_frame hW (by decide))

theorem applyHostPorts_frame {s : State} {rs : List (Nat × Bytes)} (hF : Frame W base s) (hW : [.regs, .settings] ⊆ W) : Frame W base (applyHostPorts s rs) := by
  unfold applyHostPorts
  repeat' with_reducible first
    | assumption
    | exact List.Subset.trans (by decide) hW
    | apply State.setBoth_frame
    | apply frame_foldl
    | intro _ _ _
    | split
    | extract_lets

theorem applyPower_frame {s : State} {rs : List (Nat × Bytes)} (hF : Frame W base s) (hW : [.regs, .settings] ⊆ W) : Frame W base (applyPower s rs) := by
  unfold applyPower
  repeat' with_reducible first
    | assumption
    | exact List.Subset.trans (by decide) hW
    | apply State.setBoth_frame
    | split
    | extract_lets

theorem applyConfig_frame {s : State} (hF : Frame W base s) (hW : [.fresh, .regs, .units, .boot, .log, .net, .settings] ⊆ W) : Frame W base (applyConfig s) := by
  unfold applyConfig
  repeat' with_reducible first
    | apply frame_ite
    | assumption
    | exact List.Subset.trans (by decide) hW
    | apply State.logEntry_frame
    | apply State.setPair_frame
    | apply applyPower_frame
    | apply applyHostPorts_frame
    | apply State.setBoth_frame
    | apply State.setOptical_frame
    | exact Or.inr (in_frame hW (by decide))
    | exact Or.inl rfl
    | apply frame_foldl
    | intro _ _ _
    | split
    | extract_lets
    | refine Frame.set_boot ?_ (in_frame hW (by decide))
    | apply frame_mk

theorem lose_frame {s : State} {supply cold dark : Bool} (hF : Frame W base s)
    (hW : [.clk, .mem, .regs, .units, .plans, .vat, .press, .link, .safety, .selftest, .aon, .boot, .procs, .log, .power, .net, .settings, .commits] ⊆ W) :
    Frame W base (lose s supply cold dark) := by
  unfold lose
  extract_lets pw
  exact frame_mk hF (.inl rfl) (.inl rfl) (.inr ⟨in_frame hW (by decide), rfl⟩) (.inl rfl) (.inl rfl)
    (.inr ⟨in_frame hW (by decide), fun g => Memory.wf_filter g _⟩) (.inr (in_frame hW (by decide))) (.inr (in_frame hW (by decide)))
    (.inr (in_frame hW (by decide))) (.inr (in_frame hW (by decide))) (.inr (in_frame hW (by decide))) (.inr (in_frame hW (by decide)))
    (.inr (in_frame hW (by decide))) (.inr (in_frame hW (by decide))) (.inr (in_frame hW (by decide))) (.inr (in_frame hW (by decide)))
    (.inr (in_frame hW (by decide))) (.inr ⟨in_frame hW (by decide), le_refl _⟩) (.inr (in_frame hW (by decide)))
    (.inr (in_frame hW (by decide)))

theorem enterRecovery_frame {s : State} (hF : Frame W base s) (hW : [.fresh, .phase, .regs, .safety, .boot, .log, .settings] ⊆ W) : Frame W base (enterRecovery s) := by
  unfold enterRecovery
  repeat' with_reducible first
    | apply frame_ite
    | assumption
    | exact List.Subset.trans (by decide) hW
    | apply State.logEntry_frame
    | apply applyHostPorts_frame
    | exact Or.inr (in_frame hW (by decide))
    | exact Or.inl rfl
    | split
    | extract_lets
    | refine Frame.set_phase ?_ (in_frame hW (by decide))
    | refine Frame.set_safety ?_ (in_frame hW (by decide))
    | refine Frame.set_boot ?_ (in_frame hW (by decide))
    | apply frame_mk

theorem startFrom_frame {s : State} {b : Bool} (hF : Frame W base s) (hW : [.boot] ⊆ W) : Frame W base (startFrom s b) := by
  unfold startFrom
  repeat' with_reducible first
    | assumption
    | exact List.Subset.trans (by decide) hW
    | exact Or.inr (in_frame hW (by decide))
    | exact Or.inl rfl
    | refine Frame.set_boot ?_ (in_frame hW (by decide))
    | apply frame_mk

theorem romPick_frame {s : State} {pref : Bool} (hF : Frame W base s) (hW : [.fresh, .phase, .mem, .regs, .safety, .boot, .log, .settings] ⊆ W) : Frame W base (romPick s pref) := by
  unfold romPick
  repeat' with_reducible first
    | apply frame_ite
    | assumption
    | exact List.Subset.trans (by decide) hW
    | apply enterRecovery_frame
    | apply writeHeader_frame
    | apply startFrom_frame
    | apply State.bump_frame
    | apply State.logEntry_frame
    | exact Or.inr (in_frame hW (by decide))
    | exact Or.inl rfl
    | split
    | extract_lets
    | refine Frame.set_boot ?_ (in_frame hW (by decide))
    | apply frame_mk

theorem romWith_frame {s : State} {h : Option (Nat × Nat × Bool)} (hF : Frame W base s) (hW : [.fresh, .phase, .mem, .regs, .safety, .boot, .log, .settings] ⊆ W) : Frame W base (romWith s h) := by
  unfold romWith
  repeat' with_reducible first
    | assumption
    | exact List.Subset.trans (by decide) hW
    | apply romPick_frame
    | apply State.logEntry_frame
    | split
    | extract_lets

theorem romChoose_frame {s : State} (hF : Frame W base s) (hW : [.fresh, .phase, .mem, .regs, .safety, .boot, .log, .settings] ⊆ W) : Frame W base (romChoose s) := by
  unfold romChoose
  repeat' with_reducible first
    | assumption
    | exact List.Subset.trans (by decide) hW
    | apply romWith_frame

theorem startState_frame {s : State} {kind cause : Nat} {supply dark : Bool} (hF : Frame W base s) (hW : [.clk, .phase, .mem, .regs, .units, .plans, .vat, .press, .link, .safety, .selftest, .aon, .boot, .procs, .log, .power, .net, .settings, .commits] ⊆ W) : Frame W base (startState s kind cause supply dark) := by
  unfold startState
  repeat' with_reducible first
    | assumption
    | exact List.Subset.trans (by decide) hW
    | apply lose_frame
    | apply State.bump_frame
    | exact Or.inr (in_frame hW (by decide))
    | exact Or.inl rfl
    | exact Or.inr ⟨in_frame hW (by decide), rfl⟩
    | refine Frame.set_phase ?_ (in_frame hW (by decide))
    | refine Frame.set_safety ?_ (in_frame hW (by decide))
    | refine Frame.set_boot ?_ (in_frame hW (by decide))
    | apply frame_mk

theorem beginStart_frame {s : State} {kind cause : Nat} {supply dark : Bool} (hF : Frame W base s) (hW : [.fresh, .clk, .phase, .mem, .regs, .units, .plans, .vat, .press, .link, .safety, .selftest, .aon, .boot, .procs, .log, .power, .net, .settings, .commits] ⊆ W) : Frame W base (beginStart s kind cause supply dark) := by
  unfold beginStart
  repeat' with_reducible first
    | assumption
    | exact List.Subset.trans (by decide) hW
    | apply romChoose_frame
    | apply startState_frame

theorem recordFail_frame {s : State} (hF : Frame W base s) (hW : [.fresh, .regs, .aon, .log] ⊆ W) : Frame W base (recordFail s) := by
  unfold recordFail
  repeat' with_reducible first
    | assumption
    | exact List.Subset.trans (by decide) hW
    | apply State.bump_frame
    | apply State.logEntry_frame
    | exact Or.inr (in_frame hW (by decide))
    | exact Or.inl rfl
    | refine Frame.set_aon ?_ (in_frame hW (by decide))
    | apply frame_mk

theorem failStart_frame {s : State} (hF : Frame W base s) (hW : [.fresh, .clk, .phase, .mem, .regs, .units, .plans, .vat, .press, .link, .safety, .selftest, .aon, .boot, .procs, .log, .power, .net, .settings, .commits] ⊆ W) : Frame W base (failStart s) := by
  unfold failStart
  repeat' with_reducible first
    | assumption
    | exact List.Subset.trans (by decide) hW
    | apply beginStart_frame
    | apply recordFail_frame

theorem supplyInOp_frame {s : State} (hF : Frame W base s) (hW : [.fresh, .clk, .phase, .mem, .regs, .units, .plans, .vat, .press, .link, .safety, .selftest, .aon, .boot, .procs, .log, .power, .net, .settings, .commits] ⊆ W) : Frame W base (supplyInOp s) := by
  unfold supplyInOp
  repeat' with_reducible first
    | apply frame_ite
    | assumption
    | exact List.Subset.trans (by decide) hW
    | apply beginStart_frame
    | split
    | extract_lets

theorem supplyOffOp_frame {s : State} (hF : Frame W base s) (hW : [.clk, .phase, .mem, .regs, .units, .plans, .vat, .press, .link, .safety, .selftest, .aon, .boot, .procs, .log, .power, .net, .settings, .commits] ⊆ W) : Frame W base (supplyOffOp s) := by
  unfold supplyOffOp
  repeat' with_reducible first
    | assumption
    | exact List.Subset.trans (by decide) hW
    | apply lose_frame
    | exact Or.inr (in_frame hW (by decide))
    | exact Or.inl rfl
    | exact Or.inr ⟨in_frame hW (by decide), rfl⟩
    | refine Frame.set_phase ?_ (in_frame hW (by decide))
    | refine Frame.set_boot ?_ (in_frame hW (by decide))
    | apply frame_mk

theorem testFailed_frame {s : State} {n : Nat} (hF : Frame W base s) (hW : [.fresh, .regs, .aon, .log] ⊆ W) : Frame W base (testFailed s n) := by
  unfold testFailed
  repeat' with_reducible first
    | apply frame_ite
    | assumption
    | exact List.Subset.trans (by decide) hW
    | apply State.logEntry_frame
    | exact Or.inr (in_frame hW (by decide))
    | exact Or.inl rfl
    | split
    | extract_lets
    | refine Frame.set_aon ?_ (in_frame hW (by decide))
    | apply frame_mk

theorem stepsMade_frame {s : State} {reached : Nat} {found : StartReport} (hF : Frame W base s) (hW : [.fresh, .regs, .aon, .boot, .log, .power] ⊆ W) : Frame W base (stepsMade s reached found) := by
  unfold stepsMade
  repeat' with_reducible first
    | apply frame_ite
    | assumption
    | exact List.Subset.trans (by decide) hW
    | apply State.logEntry_frame
    | apply testFailed_frame
    | exact Or.inr (in_frame hW (by decide))
    | exact Or.inl rfl
    | apply frame_foldl
    | intro _ _ _
    | split
    | extract_lets
    | refine Frame.set_aon ?_ (in_frame hW (by decide))
    | refine Frame.set_boot ?_ (in_frame hW (by decide))
    | refine Frame.set_power ?_ (in_frame hW (by decide))
    | apply frame_mk

theorem startFailedOp_frame {s : State} {why : FailCause} {reached : Nat} {found : StartReport} (hF : Frame W base s) (hW : [.fresh, .clk, .phase, .mem, .regs, .units, .plans, .vat, .press, .link, .safety, .selftest, .aon, .boot, .procs, .log, .power, .net, .settings, .commits] ⊆ W) : Frame W base (startFailedOp s why reached found) := by
  unfold startFailedOp
  repeat' with_reducible first
    | apply frame_ite
    | assumption
    | exact List.Subset.trans (by decide) hW
    | apply failStart_frame
    | apply stepsMade_frame
    | split
    | extract_lets

theorem romWatchdogOp_frame {s : State} {reached : Nat} {found : StartReport} (hF : Frame W base s) (hW : [.fresh, .clk, .phase, .mem, .regs, .units, .plans, .vat, .press, .link, .safety, .selftest, .aon, .boot, .procs, .log, .power, .net, .settings, .commits] ⊆ W) : Frame W base (romWatchdogOp s reached found) := by
  unfold romWatchdogOp
  repeat' with_reducible first
    | apply frame_ite
    | assumption
    | exact List.Subset.trans (by decide) hW
    | apply failStart_frame
    | apply stepsMade_frame
    | split
    | extract_lets

theorem startGoodOp_frame {s : State} (hF : Frame W base s) (hW : [.aon, .boot] ⊆ W) : Frame W base (startGoodOp s) := by
  unfold startGoodOp
  repeat' with_reducible first
    | apply frame_ite
    | assumption
    | exact List.Subset.trans (by decide) hW
    | exact Or.inr (in_frame hW (by decide))
    | exact Or.inl rfl
    | split
    | extract_lets
    | refine Frame.set_aon ?_ (in_frame hW (by decide))
    | refine Frame.set_boot ?_ (in_frame hW (by decide))
    | apply frame_mk

theorem fenceAtStart_frame {s : State} {n : Nat} (hF : Frame W base s) (hW : [.units] ⊆ W) : Frame W base (fenceAtStart s n) := by
  unfold fenceAtStart
  repeat' with_reducible first
    | apply frame_ite
    | assumption
    | exact List.Subset.trans (by decide) hW
    | apply modUnit_frame
    | exact Or.inr (in_frame hW (by decide))
    | exact Or.inl rfl
    | split
    | extract_lets
    | apply frame_mk

theorem powerCores_frame {s : State} (hF : Frame W base s) (hW : [.units] ⊆ W) : Frame W base (powerCores s) := by
  unfold powerCores
  repeat' with_reducible first
    | apply frame_ite
    | assumption
    | exact List.Subset.trans (by decide) hW
    | apply State.setCore_frame
    | exact Or.inr (in_frame hW (by decide))
    | exact Or.inl rfl
    | apply frame_foldl
    | intro _ _ _
    | split
    | extract_lets
    | apply frame_mk

theorem runCoverage_frame {s : State} {l : List Nat} (hF : Frame W base s) (hW : [.units, .boot] ⊆ W) : Frame W base (runCoverage s l) := by
  unfold runCoverage
  repeat' with_reducible first
    | assumption
    | exact List.Subset.trans (by decide) hW
    | apply modUnit_frame
    | exact Or.inr (in_frame hW (by decide))
    | exact Or.inl rfl
    | apply frame_foldl
    | intro _ _ _
    | refine Frame.set_boot ?_ (in_frame hW (by decide))
    | apply frame_mk

theorem hostReadyOp_frame {s : State} {found : StartReport} (hF : Frame W base s)
    (hW : [.out, .fresh, .clk, .phase, .mem, .regs, .units, .plans, .vat, .press, .link, .safety, .selftest, .aon, .boot, .procs, .log, .power,
      .net, .settings, .commits] ⊆ W) : Frame W base (hostReadyOp s found) := by
  unfold hostReadyOp
  apply frame_ite hF
  apply frame_ite (failStart_frame hF (List.Subset.trans (by decide) hW))
  extract_lets warm s1 _ s2 s3 recorded s4 _ s5 s6 s7 s8 _ _ s9 _ _ s10
  have h1 : Frame W base s1 := stepsMade_frame hF (List.Subset.trans (by decide) hW)
  have h2 : Frame W base s2 := by
    apply frame_ite ?_ h1
    exact State.logEntry_frame (Frame.set_aon h1 (in_frame hW (by decide))) (List.Subset.trans (by decide) hW)
  have h3 : Frame W base s3 := applyConfig_frame h2 (List.Subset.trans (by decide) hW)
  have h4 : Frame W base s4 := frame_foldl _ (powerCores_frame h3 (List.Subset.trans (by decide) hW))
    (fun t u ht => fenceAtStart_frame ht (List.Subset.trans (by decide) hW))
  have h5 : Frame W base s5 :=
    frame_mk h4 (.inl rfl) (.inl rfl) (.inl rfl) (.inr (in_frame hW (by decide))) (.inl rfl) (.inl rfl) (.inl rfl) (.inl rfl) (.inl rfl)
      (.inl rfl) (.inl rfl) (.inl rfl) (.inl rfl) (.inl rfl) (.inl rfl) (.inr (in_frame hW (by decide)))
      (.inr (in_frame hW (by decide))) (.inl rfl) (.inl rfl) (.inl rfl)
  have h6 : Frame W base s6 := frame_ite (runCoverage_frame h5 (List.Subset.trans (by decide) hW)) h5
  have h7 : Frame W base s7 := dueFences_frame h6 (List.Subset.trans (by decide) hW)
  have h8 : Frame W base s8 := latchStCore_frame h7 (List.Subset.trans (by decide) hW)
  have h9 : Frame W base s9 :=
    frame_mk h8 (.inl rfl) (.inl rfl) (.inl rfl) (.inl rfl) (.inl rfl) (.inl rfl) (.inl rfl) (.inl rfl) (.inl rfl) (.inl rfl) (.inl rfl)
      (.inl rfl) (.inr (in_frame hW (by decide))) (.inl rfl) (.inl rfl) (.inl rfl) (.inl rfl) (.inl rfl) (.inr (in_frame hW (by decide)))
      (.inl rfl)
  have h10 : Frame W base s10 := Frame.set_boot h9 (in_frame hW (by decide))
  exact frame_ite (State.logEntry_frame h10 (List.Subset.trans (by decide) hW)) h10

theorem enterSleep_frame {s : State} (hF : Frame W base s) (hW : [.clk, .phase, .mem, .regs, .units, .plans, .vat, .press, .link, .safety, .selftest, .aon, .boot, .procs, .log, .power, .net, .settings, .commits] ⊆ W) : Frame W base (enterSleep s) := by
  unfold enterSleep
  repeat' with_reducible first
    | assumption
    | exact List.Subset.trans (by decide) hW
    | apply lose_frame
    | exact Or.inr (in_frame hW (by decide))
    | exact Or.inl rfl
    | exact Or.inr ⟨in_frame hW (by decide), rfl⟩
    | refine Frame.set_phase ?_ (in_frame hW (by decide))
    | refine Frame.set_aon ?_ (in_frame hW (by decide))
    | apply frame_mk

theorem shutdownOp_frame {s : State} {temp : Int} (hF : Frame W base s) (hW : [.clk, .phase, .mem, .regs, .units, .plans, .vat, .press, .link, .safety, .selftest, .aon, .boot, .procs, .log, .power, .net, .settings, .commits] ⊆ W) : Frame W base (shutdownOp s temp) := by
  unfold shutdownOp
  repeat' with_reducible first
    | apply frame_ite
    | assumption
    | exact List.Subset.trans (by decide) hW
    | apply enterSleep_frame
    | exact Or.inr (in_frame hW (by decide))
    | exact Or.inl rfl
    | exact Or.inr ⟨in_frame hW (by decide), rfl⟩
    | split
    | extract_lets
    | refine Frame.set_aon ?_ (in_frame hW (by decide))
    | apply frame_mk

theorem aonSensorOp_frame {s : State} {temp : Int} (hF : Frame W base s) (hW : [.aon] ⊆ W) : Frame W base (aonSensorOp s temp) := by
  unfold aonSensorOp
  repeat' with_reducible first
    | apply frame_ite
    | assumption
    | exact List.Subset.trans (by decide) hW
    | exact Or.inr (in_frame hW (by decide))
    | exact Or.inl rfl
    | split
    | extract_lets
    | refine Frame.set_aon ?_ (in_frame hW (by decide))
    | apply frame_mk

theorem wakeUp_frame {s : State} {last cause : Nat} (hF : Frame W base s) (hW : [.fresh, .clk, .phase, .mem, .regs, .units, .plans, .vat, .press, .link, .safety, .selftest, .aon, .boot, .procs, .log, .power, .net, .settings, .commits] ⊆ W) : Frame W base (wakeUp s last cause) := by
  unfold wakeUp
  repeat' with_reducible first
    | assumption
    | exact List.Subset.trans (by decide) hW
    | apply beginStart_frame
    | exact Or.inr (in_frame hW (by decide))
    | exact Or.inl rfl
    | exact Or.inr ⟨in_frame hW (by decide), rfl⟩
    | refine Frame.set_aon ?_ (in_frame hW (by decide))
    | apply frame_mk

theorem lightWakeOp_frame {s : State} (hF : Frame W base s) (hW : [.fresh, .clk, .phase, .mem, .regs, .units, .plans, .vat, .press, .link, .safety, .selftest, .aon, .boot, .procs, .log, .power, .net, .settings, .commits] ⊆ W) : Frame W base (lightWakeOp s) := by
  unfold lightWakeOp
  repeat' with_reducible first
    | apply frame_ite
    | assumption
    | exact List.Subset.trans (by decide) hW
    | apply wakeUp_frame
    | split
    | extract_lets

theorem timerWakeOp_frame {s : State} (hF : Frame W base s) (hW : [.fresh, .clk, .phase, .mem, .regs, .units, .plans, .vat, .press, .link, .safety, .selftest, .aon, .boot, .procs, .log, .power, .net, .settings, .commits] ⊆ W) : Frame W base (timerWakeOp s) := by
  unfold timerWakeOp
  repeat' with_reducible first
    | apply frame_ite
    | assumption
    | exact List.Subset.trans (by decide) hW
    | apply wakeUp_frame
    | split
    | extract_lets

theorem litChangeOp_frame {s : State} {lit : Bool} (hF : Frame W base s) (hW : [.regs, .aon] ⊆ W) : Frame W base (litChangeOp s lit) := by
  unfold litChangeOp
  repeat' with_reducible first
    | apply frame_ite
    | assumption
    | exact List.Subset.trans (by decide) hW
    | apply State.bump_frame
    | exact Or.inr (in_frame hW (by decide))
    | exact Or.inl rfl
    | split
    | extract_lets
    | refine Frame.set_aon ?_ (in_frame hW (by decide))
    | apply frame_mk

theorem wakePatternOp_frame {s : State} (hF : Frame W base s) (hW : [.fresh, .clk, .phase, .mem, .regs, .units, .plans, .vat, .press, .link, .safety, .selftest, .aon, .boot, .procs, .log, .power, .net, .settings, .commits] ⊆ W) : Frame W base (wakePatternOp s) := by
  unfold wakePatternOp
  repeat' with_reducible first
    | apply frame_ite
    | assumption
    | exact List.Subset.trans (by decide) hW
    | apply beginStart_frame
    | exact Or.inr (in_frame hW (by decide))
    | exact Or.inl rfl
    | exact Or.inr ⟨in_frame hW (by decide), rfl⟩
    | split
    | extract_lets
    | refine Frame.set_aon ?_ (in_frame hW (by decide))
    | apply frame_mk

theorem recordSpares_frame {s : State} {i : Nat} (hF : Frame W base s) (hW : [.plans] ⊆ W) : Frame W base (recordSpares s i) := by
  unfold recordSpares
  repeat' with_reducible first
    | apply frame_ite
    | assumption
    | exact List.Subset.trans (by decide) hW
    | exact Or.inr (in_frame hW (by decide))
    | exact Or.inl rfl
    | split
    | extract_lets
    | refine Frame.set_plans ?_ (in_frame hW (by decide))
    | apply frame_mk

theorem restartProc_frame {s : State} {i cause : Nat} {dump : Bool} (hF : Frame W base s) (hW : [.fresh, .regs, .plans, .safety, .procs, .log] ⊆ W) : Frame W base (restartProc s i cause dump) := by
  unfold restartProc
  repeat' with_reducible first
    | apply frame_ite
    | assumption
    | exact List.Subset.trans (by decide) hW
    | apply State.logEntry_frame
    | apply State.bump_frame
    | apply recordSpares_frame
    | apply State.setProc_frame
    | apply State.tick_frame
    | exact Or.inr (in_frame hW (by decide))
    | exact Or.inl rfl
    | split
    | extract_lets
    | refine Frame.set_safety ?_ (in_frame hW (by decide))
    | apply frame_mk

theorem liveNext_frame {s : State} (hF : Frame W base s) (hW : [.fresh, .regs, .plans, .safety, .boot, .procs, .log] ⊆ W) : Frame W base (liveNext s) := by
  unfold liveNext
  repeat' with_reducible first
    | apply frame_ite
    | assumption
    | exact List.Subset.trans (by decide) hW
    | apply restartProc_frame
    | apply State.logEntry_frame
    | exact Or.inr (in_frame hW (by decide))
    | exact Or.inl rfl
    | split
    | extract_lets
    | refine Frame.set_boot ?_ (in_frame hW (by decide))
    | apply frame_mk

theorem beginActivation_frame {s : State} {mode : Nat} (hF : Frame W base s) (hW : [.fresh, .clk, .phase, .mem, .regs, .units, .plans, .vat, .press, .link, .safety, .selftest, .aon, .boot, .procs, .log, .power, .net, .settings, .commits] ⊆ W) : Frame W base (beginActivation s mode) := by
  unfold beginActivation
  repeat' with_reducible first
    | apply frame_ite
    | assumption
    | exact List.Subset.trans (by decide) hW
    | apply writeHeader_frame
    | apply State.bump_frame
    | apply beginStart_frame
    | apply liveNext_frame
    | exact Or.inr (in_frame hW (by decide))
    | exact Or.inl rfl
    | exact Or.inr ⟨in_frame hW (by decide), rfl⟩
    | split
    | extract_lets
    | refine Frame.set_boot ?_ (in_frame hW (by decide))
    | apply frame_mk

theorem activationOp_frame {s : State} (hF : Frame W base s) (hW : [.fresh, .clk, .phase, .mem, .regs, .units, .plans, .vat, .press, .link, .safety, .selftest, .aon, .boot, .procs, .log, .power, .net, .settings, .commits] ⊆ W) : Frame W base (activationOp s) := by
  unfold activationOp
  repeat' with_reducible first
    | apply frame_ite
    | assumption
    | exact List.Subset.trans (by decide) hW
    | apply beginActivation_frame
    | split
    | extract_lets

theorem escalated_frame {s : State} (hF : Frame W base s) (hW : [.fresh, .clk, .phase, .mem, .regs, .units, .plans, .vat, .press, .link, .safety, .selftest, .aon, .boot, .procs, .log, .power, .net, .settings, .commits] ⊆ W) : Frame W base (escalated s) := by
  unfold escalated
  repeat' with_reducible first
    | apply frame_ite
    | assumption
    | exact List.Subset.trans (by decide) hW
    | apply beginStart_frame
    | apply recordFail_frame
    | split
    | extract_lets

theorem procBackOp_frame {s : State} {i : Nat} (hF : Frame W base s) (hW : [.out, .fresh, .clk, .phase, .mem, .regs, .units, .plans, .vat, .press, .link, .safety, .selftest, .aon, .boot, .procs, .log, .power, .net, .settings, .commits] ⊆ W) : Frame W base (procBackOp s i) := by
  unfold procBackOp
  repeat' with_reducible first
    | apply frame_ite
    | assumption
    | exact List.Subset.trans (by decide) hW
    | apply escalated_frame
    | apply State.setProc_frame
    | apply State.logEntry_frame
    | apply serveStCmd_frame
    | apply servePartCmds_frame
    | apply activationOp_frame
    | apply liveNext_frame
    | exact Or.inr (in_frame hW (by decide))
    | exact Or.inl rfl
    | exact Or.inr ⟨in_frame hW (by decide), rfl⟩
    | exact Or.inr ⟨in_frame hW (by decide), le_refl _⟩
    | split
    | extract_lets
    | refine Frame.set_safety ?_ (in_frame hW (by decide))
    | apply frame_mk

theorem procTrapOp_frame {s : State} {i cause : Nat} (hF : Frame W base s) (hW : [.fresh, .regs, .plans, .safety, .procs, .log] ⊆ W) : Frame W base (procTrapOp s i cause) := by
  unfold procTrapOp
  repeat' with_reducible first
    | apply frame_ite
    | assumption
    | exact List.Subset.trans (by decide) hW
    | apply restartProc_frame
    | split
    | extract_lets

theorem lockstepOp_frame {s : State} (hF : Frame W base s) (hW : [.fresh, .regs, .plans, .safety, .procs, .log] ⊆ W) : Frame W base (lockstepOp s) := by
  unfold lockstepOp
  repeat' with_reducible first
    | apply frame_ite
    | assumption
    | exact List.Subset.trans (by decide) hW
    | apply restartProc_frame
    | apply deviceSafe_frame
    | apply State.logEntry_frame
    | split
    | extract_lets

theorem procCmdWrite_frame {s : State} {i value : Nat} (hF : Frame W base s) (hW : [.fresh, .regs, .plans, .safety, .procs, .log] ⊆ W) : Frame W base (procCmdWrite s i value) := by
  unfold procCmdWrite
  repeat' with_reducible first
    | apply frame_ite
    | assumption
    | exact List.Subset.trans (by decide) hW
    | apply State.pageErr_frame
    | apply restartProc_frame
    | split
    | extract_lets

theorem escalateOp_frame {s : State} {i : Nat} {badHash : Bool} (hF : Frame W base s) (hW : [.fresh, .clk, .phase, .mem, .regs, .units, .plans, .vat, .press, .link, .safety, .selftest, .aon, .boot, .procs, .log, .power, .net, .settings, .commits] ⊆ W) : Frame W base (escalateOp s i badHash) := by
  unfold escalateOp
  repeat' with_reducible first
    | apply frame_ite
    | assumption
    | exact List.Subset.trans (by decide) hW
    | apply escalated_frame
    | split
    | extract_lets

theorem dumpCopyOp_frame {s : State} {i : Nat} (hF : Frame W base s) (hW : [.boot, .procs] ⊆ W) : Frame W base (dumpCopyOp s i) := by
  unfold dumpCopyOp
  repeat' with_reducible first
    | apply frame_ite
    | assumption
    | exact List.Subset.trans (by decide) hW
    | apply State.setProc_frame
    | exact Or.inr (in_frame hW (by decide))
    | exact Or.inl rfl
    | split
    | extract_lets
    | refine Frame.set_boot ?_ (in_frame hW (by decide))
    | apply frame_mk

theorem logCopyOp_frame {s : State} (hF : Frame W base s) (hW : [.mem, .log] ⊆ W) : Frame W base (logCopyOp s) := by
  unfold logCopyOp
  split
  · exact hF
  · apply frame_ite hF
    extract_lets n s1 _
    have h1 : Frame W base s1 := State.wrN_frame hF (List.Subset.trans (by decide) hW)
    have e : s1.log = s.log := (State.wrN_frame (Frame.refl [.mem] s) (List.Subset.refl _)).same .log (by decide)
    exact Frame.set_log h1 (in_frame hW (by decide)) (le_of_eq_of_le (congrArg LogSt.nextSeq e) (Nat.le_succ _))

theorem setSlotSt_frame {s : State} {b : Bool} {v : SlotVerify} (hF : Frame W base s) (hW : [.boot] ⊆ W) : Frame W base (setSlotSt s b v) := by
  unfold setSlotSt
  repeat' with_reducible first
    | apply frame_ite
    | assumption
    | exact List.Subset.trans (by decide) hW
    | exact Or.inr (in_frame hW (by decide))
    | exact Or.inl rfl
    | split
    | extract_lets
    | refine Frame.set_boot ?_ (in_frame hW (by decide))
    | apply frame_mk

theorem bootRefuse_frame {s : State} {code value : Nat} (hF : Frame W base s) (hW : [.regs] ⊆ W) : Frame W base (bootRefuse s code value) := by
  unfold bootRefuse
  repeat' with_reducible first
    | assumption
    | exact List.Subset.trans (by decide) hW
    | apply State.pageErr_frame

theorem activateCmd_frame {s : State} {arg value : Nat} (hF : Frame W base s) (hW : [.fresh, .clk, .phase, .mem, .regs, .units, .plans, .vat, .press, .link, .safety, .selftest, .aon, .boot, .procs, .log, .power, .net, .settings, .commits] ⊆ W) : Frame W base (activateCmd s arg value) := by
  unfold activateCmd
  repeat' with_reducible first
    | apply frame_ite
    | assumption
    | exact List.Subset.trans (by decide) hW
    | apply bootRefuse_frame
    | apply beginActivation_frame
    | apply State.logEntry_frame
    | exact Or.inr (in_frame hW (by decide))
    | exact Or.inl rfl
    | exact Or.inr ⟨in_frame hW (by decide), rfl⟩
    | split
    | extract_lets
    | refine Frame.set_boot ?_ (in_frame hW (by decide))
    | apply frame_mk

theorem recoveryStart_frame {s : State} {arg value : Nat} (hF : Frame W base s) (hW : [.fresh, .clk, .phase, .mem, .regs, .units, .plans, .vat, .press, .link, .safety, .selftest, .aon, .boot, .procs, .log, .power, .net, .settings, .commits] ⊆ W) : Frame W base (recoveryStart s arg value) := by
  unfold recoveryStart
  repeat' with_reducible first
    | assumption
    | exact List.Subset.trans (by decide) hW
    | apply bootRefuse_frame
    | apply writeHeader_frame
    | apply beginStart_frame
    | exact Or.inr (in_frame hW (by decide))
    | exact Or.inl rfl
    | exact Or.inr ⟨in_frame hW (by decide), rfl⟩
    | split
    | extract_lets
    | refine Frame.set_aon ?_ (in_frame hW (by decide))
    | apply frame_mk

theorem bootCmdWrite_frame {s : State} {value : Nat} (hF : Frame W base s)
    (hW : [.fresh, .clk, .phase, .fuses, .mem, .regs, .units, .plans, .vat, .press, .link, .safety, .selftest, .aon, .boot, .procs, .log,
      .power, .net, .settings, .commits] ⊆ W) : Frame W base (bootCmdWrite s value) := by
  have hr : ∀ code, Frame W base (bootRefuse s code value) := fun code => bootRefuse_frame hF (List.Subset.trans (by decide) hW)
  unfold bootCmdWrite
  extract_lets +onlyGivenNames c arg rec?
  clear_value c
  apply frame_ite (hr _)
  apply frame_ite (hr _)
  split
  · extract_lets +onlyGivenNames b
    apply frame_ite (hr _)
    extract_lets +onlyGivenNames s1
    have h1 : Frame W base s1 := setSlotSt_frame hF (List.Subset.trans (by decide) hW)
    exact Frame.set_boot h1 (in_frame hW (by decide))
  · exact activateCmd_frame hF (List.Subset.trans (by decide) hW)
  · exact Frame.set_boot hF (in_frame hW (by decide))
  · exact frame_ite (recoveryStart_frame hF (List.Subset.trans (by decide) hW)) (beginStart_frame hF (List.Subset.trans (by decide) hW))
  · apply frame_ite (hr _)
    apply frame_ite (hr _)
    exact enterSleep_frame hF (List.Subset.trans (by decide) hW)
  · apply frame_ite (hr _)
    extract_lets +onlyGivenNames v
    clear_value v
    refine frame_mk hF (.inl rfl) (.inl rfl) (.inl rfl) (.inl rfl) (.inr ⟨in_frame hW (by decide), rfl, ?_⟩) (.inl rfl) (.inl rfl)
      (.inl rfl) (.inl rfl) (.inl rfl) (.inl rfl) (.inl rfl) (.inl rfl) (.inl rfl) (.inl rfl) (.inl rfl) (.inl rfl) (.inl rfl) (.inl rfl)
      (.inl rfl)
    show s.fuses.minSec ≤ if v ≤ 64 then max s.fuses.minSec v else s.fuses.minSec
    split
    · exact le_max_left _ _
    · exact le_refl _

theorem slotVerifiedOp_frame {s : State} (hF : Frame W base s) (hW : [.regs, .boot] ⊆ W) : Frame W base (slotVerifiedOp s) := by
  unfold slotVerifiedOp
  repeat' with_reducible first
    | apply frame_ite
    | assumption
    | exact List.Subset.trans (by decide) hW
    | apply setSlotSt_frame
    | apply bootRefuse_frame
    | exact Or.inr (in_frame hW (by decide))
    | exact Or.inl rfl
    | split
    | extract_lets
    | refine Frame.set_boot ?_ (in_frame hW (by decide))
    | apply frame_mk

theorem retrain_frame {s : State} {i : Nat} (hF : Frame W base s) (hW : [.regs, .net] ⊆ W) : Frame W base (retrain s i) := by
  unfold retrain
  repeat' with_reducible first
    | apply frame_ite
    | assumption
    | exact List.Subset.trans (by decide) hW
    | apply State.setOptical_frame
    | apply State.bump_frame
    | exact Or.inr (in_frame hW (by decide))
    | exact Or.inl rfl
    | split
    | extract_lets
    | apply frame_mk

theorem sirDown_frame {s : State} {n : Nat} (hF : Frame W base s) (hW : [.fresh, .regs, .log, .net] ⊆ W) : Frame W base (sirDown s n) := by
  unfold sirDown
  repeat' with_reducible first
    | assumption
    | exact List.Subset.trans (by decide) hW
    | apply retrain_frame
    | apply State.endSir_frame
    | apply State.bump_frame
    | apply State.logEntry_frame

theorem sirUp_frame {s : State} {n peer : Nat} (hF : Frame W base s) (hW : [.fresh, .regs, .log, .net] ⊆ W) : Frame W base (sirUp s n peer) := by
  unfold sirUp
  repeat' with_reducible first
    | assumption
    | exact List.Subset.trans (by decide) hW
    | apply State.setSir_frame
    | apply State.logEntry_frame

theorem sirAcked_frame {s : State} {n : Nat} {f : SirRx} (hF : Frame W base s) (hW : [.out, .regs, .net] ⊆ W) : Frame W base (sirAcked s n f) := by
  unfold sirAcked
  repeat' with_reducible first
    | apply frame_ite
    | assumption
    | exact List.Subset.trans (by decide) hW
    | apply sirFlush_frame
    | apply State.setSir_frame
    | split
    | extract_lets

theorem sirResend_frame {s : State} {n k : Nat} (hF : Frame W base s) (hW : [.out, .regs, .net] ⊆ W) : Frame W base (sirResend s n k) := by
  unfold sirResend
  repeat' with_reducible first
    | assumption
    | exact List.Subset.trans (by decide) hW
    | apply sirTx_frame
    | apply State.bump_frame
    | apply frame_foldl
    | intro _ _ _

theorem sirNack_frame {s : State} {n : Nat} (hF : Frame W base s) (hW : [.out, .regs, .net] ⊆ W) : Frame W base (sirNack s n) := by
  unfold sirNack
  repeat' with_reducible first
    | apply frame_ite
    | assumption
    | exact List.Subset.trans (by decide) hW
    | apply sirControl_frame
    | apply State.setSir_frame
    | apply State.bump_frame
    | split
    | extract_lets

theorem sirWriteAck_frame {s : State} {tag status : Nat} (hF : Frame W base s) (hW : [.out, .fresh, .mem, .regs, .units, .plans, .press, .safety, .selftest, .aon, .log, .net] ⊆ W) : Frame W base (sirWriteAck s tag status) := by
  unfold sirWriteAck
  repeat' with_reducible first
    | apply frame_ite
    | assumption
    | exact List.Subset.trans (by decide) hW
    | apply remoteFail_frame
    | exact Or.inr (in_frame hW (by decide))
    | exact Or.inl rfl
    | split
    | extract_lets
    | refine Frame.set_net ?_ (in_frame hW (by decide))
    | apply frame_mk

theorem sirWrite_frame {s : State} {src p tag a : Nat} {data : Bytes} (hF : Frame W base s) (hW : [.out, .fresh, .mem, .regs, .units, .plans, .press, .safety, .selftest, .aon, .log, .net] ⊆ W) : Frame W base (sirWrite s src p tag a data) := by
  unfold sirWrite
  repeat' with_reducible first
    | apply frame_ite
    | assumption
    | exact List.Subset.trans (by decide) hW
    | apply takeWrite_frame
    | refine takeWrite_frame' (by assumption) ?_ ?_
    | apply sirWriteAck_frame
    | apply sirForward_frame
    | split
    | extract_lets

theorem sirTake_frame {s : State} {m : Bytes} (hF : Frame W base s) (hW : [.out, .fresh, .mem, .regs, .units, .plans, .press, .safety, .selftest, .aon, .log, .net] ⊆ W) : Frame W base (sirTake s m) := by
  unfold sirTake
  repeat' with_reducible first
    | assumption
    | exact List.Subset.trans (by decide) hW
    | apply sirWrite_frame
    | apply sirWriteAck_frame
    | apply sysAdd_frame
    | apply State.bump_frame
    | apply sysWait_frame
    | apply sirWake_frame
    | split
    | extract_lets

theorem sirData_frame {s : State} {n : Nat} {f : SirRx} (hF : Frame W base s) (hW : [.out, .fresh, .mem, .regs, .units, .plans, .press, .safety, .selftest, .aon, .log, .net] ⊆ W) : Frame W base (sirData s n f) := by
  unfold sirData
  repeat' with_reducible first
    | apply frame_ite
    | assumption
    | exact List.Subset.trans (by decide) hW
    | apply sirNack_frame
    | apply sirAcked_frame
    | apply State.setSir_frame
    | apply settleUnits_frame
    | apply sirTake_frame
    | apply State.sirOwe_frame
    | apply sirPass_frame
    | split
    | extract_lets

theorem sirReceive_frame {s : State} {n typ : Nat} {frame : Bytes} (hF : Frame W base s) (hW : [.out, .fresh, .mem, .regs, .units, .plans, .press, .safety, .selftest, .aon, .log, .net] ⊆ W) : Frame W base (sirReceive s n typ frame) := by
  unfold sirReceive
  repeat' with_reducible first
    | apply frame_ite
    | assumption
    | exact List.Subset.trans (by decide) hW
    | apply State.bump_frame
    | apply sirNack_frame
    | apply State.setSir_frame
    | apply sirUp_frame
    | apply sirData_frame
    | apply sirAcked_frame
    | apply sirResend_frame
    | split
    | extract_lets

theorem helloSendOp_frame {s : State} {n : Nat} (hF : Frame W base s) (hW : [.out, .regs, .net] ⊆ W) : Frame W base (helloSendOp s n) := by
  unfold helloSendOp
  repeat' with_reducible first
    | apply frame_ite
    | assumption
    | exact List.Subset.trans (by decide) hW
    | apply sirTx_frame
    | split
    | extract_lets

theorem linkTimeoutOp_frame {s : State} {n : Nat} (hF : Frame W base s) (hW : [.fresh, .regs, .log, .net] ⊆ W) : Frame W base (linkTimeoutOp s n) := by
  unfold linkTimeoutOp
  repeat' with_reducible first
    | apply frame_ite
    | assumption
    | exact List.Subset.trans (by decide) hW
    | apply sirDown_frame
    | split
    | extract_lets

theorem retryTimeoutOp_frame {s : State} {n : Nat} (hF : Frame W base s) (hW : [.out, .fresh, .regs, .log, .net] ⊆ W) : Frame W base (retryTimeoutOp s n) := by
  unfold retryTimeoutOp
  repeat' with_reducible first
    | apply frame_ite
    | assumption
    | exact List.Subset.trans (by decide) hW
    | apply sirDown_frame
    | apply sirResend_frame
    | apply State.setSir_frame
    | split
    | extract_lets

theorem ackIdleOp_frame {s : State} {n : Nat} (hF : Frame W base s) (hW : [.out, .regs, .net] ⊆ W) : Frame W base (ackIdleOp s n) := by
  unfold ackIdleOp
  repeat' with_reducible first
    | apply frame_ite
    | assumption
    | exact List.Subset.trans (by decide) hW
    | apply sirControl_frame
    | split
    | extract_lets

theorem gptpRx_frame {s : State} {m : GptpMsg} (hF : Frame W base s) (hW : [.regs] ⊆ W) : Frame W base (gptpRx s m) := by
  unfold gptpRx
  repeat' with_reducible first
    | apply frame_ite
    | assumption
    | exact List.Subset.trans (by decide) hW
    | apply State.bump_frame
    | split
    | extract_lets

theorem gptpSend_frame {s : State} {port : Nat} (hF : Frame W base s) (hW : [.out, .fresh, .regs] ⊆ W) : Frame W base (gptpSend s port) := by
  unfold gptpSend
  repeat' with_reducible first
    | apply frame_ite
    | assumption
    | exact List.Subset.trans (by decide) hW
    | apply State.emit_frame
    | apply State.bump_frame
    | apply State.tick_frame
    | split
    | extract_lets

theorem gptpOp_frame {s : State} {m : GptpMsg} (hF : Frame W base s) (hW : [.out, .fresh, .clk, .regs, .log] ⊆ W) : Frame W base (gptpOp s m) := by
  unfold gptpOp
  repeat' with_reducible first
    | apply frame_ite
    | assumption
    | exact List.Subset.trans (by decide) hW
    | apply gptpSend_frame
    | apply gptpRx_frame
    | apply State.bump_frame
    | apply State.logEntry_frame
    | exact Or.inr (in_frame hW (by decide))
    | exact Or.inl rfl
    | exact Or.inr ⟨in_frame hW (by decide), rfl⟩
    | split
    | extract_lets
    | apply frame_mk

theorem syncLossOp_frame {s : State} (hF : Frame W base s) (hW : [.fresh, .clk, .regs, .log] ⊆ W) : Frame W base (syncLossOp s) := by
  unfold syncLossOp
  repeat' with_reducible first
    | apply frame_ite
    | assumption
    | exact List.Subset.trans (by decide) hW
    | apply State.bump_frame
    | apply State.logEntry_frame
    | exact Or.inr (in_frame hW (by decide))
    | exact Or.inl rfl
    | exact Or.inr ⟨in_frame hW (by decide), rfl⟩
    | split
    | extract_lets
    | apply frame_mk

theorem holdoverExpiryOp_frame {s : State} (hF : Frame W base s) (hW : [.clk] ⊆ W) : Frame W base (holdoverExpiryOp s) := by
  unfold holdoverExpiryOp
  repeat' with_reducible first
    | apply frame_ite
    | assumption
    | exact List.Subset.trans (by decide) hW
    | exact Or.inr (in_frame hW (by decide))
    | exact Or.inl rfl
    | exact Or.inr ⟨in_frame hW (by decide), rfl⟩
    | split
    | extract_lets
    | apply frame_mk

theorem linkTrainedOp_frame {s : State} {i : Nat} (hF : Frame W base s) (hW : [.fresh, .net] ⊆ W) : Frame W base (linkTrainedOp s i) := by
  unfold linkTrainedOp
  repeat' with_reducible first
    | apply frame_ite
    | assumption
    | exact List.Subset.trans (by decide) hW
    | apply State.tick_frame
    | apply State.setOptical_frame
    | split
    | extract_lets

theorem linkLostOp_frame {s : State} {i : Nat} (hF : Frame W base s) (hW : [.fresh, .regs, .log, .net] ⊆ W) : Frame W base (linkLostOp s i) := by
  unfold linkLostOp
  repeat' with_reducible first
    | apply frame_ite
    | assumption
    | exact List.Subset.trans (by decide) hW
    | apply State.setOptical_frame
    | apply sirDown_frame
    | apply retrain_frame
    | split
    | extract_lets

end Sys2Proof.Machine
end

