-- ==== Sys2Proof/Laws/FrameHost.lean ====
section
/-! SUPPORT. Frames of the host's register and bulk operations. Each lemma names the parts of the state that its operation may change. -/

set_option linter.unusedTactic false
set_option linter.unreachableTactic false

namespace Sys2Proof.Machine

-- one theorem at a time: as one text the package has too many for a thread each
set_option Elab.async false

variable {W : List Field} {base : State}

theorem latchWide_frame {s : State} {a v : Nat} (hF : Frame W base s) (hW : [.regs] ⊆ W) : Frame W base (latchWide s a v).1 := by
  unfold latchWide
  dsimp only
  repeat' with_reducible first
    | assumption
    | exact List.Subset.trans (by decide) hW
    | exact Or.inr (in_frame hW (by decide))
    | exact Or.inl rfl
    | refine Frame.set_regs ?_ (in_frame hW (by decide))
    | apply frame_mk
theorem latchWide_frame' {s z : State} {a v : Nat} {out_} (eq : latchWide s a v = (z, out_)) (hF : Frame W base s) (hW : [.regs] ⊆ W) : Frame W base z := by
  have := latchWide_frame (a := a) (v := v) hF hW
  rw [eq] at this
  exact this

theorem readBlock_frame {s : State} {b : Block} {page off : Nat} (hF : Frame W base s) (hW : [.fresh, .regs, .units, .plans, .press] ⊆ W) :
    Frame W base (readBlock s b page off).1 := by
  have latch : ∀ k v, Frame W base (latchWide s k v).1 := fun k v => latchWide_frame hF (List.Subset.trans (by decide) hW)
  have count : Frame W base (accountPage s b) := accountPage_frame hF (List.Subset.trans (by decide) hW)
  have tick : Frame W base s.tick := State.tick_frame hF (List.Subset.trans (by decide) hW)
  unfold readBlock
  split
  · dsimp only
    split
    · exact latchWide_frame count (List.Subset.trans (by decide) hW)
    · exact count
  · split
    · exact latch _ _
    · split
      · exact hF
      · split
        · exact frame_ite tick hF
        · exact hF
        · exact hF
        · exact hF
        · exact hF
theorem readBlock_frame' {s z : State} {b : Block} {page off : Nat} {res} (eq : readBlock s b page off = (z, res)) (hF : Frame W base s)
    (hW : [.fresh, .regs, .units, .plans, .press] ⊆ W) : Frame W base z := by
  have := readBlock_frame (b := b) (page := page) (off := off) hF hW
  rw [eq] at this
  exact this

theorem regRead_frame {s : State} {a : Nat} (hF : Frame W base s) (hW : [.fresh, .regs, .units, .plans, .press] ⊆ W) : Frame W base (regRead s a).1 := by
  unfold regRead
  dsimp only
  repeat' with_reducible first
    | apply frame_ite
    | assumption
    | exact List.Subset.trans (by decide) hW
    | apply State.bump_frame
    | apply readBlock_frame
    | refine readBlock_frame' (by assumption) ?_ ?_
    | split
    | extract_lets
theorem regRead_frame' {s z : State} {a : Nat} {out_} (eq : regRead s a = (z, out_)) (hF : Frame W base s) (hW : [.fresh, .regs, .units, .plans, .press] ⊆ W) : Frame W base z := by
  have := regRead_frame (a := a) hF hW
  rw [eq] at this
  exact this

theorem claimRefuse_frame {s : State} {port code value result : Nat} (hF : Frame W base s) (hW : [.regs, .link] ⊆ W) : Frame W base (claimRefuse s port code value result) := by
  unfold claimRefuse
  repeat' with_reducible first
    | apply frame_ite
    | assumption
    | exact List.Subset.trans (by decide) hW
    | apply State.pageErr_frame
    | exact Or.inr (in_frame hW (by decide))
    | exact Or.inl rfl
    | split
    | extract_lets
    | refine Frame.set_link ?_ (in_frame hW (by decide))
    | apply frame_mk

theorem releaseCmd_frame {s : State} {w : Sender} {value : Nat} (hF : Frame W base s) (hW : [.regs, .link] ⊆ W) : Frame W base (releaseCmd s w value) := by
  unfold releaseCmd
  repeat' with_reducible first
    | apply frame_ite
    | assumption
    | exact List.Subset.trans (by decide) hW
    | apply claimRefuse_frame
    | exact Or.inr (in_frame hW (by decide))
    | exact Or.inl rfl
    | split
    | extract_lets
    | refine Frame.set_link ?_ (in_frame hW (by decide))
    | apply frame_mk

theorem beginReset_frame {s : State} {port : Nat} (hF : Frame W base s) (hW : [.out, .fresh, .mem, .regs, .units, .plans, .vat, .press, .link, .aon, .log, .net, .settings] ⊆ W) : Frame W base (beginReset s port) := by
  unfold beginReset
  repeat' with_reducible first
    | apply frame_ite
    | assumption
    | exact List.Subset.trans (by decide) hW
    | apply State.logEntry_frame
    | apply State.modPart_frame
    | apply unloadPart_frame
    | apply stopOp_frame
    | apply finishReset_frame
    | exact Or.inr (in_frame hW (by decide))
    | exact Or.inl rfl
    | apply frame_foldl
    | intro _ _ _
    | split
    | extract_lets
    | refine Frame.set_link ?_ (in_frame hW (by decide))
    | apply frame_mk

theorem claimFrom_frame {s : State} {port value : Nat} {takeover reset : Bool} (hF : Frame W base s) (hW : [.out, .fresh, .mem, .regs, .units, .plans, .vat, .press, .link, .aon, .log, .net, .settings] ⊆ W) : Frame W base (claimFrom s port value takeover reset) := by
  unfold claimFrom
  repeat' with_reducible first
    | apply frame_ite
    | assumption
    | exact List.Subset.trans (by decide) hW
    | apply claimRefuse_frame
    | apply State.bump_frame
    | apply State.logEntry_frame
    | apply beginReset_frame
    | apply grantClaim_frame
    | split
    | extract_lets

theorem claimCmd_frame {s : State} {w : Sender} {value : Nat} (hF : Frame W base s) (hW : [.out, .fresh, .mem, .regs, .units, .plans, .vat, .press, .link, .aon, .log, .net, .settings] ⊆ W) : Frame W base (claimCmd s w value) := by
  unfold claimCmd
  repeat' with_reducible first
    | apply frame_ite
    | assumption
    | exact List.Subset.trans (by decide) hW
    | apply releaseCmd_frame
    | apply claimRefuse_frame
    | apply claimFrom_frame
    | split
    | extract_lets

theorem orphanOp_frame {s : State} (hF : Frame W base s) (hW : [.out, .fresh, .mem, .regs, .units, .plans, .vat, .press, .link, .aon, .log, .net, .settings] ⊆ W) : Frame W base (orphanOp s) := by
  unfold orphanOp
  repeat' with_reducible first
    | apply frame_ite
    | assumption
    | exact List.Subset.trans (by decide) hW
    | apply State.bump_frame
    | apply State.logEntry_frame
    | apply stopOp_frame
    | exact Or.inr (in_frame hW (by decide))
    | exact Or.inl rfl
    | apply frame_foldl
    | intro _ _ _
    | split
    | extract_lets
    | refine Frame.set_link ?_ (in_frame hW (by decide))
    | apply frame_mk

theorem settleLink_frame {s : State} (hF : Frame W base s) (hW : [.out, .fresh, .mem, .regs, .units, .plans, .vat, .press, .link, .aon, .log, .net, .settings] ⊆ W) : Frame W base (settleLink s) := by
  unfold settleLink
  repeat' with_reducible first
    | apply frame_ite
    | assumption
    | exact List.Subset.trans (by decide) hW
    | apply orphanOp_frame
    | apply finishReset_frame
    | apply unloadPart_frame
    | apply frame_foldl
    | intro _ _ _
    | split
    | extract_lets

theorem revertWrite_frame {s : State} {b : Block} {page value : Nat} (hF : Frame W base s) (hW : [.regs, .settings] ⊆ W) : Frame W base (revertWrite s b page value) := by
  unfold revertWrite
  repeat' with_reducible first
    | apply frame_ite
    | assumption
    | exact List.Subset.trans (by decide) hW
    | apply State.pageErr_frame
    | apply revertPage_frame
    | split
    | extract_lets

theorem errWrite_frame {s : State} {page value : Nat} (hF : Frame W base s) (hW : [.regs] ⊆ W) : Frame W base (errWrite s page value) := by
  unfold errWrite
  refine frame_ite ?_ (frame_ite ?_ hF) <;> exact Frame.set_err hF (in_frame hW (by decide)) ⟨rfl, rfl, rfl, rfl⟩

theorem commitDead_frame {s : State} {b : Block} {page : Nat} {token : BitVec 16} (hF : Frame W base s) (hW : [.regs, .commits] ⊆ W) : Frame W base (commitDead s b page token) := by
  unfold commitDead
  repeat' with_reducible first
    | apply frame_ite
    | assumption
    | exact List.Subset.trans (by decide) hW
    | apply State.pageErr_frame
    | apply State.setHdr_frame
    | split
    | extract_lets

theorem fencesAfter_frame {s : State} {b : Block} {page : Nat} (hF : Frame W base s) (hW : [.out, .fresh, .mem, .regs, .units, .plans, .press, .safety, .selftest, .aon, .log, .net] ⊆ W) : Frame W base (fencesAfter s b page) := by
  unfold fencesAfter
  repeat' with_reducible first
    | apply frame_ite
    | assumption
    | exact List.Subset.trans (by decide) hW
    | apply dueFences_frame
    | split
    | extract_lets

theorem writeHead_frame {s : State} {b : Block} {page off value : Nat} (hF : Frame W base s) (hW : [.out, .fresh, .clk, .mem, .regs, .units, .plans, .vat, .press, .safety, .selftest, .aon, .log, .net, .settings, .commits] ⊆ W) : Frame W base (writeHead s b page off value) := by
  unfold writeHead
  repeat' with_reducible first
    | apply frame_ite
    | assumption
    | exact List.Subset.trans (by decide) hW
    | apply revertWrite_frame
    | apply commitDead_frame
    | apply commitWrite_frame
    | apply fencesAfter_frame
    | apply errWrite_frame
    | split
    | extract_lets

theorem latchIndex_frame {s : State} {b : Block} {page off value : Nat} (hF : Frame W base s) (hW : [.regs, .plans] ⊆ W) : Frame W base (latchIndex s b page off value) := by
  unfold latchIndex
  repeat' with_reducible first
    | apply frame_ite
    | assumption
    | exact List.Subset.trans (by decide) hW
    | apply State.modPart_frame
    | apply latchStCore_frame
    | apply judgeOvers_frame
    | apply setLatch_frame
    | exact Or.inr (in_frame hW (by decide))
    | exact Or.inl rfl
    | split
    | extract_lets
    | refine Frame.set_plans ?_ (in_frame hW (by decide))
    | apply frame_mk

theorem clearWrite_frame {s : State} {b : Block} {page : Nat} (hF : Frame W base s) (hW : [.fresh, .regs, .units, .plans, .press, .safety] ⊆ W) : Frame W base (clearWrite s b page) := by
  unfold clearWrite
  repeat' with_reducible first
    | assumption
    | exact List.Subset.trans (by decide) hW
    | apply accountPage_frame
    | apply State.clearCounters_frame
    | apply State.modPart_frame
    | exact Or.inr (in_frame hW (by decide))
    | exact Or.inl rfl
    | split
    | extract_lets
    | refine Frame.set_safety ?_ (in_frame hW (by decide))
    | apply frame_mk

theorem tallyWrite_frame {s : State} {p value : Nat} (hF : Frame W base s) (hW : [.out, .fresh, .regs, .units, .plans, .log, .net] ⊆ W) : Frame W base (tallyWrite s p value) := by
  unfold tallyWrite
  repeat' with_reducible first
    | apply frame_ite
    | assumption
    | exact List.Subset.trans (by decide) hW
    | apply State.pageErr_frame
    | apply settleUnits_frame
    | apply hostAdd_frame
    | split
    | extract_lets

theorem chanCmd_frame {s : State} {n value : Nat} (hF : Frame W base s) (hW : [.regs, .plans, .vat] ⊆ W) : Frame W base (chanCmd s n value) := by
  unfold chanCmd
  repeat' with_reducible first
    | apply frame_ite
    | assumption
    | exact List.Subset.trans (by decide) hW
    | apply State.clearCounters_frame
    | apply endOp_frame
    | split
    | extract_lets

theorem commandWrite_frame {s : State} {w : Sender} {b : Block} {off value : Nat} (hF : Frame W base s) (hW : [.out, .fresh, .clk, .phase, .fuses, .mem, .regs, .units, .plans, .vat, .press, .link, .safety, .selftest, .aon, .boot, .procs, .log, .power, .net, .settings, .commits] ⊆ W) : Frame W base (commandWrite s w b off value) := by
  unfold commandWrite
  repeat' with_reducible first
    | apply frame_ite
    | assumption
    | exact List.Subset.trans (by decide) hW
    | apply claimCmd_frame
    | apply bootCmdWrite_frame
    | apply procCmdWrite_frame
    | apply chanCmd_frame
    | apply partCmdWrite_frame
    | apply tallyWrite_frame
    | apply safeCmdWrite_frame
    | apply stCmdWrite_frame
    | exact Or.inr (in_frame hW (by decide))
    | exact Or.inl rfl
    | exact Or.inr ⟨in_frame hW (by decide), rfl⟩
    | split
    | extract_lets
    | refine Frame.set_link ?_ (in_frame hW (by decide))
    | apply frame_mk

theorem writeBlock_frame {s : State} {w : Sender} {b : Block} {page off value : Nat} (hF : Frame W base s) (hW : [.out, .fresh, .clk, .phase, .fuses, .mem, .regs, .units, .plans, .vat, .press, .link, .safety, .selftest, .aon, .boot, .procs, .log, .power, .net, .settings, .commits] ⊆ W) : Frame W base (writeBlock s w b page off value) := by
  unfold writeBlock
  repeat' with_reducible first
    | apply frame_ite
    | assumption
    | exact List.Subset.trans (by decide) hW
    | apply latchIndex_frame
    | apply State.setForce_frame
    | apply State.setShadow_frame
    | apply clearWrite_frame
    | apply State.pageErr_frame
    | apply commandWrite_frame
    | split
    | extract_lets

theorem regWrite_frame {s : State} {w : Sender} {a value : Nat} (hF : Frame W base s) (hW : [.out, .fresh, .clk, .phase, .fuses, .mem, .regs, .units, .plans, .vat, .press, .link, .safety, .selftest, .aon, .boot, .procs, .log, .power, .net, .settings, .commits] ⊆ W) : Frame W base (regWrite s w a value).1 := by
  unfold regWrite
  dsimp only
  repeat' with_reducible first
    | apply frame_ite
    | assumption
    | exact List.Subset.trans (by decide) hW
    | apply State.bump_frame
    | apply writeHead_frame
    | apply writeBlock_frame
    | split
    | extract_lets
theorem regWrite_frame' {s z : State} {w : Sender} {a value : Nat} {out_} (eq : regWrite s w a value = (z, out_)) (hF : Frame W base s) (hW : [.out, .fresh, .clk, .phase, .fuses, .mem, .regs, .units, .plans, .vat, .press, .link, .safety, .selftest, .aon, .boot, .procs, .log, .power, .net, .settings, .commits] ⊆ W) : Frame W base z := by
  have := regWrite_frame (w := w) (a := a) (value := value) hF hW
  rw [eq] at this
  exact this

theorem hostWrite_frame {s : State} {w : Sender} {page off value : Nat} (hF : Frame W base s) (hW : [.out, .fresh, .clk, .phase, .fuses, .mem, .regs, .units, .plans, .vat, .press, .link, .safety, .selftest, .aon, .boot, .procs, .log, .power, .net, .settings, .commits] ⊆ W) : Frame W base (hostWrite s w page off value) := by
  unfold hostWrite
  repeat' with_reducible first
    | apply frame_ite
    | assumption
    | exact List.Subset.trans (by decide) hW
    | apply regWrite_frame
    | refine regWrite_frame' (by assumption) ?_ ?_
    | apply settleLink_frame
    | split
    | extract_lets

theorem hostSend_frame {s : State} {port : Nat} {dst : BitVec 48} {tag : Option (Nat × Nat)} {frame : Bytes} (hF : Frame W base s) (hW : [.out, .regs] ⊆ W) : Frame W base (hostSend s port dst tag frame) := by
  unfold hostSend
  repeat' with_reducible first
    | assumption
    | exact List.Subset.trans (by decide) hW
    | apply State.emit_frame
    | apply State.bump_frame

theorem regOperation_frame {s : State} {w : Sender} {op : Bytes} (hF : Frame W base s) (hW : [.out, .fresh, .clk, .phase, .fuses, .mem, .regs, .units, .plans, .vat, .press, .link, .safety, .selftest, .aon, .boot, .procs, .log, .power, .net, .settings, .commits] ⊆ W) : Frame W base (regOperation s w op).1 := by
  unfold regOperation
  dsimp only
  repeat' with_reducible first
    | apply frame_ite
    | assumption
    | exact List.Subset.trans (by decide) hW
    | apply regRead_frame
    | refine regRead_frame' (by assumption) ?_ ?_
    | apply regWrite_frame
    | refine regWrite_frame' (by assumption) ?_ ?_
    | split
    | extract_lets
theorem regOperation_frame' {s z : State} {w : Sender} {op : Bytes} {out_} (eq : regOperation s w op = (z, out_)) (hF : Frame W base s) (hW : [.out, .fresh, .clk, .phase, .fuses, .mem, .regs, .units, .plans, .vat, .press, .link, .safety, .selftest, .aon, .boot, .procs, .log, .power, .net, .settings, .commits] ⊆ W) : Frame W base z := by
  have := regOperation_frame (w := w) (op := op) hF hW
  rw [eq] at this
  exact this

theorem regOperations_frame {l : List Bytes} {w : Sender} {stop failed : Bool} {s : State} (hF : Frame W base s) (hW : [.out, .fresh, .clk, .phase, .fuses, .mem, .regs, .units, .plans, .vat, .press, .link, .safety, .selftest, .aon, .boot, .procs, .log, .power, .net, .settings, .commits] ⊆ W) :
    Frame W base (regOperations w stop l s failed).1 := by
  induction l generalizing s failed with
  | nil => exact hF
  | cons op rest ih =>
    unfold regOperations
    dsimp only
    split
    · exact ih hF
    · exact ih (regOperation_frame hF hW)
theorem regOperations_frame' {l : List Bytes} {w : Sender} {stop failed : Bool} {s t : State} {r} (e : regOperations w stop l s failed = (t, r))
    (hF : Frame W base s) (hW : [.out, .fresh, .clk, .phase, .fuses, .mem, .regs, .units, .plans, .vat, .press, .link, .safety, .selftest, .aon, .boot, .procs, .log, .power, .net, .settings, .commits] ⊆ W) : Frame W base t := by
  have := regOperations_frame (l := l) (w := w) (stop := stop) (failed := failed) hF hW
  rw [e] at this
  exact this

theorem answerReg_frame {s : State} {port : Nat} {f : HostFrame} {tag : Option (Nat × Nat)} {r : HostReq} {frame : Bytes} (hF : Frame W base s) (hW : [.out, .regs, .link] ⊆ W) : Frame W base (answerReg s port f tag r frame) := by
  unfold answerReg
  repeat' with_reducible first
    | apply frame_ite
    | assumption
    | exact List.Subset.trans (by decide) hW
    | apply hostSend_frame
    | exact Or.inr (in_frame hW (by decide))
    | exact Or.inl rfl
    | split
    | extract_lets
    | refine Frame.set_link ?_ (in_frame hW (by decide))
    | apply frame_mk

theorem regRequest_frame {s : State} {port : Fin 2} {f : HostFrame} {r : HostReq} (hF : Frame W base s) (hW : [.out, .fresh, .clk, .phase, .fuses, .mem, .regs, .units, .plans, .vat, .press, .link, .safety, .selftest, .aon, .boot, .procs, .log, .power, .net, .settings, .commits] ⊆ W) : Frame W base (regRequest s port f r) := by
  unfold regRequest
  repeat' with_reducible first
    | apply frame_ite
    | assumption
    | exact List.Subset.trans (by decide) hW
    | apply hostSend_frame
    | apply State.bump_frame
    | apply regOperations_frame
    | refine regOperations_frame' (by assumption) ?_ ?_
    | apply settleLink_frame
    | apply answerReg_frame
    | split
    | extract_lets

theorem bulkReadOp_frame {s : State} {port : Nat} {f : HostFrame} {r : HostReq} (hF : Frame W base s) (hW : [.out, .fresh, .mem, .regs, .units, .plans, .vat, .press, .link, .aon, .log, .net, .settings] ⊆ W) : Frame W base (bulkReadOp s port f r) := by
  unfold bulkReadOp
  repeat' with_reducible first
    | apply frame_ite
    | assumption
    | exact List.Subset.trans (by decide) hW
    | apply settleLink_frame
    | apply hostSend_frame
    | apply sysAccess_frame
    | apply State.tick_frame
    | apply State.bump_frame
    | exact Or.inr (in_frame hW (by decide))
    | exact Or.inl rfl
    | apply frame_foldl
    | intro _ _ _
    | split
    | extract_lets
    | refine Frame.set_link ?_ (in_frame hW (by decide))
    | apply frame_mk

theorem noteSlotWrite_frame {s : State} {off : Nat} (hF : Frame W base s) (hW : [.boot] ⊆ W) : Frame W base (noteSlotWrite s off) := by
  unfold noteSlotWrite
  repeat' with_reducible first
    | apply frame_ite
    | assumption
    | exact List.Subset.trans (by decide) hW
    | apply setSlotSt_frame
    | exact Or.inr (in_frame hW (by decide))
    | exact Or.inl rfl
    | split
    | extract_lets
    | refine Frame.set_boot ?_ (in_frame hW (by decide))
    | apply frame_mk

theorem answerBulk_frame {s : State} {port : Nat} {f : HostFrame} {r : HostReq} {code : Nat} {body : Bytes} (hF : Frame W base s) (hW : [.out, .regs, .link] ⊆ W) : Frame W base (answerBulk s port f r code body) := by
  unfold answerBulk
  repeat' with_reducible first
    | assumption
    | exact List.Subset.trans (by decide) hW
    | apply hostSend_frame
    | exact Or.inr (in_frame hW (by decide))
    | exact Or.inl rfl
    | refine Frame.set_link ?_ (in_frame hW (by decide))
    | apply frame_mk

theorem bulkWriteOp_frame {s : State} {port : Nat} {f : HostFrame} {r : HostReq} (hF : Frame W base s) (hW : [.out, .fresh, .mem, .regs, .units, .plans, .vat, .press, .link, .aon, .boot, .log, .net, .settings] ⊆ W) : Frame W base (bulkWriteOp s port f r) := by
  unfold bulkWriteOp
  repeat' with_reducible first
    | apply frame_ite
    | assumption
    | exact List.Subset.trans (by decide) hW
    | apply hostSend_frame
    | apply State.bump_frame
    | apply settleLink_frame
    | apply answerBulk_frame
    | apply sysAccess_frame
    | apply State.wrN_frame
    | apply noteSlotWrite_frame
    | exact Or.inr (in_frame hW (by decide))
    | exact Or.inl rfl
    | split
    | extract_lets
    | refine Frame.set_link ?_ (in_frame hW (by decide))
    | apply frame_mk

theorem flashDoneOp_frame {s : State} (hF : Frame W base s) (hW : [.out, .mem, .regs, .link, .boot] ⊆ W) : Frame W base (flashDoneOp s) := by
  unfold flashDoneOp
  repeat' with_reducible first
    | apply frame_ite
    | assumption
    | exact List.Subset.trans (by decide) hW
    | apply State.wipe_frame
    | apply noteSlotWrite_frame
    | apply State.wrN_frame
    | apply answerBulk_frame
    | apply State.bump_frame
    | exact Or.inr (in_frame hW (by decide))
    | exact Or.inl rfl
    | apply frame_foldl
    | intro _ _ _
    | split
    | extract_lets
    | refine Frame.set_link ?_ (in_frame hW (by decide))
    | apply frame_mk

theorem countRx_frame {s : State} {port : Nat} {counted : Bool} (hF : Frame W base s) (hW : [.regs] ⊆ W) : Frame W base (countRx s port counted) := by
  unfold countRx
  repeat' with_reducible first
    | apply frame_ite
    | assumption
    | exact List.Subset.trans (by decide) hW
    | apply State.bump_frame
    | split
    | extract_lets

theorem garbled_frame {s : State} {port : Nat} (hF : Frame W base s) (hW : [.regs] ⊆ W) : Frame W base (garbled s port) := by
  unfold garbled
  repeat' with_reducible first
    | assumption
    | exact List.Subset.trans (by decide) hW
    | apply countRx_frame
    | apply State.bump_frame

theorem onFrame_frame {s : State} {port : Nat} {f : HostFrame} {typ : Nat} {act : State → HostReq → State}
    (ha : ∀ t r, Frame W base t → Frame W base (act t r)) (hF : Frame W base s) (hW : [.regs] ⊆ W) :
    Frame W base (onFrame s port f typ act) := by
  unfold onFrame
  split
  · exact frame_ite (ha _ _ (countRx_frame hF (List.Subset.trans (by decide) hW))) hF
  · exact garbled_frame hF (List.Subset.trans (by decide) hW)
  · exact hF

theorem dropOp_frame {s : State} {port : Nat} {f : HostFrame} (hF : Frame W base s) (hW : [.out, .regs] ⊆ W) : Frame W base (dropOp s port f) := by
  unfold dropOp
  repeat' with_reducible first
    | apply frame_ite
    | assumption
    | exact List.Subset.trans (by decide) hW
    | apply garbled_frame
    | apply countRx_frame
    | apply State.bump_frame
    | apply hostSend_frame
    | split
    | extract_lets

theorem regReqOp_frame {s : State} {port : Fin 2} {f : HostFrame} (hF : Frame W base s)
    (hW : [.out, .fresh, .clk, .phase, .fuses, .mem, .regs, .units, .plans, .vat, .press, .link, .safety, .selftest, .aon, .boot, .procs,
      .log, .power, .net, .settings, .commits] ⊆ W) : Frame W base (regReqOp s port f) :=
  onFrame_frame (fun _ _ h => regRequest_frame h hW) hF (List.Subset.trans (by decide) hW)

theorem claimWrite_frame {s : State} {port : Fin 2} {takeover reset : Bool} (hF : Frame W base s) (hW : [.out, .fresh, .clk, .phase, .fuses, .mem, .regs, .units, .plans, .vat, .press, .link, .safety, .selftest, .aon, .boot, .procs, .log, .power, .net, .settings, .commits] ⊆ W) : Frame W base (claimWrite s port takeover reset) := by
  unfold claimWrite
  repeat' with_reducible first
    | apply frame_ite
    | assumption
    | exact List.Subset.trans (by decide) hW
    | apply hostWrite_frame
    | split
    | extract_lets

theorem besideH0_frame {s : State} {t : Nat} {port : Fin 2} {op : State → State} (ho : ∀ z, Frame W base z → Frame W base (op z))
    (hF : Frame W base s) (hW : [.link] ⊆ W) : Frame W base (besideH0 s t port op) := by
  unfold besideH0
  split
  · exact Frame.set_link (ho _ (Frame.set_link hF (in_frame hW (by decide)))) (in_frame hW (by decide))
  · exact ho _ hF

end Sys2Proof.Machine
end

