-- ==== Sys2Proof/Laws/Firmware.lean ====
section
/-! SUPPORT. What starts, sleep and processor restarts do: each shared operation of the firmware once. -/

namespace Sys2Proof.Machine

-- one theorem at a time: as one text the package has too many for a thread each
set_option Elab.async false

/-- Memory after a loss of power: the flash reads as before, the rest as nothing has written it. -/
theorem rd_lose (s : State) (supply cold dark : Bool) (a : Nat) :
    (lose s supply cold dark).rd a = if flashBase ≤ a then s.rd a else 0 := by
  show memGet (s.mem.filter (fun c => decide (flashBase ≤ c.1))) a = _
  unfold State.rd
  induction s.mem with
  | nil => simp [memGet, blank]
  | cons e r ih =>
    obtain ⟨j, v⟩ := e
    rw [List.filter_cons]
    split
    · simp only [memGet]; rw [ih]; split
      · subst_vars; rename_i h; simp at h; simp [h]
      · rfl
    · rename_i h; rw [ih]; simp at h
      split
      · simp only [memGet]; rw [if_neg (by omega)]
      · rfl

/-- The header's write changes the header's bytes and PREFERRED. -/
theorem writeHeader_phase (s : State) (b : Bool) : (writeHeader s b).phase = s.phase :=
  (writeHeader_frame (Frame.refl _ s) (List.Subset.refl _)).same .phase (by decide)
theorem wrN_boot (s : State) (a : Nat) (d : Bytes) : (s.wrN a d).boot = s.boot :=
  (State.wrN_frame (Frame.refl [.mem] s) (List.Subset.refl _)).same .boot (by decide)
theorem writeHeader_boot (s : State) (b : Bool) : (writeHeader s b).boot = { s.boot with preferred := b } := by
  unfold writeHeader
  extract_lets s1
  show { s1.boot with preferred := b } = _
  rw [show s1.boot = s.boot from wrN_boot s _ _]

/-- What the ROM's choice never changes. -/
theorem romChoose_same (s : State) {f : Field} (h : f ∉ [.fresh, .phase, .mem, .regs, .safety, .boot, .log, .settings]) : Same f s (romChoose s) :=
  (romChoose_frame (Frame.refl [.fresh, .phase, .mem, .regs, .safety, .boot, .log, .settings] s) (List.Subset.refl _)).same f h

theorem enterRecovery_start (s : State) :
    (enterRecovery s).phase = .recovery ∧ (enterRecovery s).boot.start = { s.boot.start with kind := 3 } := by
  have hb : ∀ (z : State) rs, (applyHostPorts z rs).boot = z.boot := fun z rs =>
    (applyHostPorts_frame (Frame.refl [.regs, .settings] z) (List.Subset.refl _)).same .boot (by decide)
  unfold enterRecovery
  extract_lets s1 rs s2 s3
  have h : s3.boot.start = s.boot.start := by
    have h2 : s2.boot = s.boot := (hb _ _).trans (State.logEntry_boot ..)
    simp only [s3]
    split
    · rw [h2]
    · rw [State.logEntry_boot, h2]
  clear_value s3
  refine ⟨rfl, ?_⟩
  show ({ s3.boot.start with kind := 3 } : StartSt) = _
  rw [h]

/-- The recent failures depend on AON and the clock alone. -/
theorem recentFails_congr {s y : State} (h1 : y.aon = s.aon) (h2 : y.clk = s.clk) : recentFails y = recentFails s := by
  have e : ∀ z : State, recentFails z = (fun (a : AonSt) (c : Clk) =>
      a.failures.filter (fun f => decide (c.clock - a.base ≤ f.aonTime + 600000000000))) z.aon z.clk := fun _ => rfl
  rw [e, e, h1, h2]

/-- The ROM's choice (R442): recovery at six recent failures; else the start goes on. -/
theorem romPick_start (s : State) (pref : Bool) :
    (6 ≤ (recentFails s).length → (romPick s pref).phase = .recovery ∧ (romPick s pref).boot.start = { s.boot.start with kind := 3 }) ∧
    (¬ 6 ≤ (recentFails s).length → (romPick s pref).phase = s.phase ∧ (romPick s pref).boot.start = s.boot.start) := by
  unfold romPick
  extract_lets +onlyGivenNames src s1 n
  have hn : n = (recentFails s).length := rfl
  have hs : s1.phase = s.phase ∧ s1.boot.start = s.boot.start := ⟨rfl, rfl⟩
  clear_value s1 n
  subst hn
  have hstart : ∀ (z : State) b, (startFrom z b).phase = z.phase ∧ (startFrom z b).boot.start = z.boot.start := fun _ _ => ⟨rfl, rfl⟩
  constructor
  · intro h
    rw [if_pos h]
    obtain ⟨a, b⟩ := enterRecovery_start s1
    exact ⟨a, b.trans (by rw [hs.2])⟩
  · intro h
    rw [if_neg h]
    extract_lets +onlyGivenNames f
    clear_value f
    split
    · simp only [State.logEntry_phase, State.bump_phase, State.logEntry_boot, State.bump_boot, hstart]
      refine ⟨(writeHeader_phase _ _).trans hs.1, ?_⟩
      rw [writeHeader_boot]; exact hs.2
    · simpa only [hstart] using hs

theorem romChoose_start (s : State) :
    (6 ≤ (recentFails s).length → (romChoose s).phase = .recovery ∧ (romChoose s).boot.start = { s.boot.start with kind := 3 }) ∧
    (¬ 6 ≤ (recentFails s).length → (romChoose s).phase = s.phase ∧ (romChoose s).boot.start = s.boot.start) := by
  rw [romChoose]
  generalize headerNow s = h
  rcases h with _ | ⟨c, q, pref⟩
  · rw [romWith]
    have := romPick_start (s.logEntry 0x7111 0xFF 0xFF 0) false
    rwa [recentFails_congr (s := s) (y := s.logEntry 0x7111 0xFF 0xFF 0) (by simp) (by simp), State.logEntry_phase,
      State.logEntry_boot] at this
  · rw [romWith]
    exact romPick_start s _

/-- Before the ROM runs. -/
theorem startState_start (s : State) (kind cause : Nat) (supply dark : Bool) :
    (startState s kind cause supply dark).clk = (lose s supply (kind == 1) dark).clk ∧
    (startState s kind cause supply dark).aon = (lose s supply (kind == 1) dark).aon ∧
    (startState s kind cause supply dark).phase = .starting ∧
    (startState s kind cause supply dark).boot.start = ⟨kind, cause, s.clk.clock⟩ := by
  simp only [startState, State.bump_clk, State.bump_aon, State.bump_phase, State.bump_boot, true_and]
  rfl

/-- Every start's beginning: its cause and instant, and recovery or the start in progress. -/
theorem beginStart_start (s : State) (kind cause : Nat) (supply dark : Bool) :
    (beginStart s kind cause supply dark).clk = (lose s supply (kind == 1) dark).clk ∧
    (beginStart s kind cause supply dark).aon = (lose s supply (kind == 1) dark).aon ∧
    (6 ≤ (recentFails (lose s supply (kind == 1) dark)).length →
      (beginStart s kind cause supply dark).phase = .recovery ∧
      (beginStart s kind cause supply dark).boot.start = ⟨3, cause, s.clk.clock⟩) ∧
    (¬ 6 ≤ (recentFails (lose s supply (kind == 1) dark)).length →
      (beginStart s kind cause supply dark).phase = .starting ∧
      (beginStart s kind cause supply dark).boot.start = ⟨kind, cause, s.clk.clock⟩) := by
  rw [beginStart]
  have e := startState_start s kind cause supply dark
  generalize startState s kind cause supply dark = y at e ⊢
  have hr := recentFails_congr e.2.1 e.1
  obtain ⟨r1, r2⟩ := romChoose_start y
  refine ⟨(romChoose_same y (f := .clk) (by decide)).trans e.1, (romChoose_same y (f := .aon) (by decide)).trans e.2.1, fun h => ?_, fun h => ?_⟩
  · obtain ⟨a, b⟩ := r1 (by rw [hr]; exact h)
    exact ⟨a, b.trans (by rw [e.2.2.2])⟩
  · obtain ⟨a, b⟩ := r2 (by rw [hr]; exact h)
    exact ⟨a.trans e.2.2.1, b.trans e.2.2.2⟩

/-- A start that is not a cold one by supply keeps the boot counter (R438). -/
theorem recentFails_lose (s : State) (cold dark : Bool) : recentFails (lose s false cold dark) = recentFails s := by
  cases cold <;> rfl
theorem lose_failures (s : State) (cold dark : Bool) : (lose s false cold dark).aon.failures = s.aon.failures := by
  cases cold <;> rfl

/-- What a halt for a restart does to its processor (R449, R452). -/
theorem restartProc_proc (s : State) (i cause : Nat) (dump : Bool) :
    ((restartProc s i cause dump).proc i).st = .restarting ∧ ((restartProc s i cause dump).proc i).cause = cause ∧
    ((restartProc s i cause dump).proc i).since = s.clk.clock ∧
    ((restartProc s i cause dump).proc i).dumpSeq = (s.proc i).dumpSeq + (if dump then 1 else 0) ∧
    (dump = true → ((restartProc s i cause dump).proc i).dump.isSome = true) := by
  unfold restartProc
  extract_lets s1 s2 s3 s4 x d y y' s5
  have hp : s4.proc i = s.proc i := by
    simp only [State.proc, s4, s3, s2, s1]
    split <;> (split <;> simp)
  have hc : s4.clk = s.clk := by
    simp only [s4, s3, s2, s1]
    split <;> (split <;> simp)
  have h5 : s5.proc i = y' := by
    have e : s5.procs = ((s4.setProc i y').tick).procs := by simp only [s5, recordSpares]; split <;> rfl
    simp only [State.proc, e, State.tick_procs]
    exact sget_sput_self _ _ _ _
  have h6 : ∀ z : State, (if i = 1 ∧ z.safety.hold.isNone = true then
      ({ z with safety := { z.safety with hold := some z.clk.dev, degraded := false, spStatus := (sentinelStatus z).1, spCause := (sentinelStatus z).2 } } : State) else z).proc i = z.proc i := by
    intro z; split <;> rfl
  rw [h6, h5]
  have hx : x.dumpSeq = (s.proc i).dumpSeq := by simp only [x, hp]
  clear_value d
  cases dump
  · exact ⟨rfl, rfl, by simp only [y', y]; exact congrArg Clk.clock hc, by simpa [y', y] using hx, by simp⟩
  · exact ⟨rfl, rfl, by simp only [y', y]; exact congrArg Clk.clock hc, by simp [y', hx], fun _ => rfl⟩

end Sys2Proof.Machine
end

