-- ==== Sys2Proof/Laws/Host.lean ====
section
/-! SUPPORT. What a write of the host does under `HostCan`: the guards of a register write, resolved once. -/

namespace Sys2Proof.Machine

-- one theorem at a time: as one text the package has too many for a thread each
set_option Elab.async false

/-- Nothing precedes an access over a quiet link (R411). -/
theorem settleLink_quiet {z : State} (h : LinkQuiet z) : settleLink z = z := by
  obtain ⟨_, h2, h3⟩ := h
  unfold settleLink orphanOp
  simp [h2, h3]

theorem addr_div {page off : Nat} (h : off < 4096) : addr page off / 4096 = page := by unfold addr; omega
theorem addr_mod {page off : Nat} (h : off < 4096) : addr page off % 4096 = off := by unfold addr; omega

/-- The pages of the map end before 0x1F2. -/
theorem blockOf_lt {page : Nat} {e : Block × Nat} (h : blockOf page = some e) : page < 0x1F2 := by
  by_contra hn
  unfold blockOf at h
  repeat' (first | rw [if_neg (by omega)] at h)
  cases h

/-- A register write over a quiet link by the current session takes effect at once (R394, R405, R417). -/
theorem regWrite_of_can {z : State} {w : Sender} {page off v first : Nat} {b : Block} (h : HostCan z w page)
    (hb : blockOf page = some (b, first)) (h1 : off < 4096) (h2 : off % 4 = 0) :
    regWrite z w (addr page off) v =
      (if off < 0x040 then writeHead z b page off v else writeBlock z w b page off v, ⟨0, v % 2 ^ 32⟩) := by
  obtain ⟨_, hs, hbusy, hf⟩ := h
  rw [hb] at hf
  have hp := blockOf_lt hb
  unfold regWrite
  rw [if_neg (by unfold addr; omega)]
  simp only [addr_div h1, addr_mod h1, hb, hbusy, hs, hf, Bool.or_true, Bool.not_true, Bool.false_eq_true, if_false]

/-- A write of the host on a page it can write. -/
theorem hostWrite_of_can {z : State} {w : Sender} {page off v first : Nat} {b : Block} (h : HostCan z w page)
    (hb : blockOf page = some (b, first)) (h1 : off < 4096) (h2 : off % 4 = 0) :
    hostWrite z w page off v = if off < 0x040 then writeHead z b page off v else writeBlock z w b page off v := by
  have hu : hostUp z = true := by simp [hostUp, h.1.1]
  unfold hostWrite
  rw [if_pos hu, settleLink_quiet h.1, regWrite_of_can h hb h1 h2]

/-- A page that is written is on. -/
theorem deadPage_of_can {z : State} {w : Sender} {page : Nat} (h : HostCan z w page) (b : Block) : deadPage z b = false := by
  simp [deadPage, h.1.1]

/-- A write of a command register runs the command. -/
theorem hostWrite_command {z : State} {w : Sender} {page off v first : Nat} {b : Block} (h : HostCan z w page)
    (hb : blockOf page = some (b, first)) (h1 : off < 4096) (h2 : off % 4 = 0) (h3 : 0x040 ≤ off) (ha : accOf b off = .wo)
    (hc : clearOff b ≠ some off) : hostWrite z w page off v = commandWrite z w b off v := by
  rw [hostWrite_of_can h hb h1 h2, if_neg (by omega)]
  unfold writeBlock
  rw [ha]
  simp only [hc, if_false, deadPage_of_can h b, Bool.false_eq_true]

/-! ### What the passing of time leaves -/

theorem atTime_eq (t : Nat) (s : State) : ∃ c, atTime t s = { s with clk := c } := ⟨_, rfl⟩

/-! ### The commands that are one write of a command register -/

theorem blockOf_part (p : Fin 8) : blockOf (pgPart p.val) = some (.part p.val, 0x1A1) := by revert p; decide
theorem blockOf_pressP (p : Fin 8) : blockOf (pgPressP p.val) = some (.pressP p.val, 0x181) := by revert p; decide
theorem blockOf_tally (p : Fin 8) : blockOf (pgTally p.val) = some (.tallyW p.val, 0x1A9) := by revert p; decide
theorem blockOf_chan (n : Fin 32) : blockOf (pgChan n.val) = some (.chan n.val, 0x030) := by revert n; decide
theorem blockOf_proc (i : Fin 3) : blockOf (pgProc i.val) = some (.proc i.val, 0x004) := by revert i; decide

theorem hostWrite_boot {z : State} {w : Sender} (h : HostCan z w 3) (v : Nat) : hostWrite z w pgBoot 0x050 v = bootCmdWrite z v :=
  hostWrite_command (b := .boot) h rfl (by decide) (by decide) (by decide) (by decide) (by decide)
theorem hostWrite_proc {z : State} {w : Sender} {i : Fin 3} (h : HostCan z w (pgProc i.val)) (v : Nat) :
    hostWrite z w (pgProc i.val) 0x048 v = procCmdWrite z i.val v :=
  hostWrite_command h (blockOf_proc i) (by decide) (by decide) (by decide) (by clear h; revert i; decide) (by clear h; revert i; decide)
theorem hostWrite_safe {z : State} {w : Sender} (h : HostCan z w pgSafe) (v : Nat) : hostWrite z w pgSafe 0x068 v = safeCmdWrite z v :=
  hostWrite_command (b := .safe) h rfl (by decide) (by decide) (by decide) (by decide) (by decide)
theorem hostWrite_st {z : State} {w : Sender} (h : HostCan z w pgSt) (v : Nat) : hostWrite z w pgSt 0x048 v = stCmdWrite z v :=
  hostWrite_command (b := .st) h rfl (by decide) (by decide) (by decide) (by decide) (by decide)
theorem hostWrite_chan {z : State} {w : Sender} {n : Fin 32} (h : HostCan z w (pgChan n.val)) (v : Nat) :
    hostWrite z w (pgChan n.val) 0x06C v = chanCmd z n.val v :=
  hostWrite_command h (blockOf_chan n) (by decide) (by decide) (by decide) (by clear h; revert n; decide) (by clear h; revert n; decide)
theorem hostWrite_tally {z : State} {w : Sender} {p : Fin 8} (h : HostCan z w (pgTally p.val)) (v : Nat) :
    hostWrite z w (pgTally p.val) 0x044 v = tallyWrite z p.val v :=
  hostWrite_command h (blockOf_tally p) (by decide) (by decide) (by decide) (by clear h; revert p; decide) (by clear h; revert p; decide)
/-- A partition command while QP runs and none waits (R321, R450). -/
theorem hostWrite_part {z : State} {w : Sender} {p : Fin 8} (h : HostCan z w (pgPart p.val)) (hc : (z.part p.val).cmd = none)
    (hq : (z.proc 2).st = .run) (v : Nat) : hostWrite z w (pgPart p.val) 0x068 v =
      partCommand z p.val v (z.partReg p.val 0x06C) (z.partReg p.val 0x070) (z.partReg p.val 0x074) := by
  have e : hostWrite z w (pgPart p.val) 0x068 v = partCmdWrite z p.val v :=
    hostWrite_command h (blockOf_part p) (by decide) (by decide) (by decide) (by clear h hc; revert p; decide) (by clear h hc; revert p; decide)
  rw [e]
  unfold partCmdWrite
  simp only [hc, Option.isSome_none, Bool.false_eq_true, if_false, hq]
  rfl
/-- A write of DEV_CLAIM over a quiet link: any session may make it (R405). -/
theorem hostWrite_claim {z : State} (w : Sender) (h : LinkQuiet z) (v : Nat) : hostWrite z w pgDev 0x05C v = claimCmd z w v := by
  have hu : hostUp z = true := by simp [hostUp, h.1]
  have hb : blockOf 0 = some (.dev, 0) := rfl
  have hd : deadPage z .dev = false := by simp [deadPage, h.1]
  unfold hostWrite
  rw [if_pos hu, settleLink_quiet h]
  unfold regWrite
  rw [if_neg (by decide)]
  simp only [show addr pgDev 0x05C / 4096 = 0 from rfl, show addr pgDev 0x05C % 4096 = 0x05C from rfl, hb]
  rw [if_neg (by simp [pageBusy, emulated]), if_neg (by simp [anySession]), if_neg (by simp [fusedPage]), if_neg (by decide)]
  show writeBlock z w .dev 0 0x05C v = _
  unfold writeBlock
  rw [show accOf .dev 0x05C = .wo from by decide]
  dsimp only
  rw [if_neg (by decide), hd]
  rfl

end Sys2Proof.Machine
end

