-- ==== Sys2Proof/Laws/Power.lean ====
section
/-! SUPPORT. What a pass over the pairs does: each pair of a list without repeats is changed once, the others are left. -/

namespace Sys2Proof.Machine

-- one theorem at a time: as one text the package has too many for a thread each
set_option Elab.async false

/-- A pass that gives each pair of a list a new value from its old one. -/
theorem foldPairs_self (f : PairSt → PairSt) (l : List Nat) (s : State) (hl : l.Nodup) (i : Nat) :
    ((l.foldl (fun s i => s.setPair i (f (s.pair i))) s).pair i) = if i ∈ l then f (s.pair i) else s.pair i := by
  induction l generalizing s with
  | nil => simp
  | cons j r ih =>
    rw [List.foldl_cons, ih _ (List.nodup_cons.1 hl).2]
    have hj := (List.nodup_cons.1 hl).1
    by_cases h : i = j
    · subst h; simp [hj, State.setPair_pair_self]
    · rw [State.setPair_pair_ne _ _ h]; simp [h]

/-- A pass changes the pairs alone. -/
theorem foldPairs_frame (f : PairSt → PairSt) (l : List Nat) (s : State) :
    Frame [.units] s (l.foldl (fun s i => s.setPair i (f (s.pair i))) s) :=
  frame_foldl l (Frame.refl _ s) (fun t _ h => State.setPair_frame h (by decide))

theorem foldPairs_cores (f : PairSt → PairSt) (l : List Nat) (s : State) :
    (l.foldl (fun s i => s.setPair i (f (s.pair i))) s).units.cores = s.units.cores := by
  induction l generalizing s with
  | nil => rfl
  | cons j r ih => rw [List.foldl_cons, ih]; rfl

theorem livePairs_nodup (s : State) : (livePairs s).Nodup := List.Nodup.filter _ List.nodup_range
theorem runPairs_nodup (s : State) : (runPairs s).Nodup := List.Nodup.filter _ (livePairs_nodup s)

/-! ### What counting leaves -/

/-- Nothing that a pair's frequency is chosen from has changed: the registers in force, the pairs, what fences a core and which core runs. -/
structure SameChoice (s u : State) : Prop where
  force : u.regs.force = s.regs.force
  fuses : u.fuses = s.fuses
  boot : u.boot = s.boot
  pairs : u.units.pairs = s.units.pairs
  fenced : ∀ n, (u.core n).fenced = (s.core n).fenced
  clk : ∀ n, (u.core n).clk = (s.core n).clk
  stop : ∀ n, (u.core n).stopAt = (s.core n).stopAt
  now : u.clk = s.clk

theorem SameChoice.rfl' (s : State) : SameChoice s s := ⟨rfl, rfl, rfl, rfl, fun _ => rfl, fun _ => rfl, fun _ => rfl, rfl⟩
theorem SameChoice.trans {s u v : State} (h : SameChoice s u) (k : SameChoice u v) : SameChoice s v :=
  ⟨k.force.trans h.force, k.fuses.trans h.fuses, k.boot.trans h.boot, k.pairs.trans h.pairs,
    fun n => (k.fenced n).trans (h.fenced n), fun n => (k.clk n).trans (h.clk n), fun n => (k.stop n).trans (h.stop n), k.now.trans h.now⟩
theorem SameChoice.foldl {α : Type} (f : State → α → State) (l : List α) (h : ∀ s a, SameChoice s (f s a)) (s : State) :
    SameChoice s (l.foldl f s) := by
  induction l generalizing s with
  | nil => exact .rfl' s
  | cons a r ih => exact (h s a).trans (ih _)

theorem tick_sameChoice (s : State) : SameChoice s s.tick := ⟨rfl, rfl, rfl, rfl, fun _ => rfl, fun _ => rfl, fun _ => rfl, rfl⟩
theorem bump_sameChoice (s : State) (page off n : Nat) : SameChoice s (s.bump page off n) := by
  unfold State.bump
  split
  · exact ⟨rfl, rfl, rfl, rfl, fun _ => rfl, fun _ => rfl, fun _ => rfl, rfl⟩
  · exact .rfl' s
theorem bumpRow_sameChoice (page : Nat) (l : List Nat) : ∀ (s : State) (off : Nat), SameChoice s (bumpRow s page off l) := by
  induction l with
  | nil => exact fun s _ => .rfl' s
  | cons a r ih => exact fun s off => (bump_sameChoice s page off a).trans (ih _ _)
theorem freeUpTo_sameChoice (l : List Nat) : ∀ (s : State) (n : Nat), SameChoice s (freeUpTo s n l).2 := by
  induction l with
  | nil => exact fun s _ => .rfl' s
  | cons a r ih => exact fun s n => (tick_sameChoice s).trans (ih _ _)
theorem setCore_sameChoice (s : State) (n : Nat) (c : CoreSt) (h1 : c.fenced = (s.core n).fenced) (h2 : c.clk = (s.core n).clk) (h3 : c.stopAt = (s.core n).stopAt) :
    SameChoice s (s.setCore n c) := by
  refine ⟨rfl, rfl, rfl, rfl, fun k => ?_, fun k => ?_, fun k => ?_, rfl⟩ <;> by_cases e : k = n
  · subst e; rw [State.setCore_core_self, h1]
  · rw [State.setCore_core_ne _ _ e]
  · subst e; rw [State.setCore_core_self, h2]
  · rw [State.setCore_core_ne _ _ e]
  · subst e; rw [State.setCore_core_self, h3]
  · rw [State.setCore_core_ne _ _ e]
theorem modUnit_sameChoice (s : State) (u : Nat) (f : CoreSt → CoreSt) (h : ∀ c, (f c).fenced = c.fenced ∧ (f c).clk = c.clk ∧ (f c).stopAt = c.stopAt) :
    SameChoice s (modUnit s u f) :=
  SameChoice.foldl _ _ (fun s n => setCore_sameChoice s n _ (h _).1 (h _).2.1 (h _).2.2) s

/-- Counting what a unit in RUN has done changes nothing that frequencies are chosen from. -/
theorem account_sameChoice (s : State) (u : Nat) : SameChoice s (account s u) := by
  unfold account
  extract_lets c
  split
  · exact .rfl' s
  · split
    split
    rename_i l t ht
    have h : SameChoice s t := by
      have e : t = (l, t).2 := rfl
      rw [e, ← ht]
      repeat' split
      all_goals first | exact freeUpTo_sameChoice _ _ _ | exact .rfl' s
    exact (h.trans (SameChoice.foldl _ _ (fun s k => bumpRow_sameChoice _ _ _ _) _)).trans (modUnit_sameChoice _ _ _ (fun _ => ⟨rfl, rfl, rfl⟩))

/-- Which core runs. -/
theorem SameChoice.inRun {s u : State} (h : SameChoice s u) (n : Nat) : u.inRun n = s.inRun n := by
  simp only [State.inRun, h.clk, h.stop, h.now]

theorem SameChoice.pair {s u : State} (h : SameChoice s u) (i : Nat) : u.pair i = s.pair i := by
  simp only [State.pair, h.pairs]

/-! ### Frequencies -/

/-- What a choice of frequency changes of a pair: one that is STOPPED keeps the frequency in force until its next wake (R25, R467). -/
def chosen (s : State) (i f : Nat) : PairSt := { s.pair i with freq := if pairStopped s i then (s.pair i).freq else f, next := f }

/-- What a choice of frequency does: the pair's own frequency, and nothing else that frequencies are chosen from. -/
theorem chooseFreq_all (s : State) (i f : Nat) :
    (chooseFreq s i f).pair i = chosen s i f ∧ (∀ k, k ≠ i → (chooseFreq s i f).pair k = s.pair k) ∧
    (chooseFreq s i f).regs.force = s.regs.force ∧ (chooseFreq s i f).fuses = s.fuses ∧ (chooseFreq s i f).boot = s.boot ∧
    (∀ n, ((chooseFreq s i f).core n).fenced = (s.core n).fenced) ∧ (∀ n, (chooseFreq s i f).inRun n = s.inRun n) := by
  unfold chooseFreq chosen
  split
  · refine ⟨State.setPair_pair_self .., fun k h => State.setPair_pair_ne _ _ h, rfl, rfl, rfl, fun _ => rfl, fun _ => rfl⟩
  · extract_lets t
    have h : SameChoice s t := SameChoice.foldl _ _ account_sameChoice s
    refine ⟨?_, fun k e => (State.setPair_pair_ne _ _ e).trans (h.pair k), h.force, h.fuses, h.boot, h.fenced, h.inRun⟩
    rw [State.setPair_pair_self]
    exact congrArg (fun x : PairSt => ({ x with freq := f, next := f } : PairSt)) (h.pair i)

/-- A pass over the pairs that changes none of owner, mode or caps leaves what a pair's frequency is computed from. -/
theorem pairFreq_congr {s u : State} {i : Nat} (hr : u.regs.force = s.regs.force)
    (h1 : (u.pair i).owner = (s.pair i).owner) (h2 : (u.pair i).capPower = (s.pair i).capPower)
    (h3 : (u.pair i).capTherm = (s.pair i).capTherm) (h4 : (u.pair i).capHw = (s.pair i).capHw) : pairFreq u i = pairFreq s i := by
  have et : ∀ p, targetOf u p = targetOf s p := fun p => by simp only [targetOf, State.inForce, hr]
  by_cases h : (s.pair i).owner < 8 <;> simp [pairFreq, pairTarget, pairOwner, et, h1, h2, h3, h4, h]

theorem runPairs_congr {s u : State} (hf : u.fuses = s.fuses) (hc : ∀ n, (u.core n).fenced = (s.core n).fenced) (hb : u.boot = s.boot)
    (hp : ∀ i, (u.pair i).safe = (s.pair i).safe) : runPairs u = runPairs s := by
  have h1 : ∀ i, u.pairFused i = s.pairFused i := fun i => by simp only [State.pairFused, hf]
  have h3 : ∀ n, coreFenced u n = coreFenced s n := fun n => by simp only [coreFenced, pairFenced, hc, hb, hp]
  simp only [runPairs, livePairs, pairUnits, h1, h3, hp]

/-- MP's pass over a list of pairs. -/
theorem chooseAll (l : List Nat) (s z : State) (hn : l.Nodup) (hr : z.regs.force = s.regs.force) (hf : z.fuses = s.fuses) (hb : z.boot = s.boot)
    (hc : ∀ n, (z.core n).fenced = (s.core n).fenced) (hk : ∀ n, z.inRun n = s.inRun n) (hj : ∀ j ∈ l, z.pair j = s.pair j) :
    let u := l.foldl (fun s i => chooseFreq s i (pairFreq s i)) z
    (∀ i, u.pair i = if i ∈ l then chosen s i (pairFreq s i) else z.pair i) ∧
    u.regs.force = s.regs.force ∧ u.fuses = s.fuses ∧ u.boot = s.boot ∧
    (∀ n, (u.core n).fenced = (s.core n).fenced) ∧ (∀ n, u.inRun n = s.inRun n) := by
  induction l generalizing z with
  | nil => exact ⟨fun _ => by simp, hr, hf, hb, hc, hk⟩
  | cons j r ih =>
    have hjr := (List.nodup_cons.1 hn).1
    obtain ⟨a, b, c, d, e, f, g⟩ := chooseFreq_all z j (pairFreq z j)
    have ej := hj j (List.mem_cons_self ..)
    have ef : pairFreq z j = pairFreq s j := pairFreq_congr hr (by rw [ej]) (by rw [ej]) (by rw [ej]) (by rw [ej])
    have es : chosen z j (pairFreq z j) = chosen s j (pairFreq s j) := by
      unfold chosen
      have ep : pairStopped z j = pairStopped s j := by simp only [pairStopped, hk]
      rw [ef, ej, ep]
    obtain ⟨p, q⟩ := ih (chooseFreq z j (pairFreq z j)) (List.nodup_cons.1 hn).2 (c.trans hr) (d.trans hf) (e.trans hb)
      (fun n => (f n).trans (hc n)) (fun n => (g n).trans (hk n))
      (fun k hk' => (b k (fun x => hjr (x ▸ hk'))).trans (hj k (List.mem_cons_of_mem _ hk')))
    refine ⟨fun i => (p i).trans ?_, q⟩
    by_cases h : i = j
    · subst h; rw [if_neg hjr, a, es, if_pos (List.mem_cons_self ..)]
    · rw [b i h]; simp [h]

/-- A fold of max is at least what it starts from and every element of the list. -/
theorem le_foldl_max (l : List Nat) : ∀ m, m ≤ l.foldl max m ∧ ∀ x ∈ l, x ≤ l.foldl max m := by
  induction l with
  | nil => simp
  | cons a r ih =>
    intro m
    obtain ⟨h1, h2⟩ := ih (max m a)
    refine ⟨le_trans (le_max_left m a) h1, fun x hx => ?_⟩
    rcases List.mem_cons.1 hx with rfl | hx
    · exact le_trans (le_max_right m _) h1
    · exact h2 x hx

/-- The hardware refuses no frequency that MP sets: VCORE has been raised first (R466, R467). -/
theorem setFrequencies_eq (s : State) : setFrequencies s =
    (runPairs s).foldl (fun s i => chooseFreq s i (pairFreq s i)) { s with power := { s.power with vcore := vcoreFor s } } := by
  have h : (runPairs s).filter (fun i => vfAllows { s with power := { s.power with vcore := vcoreFor s } } (pairFreq s i)) = runPairs s :=
    List.filter_eq_self.2 (fun i hi => decide_eq_true ((le_foldl_max _ 0).2 _
      (List.mem_append_left _ (List.mem_map.2 ⟨i, hi, rfl⟩))))
  unfold setFrequencies
  exact congrArg (fun l => l.foldl (fun s i => chooseFreq s i (pairFreq s i)) { s with power := { s.power with vcore := vcoreFor s } }) h

/-- MP's pass over the frequencies (R468): the lowest of TARGET and its caps is chosen for every pair that is enabled and not fenced. -/
theorem setFrequencies_pair (s : State) (i : Nat) :
    (setFrequencies s).pair i = if i ∈ runPairs s then chosen s i (pairFreq s i) else s.pair i := by
  rw [setFrequencies_eq]
  exact (chooseAll (runPairs s) s { s with power := { s.power with vcore := vcoreFor s } } (runPairs_nodup s) rfl rfl rfl (fun _ => rfl)
    (fun _ => rfl) (fun _ _ => rfl)).1 i

theorem setFrequencies_frame' (s : State) : Frame [.fresh, .regs, .units, .power] s (setFrequencies s) :=
  setFrequencies_frame (Frame.refl _ s) (List.Subset.refl _)

/-- After MP's pass every enabled, unfenced pair's chosen frequency is the lowest of TARGET and its caps, and one in RUN is at it. -/
theorem setFrequencies_freq (s : State) (i : Nat) (h : i ∈ runPairs (setFrequencies s)) :
    ((setFrequencies s).pair i).next = pairFreq (setFrequencies s) i ∧
    (pairStopped (setFrequencies s) i = false → ((setFrequencies s).pair i).freq = pairFreq (setFrequencies s) i) := by
  obtain ⟨hp, hr, hf, hb, hc, hk⟩ := chooseAll (runPairs s) s { s with power := { s.power with vcore := vcoreFor s } } (runPairs_nodup s)
    rfl rfl rfl (fun _ => rfl) (fun _ => rfl) (fun _ _ => rfl)
  rw [← setFrequencies_eq] at hp hr hf hb hc hk
  have e : runPairs (setFrequencies s) = runPairs s :=
    runPairs_congr hf hc hb (fun k => by rw [hp]; split <;> rfl)
  rw [e] at h
  have hi := hp i
  rw [if_pos h] at hi
  have ef : pairFreq (setFrequencies s) i = pairFreq s i := by
    refine pairFreq_congr hr ?_ ?_ ?_ ?_ <;> rw [hi] <;> rfl
  rw [ef, hi]
  refine ⟨rfl, fun hn => ?_⟩
  have : pairStopped s i = false := by
    rw [← hn]; unfold pairStopped
    exact congrArg₂ _ (by rw [← hk]) (by rw [← hk])
  simp [chosen, this]

end Sys2Proof.Machine
end

