-- ==== Sys2Proof/WellFormed.lean ====
section
/-! DEFINITION. Which commands name a thing that exists: ports, pages, sensors and addresses inside their ranges. A command that is
not well formed still has its meaning; it names nothing, so it changes nothing but the clock. -/

namespace Sys2Proof

/-- A tensor-space address (R157: 48 bits). -/
def vaOk (va : Nat) : Bool := decide (va < 2 ^ 48)

/-- A page-table entry's page number (R157). -/
def vpnOk (vpn : Nat) : Bool := decide (vpn < 2 ^ 32)

/-- An Ethernet payload that H0 or H1 accepts, with JUMBO at most 9,000 bytes (R422). -/
def frameOk (f : HostFrame) : Bool := decide (f.payload.length ≤ 9000)

/-- The well-formed commands. -/
def Instr.wf : Instr → Bool
  | .powerLoop _ m => decide (m.rails.length = 5)
  | .thermalThrottleClear _ _ temps => decide (temps.length = 4)
  | .thermalLoop _ _ temps => decide (temps.length = 4)
  | .vatPacketRx _ _ frame => decide (14 ≤ frame.bytes.length)
  | .gptpMessage _ m => decide (m.port < 10) && decide (m.domain < 128)
  | .pageFault _ _ vpn => vpnOk vpn
  | .pageFillComplete _ _ vpn => vpnOk vpn
  | .translationError _ _ va _ => vaOk va
  | .poisonedAccess _ _ va => vaOk va
  | .dramEccError _ frame _ _ => decide (frame < 917504)
  | .proofVerdict _ _ result _ => decide (result.length = 4096)
  | .regReq _ _ f => frameOk f
  | .bulkRead _ _ f => frameOk f
  | .bulkWrite _ _ f => frameOk f
  | .hostFrameDrop _ _ f => frameOk f
  | .pageCommit _ _ page _ => decide (page < 2 ^ 16)
  | .commitSafePoint _ page => decide (page < 2 ^ 16)
  | .revert _ _ page => decide (page < 2 ^ 16)
  | .pageErrClear _ _ page => decide (page < 2 ^ 16)
  | .counterClear _ _ page => decide (page < 2 ^ 16)
  | _ => true

end Sys2Proof
end

