-- ==== Sys2Proof/Tests/Slice0.lean ====
section
/-! SUPPORT. The author's own tests: ill-formed commands that WellFormed refuses, single commands with a value worked out by hand from the
rules, and for every statement with hypotheses the states and operands that meet them, clause by clause. -/

namespace Sys2Proof.Tests

set_option Elab.async false

open Sys2Proof Sys2Proof.Machine

/-! ### WellFormed and Decode -/

/-- One ill-formed command for each check. -/
theorem test_wf_refuses :
    Instr.wf (.powerLoop 0 ⟨48000, 100, [(0, 0)], 0⟩) = false ∧ Instr.wf (.thermalThrottleClear 0 0 [0]) = false ∧
    Instr.wf (.thermalLoop 0 0 [0, 0, 0]) = false ∧ Instr.wf (.vatPacketRx 0 0 ⟨List.replicate 13 0, true⟩) = false ∧
    Instr.wf (.gptpMessage 0 ⟨10, 0, 0, 0, true⟩) = false ∧ Instr.wf (.gptpMessage 0 ⟨9, 128, 0, 0, true⟩) = false ∧
    Instr.wf (.pageFault 0 0 (2 ^ 32)) = false ∧ Instr.wf (.pageFillComplete 0 0 (2 ^ 32)) = false ∧
    Instr.wf (.translationError 0 (.core 0) (2 ^ 48) false) = false ∧ Instr.wf (.poisonedAccess 0 (.core 0) (2 ^ 48)) = false ∧
    Instr.wf (.dramEccError 0 917504 false none) = false ∧ Instr.wf (.pageCommit 0 ⟨0, 1⟩ (2 ^ 16) 1) = false ∧
    Instr.wf (.commitSafePoint 0 (2 ^ 16)) = false ∧ Instr.wf (.revert 0 ⟨0, 1⟩ (2 ^ 16)) = false ∧
    Instr.wf (.pageErrClear 0 ⟨0, 1⟩ (2 ^ 16)) = false ∧ Instr.wf (.counterClear 0 ⟨0, 1⟩ (2 ^ 16)) = false := by decide +kernel

/-- A frame of more than 9,000 bytes of payload is none that H0 accepts (R422). -/
theorem test_wf_refuses_long_frames (f : HostFrame) (h : f.payload.length = 9001) :
    Instr.wf (.regReq 0 0 f) = false ∧ Instr.wf (.bulkRead 0 0 f) = false ∧ Instr.wf (.bulkWrite 0 0 f) = false ∧
      Instr.wf (.hostFrameDrop 0 0 f) = false := by
  simp [Instr.wf, frameOk, h]

/-- A command at the edge of its ranges is well formed. -/
theorem test_wf_admits :
    Instr.wf (.gptpMessage 0 ⟨9, 127, 0, 0, true⟩) = true ∧ Instr.wf (.pageFault 0 0 (2 ^ 32 - 1)) = true ∧
      Instr.wf (.dramEccError 0 917503 false none) = true ∧ Instr.wf (.supplyOff 0) = true := by decide

/-- No word spells a command. -/
theorem test_no_word_spells_a_command (n w : Nat) : decodeTableWord n w = none := rfl

/-! ### States to start from -/

/-- Claimed over H0 with session 7 and GYTRIX version 1.0. -/
def claimed : State := { State.reset with link := { LinkSt.reset with host := .claimed, session := 7, version := 0x0100 } }

/-- The sender that holds the session. -/
def me : Sender := ⟨0, 7⟩

/-- The host can write a page, as a computation. -/
def canWrite (s : State) (w : Sender) (page : Nat) : Bool :=
  decide (s.phase = .up) && !hbDue s && decide (s.link.resetting = none) && currentSession s w.session && !pageBusy s page &&
    (match blockOf page with | some (b, _) => !fusedPage s b | none => false)

theorem hostCan_of_canWrite {s : State} {w : Sender} {page : Nat} (h : canWrite s w page = true) : HostCan s w page := by
  simp only [canWrite, Bool.and_eq_true, decide_eq_true_eq, Bool.not_eq_true'] at h
  obtain ⟨⟨⟨⟨⟨h1, h2⟩, h3⟩, h4⟩, h5⟩, h6⟩ := h
  refine ⟨⟨h1, h2, h3⟩, h4, h5, ?_⟩
  cases hb : blockOf page with
  | none => rw [hb] at h6; simp at h6
  | some x => rw [hb] at h6; simpa using h6

/-- A partition as it is after INSTALL with its commands idle. -/
def withPart (x : PartSt) (s : State) : State := s.setPart 0 x

/-! ### The spec's worked examples -/

/-- Core 23: its pair and pages (chapter 1). -/
theorem test_pages_of_core_23 : pgCore 23 = 0x0117 ∧ pgPair (23 / 2) = 0x014B ∧ 0x160 + 23 / 2 / 5 = 0x0162 := by decide

/-- One KRB-7 output channel (chapter 2): both rounding modes, the ReLU clamp, and an accumulator that is no tie. -/
def krb7 (rna : Bool) (lo : Nat) : Requant := ⟨1, 3, 2, rna, false, false, true, 32, 0, 0x3A800000, lo, 127, 0, 0⟩
theorem test_requant_example :
    requantElem (krb7 false 0xFFFFFF80) (BitVec.ofInt 32 (-1236)) (BitVec.ofInt 32 (-300)) 3 = 0xFC ∧
    requantElem (krb7 true 0xFFFFFF80) (BitVec.ofInt 32 (-1236)) (BitVec.ofInt 32 (-300)) 3 = 0xFB ∧
    requantElem (krb7 true 0) (BitVec.ofInt 32 (-1236)) (BitVec.ofInt 32 (-300)) 3 = 0 ∧
    requantElem (krb7 false 0xFFFFFF80) (BitVec.ofInt 32 (-1237)) (BitVec.ofInt 32 (-300)) 3 = 0xFB := by decide +kernel

/-- The descriptor's word 0 of the same example: its fields. -/
theorem test_requant_fields : (parseRequant (toLE 4 0x01321000 ++ List.replicate 44 0)).version = 1 ∧
    (parseRequant (toLE 4 0x01321000 ++ List.replicate 44 0)).inFmt = 3 ∧ (parseRequant (toLE 4 0x01321000 ++ List.replicate 44 0)).outFmt = 2 ∧
    (parseRequant (toLE 4 0x01321000 ++ List.replicate 44 0)).biasEn = true := by decide +kernel

/-- The hawk instruction of cycle 6 of the PCT-3 track update (chapter 4). -/
theorem test_hawk_instruction : (fun i : HInstr => (i.op, i.dst, i.srcA, i.srcB, i.mat, i.acc, i.fmt))
    (parseHInstr (toLE 4 0x14204268 ++ List.replicate 28 0)) = (0x05, 2, 1, 2, 1, true, 0x8) := by decide +kernel

/-- Suppression (chapter 10): A against B and against C, THR_IOU 0.5, and the score tie. -/
def corners (x1 y1 x2 y2 : Int) : Box := ⟨x1 * 65536, y1 * 65536, x2 * 65536, y2 * 65536⟩
theorem test_suppression_example :
    suppresses 32768 (corners 100 200 180 280) (corners 110 205 190 285) = true ∧
    suppresses 32768 (corners 100 200 180 280) (corners 175 200 255 280) = false ∧
    candBefore (0x3F600000, 8212) (0x3F600000, 8305) = true ∧ candBefore (0x3F600000, 8212) (0x3F600000, 8101) = false := by decide +kernel

/-- The spectral layer of chapter 6: 240 rows out, VH 240, one tile. -/
def rangeContext : SpecDesc := parseSpec (toLE 4 0x01200000 ++ toLE 4 0x11110101 ++ toLE 4 0x44000000 ++ toLE 4 0x08080808 ++ toLE 4 0x00F000F0
  ++ toLE 4 0x00200020 ++ toLE 4 0x00200000 ++ toLE 4 0x00000001 ++ List.replicate 64 0)
theorem test_spectral_example : outH (specGeom rangeContext) = 240 ∧ specVH rangeContext = 240 ∧ specTH rangeContext = 1 ∧
    specTW rangeContext = 1 ∧ rangeContext.tileCount = 1 := by decide +kernel

/-- The sentinel words of chapter 12: counter 7 VALID and counter 8 INVALID. -/
theorem test_sentinel_words : sentinelWordOf stValid 7 = 0xA7E0 ∧ sentinelWordOf stInvalid 8 = 0x687F := by decide +kernel

/-- The claim of chapter 14: the request's 64 bytes, and the answer's third and fourth operation. The session is the one after AON's 0x16. -/
def claimRequest : Bytes :=
  [0x01, 0x01, 0x01, 0, 0, 0, 0, 0x01, 0, 0, 0, 0, 0, 0x30, 0, 0] ++ [0x02, 0, 0, 0, 0, 0, 0, 0x58, 0x02, 0x03, 0x01, 0]
  ++ [0x02, 0, 0, 0, 0, 0, 0, 0x5C, 0x10, 0, 0, 0] ++ [0x01, 0, 0, 0, 0, 0, 0, 0x60, 0, 0, 0, 0] ++ [0x01, 0, 0, 0, 0, 0, 0, 0x64, 0, 0, 0, 0]
def beforeClaim : State := { State.reset with aon := { AonSt.reset with session := 0x16 } }
def claimAnswer : Bytes :=
  match hostRx beforeClaim 0 ⟨1, none, 0x88B5, claimRequest ++ toBE 4 (crc32c claimRequest), true⟩,
    exec (.regReq 0 0 ⟨1, none, 0x88B5, claimRequest ++ toBE 4 (crc32c claimRequest), true⟩) beforeClaim with
  | .good _, .next u => match u.out with
    | .host _ _ _ b :: _ => b
    | _ => []
  | _, _ => []
theorem test_claim_example : slice claimAnswer 16 48 = [0x02, 0, 0, 0, 0, 0, 0, 0x58, 0x02, 0x03, 0x01, 0] ++
    [0x02, 0, 0, 0, 0, 0, 0, 0x5C, 0x10, 0, 0, 0] ++ [0x01, 0, 0, 0, 0, 0, 0, 0x60, 0x11, 0, 0x01, 0] ++ [0x01, 0, 0, 0, 0, 0, 0, 0x64, 0, 0, 0, 0x17] := by
  decide +kernel

/-! ### Supply, sleep, starts, processors -/

def dark (ph : Phase) : State := { State.reset with phase := ph }

theorem witness_StepTakesTheFrontCommand : State.reset.pending = [] := rfl

theorem witness_MemoryStaysCanonical : Memory.wf State.reset.mem = true ∧ step State.reset = .next State.reset := ⟨rfl, rfl⟩

theorem witness_NothingIsTakenBack : step State.reset = .next State.reset := rfl

theorem witness_CommandsKeepTheOtherParts : ∃ u, exec (.supplyOff 5) State.reset = .next u := ⟨_, rfl⟩

theorem witness_SupplyAndShutdown : (dark .off).phase = .off ∧ (dark .off).boot.offAt + 10000000 ≤ (atTime 10000000 (dark .off)).clk.clock ∧
    (atTime 9999999 (dark .off)).clk.clock < (dark .off).boot.offAt + 10000000 ∧ State.reset.phase ≠ .off ∧ State.reset.phase ≠ .sleep ∧
    (460 : Int) ≤ 460 := by decide +kernel

def asleep : State := { dark .sleep with aon := { AonSt.reset with sleepTimer := 1, wake := ⟨0, 0, true, none, 0⟩ } }
/-- In the SLEEP of a thermal shutdown, with the AON sensor above 95 °C or below. -/
def hotSleep : State := { dark .sleep with aon := { AonSt.reset with hot := true, owedShutdown := true } }
def coolSleep : State := { dark .sleep with aon := { AonSt.reset with owedShutdown := true } }
def pattern : State := { State.reset with aon := { AonSt.reset with wake := ⟨0, 0, false, some [1, 0, 1, 1, 0, 0, 1], 0⟩ } }

theorem witness_SleepAndWake :
    (asleep.phase = .sleep ∧ asleep.aon.hot = false ∧ asleep.aon.wake.lit = true ∧
      asleep.aon.wake.since + 10000000 ≤ (atTime 10000000 asleep).clk.clock) ∧
    (asleep.aon.sleepTimer ≠ 0 ∧
      asleep.aon.sleepFrom + asleep.aon.sleepTimer * 1000000000 ≤ (atTime 1000000000 asleep).clk.clock) ∧
    (pattern.phase = .up ∧ pattern.boot.patternEn = true ∧
      pattern.aon.wake.bits = some [1, 0, 1, 1, 0, 0, 1] ∧ pattern.aon.wake.lit = false ∧
      pattern.aon.wake.since + 20000000 ≤ (atTime 20000000 pattern).clk.clock) ∧
    (dark .recovery).phase = .recovery ∧
    (State.reset.phase ≠ .off ∧ State.reset.aon.wake.lit ≠ true ∧ 2 ≤ aonPeriods (atTime 1000000 State.reset) State.reset.aon.wake.changed ∧
      aonPeriods (atTime 0 State.reset) State.reset.aon.wake.changed < 2) ∧
    (hotSleep.phase ≠ .off ∧ hotSleep.aon.hot = true ∧ (380 : Int) ≤ 380) ∧
    (coolSleep.phase = .sleep ∧ coolSleep.aon.hot = false ∧ (380 : Int) < 381 ∧ coolSleep.aon.owedShutdown = true) := by decide +kernel

theorem witness_StartsEndOrFail :
    ((dark .starting).phase = .starting ∧ (dark .starting).boot.romCode = none ∧ (dark .starting).plans.running = []) ∧
    (∀ i, ((dark .starting).pair i).owner = 0xF) ∧ (∀ p, ((dark .starting).part p).st = .empty) ∧
    (({ dark .starting with boot := { BootSt.reset with romCode := some 0x7002 } } : State).phase = .starting ∧
      ({ dark .starting with boot := { BootSt.reset with romCode := some 0x7002 } } : State).boot.romCode ≠ none) ∧
    (dark .starting).boot.start.begun + 5000000000 ≤ (atTime 5000000000 (dark .starting)).clk.clock ∧
    (State.reset.phase = .up ∧ State.reset.boot.good = false ∧
      State.reset.boot.readyAt + 60000000000 ≤ (atTime 60000000000 State.reset).clk.clock) :=
  ⟨by decide +kernel, fun i => by simp [dark, State.pair, State.reset, sget, PairSt.reset], fun p => by simp [dark, State.part, State.reset, sget, PartSt.reset],
    by decide +kernel, by decide +kernel, by decide +kernel⟩

/-- PM restarts, from a slot whose manifest names no component. -/
def restarting : State := { State.reset.setProc 2 { ProcSt.reset with st := .restarting } with mem := [(slotBase false + 1, 0)] }
/-- Slot A's manifest names two components of PM over the same bytes with different hashes: one of them is wrong. -/
def damaged : State := { restarting with mem :=
  [(slotBase false + 1, 2), (slotBase false + 160, 3), (slotBase false + 224, 3), (slotBase false + 287, 1)] }

theorem loadOk_damaged : loadOk damaged 2 = false := by
  have h : (manifestComps (manifest damaged damaged.boot.preferred)).filter (fun c => c.1 == 2 + 1) =
      [(3, 0xFFFFFFFF, 0xFFFFFFFF, BitVec.allOnes 384), (3, 0xFFFFFFFF, 0xFFFFFFFF, BitVec.allOnes 384 - 254)] := by decide +kernel
  have ne : (BitVec.allOnes 384 == BitVec.allOnes 384 - 254) = false := by decide +kernel
  unfold loadOk
  rw [h]
  simp only [List.all_cons, List.all_nil, Bool.and_true]
  generalize sha384 _ = v
  by_cases e : v = BitVec.allOnes 384
  · rw [e, ne, Bool.and_false]
  · rw [beq_false_of_ne e, Bool.false_and]

theorem witness_ProcessorRestarts :
    (State.reset.phase = .up ∧ ∀ i : Fin 3, (State.reset.proc i.val).st = .run) ∧
    ((restarting.proc 2).st = .restarting ∧ restarting.boot.live = none ∧ restarting.boot.activate = none ∧ loadOk restarting 2 = true) ∧
    ((damaged.proc 2).st = .restarting ∧ loadOk damaged 2 = false ∧ damaged.aon.failures = []) ∧
    (restarting.phase = .up ∧ (restarting.proc 2).since + 500000000 ≤ (atTime 500000000 restarting).clk.clock ∧
      restarting.aon.failures = []) :=
  ⟨by decide +kernel, by decide +kernel, ⟨by decide +kernel, loadOk_damaged, by decide +kernel⟩, by decide +kernel⟩

def logging : State := { State.reset with log := { LogSt.reset with queue := [⟨5, 0x9101, 0xFF, 0xFF, 0, 0, none⟩] } }
def dumped : State := State.reset.setProc 1 { ProcSt.reset with dump := some ⟨1, 3, false, 1, 0, 0, 0, 0⟩, dumpNew := true }

theorem witness_CopiesToFlash :
    (logging.phase = .up ∧ (logging.proc 0).st = .run ∧ logging.log.queue = [⟨5, 0x9101, 0xFF, 0xFF, 0, 0, none⟩] ∧ Memory.wf logging.mem = true) ∧
    (dumped.phase = .up ∧ (dumped.proc 0).st = .run ∧ (dumped.proc 1).st = .run ∧
      (dumped.proc 1).dump = some ⟨1, 3, false, 1, 0, 0, 0, 0⟩ ∧ (dumped.proc 1).dumpNew = true) := by decide +kernel

def checking : State := { State.reset with boot := { BootSt.reset with busy := some (1, 1), slotB := .verifying } }
def recoveryChecking : State := { checking with phase := .recovery }
/-- A deferred activation of a MODE. -/
def deferred (mode : Nat) : State := { State.reset with boot := { BootSt.reset with activate := some mode, emergClear := some 0 } }

theorem witness_ChecksAndActivationsEnd :
    (checking.boot.busy = some (1, 1) ∧ checking.phase = .up ∧ (checking.proc 0).st = .run) ∧
    (recoveryChecking.boot.busy = some (1, 1) ∧ recoveryChecking.phase = .recovery ∧ imageCheck (atTime 0 checking) (bit (1#32).toNat 0) = some 0x7001 ∧
      (checking.hdrOf 3).errValid = false) ∧
    (∀ m, m < 2 → (deferred m).phase = .up ∧ (deferred m).boot.activate = some m ∧ activationDue (atTime 1000000000 (deferred m)) = true ∧
      activationDue (atTime 999999999 (deferred m)) = false) := by decide +kernel

/-! ### Power and heat -/

def troubled : State := { State.reset with power := { PowerSt.reset with emSupply := true, emCurrent := [2], emThermal := [1], throttled := [1] } }
def hinting : State := { State.reset with power := { PowerSt.reset with windows := [⟨3, 200000, 200001, 1, false⟩] } }

/-- Sensor 4, of quadrant 1, reads a temperature in quarters of a degree. -/
def sensed (v : Int) : State := { troubled with power := { troubled.power with sensors := [0, 0, 0, 0, v] } }

theorem witness_EmergenciesActAndClear :
    (State.reset.phase ≠ .off ∧ State.reset.phase ≠ .sleep ∧ State.reset.power.emSupply = false) ∧
    (State.reset.power.emCurrent.elem 4 = false ∧ railMa State.reset 4 ≤ 100 ∧ 99 < railMa State.reset 4) ∧
    ((420 : Int) ≤ 420 ∧ State.reset.power.throttled.elem 3 = false) ∧
    (troubled.power.throttled.elem 1 = true ∧ (∃ v ∈ sensorsOf (sensed 420) 1, 420 ≤ v) ∧ (sensed 420).power.throttled.elem 1 = true ∧
      ∀ v ∈ sensorsOf (sensed 419) 1, v < 420) ∧
    troubled.power.emSupply = true ∧ troubled.power.emCurrent.elem 2 = true ∧
    ([400, 0, 0, -40].length = 4 ∧ ∀ v ∈ ([400, 0, 0, -40] : List Int), v ≤ 400) := by decide +kernel

theorem witness_LoopsSetFrequencies :
    (State.reset.phase = .up ∧ (State.reset.proc 0).st = .run) ∧ ([0, 1, 2, 3] : List Int).length = 4 ∧
    (hinting.phase = .up ∧ (hinting.proc 0).st = .run ∧ emergency hinting = false ∧
      (hinting.power.windows.filter (fun w => w.part == 3))[0]? = some ⟨3, 200000, 200001, 1, false⟩ ∧
      200000 ≤ (atTime 0 hinting).clk.dev + 200000 ∧ (atTime 0 hinting).clk.dev < 200001) := by decide +kernel

/-! ### Host frames and claims -/

/-- A host frame of the module's EtherType, from address 1, of session 7. -/
def frameOf (typ tag : Nat) (payload : Bytes) : HostFrame := ⟨1, none, 0x88B5, hostFrame typ 0 tag 7 0 payload, true⟩

/-- WRITE and READ operations of a REG_REQ. -/
def writeOp (page off v : Nat) : Bytes := toBE 1 2 ++ toBE 3 0 ++ toBE 4 (addr page off) ++ toBE 4 v
def readOp (page off : Nat) : Bytes := toBE 1 1 ++ toBE 3 0 ++ toBE 4 (addr page off) ++ toBE 4 0

/-- The host can write a page in recovery too, as a computation. -/
def canWriteUp (s : State) (w : Sender) (page : Nat) : Bool :=
  (decide (s.phase = .up) || decide (s.phase = .recovery)) && !hbDue s && decide (s.link.resetting = none) && currentSession s w.session &&
    !pageBusy s page && (match blockOf page with | some (b, _) => !fusedPage s b && !deadPage s b | none => false)

theorem hostCanUp_of_canWriteUp {s : State} {w : Sender} {page : Nat} (h : canWriteUp s w page = true) : HostCanUp s w page := by
  simp only [canWriteUp, Bool.and_eq_true, Bool.or_eq_true, decide_eq_true_eq, Bool.not_eq_true'] at h
  obtain ⟨⟨⟨⟨⟨h1, h2⟩, h3⟩, h4⟩, h5⟩, h6⟩ := h
  refine ⟨⟨h1, h2, h3⟩, h4, h5, ?_⟩
  cases hb : blockOf page with
  | none => rw [hb] at h6; simp at h6
  | some x => rw [hb] at h6; simpa using h6

/-- The device is in recovery, claimed. -/
def recovering : State := { claimed with phase := .recovery }

def kept : State := { claimed with link := { claimed.link with kept := [(0, ⟨9, 7, [1]⟩)], keptBulk := [(1, ⟨9, 7, [2]⟩)] } }

theorem witness_RequestsAreNotRepeated :
    (hostRx (atTime 0 kept) 0 (frameOf 1 9 []) = .good ⟨1, 0, 9, 7, []⟩ ∧ keptAnswer kept.link.kept 0 ⟨1, 0, 9, 7, []⟩ = some [1]) ∧
    (hostRx (atTime 0 kept) 1 (frameOf 5 9 []) = .good ⟨5, 0, 9, 7, []⟩ ∧ keptAnswer kept.link.keptBulk 1 ⟨5, 0, 9, 7, []⟩ = some [2]) := by
  decide +kernel

/-- A RWS register (HB_TIMEOUT), the argument of BOOT_CMD, PAGE_ID, and a payload of 11 bytes; in recovery the argument of BOOT_CMD and PAGE_ID. -/
theorem witness_RegReqIsAnswered :
    (hostRx (atTime 0 claimed) 0 (frameOf 1 9 (writeOp 0 0x06C 100)) = .good ⟨1, 0, 9, 7, writeOp 0 0x06C 100⟩ ∧
      keptAnswer claimed.link.kept 0 ⟨1, 0, 9, 7, writeOp 0 0x06C 100⟩ = none ∧ (writeOp 0 0x06C 100).length = 12 ∧
      be (writeOp 0 0x06C 100) 4 4 = addr 0 0x06C ∧ blockOf 0 = some (.dev, 0) ∧ be (writeOp 0 0x06C 100) 0 1 = 2 ∧
      HostCanUp (atTime 0 claimed) ⟨0, BitVec.ofNat 32 7⟩ 0 ∧ accOf .dev 0x06C = .rws) ∧
    (∀ s ∈ [claimed, recovering], hostRx (atTime 0 s) 0 (frameOf 1 9 (writeOp 3 0x054 1)) = .good ⟨1, 0, 9, 7, writeOp 3 0x054 1⟩ ∧
      keptAnswer s.link.kept 0 ⟨1, 0, 9, 7, writeOp 3 0x054 1⟩ = none ∧
      (writeOp 3 0x054 1).length = 12 ∧ be (writeOp 3 0x054 1) 4 4 = addr 3 0x054 ∧ blockOf 3 = some (.boot, 3) ∧
      be (writeOp 3 0x054 1) 0 1 = 2 ∧ HostCanUp (atTime 0 s) ⟨0, BitVec.ofNat 32 7⟩ 3 ∧ accOf .boot 0x054 = .rw) ∧
    (∀ s ∈ [claimed, recovering], hostRx (atTime 0 s) 1 (frameOf 1 9 (readOp 0x041 0)) = .good ⟨1, 0, 9, 7, readOp 0x041 0⟩ ∧
      keptAnswer s.link.kept 1 ⟨1, 0, 9, 7, readOp 0x041 0⟩ = none ∧ (readOp 0x041 0).length = 12 ∧
      be (readOp 0x041 0) 4 4 = addr 0x041 0 ∧ blockOf 0x041 = some (.chan 0x11, 0x030) ∧
      be (readOp 0x041 0) 0 1 = 1 ∧ LinkUp (atTime 0 s)) ∧
    (hostRx (atTime 0 claimed) 1 (frameOf 1 9 (List.replicate 11 0)) = .good ⟨1, 0, 9, 7, List.replicate 11 0⟩ ∧
      keptAnswer claimed.link.kept 1 ⟨1, 0, 9, 7, List.replicate 11 0⟩ = none ∧ regFits (List.replicate 11 0) = false) := by
  refine ⟨⟨by decide +kernel, by decide +kernel, by decide +kernel, by decide +kernel, by decide +kernel, by decide +kernel,
      hostCanUp_of_canWriteUp (by decide +kernel), by decide +kernel⟩, fun s h => ?_, fun s h => ?_, by decide +kernel⟩ <;>
    simp only [List.mem_cons, List.not_mem_nil, or_false] at h <;> obtain rfl | rfl := h
  · exact ⟨by decide +kernel, by decide +kernel, by decide +kernel, by decide +kernel, by decide +kernel, by decide +kernel,
      hostCanUp_of_canWriteUp (by decide +kernel), by decide +kernel⟩
  · exact ⟨by decide +kernel, by decide +kernel, by decide +kernel, by decide +kernel, by decide +kernel, by decide +kernel,
      hostCanUp_of_canWriteUp (by decide +kernel), by decide +kernel⟩
  all_goals unfold LinkUp; decide +kernel

theorem linkUp_claimed : LinkUp (atTime 0 claimed) := by unfold LinkUp; decide +kernel

/-- Four BULK_READs of port 0 and session 7 are outstanding until instant 5. -/
def fourReads : State := { claimed with link := { claimed.link with reads := List.replicate 4 (0, 7, 5) } }

/-- Window 0 for four bytes at its end, and beyond it, and with four reads outstanding. -/
theorem witness_BulkReadsAnswerTheirBytes :
    (hostRx (atTime 0 claimed) 0 (frameOf 3 9 (bulkBytes ⟨0, 0, 4, 2 ^ 29 - 4⟩)) = .good ⟨3, 0, 9, 7, bulkBytes ⟨0, 0, 4, 2 ^ 29 - 4⟩⟩ ∧
      LinkUp (atTime 0 claimed) ∧
      (bulkBytes ⟨0, 0, 4, 2 ^ 29 - 4⟩).length = 16 ∧ parseBulk (bulkBytes ⟨0, 0, 4, 2 ^ 29 - 4⟩) = ⟨0, 0, 4, 2 ^ 29 - 4⟩ ∧
      readsOut (atTime 0 claimed) 0 7 < 4 ∧ rangeCode (atTime 0 claimed) ⟨0, 0, 4, 2 ^ 29 - 4⟩ = none) ∧
    (hostRx (atTime 0 claimed) 0 (frameOf 3 9 (bulkBytes ⟨0, 0, 4, 2 ^ 29⟩)) = .good ⟨3, 0, 9, 7, bulkBytes ⟨0, 0, 4, 2 ^ 29⟩⟩ ∧
      parseBulk (bulkBytes ⟨0, 0, 4, 2 ^ 29⟩) = ⟨0, 0, 4, 2 ^ 29⟩ ∧ rangeCode (atTime 0 claimed) ⟨0, 0, 4, 2 ^ 29⟩ = some 0x9021) ∧
    (hostRx (atTime 5 fourReads) 0 (frameOf 3 9 (bulkBytes ⟨0, 0, 4, 0⟩)) = .good ⟨3, 0, 9, 7, bulkBytes ⟨0, 0, 4, 0⟩⟩ ∧
      LinkUp (atTime 5 fourReads) ∧ 4 ≤ readsOut (atTime 5 fourReads) 0 7) ∧
    (LinkUp (atTime 0 recovering) ∧ rangeCode (atTime 0 recovering) ⟨2, 0, 4, 0⟩ = none) := by unfold LinkUp; decide +kernel

def dramWrite : Bytes := bulkBytes ⟨0, 0, 4, 2 ^ 29 - 4⟩ ++ [1, 2, 3, 4]
def flashWrite : Bytes := bulkBytes ⟨2, 0, 4, 0x02100000⟩ ++ [1, 2, 3, 4]
def flashing : State := { claimed with link := { claimed.link with flashWait := [(0, frameOf 5 9 flashWrite)] } }

theorem witness_BulkWritesReachTheirMemory :
    (hostRx (atTime 0 claimed) 0 (frameOf 5 9 dramWrite) = .good ⟨5, 0, 9, 7, dramWrite⟩ ∧
      keptAnswer claimed.link.keptBulk 0 ⟨5, 0, 9, 7, dramWrite⟩ = none ∧ waitingFor claimed 0 (fun q => q.session == 7) = [] ∧ LinkUp (atTime 0 claimed) ∧
      currentSession claimed (BitVec.ofNat 32 7) = true ∧ 16 ≤ dramWrite.length ∧ parseBulk dramWrite = ⟨0, 0, 4, 2 ^ 29 - 4⟩ ∧
      (dramWrite.drop 16).length = 4 ∧ 4 ≤ bulkMax claimed 0 ∧ bulkWriteCode (atTime 0 claimed) (parseBulk dramWrite) = none ∧
      Memory.wf claimed.mem = true) ∧
    (∀ s ∈ [claimed, recovering], hostRx (atTime 0 s) 0 (frameOf 5 9 flashWrite) = .good ⟨5, 0, 9, 7, flashWrite⟩ ∧ LinkUp (atTime 0 s) ∧
      currentSession s (BitVec.ofNat 32 7) = true ∧ parseBulk flashWrite = ⟨2, 0, 4, 0x02100000⟩ ∧ (flashWrite.drop 16).length = 4 ∧
      bulkWriteCode (atTime 0 s) (parseBulk flashWrite) = none) ∧
    (flashing.phase = .up ∧ (flashing.proc 0).st = .run ∧ ({ flashing with phase := .recovery } : State).phase = .recovery ∧ flashing.link.flashWait = [(0, frameOf 5 9 flashWrite)] ∧
      parseHost (frameOf 5 9 flashWrite).payload = .good ⟨5, 0, 9, 7, flashWrite⟩ ∧ Memory.wf flashing.mem = true) := by unfold LinkUp; decide +kernel

theorem witness_FramesThatNoneTakes :
    hostRx (atTime 0 claimed) 0 ⟨1, none, 0x0800, [], true⟩ = .dropped ∧ hostRx (atTime 0 claimed) 0 ⟨1, none, 0x88B5, [], true⟩ = .bad ∧
    hostRx (atTime 0 claimed) 1 ⟨1, none, 0x88B5, [], false⟩ = .garbled ∧
    hostRx (atTime 0 claimed) 0 (frameOf 7 9 []) = .good ⟨7, 0, 9, 7, []⟩ := by decide +kernel

/-- The host offers version 1.0 alone (DEV_CLAIM_VER). -/
def offering (s : State) : State := s.setForce (addr 0 0x058) 0x01000100

/-- A CLAIM on H0 waits for the same instant. -/
def contended : State := { offering State.reset with pending := [.claim 0 0] }

theorem witness_ClaimsAreGranted :
    (LinkUp (atTime 0 contended) ∧ h0Claims (atTime 0 contended) 0 = true ∧ h0Claims (atTime 0 (offering State.reset)) 0 = false ∧
      (offering State.reset).link.h0First = false) ∧
    (LinkUp (atTime 0 (offering State.reset)) ∧ false = (List.range 8).any (fun p => ((offering State.reset).part p).st != .empty) ∧
      claimVersion (offering State.reset) false = some 0x0100 ∧ (offering State.reset).link.host ≠ .claimed) ∧
    (false = (List.range 8).any (fun p => ((offering claimed).part p).st != .empty) ∧ claimVersion (offering claimed) false = some 0x0100 ∧
      (offering claimed).link.host ≠ .unclaimed) ∧
    ((offering claimed).link.host = .claimed ∧ currentSession (offering claimed) me.session = true ∧ ∀ p, p < 8 → (offering claimed).active p = false) ∧
    (LinkUp (atTime 0 (offering { State.reset with phase := .recovery })) ∧
      claimVersion (offering { State.reset with phase := .recovery }) false = some 0x0100) := by
  unfold LinkUp; decide +kernel

def ready : State := claimed.setPart 0 { PartSt.reset with st := .ready }

/-- Partition 0 runs a step and partition 1 is LOADED; in the second the reset of a claim is in progress. -/
def midStep : State := (claimed.setPart 0 { PartSt.reset with st := .running, step := some (freshStep 0 0) }).setPart 1 { PartSt.reset with st := .loaded }
def resettingNow : State := { claimed.setPart 0 { PartSt.reset with st := .stopping, step := some (freshStep 0 0), resetting := true } with
  link := { claimed.link with resetting := some 0 } }

theorem witness_ClaimResetLeavesNothing :
    (LinkUp (atTime 0 (offering State.reset)) ∧ (offering State.reset).link.h0First = false ∧ h0Claims (atTime 0 (offering State.reset)) 0 = false ∧
      (offering State.reset).link.host ≠ .claimed ∧ claimVersion (offering State.reset) false = some 0x0100 ∧
      ∀ p, p < 8 → (offering State.reset).active p = false) ∧
    (LinkUp (atTime 0 (offering ready)) ∧ (offering ready).link.host ≠ .unclaimed ∧ claimVersion (offering ready) false = some 0x0100 ∧
      ∀ p, p < 8 → (offering ready).active p = false) ∧
    (LinkUp (atTime 0 (offering midStep)) ∧ (offering midStep).link.h0First = false ∧ (offering midStep).link.host ≠ .unclaimed ∧
      claimVersion (offering midStep) false = some 0x0100 ∧
      (∃ p, p < 8 ∧ (offering midStep).active p = true ∧ ((offering midStep).part p).step.isSome = true) ∧ ((offering midStep).part 1).st = .loaded) ∧
    (resettingNow.phase = .up ∧ hbDue (atTime 0 resettingNow) = false ∧ resettingNow.link.resetting.isSome = true ∧
      (∃ p, p < 8 ∧ (resettingNow.part p).resetting = true ∧ resettingNow.active p = true) ∧
      ∀ p, p < 8 → (resettingNow.part p).resetting = true → (resettingNow.part p).st ≠ .suspended) := by unfold LinkUp; decide +kernel

def serving : State := (claimed.setPart 0 { PartSt.reset with st := .running }).setBoth (addr (pgPart 0) 0x040) 1 |>.setPart 1
  { PartSt.reset with st := .running }

theorem witness_HeartbeatsKeepTheHost :
    HostCan (atTime 0 claimed) me 0 ∧
    (hbDue (atTime (hbTimeout serving) serving) = true ∧ serving.link.resetting = none ∧
      (serving.part 0).st = .running ∧ serving.isRT 0 = true ∧ (serving.part 1).st = .running ∧ serving.isRT 1 = false) :=
  ⟨hostCan_of_canWrite (by decide +kernel), by decide +kernel⟩

/-! ### Pages -/

/-- Partition 0 asks for more felt frames than there are (quota of PRESS_P). -/
def greedy : State := claimed.setShadow (addr 0x181 0x050) 100000

/-- REPLAY_MIN of partition 0 exceeds its BUDGET_US. -/
def lateReplay : State := claimed.setShadow (addr pgDl 0x080) 0x3FFFF

/-- A commit of DEV is pending. -/
def pendingDev : State := claimed.setHdr 0 { claimed.hdrOf 0 with cstate := .pending }

theorem witness_CommitsAreWhole :
    (HostCan (atTime 0 pendingDev) me 0 ∧ blockOf 0 = some (.dev, 0) ∧ (pendingDev.hdrOf 0).cstate = .pending) ∧
    (HostCan (atTime 0 claimed) me 0x160 ∧ blockOf 0x160 = some (.quad 0, 0x160) ∧ (claimed.hdrOf 0x160).cstate ≠ .pending ∧
      hasShadow (.quad 0) = false) ∧
    (HostCan (atTime 0 claimed) me 0 ∧ blockOf 0 = some (.dev, 0) ∧ hasShadow .dev = true ∧
      readyNow (atTime 0 claimed) .dev (snapshotOf claimed .dev 0) = false) ∧
    (HostCan (atTime 0 claimed) me 0x181 ∧ blockOf 0x181 = some (.pressP 0, 0x181) ∧ hasShadow (.pressP 0) = true ∧
      readyNow (atTime 0 claimed) (.pressP 0) (snapshotOf claimed (.pressP 0) 0x181) = true ∧
      firstBad (pageChecks (atTime 0 claimed) (.pressP 0) 0x181 (snapshotOf claimed (.pressP 0) 0x181)) = none) ∧
    (HostCan (atTime 0 greedy) me 0x181 ∧ readyNow (atTime 0 greedy) (.pressP 0) (snapshotOf greedy (.pressP 0) 0x181) = true ∧
      firstBad (pageChecks (atTime 0 greedy) (.pressP 0) 0x181 (snapshotOf greedy (.pressP 0) 0x181)) = some (0x200B, 0x050) ∧
      (greedy.hdrOf 0x181).errValid = false) ∧
    (HostCan (atTime 0 serving) me pgDl ∧ blockOf pgDl = some (.dl, 0x1D0) ∧
      firstBad (pageChecks (atTime 0 serving) .dl pgDl (snapshotOf serving .dl pgDl)) = none ∧ (serving.part 0).st = .running ∧
      ∀ p, (claimed.part p).st ≠ .running) ∧
    (HostCan (atTime 0 lateReplay) me pgDl ∧ hasShadow .dl = true ∧ (lateReplay.part 0).st ≠ .running ∧
      firstBad (pageChecks (atTime 0 lateReplay) .dl pgDl (snapshotOf lateReplay .dl pgDl)) = some (0x6003, 0x080) ∧
      (lateReplay.hdrOf pgDl).errValid = false) :=
  ⟨⟨hostCan_of_canWrite (by decide +kernel), by decide +kernel⟩, ⟨hostCan_of_canWrite (by decide +kernel), by decide +kernel⟩,
    ⟨hostCan_of_canWrite (by decide +kernel), by decide +kernel⟩, ⟨hostCan_of_canWrite (by decide +kernel), by decide +kernel⟩,
    ⟨hostCan_of_canWrite (by decide +kernel), by decide +kernel⟩,
    ⟨hostCan_of_canWrite (by decide +kernel), by decide +kernel, by decide +kernel, by decide +kernel, fun p => by simp [claimed, State.part, State.reset, sget, PartSt.reset]⟩,
    hostCan_of_canWrite (by decide +kernel), by decide +kernel⟩

/-- A commit of DEV waits, with HB_TIMEOUT 19 or as it stands. -/
def waiting (v : Nat) : State := claimed.setHdr 0 { PageHdr.reset with
  cstate := .pending, token := 1, snapshot := snapshotOf (claimed.setShadow (addr 0 0x06C) v) .dev 0 }

theorem witness_PageCommandsActOnTheirPage :
    (HostCan (atTime 0 claimed) me 0x030 ∧ blockOf 0x030 = some (.chan 0, 0x030) ∧ (claimed.hdrOf 0x030).cstate ≠ .pending ∧
      clearRegister (.chan 0) = some 0x06C) ∧
    (HostCan (atTime 0 (waiting 20)) me 0 ∧ ((waiting 20).hdrOf 0).cstate = .pending) :=
  ⟨⟨hostCan_of_canWrite (by decide +kernel), by decide +kernel⟩, hostCan_of_canWrite (by decide +kernel), by decide +kernel⟩

theorem witness_IndexWritesLatch :
    (∀ p : Fin 8, HostCan (atTime 0 claimed) me (pgPressP p.val)) ∧ HostCan (atTime 0 claimed) me 0x1A0 ∧ HostCan (atTime 0 claimed) me pgSt ∧
      HostCan (atTime 0 claimed) me 0x1E0 ∧ HostCan (atTime 0 claimed) me 0x1F1 ∧ HostCan (atTime 0 claimed) me 0x1C0 ∧
      ((claimed.setStally 4095 ⟨[(3, 5)], []⟩).stally (4095#12).toNat).counts = [(3, 5)] ∧
      HostCan (atTime 0 (claimed.setStally 4095 ⟨[(3, 5)], []⟩)) me 0x1F1 := by
  refine ⟨fun p => hostCan_of_canWrite ?_, hostCan_of_canWrite ?_, hostCan_of_canWrite ?_, hostCan_of_canWrite ?_, hostCan_of_canWrite ?_,
    hostCan_of_canWrite ?_, ?_, hostCan_of_canWrite ?_⟩
  · revert p; decide +kernel
  all_goals decide +kernel

/-- Partition 0 has 4 tallies. -/
def tallied : State := claimed.setBoth (addr (pgPart 0) 0x050) 4

theorem witness_TallyWritesAdd :
    HostCan (atTime 0 tallied) me (pgTally 0) ∧ bits (0x00030001#32).toNat 31 16 < bits (tallied.partReg 0 0x050) 15 0 ∧
      bits (0x00030001#32).toNat 15 0 ≠ 0 ∧ bindingFor tallied 0 (bits (0x00030001#32).toNat 31 16) = none ∧
      bits (tallied.partReg 0 0x050) 15 0 ≤ bits (0x00040001#32).toNat 31 16 :=
  ⟨hostCan_of_canWrite (by decide +kernel), by decide +kernel⟩

/-! ### A plan that loads -/

/-- Nonzero bytes of a little-endian field. -/
def cellsLE (a n v : Nat) : List Host.Cell :=
  ((List.range n).map (fun i => (a + i, BitVec.ofNat 8 (v / 256 ^ i)))).filter (fun c => decide (c.2 ≠ 0))

/-- The image after its CRC field (R296): one logical core, one region, one step item; the region, in the sheet store, is the image itself at 0x10000
(R159); a CORE item with one descriptor (R298); the descriptor: one pass of one row, column and vector (R77). -/
def imageTail : List Host.Cell :=
  let b := dramFrame 4096
  cellsLE (b + 12) 4 (1 * 2 ^ 24) ++ cellsLE (b + 16) 4 1 ++ cellsLE (b + 20) 4 (1 * 2 ^ 16) ++ cellsLE (b + 24) 4 128 ++ cellsLE (b + 36) 4 192
  ++ cellsLE (b + 128) 4 (1 * 2 ^ 24 + 2 * 2 ^ 22 + 1 * 2 ^ 16) ++ cellsLE (b + 132) 4 1 ++ cellsLE (b + 136) 8 0x10000
  ++ cellsLE (b + 192) 4 (1 * 2 ^ 24) ++ cellsLE (b + 196) 4 1 ++ cellsLE (b + 256) 8 (0x10000 + 320)
  ++ cellsLE (b + 320) 4 64 ++ cellsLE (b + 327) 1 1
  ++ cellsLE (b + 328) 4 (1 * 2 ^ 24 + 2 * 2 ^ 20 + 2 * 2 ^ 16 + 1 * 2 ^ 15 + 1 * 2 ^ 14 + 1 * 2 ^ 11 + 1 * 2 ^ 9) ++ cellsLE (b + 332) 4 (1 * 2 ^ 24 + 1 * 2 ^ 16 + 1)

def crcCells (v : Nat) : List Host.Cell := (List.range 4).map (fun i => (dramFrame 4096 + 8 + i, BitVec.ofNat 8 (v / 256 ^ i)))

/-- The image with a value in its CRC field. -/
def planMem (v : Nat) : List Host.Cell :=
  cellsLE (dramFrame 4096) 4 0x01010000 ++ cellsLE (dramFrame 4096 + 4) 4 65536 ++ crcCells v ++ imageTail

/-- Partition 0 owns pair 0 and may have one DRAM and one sheet frame; its LOAD names the image. -/
def planState (v : Nat) : State :=
  { (((((ready.setBoth (addr (pgPart 0) 0x044) 1).setBoth (addr (pgPart 0) 0x070) 65536).setBoth (addr (pgPressP 0) 0x054) 1).setBoth (addr (pgPressP 0) 0x04C) 1).setPair 0
      { PairSt.reset with owner := 0 }) with mem := planMem v }

theorem crc32cBit_lt {c : Nat} (h : c < 2 ^ 32) : crc32cBit c < 2 ^ 32 := by
  unfold crc32cBit
  split
  · exact Nat.xor_lt_two_pow (by omega) (by decide)
  · omega

theorem crc32cByte_lt {c : Nat} (b : Byte) (h : c < 2 ^ 32) : crc32cByte c b < 2 ^ 32 := by
  have bits8 : ∀ (l : List Nat) (c : Nat), c < 2 ^ 32 → l.foldl (fun c _ => crc32cBit c) c < 2 ^ 32 := by
    intro l
    induction l with
    | nil => exact fun c h => h
    | cons _ _ ih => exact fun c h => ih _ (crc32cBit_lt h)
  exact bits8 _ _ (Nat.xor_lt_two_pow h (by have := b.isLt; omega))

theorem crc32c_lt (bs : Bytes) : crc32c bs < 2 ^ 32 := by
  have all : ∀ (bs : Bytes) (c : Nat), c < 2 ^ 32 → bs.foldl crc32cByte c < 2 ^ 32 := by
    intro bs
    induction bs with
    | nil => exact fun c h => h
    | cons b _ ih => exact fun c h => ih _ (crc32cByte_lt b h)
  exact Nat.xor_lt_two_pow (all bs _ (by decide)) (by decide)

theorem memGet_append_congr {l r r' : List Host.Cell} {a : Nat} (h : memGet r a = memGet r' a) : memGet (l ++ r) a = memGet (l ++ r') a := by
  induction l with
  | nil => exact h
  | cons e l ih => obtain ⟨j, v⟩ := e; simp only [List.cons_append, memGet]; rw [ih]

theorem memGet_append_skip {l r : List Host.Cell} {a : Nat} (h : ∀ e ∈ l, e.1 ≠ a) : memGet (l ++ r) a = memGet r a := by
  induction l with
  | nil => rfl
  | cons e l ih =>
    obtain ⟨j, v⟩ := e
    simp only [List.cons_append, memGet]
    rw [if_neg (h (j, v) (by simp)), ih (fun e he => h e (by simp [he]))]

/-- The CRC of the image with its CRC field zero (R296). -/
def planCrc : Nat := crc32c (imgBytes (planImage (planState 0) 0 65536) 0 65536)

theorem planImage_zero (v i : Nat) (hi : i < 65536) :
    (if 8 ≤ i ∧ i < 12 then 0 else planImage (planState v) 0 65536 i) = planImage (planState 0) 0 65536 i := by
  have e : ∀ v, planImage (planState v) 0 65536 i = memGet (planMem v) (dramFrame 4096 + i) := by
    intro v; unfold planImage; rw [if_pos hi]; rfl
  split
  · next h =>
    obtain ⟨h1, h2⟩ := h
    interval_cases i <;> decide +kernel
  · next h =>
    rw [e, e]
    have skip : ∀ v, ∀ x ∈ crcCells v, x.1 ≠ dramFrame 4096 + i := by
      intro v x hx
      simp only [crcCells, List.mem_map, List.mem_range] at hx
      obtain ⟨k, hk, rfl⟩ := hx
      show dramFrame 4096 + 8 + k ≠ _
      omega
    simp only [planMem, List.append_assoc]
    apply memGet_append_congr; apply memGet_append_congr
    rw [memGet_append_skip (skip v), memGet_append_skip (skip 0)]

theorem plan_head : (parseHead (imgBytes (planImage (planState planCrc) 0 65536) 0 128)).version = 1 ∧
    (parseHead (imgBytes (planImage (planState planCrc) 0 65536) 0 128)).gytrix = (planState planCrc).link.version ∧
    (parseHead (imgBytes (planImage (planState planCrc) 0 65536) 0 128)).imageBytes = 65536 := by decide +kernel

theorem head_crc (img : Nat → Byte) : (parseHead (imgBytes img 0 128)).crc = leNat [img 8, img 9, img 10, img 11] := by
  simp only [parseHead, word, le, slice, imgBytes, ← List.map_take, ← List.map_drop]
  rw [show ((List.range 128).drop (4 * 2)).take 4 = [8, 9, 10, 11] by decide +kernel]
  simp

theorem planImage_crc (v k : Nat) (h : k < 4) : planImage (planState v) 0 65536 (8 + k) = BitVec.ofNat 8 (v / 256 ^ k) := by
  have e : planImage (planState v) 0 65536 (8 + k) = memGet (planMem v) (dramFrame 4096 + (8 + k)) := by
    unfold planImage; rw [if_pos (by omega)]; rfl
  have low : ∀ k, k < 4 → ∀ x ∈ cellsLE (dramFrame 4096) 4 0x01010000 ++ cellsLE (dramFrame 4096 + 4) 4 65536,
      x.1 ≠ dramFrame 4096 + (8 + k) := by decide +kernel
  rw [e]
  unfold planMem
  rw [List.append_assoc, memGet_append_skip (low k h)]
  have : crcCells v = [(dramFrame 4096 + 8, BitVec.ofNat 8 (v / 256 ^ 0)), (dramFrame 4096 + 9, BitVec.ofNat 8 (v / 256 ^ 1)),
    (dramFrame 4096 + 10, BitVec.ofNat 8 (v / 256 ^ 2)), (dramFrame 4096 + 11, BitVec.ofNat 8 (v / 256 ^ 3))] := rfl
  rw [this]
  interval_cases k <;> simp [memGet]

theorem plan_crc (v : Nat) (h : v < 2 ^ 32) : (parseHead (imgBytes (planImage (planState v) 0 65536) 0 128)).crc = v := by
  rw [head_crc, show (8 : Nat) = 8 + 0 from rfl, planImage_crc v 0 (by decide), show (9 : Nat) = 8 + 1 from rfl, planImage_crc v 1 (by decide),
    show (10 : Nat) = 8 + 2 from rfl, planImage_crc v 2 (by decide), show (11 : Nat) = 8 + 3 from rfl, planImage_crc v 3 (by decide)]
  simp only [leNat, BitVec.toNat_ofNat]
  omega

theorem headCheck_ok {s : State} {img : Nat → Byte} {n c : Nat} (h1 : (parseHead (imgBytes img 0 128)).version = 1)
    (h2 : (parseHead (imgBytes img 0 128)).gytrix = s.link.version) (h3 : (parseHead (imgBytes img 0 128)).imageBytes = n)
    (h4 : (parseHead (imgBytes img 0 128)).crc = c) (h5 : crc32c (imgBytes (fun i => if 8 ≤ i ∧ i < 12 then 0 else img i) 0 n) = c)
    (h6 : n ≤ 2 ^ 29) : headCheck s img 0 n = .ok () := by
  unfold headCheck
  simp only [h1, h2, h3, h4, h5]
  simp [refuseIf, Bind.bind, Except.bind]
  rw [if_neg (by omega)]

theorem planCrc_eq (v : Nat) : crc32c (imgBytes (fun i => if 8 ≤ i ∧ i < 12 then 0 else planImage (planState v) 0 65536 i) 0 65536) = planCrc := by
  have e : imgBytes (fun i => if 8 ≤ i ∧ i < 12 then 0 else planImage (planState v) 0 65536 i) 0 65536 =
      imgBytes (planImage (planState 0) 0 65536) 0 65536 := by
    unfold imgBytes
    apply List.map_congr_left
    intro i hi
    rw [List.mem_range] at hi
    simp only [Nat.zero_add]
    exact planImage_zero v i hi
  rw [e, planCrc]

theorem plan_headCheck : headCheck (planState planCrc) (planImage (planState planCrc) 0 65536) 0 65536 = .ok () :=
  headCheck_ok plan_head.1 plan_head.2.1 plan_head.2.2 (plan_crc planCrc (crc32c_lt _)) (planCrc_eq planCrc) (by norm_num)

/-- The plan loads: the checks pass and every frame is found. -/
theorem plan_loads : ∃ pl v, loadCheck (planState planCrc) 0 0 65536 = .ok pl ∧
    installPlan (planState planCrc) 0 (dramFrame 4096 + 0)
      (sealPlan (loadedBytes (planImage (planState planCrc) 0 65536) pl.regions) pl) = some v := by
  have h : (match planCheck (planState planCrc) 0 (planImage (planState planCrc) 0 65536) with
      | .ok pl => (installPlan (planState planCrc) 0 (dramFrame 4096 + 0)
          (sealPlan (loadedBytes (planImage (planState planCrc) 0 65536) pl.regions) pl)).isSome
      | .error _ => false) = true := by decide +kernel
  have e : loadCheck (planState planCrc) 0 0 65536 = planCheck (planState planCrc) 0 (planImage (planState planCrc) 0 65536) := by
    unfold loadCheck; rw [plan_headCheck]; rfl
  rw [e]
  cases hp : planCheck (planState planCrc) 0 (planImage (planState planCrc) 0 65536) with
  | error x => rw [hp] at h; exact absurd h (by simp)
  | ok pl =>
    rw [hp] at h
    obtain ⟨v, hv⟩ := Option.isSome_iff_exists.mp h
    exact ⟨pl, v, rfl, hv⟩

/-- Partition 0 in a state of its own, the host claimed. -/
def onPart (x : PartSt) : State := claimed.setPart 0 x
def inState (st : PState) : State := onPart { PartSt.reset with st := st }

theorem witness_PlansLoadAndUnload :
    (HostCan (atTime 0 (planState planCrc)) me (pgPart 0) ∧ ((planState planCrc).part 0).cmd = none ∧ ((planState planCrc).proc 2).st = .run ∧
      ((planState planCrc).part 0).st = .ready ∧ (planState planCrc).partReg 0 0x06C = 0 ∧ (planState planCrc).partReg 0 0x070 = 65536 ∧
      ∃ pl v, loadCheck (atTime 0 (planState planCrc)) 0 0 65536 = .ok pl ∧
        installPlan (atTime 0 (planState planCrc)) 0 (dramFrame 4096 + 0)
          (sealPlan (loadedBytes (planImage (atTime 0 (planState planCrc)) 0 65536) pl.regions) pl) = some v) ∧
    (HostCan (atTime 0 ready) me (pgPart 0) ∧ (ready.part 0).cmd = none ∧ (ready.proc 2).st = .run ∧ (ready.part 0).st = .ready ∧
      ∃ e, loadCheck (atTime 0 ready) 0 (ready.partReg 0 0x06C) (ready.partReg 0 0x070) = .error e) ∧
    (HostCan (atTime 0 (inState .suspended)) me (pgPart 0) ∧ ((inState .suspended).part 0).cmd = none ∧
      ((inState .suspended).part 0).st = .suspended) := by
  refine ⟨⟨hostCan_of_canWrite (by decide +kernel), by decide +kernel, by decide +kernel, by decide +kernel, by decide +kernel, by decide +kernel,
    plan_loads⟩, ⟨hostCan_of_canWrite (by decide +kernel), by decide +kernel, by decide +kernel, by decide +kernel, (0x5020, 0), rfl⟩,
    hostCan_of_canWrite (by decide +kernel), by decide +kernel⟩

/-- A LAUNCH for the instant 1 ms, in device time or in global time under lock. -/
def launching (flags : Nat) : State :=
  ((inState .loaded).setBoth (addr (pgPart 0) 0x06C) 1000000).setBoth (addr (pgPart 0) 0x074) flags
def locked : State := { (launching 1).setBoth (addr 0x020 0x064) 1000000 with clk := { State.reset.clk with time := { TimeSt.reset with st := 2 } } }
def stepping : StepRec := freshStep 0 0

theorem witness_PartitionsLaunchAndStop :
    (HostCan (atTime 0 (launching 0)) me (pgPart 0) ∧ ((launching 0).part 0).cmd = none ∧ ((launching 0).proc 2).st = .run ∧
      ((launching 0).part 0).st = .loaded ∧ ((launching 0).part 0).lost = [] ∧
      bit ((launching 0).partReg 0 0x074) 0 = false ∧ (launching 0).partReg 0 0x06C + 2 ^ 32 * (launching 0).partReg 0 0x070 = 1000000 ∧
      (atTime 0 (launching 0)).clk.dev + 1000000 ≤ 1000000 ∧ 1000000 < (atTime 1 (launching 0)).clk.dev + 1000000) ∧
    (HostCan (atTime 0 locked) me (pgPart 0) ∧ bit (locked.partReg 0 0x074) 0 = true ∧ (atTime 0 locked).clk.time.st = 2) ∧
    (HostCan (atTime 0 (onPart { PartSt.reset with st := .running, step := some stepping })) me (pgPart 0) ∧
      ((onPart { PartSt.reset with st := .running, step := some stepping }).part 0).st = .running ∧
      ((onPart { PartSt.reset with st := .running, step := some stepping }).part 0).step.isSome = true) ∧
    (HostCan (atTime 0 (inState .running)) me (pgPart 0) ∧ ((inState .running).part 0).step = none ∧
      ((inState .running).part 0).resetting = false) :=
  ⟨⟨hostCan_of_canWrite (by decide +kernel), by decide +kernel⟩, ⟨hostCan_of_canWrite (by decide +kernel), by decide +kernel⟩,
    ⟨hostCan_of_canWrite (by decide +kernel), by decide +kernel⟩, hostCan_of_canWrite (by decide +kernel), by decide +kernel⟩

/-- A plan with one sequence class and no SEQ page to allocate. -/
def seqClass : SClass := ⟨1, 1, 1, false, false, 0, 1, 0, 0, 0, 0, 0, []⟩
def seqPlan : Plan := ⟨0, 1, false, 0, 0, [], [], none, [seqClass], [], [], []⟩
def sequencing (st : PState) : State :=
  (((onPart { PartSt.reset with st := st, plan := some seqPlan }).setBoth (addr (pgPart 0) 0x054) 0x0FFF0001).setBoth (addr (pgPart 0) 0x06C) 0xFF00)
def opened (st : PState) : State := (inState st).setInstar 0 { InstarEntry.reset with st := 1 }

theorem witness_SequencesOpenAndRetire :
    (∀ st ∈ [PState.running, PState.loaded], HostCan (atTime 0 (sequencing st)) me (pgPart 0) ∧ ((sequencing st).part 0).cmd = none ∧
      ((sequencing st).proc 2).st = .run ∧ ((sequencing st).part 0).plan = some seqPlan ∧
      seqPlan.classes[bits ((sequencing st).partReg 0 0x06C) 7 0]? = some seqClass ∧
      seqClass.bind = false ∧ bits ((sequencing st).partReg 0 0x06C) 15 8 = 0xFF ∧ ((sequencing st).part 0).st = st ∧
      stepAt ((sequencing st).part 0) ((sequencing st).partReg 0 0x074) = some 0 ∧
      (instarRange (sequencing st) 0).find? (fun i => ((sequencing st).instarAt i).st == 0) = some 4095) ∧
    (∃ v, allocSequence ((atTime 0 (sequencing .loaded)).modPart 0 (fun x => { x with openResult := 0 })) 0 4095 = some v) ∧
    (∀ st ∈ [PState.running, PState.loaded], HostCan (atTime 0 (opened st)) me (pgPart 0) ∧ ((opened st).part 0).st = st ∧
      0 = bits ((opened st).partReg 0 0x06C) 11 0 ∧ ((opened st).instarAt 0).st = 1 ∧ ((opened st).instarAt 0).part = 0 ∧
      stepAt ((opened st).part 0) ((opened st).partReg 0 0x074) = some 0) := by
  refine ⟨?_, ⟨_, rfl⟩, ?_⟩ <;> intro st h <;> simp only [List.mem_cons, List.not_mem_nil, or_false] at h <;> obtain rfl | rfl := h <;>
    exact ⟨hostCan_of_canWrite (by decide +kernel), by decide +kernel⟩

theorem witness_PartitionCommandsCheckTheState :
    HostCan (atTime 0 (inState .empty)) me (pgPart 0) ∧ ((inState .empty).part 0).cmd = none ∧ ((inState .empty).proc 2).st = .run ∧
      ((inState .empty).part 0).st ≠ .ready ∧ ((inState .empty).part 0).st ≠ .loaded ∧ ((inState .empty).part 0).st ≠ .suspended ∧
      ((inState .empty).part 0).st ≠ .running :=
  ⟨hostCan_of_canWrite (by decide +kernel), by decide +kernel⟩

/-! ### BOOT_CMD, PROC_CMD, SAFE_CMD, ST_CMD, END -/

/-- BOOT_ARG, and slot B verified. -/
def booting (arg : Nat) (b : BootSt) : State := ({ claimed with boot := b } : State).setBoth (addr 3 0x054) arg
def verified : BootSt := { BootSt.reset with slotB := .verified }

/-- Neither manifest names a component; slot B's names one of DATA. -/
def alike (s : State) : State := { s with mem := [(slotBase false + 1, 0), (slotBase true + 1, 0)] }
def newData (s : State) : State := { s with mem := [(slotBase false + 1, 0), (slotBase true + 1, 1), (slotBase true + 160, 4)] }
def inEmergency (s : State) : State := { s with power := { PowerSt.reset with emSupply := true } }

theorem witness_SlotsAreVerifiedAndActivated :
    (HostCanUp (atTime 0 (booting 1 BootSt.reset)) me 3 ∧ (booting 1 BootSt.reset).boot.busy = none ∧ (booting 1 BootSt.reset).boot.live = none ∧
      bit ((booting 1 BootSt.reset).inForce (addr 3 0x054)) 0 ≠ (booting 1 BootSt.reset).boot.running) ∧
    (HostCanUp (atTime 0 recovering) me 3 ∧ recovering.phase = .recovery ∧ recovering.boot.busy = none ∧ recovering.boot.live = none) ∧
    (HostCanUp (atTime 0 (booting 0 BootSt.reset)) me 3 ∧ (booting 0 BootSt.reset).phase = .up ∧
      bit ((booting 0 BootSt.reset).inForce (addr 3 0x054)) 0 = (booting 0 BootSt.reset).boot.running) ∧
    (HostCan (atTime 0 (booting 0 BootSt.reset)) me 3 ∧ slotSt (booting 0 BootSt.reset) (!(booting 0 BootSt.reset).boot.running) ≠ .verified) ∧
    (HostCan (atTime 0 (booting 0 { verified with failedMark := some true })) me 3 ∧
      true = !(booting 0 { verified with failedMark := some true }).boot.running) ∧
    (HostCan (atTime 0 (booting 0x100 verified)) me 3 ∧ (booting 0x100 verified).boot.busy = none ∧ (booting 0x100 verified).boot.live = none ∧
      slotSt (booting 0x100 verified) (!(booting 0x100 verified).boot.running) = .verified ∧ (booting 0x100 verified).boot.failedMark ≠ some true ∧
      1 = bits ((booting 0x100 verified).inForce (addr 3 0x054)) 8 8 ∧ activationDue (atTime 0 (booting 0x100 verified)) = true) ∧
    (HostCan (atTime 0 (newData (booting 0 verified))) me 3 ∧ 0 = bits ((booting 0 verified).inForce (addr 3 0x054)) 8 8 ∧
      compHash (newData (booting 0 verified)) true 4 ≠ compHash (newData (booting 0 verified)) false 4) ∧
    (HostCan (atTime 0 (alike (booting 0 verified))) me 3 ∧
      compHash (alike (booting 0 verified)) true 4 = compHash (alike (booting 0 verified)) false 4 ∧
      activationDue (atTime 0 (alike (booting 0 verified))) = true ∧ Memory.wf (alike (booting 0 verified)).mem = true) ∧
    (HostCan (atTime 0 (inEmergency (booting 0x100 verified))) me 3 ∧ activationDue (atTime 0 (inEmergency (booting 0x100 verified))) = false) :=
  ⟨⟨hostCanUp_of_canWriteUp (by decide +kernel), by decide +kernel⟩, ⟨hostCanUp_of_canWriteUp (by decide +kernel), by decide +kernel⟩,
    ⟨hostCanUp_of_canWriteUp (by decide +kernel), by decide +kernel⟩, ⟨hostCan_of_canWrite (by decide +kernel), by decide +kernel⟩,
    ⟨hostCan_of_canWrite (by decide +kernel), by decide +kernel⟩, ⟨hostCan_of_canWrite (by decide +kernel), by decide +kernel⟩,
    ⟨hostCan_of_canWrite (by decide +kernel), by decide +kernel⟩, ⟨hostCan_of_canWrite (by decide +kernel), by decide +kernel⟩,
    hostCan_of_canWrite (by decide +kernel), by decide +kernel⟩

def lit : State := { claimed with aon := { AonSt.reset with wake := ⟨0, 0, true, none, 0⟩ }, boot := { BootSt.reset with good := true } }

def spDown : State := claimed.setProc 1 { ProcSt.reset with st := .restarting }

theorem witness_StartsSleepAndRestartsOnCommand :
    (HostCan (atTime 0 claimed) me 3 ∧ claimed.boot.busy = none ∧ claimed.aon.failures = [] ∧ claimed.boot.live = none ∧
      (∀ p, p < 8 → claimed.active p = false) ∧ claimed.boot.activate = none ∧ claimed.aon.wake.lit = false) ∧
    (HostCan (atTime 0 lit) me 3 ∧ lit.boot.busy = none ∧ lit.boot.live = none ∧ lit.aon.wake.lit = true ∧ lit.boot.good = true) ∧
    (recovering.phase = .recovery ∧ hbDue (atTime 0 recovering) = false ∧ recovering.link.resetting = none ∧
      currentSession recovering me.session = true ∧ recovering.boot.busy = none) ∧
    (∀ i : Fin 3, HostCan (atTime 0 claimed) me (pgProc i.val)) ∧ (allRun claimed = true ∧ claimed.boot.live = none ∧ claimed.boot.busy = none) ∧
    (HostCan (atTime 0 spDown) me (pgProc 1) ∧ allRun spDown = false) ∧
    (HostCan (atTime 0 (booting 0 { BootSt.reset with live := some [1] })) me (pgProc 0) ∧
      (booting 0 { BootSt.reset with live := some [1] }).boot.live ≠ none) ∧
    (HostCan (atTime 0 (booting 0 { BootSt.reset with busy := some (1, 1) })) me (pgProc 0) ∧
      (booting 0 { BootSt.reset with busy := some (1, 1) }).boot.busy ≠ none) := by
  refine ⟨⟨hostCan_of_canWrite (by decide +kernel), by decide +kernel⟩, ⟨hostCan_of_canWrite (by decide +kernel), by decide +kernel⟩,
    by decide +kernel, fun i => hostCan_of_canWrite ?_, by decide +kernel, ⟨hostCan_of_canWrite (by decide +kernel), by decide +kernel⟩,
    ⟨hostCan_of_canWrite (by decide +kernel), by decide +kernel⟩, hostCan_of_canWrite (by decide +kernel), by decide +kernel⟩
  revert i; decide +kernel

/-- Partition 0 runs in its safe state. -/
def safeRunning : State := onPart { PartSt.reset with st := .running, safe := some (0x6101, 0) }

theorem witness_SafeStatesClearWhole :
    (HostCan (atTime 0 { claimed with safety := { SafetySt.reset with dev := 1 } }) me pgSafe ∧
      ({ claimed with safety := { SafetySt.reset with dev := 1 } } : State).safety.dev ≠ 0) ∧
    (HostCan (atTime 0 safeRunning) me pgSafe ∧ safeRunning.safety.dev = 0 ∧ safeRunning.safety.shared = false ∧
      (∀ p, p < 8 → (1#8).getLsbD p = true →
        (safeRunning.part p).safe.isSome = true ∧ (safeRunning.part p).st = .running ∧ unitMissing (safeRunning.part p) = false) ∧
      (2#8).getLsbD 1 = true ∧ (safeRunning.part 1).safe = none) ∧
    (HostCan (atTime 0 { safeRunning with safety := { SafetySt.reset with shared := true } }) me pgSafe ∧ SafetySt.reset.dev = 0) :=
  ⟨⟨hostCan_of_canWrite (by decide +kernel), by decide +kernel⟩, ⟨hostCan_of_canWrite (by decide +kernel), by decide +kernel⟩,
    hostCan_of_canWrite (by decide +kernel), by decide +kernel⟩

def staged (n : Nat) : State := { claimed with selftest := { SelfTestSt.reset with staged := n } }

theorem witness_SelfTestCommandsAct :
    (HostCan (atTime 0 (staged 2)) me pgSt ∧ (staged 2).selftest.busy = false ∧ (staged 2).selftest.waiting = none ∧
      ((staged 2).proc 1).st = .run ∧ (staged 2).selftest.staged = 2 ∧ (staged 2).inForce (addr pgSt 0x04C) = 0 ∧
      (staged 2).coreFused 0 = false ∧ coreFenced (staged 2) 0 = false) ∧
    (HostCan (atTime 0 (staged 3)) me pgSt ∧ (staged 3).selftest.staged ≠ 2) ∧
    (HostCan (atTime 0 spDown) me pgSt ∧ (spDown.proc 1).st ≠ .run) :=
  ⟨⟨hostCan_of_canWrite (by decide +kernel), by decide +kernel⟩, ⟨hostCan_of_canWrite (by decide +kernel), by decide +kernel⟩,
    hostCan_of_canWrite (by decide +kernel), by decide +kernel⟩

/-- Channel 0 of partition 0, enabled, RAW16 with HOLD = 1 and HOLD_LIMIT 1 ms, in a step that waits for it or in none. -/
def holdChan (s : State) : State :=
  ((s.setBoth (addr (pgChan 0) 0x040) (2 ^ 31 + 4 * 2 ^ 8 + 2)).setBoth (addr (pgChan 0) 0x068) (1 * 2 ^ 16)).setBoth (addr (pgPart 0) 0x058) 1
def holding (n : Nat) : State := holdChan (onPart { PartSt.reset with st := .running, step := some { stepping with waits := [⟨0, [(0, n)]⟩] } })

/-! ### Steps and work items -/

/-- A CORE item without waits, queued as work or as a proof tile, and running. -/
def plainItem : WorkItem := ⟨1, 0, false, false, 0, 0, 0, 1, 0, [], [], 0, 0, 0, none, [], 0, 0⟩
def queued (proof : Bool) : QItem := ⟨0, proof, plainItem, 0, 1, 0, [], []⟩
def runs (proof : Bool) : Running := idleRun (queued proof) 0

/-- Partition 0 runs a step on core 0 of pair 0. -/
def inStep (st : StepRec) : State :=
  (onPart { PartSt.reset with st := .running, step := some st, bind := [some 0], launchNs := some 0 }).setPair 0 { PairSt.reset with owner := 0 }
def busy (q : Nat) (proof : Bool) : State := (inStep stepping).setRun q (some (runs proof))
def waitingItem (q : Nat) : State := (inStep stepping).setQueue q [queued false]

theorem canFail_inStep : CanFail (inStep stepping) 0 := ⟨rfl, stepping, rfl, rfl, rfl⟩
theorem canFail_busy (q : Nat) (proof : Bool) : CanFail (busy q proof) 0 := ⟨rfl, stepping, rfl, rfl, rfl⟩

theorem witness_StepsBeginAtTheirTick :
    (inState .running).phase = .up ∧ nextTick (atTime 0 (onPart { PartSt.reset with st := .running, launchNs := some 1 })) 0 = some 1 ∧
    (atTime 0 (onPart { PartSt.reset with st := .running, launchNs := some 1 })).clk.dev < 1 ∧
    nextTick (atTime 1 (onPart { PartSt.reset with st := .running, launchNs := some 1 })) 0 = some 1 ∧
    1 ≤ (atTime 1 (onPart { PartSt.reset with st := .running, launchNs := some 1 })).clk.dev := by decide +kernel

theorem witness_HoldGroupsResolve :
    (((holding 0).part 0).step = some { stepping with waits := [⟨0, [(0, 0)]⟩] } ∧
      [(⟨0, [(0, 0)]⟩ : HoldWait)].find? (fun w => w.group == 0) = some ⟨0, [(0, 0)]⟩ ∧
      holdResolved (atTime 0 (holding 0)) ⟨0, [(0, 0)]⟩ 0 = false ∧ holdResolved (atTime 0 (holding 1)) ⟨0, [(0, 1)]⟩ 0 = true ∧
      ((holding 1).part 0).step = some { stepping with waits := [⟨0, [(0, 1)]⟩] }) ∧
    (waitOf (holding 0) 0 = some (0, 0, 0) ∧ settledMember (atTime 1000000 (holding 0)) 0 0 = false ∧
      0 + ((holding 0).chanCfg 0).holdLimit * 1000000 ≤ (atTime 1000000 (holding 0)).clk.dev) ∧
    (HostCan (atTime 0 claimed) me (pgChan 31) ∧ (claimed.chanCfg 31).hold = false) ∧
    (HostCan (atTime 0 (holdChan claimed)) me (pgChan 0) ∧ ((holdChan claimed).chanCfg 0).hold = true ∧ waitOf (holdChan claimed) 0 = none) ∧
    (HostCan (atTime 0 (holding 0)) me (pgChan 0) ∧ ((holding 0).chanCfg 0).hold = true) :=
  ⟨by decide +kernel, by decide +kernel, ⟨hostCan_of_canWrite (by decide +kernel), by decide +kernel⟩,
    ⟨hostCan_of_canWrite (by decide +kernel), by decide +kernel⟩, hostCan_of_canWrite (by decide +kernel), by decide +kernel⟩

/-- A Sieve descriptor. -/
def sieveDesc : SieveDesc :=
  ⟨1, 1, 0, false, false, 0, 1, 0, 1, 1, 1, 0, 0, 0, 0, 0, 0, 0, 0, 0, 0, 0, 0, 0, 0, 0⟩
/-- Partition 0 with page 5 resident: an item whose descriptor list there has another CRC, and a Sieve item whose batch header there is all zeros, or
names a position with a bad watermark. -/
def residing (s : State) : State := s.modPart 0 (fun x => { x with ptes := [(5, { Pte.reset with valid := true, res := 2 })] })
def listed : QItem := { queued false with item := { plainItem with descAddr := 5 * 65536, crc := 1 } }
def corrupted : State := residing ((inStep stepping).setQueue 0 [listed])
theorem canFail_corrupted : CanFail corrupted 0 := ⟨rfl, stepping, rfl, rfl, rfl⟩
def headed : QItem := { queued false with item := { plainItem with kind := 2, sieve := some { sieveDesc with hdrVa := 5 * 65536 } } }
def sieveWaits (mem : List Host.Cell) : State := { residing ((inStep stepping).setQueue 128 [headed]) with mem := mem }
def badMark : List Host.Cell := [(feltFrame 0 0 + 1, 1), (feltFrame 0 0 + 16, 1)]

theorem witness_WorkItemsStart :
    ((waitingItem 0).phase = .up ∧ (waitingItem 0).queue (queueCode (.core 0)) = [queued false] ∧
      unitFree (atTime 0 (waitingItem 0)) (queueCode (.core 0)) = true ∧ waitsMet (atTime 0 (waitingItem 0)) (queued false) = true ∧
      ¬ 128 ≤ queueCode (.core 0) ∧ itemCorrupt (atTime 0 (waitingItem 0)) (queued false) = false) ∧
    (corrupted.queue (queueCode (.core 0)) = [listed] ∧ unitFree (atTime 0 corrupted) (queueCode (.core 0)) = true ∧
      waitsMet (atTime 0 corrupted) listed = true ∧ listed.proof = false ∧ itemCorrupt (atTime 0 corrupted) listed = true ∧ corrupted.phase = .up) ∧
    (∀ m ∈ [[], badMark], (sieveWaits m).queue (queueCode (.sieve 0)) = [headed] ∧ unitFree (atTime 0 (sieveWaits m)) (queueCode (.sieve 0)) = true ∧
      waitsMet (atTime 0 (sieveWaits m)) headed = true ∧ itemCorrupt (atTime 0 (sieveWaits m)) headed = false ∧
      sieveFails (atTime 0 (sieveWaits m)) headed = !m.isEmpty) ∧
    ((waitingItem 67).queue (queueCode (.spec 3)) = [queued false] ∧ unitFree (atTime 0 (waitingItem 67)) (queueCode (.spec 3)) = true ∧
      waitsMet (atTime 0 (waitingItem 67)) (queued false) = true) := by decide +kernel

/-- A tile of one INT8 pass over two rows, two columns and two vectors, the vectors from address 0 on, the weights from 16 on; byte va of the memory is
va − 8. -/
def ramp (va : Nat) : Byte := BitVec.ofInt 8 (va - 8)
def rampPort : Port := ⟨fun va => .ok (ramp va), fun _ => .ok ()⟩
def rampTile : ArrayDesc := ⟨1, 2, 2, true, true, false, 1, 1, 2, 2, 2, 0, 0, 4, 16, 0, 0, 16, 0, 0, 0x200⟩

theorem witness_WorkItemsStart_numeric : (∀ va, rampPort.rd va = .ok (ramp va)) ∧ (∀ va, rampPort.wr va = .ok ()) ∧ rampTile.aFmt = 2 ∧ rampTile.wFmt = 2 ∧
    rampTile.first = true ∧ rampTile.last = true ∧ rampTile.wmode = 1 ∧ rampTile.outPath = 1 ∧ rampTile.cols ≤ 128 ∧ emptyArray.fill0 = false :=
  ⟨fun _ => rfl, fun _ => rfl, rfl, rfl, rfl, rfl, rfl, rfl, by decide, rfl⟩

/-- By hand (R77, R79): the first vector is −8, −7 and the first column of the weights 8, 136 mod 256 = −120, so the first sum is 776. -/
theorem test_array_tile : ((runComp (runPasses rampPort (emptyArray, []) [passOfDesc rampPort rampTile])).2.writes.take 4).map (fun w => (w.va, w.val)) =
    [(0x200, 0x08), (0x201, 0x03), (0x202, 0), (0x203, 0)] := by decide +kernel

/-- A Sieve item and its result. -/
def sieveItem : QItem := { queued false with item := { plainItem with kind := 2, sieve := some sieveDesc } }
def sieveRuns : Running := { idleRun sieveItem 0 with result := some ⟨0, [], 0, 0, 0, false⟩ }
/-- A felt region of one page at address 0. -/
def wideRegion : Region := ⟨1, 0, false, false, false, false, 0, 0, 1, 0, 0⟩
/-- An item whose writes lie in an outbound window of partition 0 (SIR_OUT 0). -/
def outbound : State := (((((inStep stepping).setBoth (addr 0x1F0 0x200) (2 ^ 31)).setBoth (addr 0x1F0 0x20C) 1).setRun 0
  (some { runs false with writes := [⟨0, 1, 0, 0, false⟩] })).modPart 0 (fun x => { x with plan := some { seqPlan with regions := [wideRegion] } })).setBoth
    (addr 0x1F0 0x210) (2 ^ 22)
def built : StepRec := { stepping with built := true }
/-- A partition whose plan has a result ring, with a step. -/
def ringed (st : StepRec) : State :=
  (inStep st).modPart 0 (fun x => { x with plan := some { seqPlan with ring := some ⟨1, 0, 64, 0⟩, classes := [] } })
def recorded : StepRec := { stepping with published := [(0, true)] }
/-- An item that has landed, with the answer to one of its remote writes outstanding. -/
def awaiting : State := { (inStep stepping).setRun 0 (some { runs false with landed := true }) with net := { State.reset.net with remote := [(0, 0)] } }

theorem witness_WorkItemsComplete :
    ((busy 0 true).run (queueCode (.core 0)) = some (runs true) ∧ (runs true).item.proof = true ∧
      ((inStep { stepping with proofs := [0] }).setRun 0 (some (runs true))).run (queueCode (.core 0)) = some (runs true) ∧
      (((inStep { stepping with proofs := [0] }).setRun 0 (some (runs true))).part (runs true).item.part).step = some { stepping with proofs := [0] } ∧
      (atTime 59999 ((inStep { stepping with proofs := [0] }).setRun 0 (some (runs true)))).clk.clock < (runs true).item.emitted + 60000) ∧
    ((busy 0 false).run (queueCode (.core 0)) = some (runs false) ∧ (runs false).item.proof = false ∧ (runs false).err = none ∧
      ((busy 0 false).part (runs false).item.part).step = some stepping ∧ pastDeadline (atTime 0 (busy 0 false)) 0 = false ∧
      (runs false).landed = false ∧ remoteLines (atTime 0 (busy 0 false)) 0 ((runs false).writes.map (·.va)) = []) ∧
    (pastDeadline (atTime ((inStep built).budgetNs 0) ((inStep built).setRun 0 (some (runs false)))) 0 = true ∧
      pastDeadline (atTime ((inStep built).budgetNs 0) ((inStep built).setRun 128 (some sieveRuns))) 0 = true ∧ queueCode (.sieve 0) = 128) ∧
    (outbound.run (queueCode (.core 0)) = some { runs false with writes := [⟨0, 1, 0, 0, false⟩] } ∧
      remoteLines (atTime 0 outbound) 0 [0] ≠ [] ∧ (∀ e ∈ remoteLines (atTime 0 outbound) 0 [0], e.1 ≠ devId outbound) ∧
      outbound.net.remote.any (fun e => e.2 == 0) = false) ∧
    (((inStep stepping).setRun 0 (some { runs false with landed := true })).run 0 = some { runs false with landed := true } ∧
      ((inStep stepping).setRun 0 (some { runs false with landed := true })).net.remote.any (fun e => e.2 == 0) = false ∧
      awaiting.run 0 = some { runs false with landed := true } ∧ awaiting.net.remote.any (fun e => e.2 == 0) = true) ∧
    (((inStep recorded).setRun 128 (some sieveRuns)).run 128 = some sieveRuns ∧
      ((inStep recorded).part 0).step = some recorded ∧ recorded.published.any (fun o => o.1 == sieveDesc.output) = true ∧
      pastDeadline (atTime 0 ((inStep recorded).setRun 128 (some sieveRuns))) 0 = false) ∧
    (((ringed stepping).setRun 128 (some sieveRuns)).run 128 = some sieveRuns ∧ ((ringed stepping).part 0).step = some stepping ∧
      ((ringed stepping).part 0).plan = some { seqPlan with ring := some ⟨1, 0, 64, 0⟩, classes := [] } ∧
      stepping.published.any (fun o => o.1 == sieveDesc.output) = false ∧
      outboundOf ((ringed stepping).setRun 128 (some sieveRuns)) 0 = [] ∧
      ((ringed stepping).setRun 128 (some sieveRuns)).net.remote.any (fun e => e.2 == 128) = false) ∧
    (((inStep stepping).setRun 128 (some { sieveRuns with landed := true })).run 128 = some { sieveRuns with landed := true } ∧
      ((inStep stepping).setRun 128 (some { sieveRuns with landed := true })).net.remote.any (fun e => e.2 == 128) = false) ∧
    (((inStep stepping).setRun 128 (some sieveRuns)).run (queueCode (.sieve 0)) = some sieveRuns ∧ sieveRuns.item.item.sieve = some sieveDesc ∧
      sieveRuns.result = some ⟨0, [], 0, 0, 0, false⟩ ∧ sieveRuns.err = none ∧ stepping.proofs = [] ∧
      pastDeadline (atTime 0 ((inStep stepping).setRun 128 (some sieveRuns))) 0 = false) := by decide +kernel

/-- A Sieve item that runs while the proof tile of core 0 is open. -/
def sieving : State := (inStep { stepping with proofs := [0] }).setRun 128 (some sieveRuns)

/-- The same item at the head of its queue. -/
def sieveHeld : State := (inStep { stepping with proofs := [0] }).setQueue 128 [sieveItem]

theorem witness_SieveWaitsForProofs :
    (sieveHeld.queue (qSieve 0) = [sieveItem] ∧ sieveItem.proof = false ∧
      (sieveHeld.part sieveItem.part).step = some { stepping with proofs := [0] }) ∧
    sieving.run (qSieve 0) = some sieveRuns ∧ sieveRuns.item.proof = false ∧
    (sieving.part sieveRuns.item.part).step = some { stepping with proofs := [0] } ∧ ({ stepping with proofs := [0] } : StepRec).proofs ≠ [] := by
  decide +kernel

theorem witness_TwoIntegersShareAByte : (⟨fun _ => .ok 0xA5, fun _ => .ok ()⟩ : Port).rd (0x10000 + 7) = .ok 0xA5 ∧
    (⟨fun _ => .ok 0xA5, fun _ => .ok ()⟩ : Port).wr (0x10000 + 7) = .ok () := ⟨rfl, rfl⟩

/-- The SHED instant is 1 µs after the tick (DL_SHED). -/
def shedding : State := (inStep built).setBoth (addr pgDl 0x084) 1

theorem witness_DeadlinesAndShedding :
    (((inStep stepping).part 0).step = some stepping ∧ pastDeadline (atTime 0 (inStep stepping)) 0 = false) ∧
    (((inStep built).part 0).step = some built ∧ pastDeadline (atTime ((inStep built).budgetNs 0) (inStep built)) 0 = true ∧ built.declared = false ∧
      (inStep built).isSafety 0 = false ∧ ((inStep built).setBoth (addr (pgPart 0) 0x040) 2).isSafety 0 = true) ∧
    (((inStep { built with declared := true }).part 0).step = some { built with declared := true } ∧
      pastDeadline (atTime ((inStep built).budgetNs 0) (inStep { built with declared := true })) 0 = true) ∧
    ((shedding.part 0).step = some built ∧ built.built = true ∧ pastShed (atTime 1000 shedding) 0 built = true) := by decide +kernel

/-! ### The Vat and the display -/

/-- Settings of a RAW16 channel of 2 by 1 pixels and of a POINTS channel, and a frame in a slot. -/
def rawCfg : ChanCfg := ⟨true, 4, false, false, 0, false, 0, 5, 2, 1, 2, 1, 0, 0, 0, 0, 0, 0, 0, 0, 0, 0, 0, []⟩
def pointCfg : ChanCfg := { rawCfg with kind := 8, recBytes := 4 }
def shapeNone : ShapeCfg := ⟨1, 0, 0, 0, 0, 0, 0, 0, 0, 0, 0, 0, [], [], false, 0, 0, 0, 0, 0, 0, 0, 0⟩
def slotOne (st : SlotState) (c : ChanCfg) : Slot := ⟨st, [], ⟨1, 5, 0, 0, 0, 1, 0⟩, 0, 0, none, c, shapeNone, [], [], [], none, [], none, 0, none, false⟩
def inSlot (z : Slot) : State := claimed.setChan 0 { ChanSt.reset with slots := [(0, z)] }

/-- Channel 0 takes the AVTP frames of stream 5 at port S0. -/
def streaming : State := ((((((claimed.setBoth (addr (pgPort 0) 0x040) (2 ^ 31)).setBoth (addr (pgChan 0) 0x040) (2 ^ 31 + 4 * 2 ^ 8)).setBoth
  (addr (pgChan 0) 0x04C) 5).setBoth (addr (pgChan 0) 0x050) (2 * 2 ^ 16 + 1)).setBoth (addr (pgChan 0) 0x054) (2 * 2 ^ 16 + 100)))
/-- Its first packet: an AVTP header of subtype 0x6F, the Himir header of a tile of both pixels, and four bytes of data. -/
def ethernet (kind : Nat) : Bytes := List.replicate 12 0 ++ toBE 2 kind
def avtp : Bytes := toBE 1 0x6F ++ toBE 3 9 ++ toBE 8 5 ++ toBE 10 0 ++ toBE 2 36
def himir : Bytes := toBE 1 1 ++ toBE 1 4 ++ toBE 2 5 ++ toBE 4 7 ++ toBE 8 1000 ++ toBE 2 2 ++ toBE 2 1 ++ toBE 2 0 ++ toBE 2 2 ++ toBE 2 0 ++ toBE 2 1
  ++ toBE 4 0
/-- A packet of the same stream of another subtype. -/
def unsuited : Bytes := ethernet 0x22F0 ++ toBE 1 3 ++ toBE 3 9 ++ toBE 8 5 ++ toBE 10 0 ++ toBE 2 36
def packet : Bytes := ethernet 0x22F0 ++ avtp ++ himir ++ [1, 2, 3, 4]

theorem witness_PacketsReachTheirChannel :
    (streaming.phase = .up ∧ bit (streaming.inForce (addr (pgPort 0) 0x040)) 31 = true ∧ be (ethernet 0x0800) 12 2 ≠ 0x8100 ∧
      be (ethernet 0x0800) 12 2 ≠ 0x88F7 ∧ be (ethernet 0x0800) 12 2 ≠ 0x22F0) ∧
    (be (ethernet 0x22F0) 12 2 = 0x22F0 ∧ matchChan streaming 0 none ((ethernet 0x22F0).drop 14) = none) ∧
    (be unsuited 12 2 = 0x22F0 ∧ matchChan streaming 0 none (unsuited.drop 14) = some 0 ∧
      suits (be unsuited 14 1) (streaming.chanCfg 0).kind = false) ∧
    (be packet 12 2 = 0x22F0 ∧ matchChan streaming 0 none (packet.drop 14) = some 0 ∧ (streaming.chan 0).rx = none ∧
      (streaming.hdrOf (pgChan 0)).cstate ≠ .pending ∧ (streaming.hdrOf (pgShape 0)).cstate ≠ .pending ∧ be packet 14 1 = 0x6F ∧
      (packet.drop 14).take (24 + be packet 36 2) = packet.drop 14 ∧
      parseHimir (packet.drop 38) = parseHimir (slice (packet.drop 14) 24 32) ∧ (parseHimir (packet.drop 38)).first = true ∧
      2 ≤ (streaming.chanCfg 0).kind ∧ (streaming.chanCfg 0).kind ≤ 5 ∧ (parseHimir (packet.drop 38)).version = 1 ∧
      (parseHimir (packet.drop 38)).kind = (streaming.chanCfg 0).kind ∧ (parseHimir (packet.drop 38)).colFirst = 0 ∧
      (parseHimir (packet.drop 38)).rowFirst = 0 ∧ (parseHimir (packet.drop 38)).colCount % kindAlign (streaming.chanCfg 0).kind = 0 ∧
      ((packet.drop 14).drop 56).length = (parseHimir (packet.drop 38)).rowCount * tileRowBytes (streaming.chanCfg 0).kind
        (parseHimir (packet.drop 38)).colCount ∧
      (parseHimir (packet.drop 38)).fw = (streaming.chanCfg 0).w ∧ (parseHimir (packet.drop 38)).fh = (streaming.chanCfg 0).h ∧
      (streaming.chanCfg 0).w ≤ 8192 ∧ (streaming.chanCfg 0).h ≤ 8192 ∧ (parseHimir (packet.drop 38)).colCount ≤ (streaming.chanCfg 0).w ∧
      (parseHimir (packet.drop 38)).rowCount ≤ (streaming.chanCfg 0).h ∧ (parseHimir (packet.drop 38)).last = false ∧
      ((packet.drop 14).drop 56).length ≤ recvBytes (streaming.chanCfg 0) ∧
      takeSlot (streaming.chan 0) (streaming.chanCfg 0).nslots = some 0 ∧ (parseHimir (packet.drop 38)).tsValid = true) := by decide +kernel

def decodeWaits : State := { inSlot (slotOne .decoding rawCfg) with vat := { (inSlot (slotOne .decoding rawCfg)).vat with rawQ := [(0, 0)], decodeQ := [(1, 0)] } }

theorem witness_DecodersWorkInOrder :
    (decodeWaits.vat.rawPath = none ∧ decodeWaits.vat.rawQ = [(0, 0)] ∧ decodeWaits.vat.decoders.findIdx? (fun d => d.isNone) = some 0 ∧
      decodeWaits.vat.decodeQ = [(1, 0)]) ∧
    ((inSlot (slotOne .decoding pointCfg)).slot 0 0 = some (slotOne .decoding pointCfg) ∧
      stage2 (inSlot (slotOne .decoding pointCfg)) 0 0 (slotOne .decoding pointCfg) = true ∧
      (atTime 1000 (inSlot (slotOne .decoding pointCfg))).clk.clock ≤ (slotOne .decoding pointCfg).budgetFrom
        + (slotOne .decoding pointCfg).cfg.budgetUs * 1000 ∧ (slotOne .decoding pointCfg).corrupt = false) ∧
    ((slotOne .decoding rawCfg).st = .decoding ∧ (slotOne .decoding rawCfg).cfg.kind ≠ 1 ∧
      (slotOne .decoding rawCfg).budgetFrom + (slotOne .decoding rawCfg).cfg.budgetUs * 1000 ≤
        (atTime 1000 (inSlot (slotOne .decoding rawCfg))).clk.clock) := by decide +kernel

/-- A slot after stage s, an input record that names the channel, and a plan that holds it. -/
def stageSlot (n : Nat) : Slot := { slotOne .shaping rawCfg with decoded := some (.raw 16 [1, 2]), working := [⟨2, 1, 1, [1, 2]⟩], wm := ⟨1, 5, 0, 0, 0, n, 0⟩ }
def inputRec : InputRec := ⟨1, 0, 0, 1, 0, 1, 1, 1, 0, 2 * 2 ^ 16 + 1, ⟨0, 0, 1, 1⟩, 65536, 0, 0⟩
def inputPlan : Plan := { seqPlan with inputs := [inputRec], classes := [] }
def shaping (n : Nat) : State := ((inSlot (stageSlot n)).setPart 0 { PartSt.reset with st := .running, plan := some inputPlan }).setBoth (addr (pgPart 0) 0x058) 1
def written : Slot := { stageSlot 9 with st := .ready, sample := some [] }
def handing : State := ((inSlot written).setPart 0
  { PartSt.reset with st := .running, plan := some inputPlan, handovers := [((0, 0), (0, 0, 1))] }).setBoth (addr (pgPart 0) 0x058) 1

theorem witness_ShapingGoesStageByStage :
    ((inSlot { stageSlot 2 with corrupt := true }).slot 0 0 = some { stageSlot 2 with corrupt := true }) ∧
    ((inSlot (stageSlot 2)).slot 0 0 = some (stageSlot 2) ∧ (stageSlot 2).st = .shaping ∧ (stageSlot 2).corrupt = false ∧
      nextStage (stageSlot 2).shape (stageSlot 2).working (stageSlot 2).wm.stage ≠ 9) ∧
    ((inSlot (stageSlot 8)).slot 0 0 = some (stageSlot 8) ∧
      nextStage (stageSlot 8).shape (stageSlot 8).working (stageSlot 8).wm.stage = 9 ∧ inputsFor (inSlot (stageSlot 8)) 0 = none ∧
      (shaping 8).slot 0 0 = some (stageSlot 8) ∧ inputsFor (shaping 8) 0 = some (0, 0, inputRec, 0)) ∧
    ((handing.part 0).handovers.lookup (0, 0) = some (0, 0, written.wm.devFrame) ∧ (handing.part 0).plan = some inputPlan ∧
      inputPlan.inputs[0]? = some inputRec ∧ handing.slot 0 0 = some written ∧ written.corrupt = false ∧ sampleFor written inputRec = some []) := by
  decide +kernel

theorem witness_PicturesLeaveOrDrop : ((claimed.setDisp 3 { DispSt.reset with busy := true }).disp 3).busy = true ∧
    portOn claimed (claimed.disp 3).port = true ∧
    portOn ((claimed.setDisp 3 { DispSt.reset with busy := true }).setBoth (addr (pgPort 0) 0x040) 0) 0 = false := by decide +kernel

/-- Channel 0 and its shaping page, with a commit of one page pending since instant 0. -/
def committing (page : Nat) (s : State) : State := s.setHdr page { PageHdr.reset with cstate := .pending, token := 1 }
/-- Partition 0 owns the display, its first tick at 1 ns; a step of it is past its deadline and declared, with pair 0 and engine 0 its own. -/
def displaying : State := (onPart { PartSt.reset with st := .running, launchNs := some 1 }).setBoth (addr (pgPart 0) 0x040) 8
def declaredStep : StepRec := { built with declared := true }

theorem witness_SafePointsSettle :
    (State.reset.phase = .up ∧ blockOf 0 = some (.dev, 0) ∧ genericPage .dev = true ∧ pageBusy (waiting 20) 0 = false ∧
      ((waiting 20).hdrOf 0).cstate = .pending ∧ ((waiting 20).hdrOf 0).at? < (atTime 1 (waiting 20)).clk.clock ∧
      firstBad (pageChecks (atTime 1 (waiting 20)) .dev 0 ((waiting 20).hdrOf 0).snapshot) = none) ∧
    (((waiting 19).hdrOf 0).cstate = .pending ∧
      firstBad (pageChecks (atTime 1 (waiting 19)) .dev 0 ((waiting 19).hdrOf 0).snapshot) = some (0x9014, 0x06C)) ∧
    (blockOf 0x181 = some (.pressP 0, 0x181) ∧ genericPage (.pressP 0) = false ∧
      readyNow (atTime 1 (committing 0x181 claimed)) (.pressP 0) ((committing 0x181 claimed).hdrOf 0x181).snapshot = true ∧
      pageBusy (committing 0x181 claimed) 0x181 = false ∧ CommitDue (atTime 1 (committing 0x181 claimed)) 0x181) ∧
    ((committing pgDram claimed).phase = .up ∧ (committing pgDram claimed).press.patrolBusy = false ∧ CommitDue (atTime 1 (committing pgDram claimed)) pgDram) ∧
    CommitDue (atTime 1 (committing pgSt claimed)) pgSt ∧
    ((committing (pgChan 0) streaming).phase = .up ∧ portOn (committing (pgChan 0) streaming) 0 = true ∧ be packet 12 2 = 0x22F0 ∧
      matchChan (atTime 1 (committing (pgChan 0) streaming)) 0 none (packet.drop 14) = some 0 ∧
      suits (be (packet.drop 14) 0 1) ((committing (pgChan 0) streaming).chanCfg 0).kind = true ∧
      startsFrame (be (packet.drop 14) 0 1 == 3) (packet.drop 14) = true ∧
      CommitDue (atTime 1 (committing (pgChan 0) streaming)) (pgChan 0) ∧ ((committing (pgChan 0) streaming).hdrOf (pgShape 0)).cstate ≠ .pending ∧
      CommitDue (atTime 1 (committing (pgShape 0) streaming)) (pgShape 0) ∧ ((committing (pgShape 0) streaming).hdrOf (pgChan 0)).cstate ≠ .pending ∧
      matchChan (atTime 1 (committing (pgShape 0) streaming)) 0 none (packet.drop 14) = some 0) ∧
    ((committing pgDisp displaying).phase = .up ∧ nextTick (atTime 1 (committing pgDisp displaying)) 0 = some 1 ∧
      1 ≤ (atTime 1 (committing pgDisp displaying)).clk.dev ∧ dispOwner (committing pgDisp displaying) = some 0 ∧
      CommitDue (atTime 1 (committing pgDisp displaying)) pgDisp) ∧
    (pastDeadline (atTime ((inStep built).budgetNs 0) (inStep declaredStep)) 0 = true ∧ ((inStep declaredStep).part 0).step = some declaredStep ∧
      declaredStep.fail = none ∧ declaredStep.declared = true ∧ pairOwner (inStep declaredStep) (0 / 2) = 0 ∧
      engineOwner ((inStep declaredStep).setEngine 0 { EngineSt.reset with owner := 0 }) 0 = 0 ∧
      ∀ page ∈ [pgPart 0, pgPressP 0, pgCore 0, pgEngine 0],
        CommitDue (atTime ((inStep built).budgetNs 0) (committing page (inStep declaredStep))) page) := by unfold CommitDue; decide +kernel

/-! ### The Press -/

/-- Partition 0 with one page at key 5, the quota of a felt frame. -/
def pageOf (e : Pte) : State := (onPart { PartSt.reset with st := .running, ptes := [(5, e)], prefetch := [(6, 0, true), (5, 1, false)] }).setQueue 0 [queued false]
def away : Pte := { Pte.reset with valid := true, backing := some 917503 }
def roomy (s : State) : State := s.setBoth (addr (pgPressP 0) 0x050) 1

/-- A hold of the page was released at instant 5. -/
def justReleased : State := (roomy (pageOf away)).modPart 0 (fun x => { x with relAt := 5, rels := [5] })

theorem witness_PagesFillFromTheirBacking :
    (resolve (roomy (pageOf away)) 0 (5 * 65536) = some (5, false) ∧ ((roomy (pageOf away)).pte 0 5).valid = true ∧
      ((roomy (pageOf away)).pte 0 5).res = 0 ∧ ((roomy (pageOf away)).pte 0 5).filling = false ∧
      ((roomy (pageOf away)).pte 0 5).poison = false ∧ (startFill (atTime 1 (roomy (pageOf away))) 0 5).isSome = true ∧
      startFill (atTime 1 (pageOf away)) 0 5 = none) ∧
    ((justReleased.part 0).relAt = (atTime 5 justReleased).clk.clock ∧ (justReleased.pte 0 5).res = 0 ∧
      (startFill ([5].foldl (fun s k => placeHold s 0 k) (atTime 5 justReleased)) 0 5).isSome = true) ∧
    (resolve (pageOf { away with filling := true }) 0 (5 * 65536) = some (5, false) ∧
      ((pageOf { away with filling := true }).pte 0 5).filling = true ∧ ((pageOf { away with filling := true }).pte 0 5).backing = some 917503 ∧
      917503 < 917504 ∧ feltFrame 0 0 + 65536 ≤ sheetBase ∧
      Memory.wf (pageOf { away with filling := true }).mem = true) ∧
    (((pageOf away).part 0).prefetch = [(6, 0, true)] ++ (5, 1, false) :: [] ∧ (∀ e ∈ [(6, 0, true)], e.2.2 = true) ∧
      itemLive (pageOf away) 1 = true) := by decide +kernel

theorem witness_AccessErrorsFailTheStep :
    (runPart (busy 0 false) (queueCode (.core 0)) = some 0 ∧ CanFail (busy 0 false) 0 ∧
      access (atTime 0 (busy 0 false)) 0 (5 * 65536) true = .error (.translation (5 * 65536) true)) ∧
    (CanFail ((pageOf { away with poison := true }).modPart 0 (fun x => { x with step := some stepping })) 0 ∧
      access (atTime 0 (pageOf { away with poison := true })) 0 (5 * 65536) false = .error (.poisoned (5 * 65536))) ∧
    runPart (busy 0 false) (qCore (unitOf (busy 0 false) 0)) = some 0 :=
  ⟨⟨rfl, canFail_busy 0 false, rfl⟩, ⟨⟨rfl, stepping, rfl, rfl, rfl⟩, rfl⟩, rfl⟩

theorem witness_FabricErrorsAreRetransmitted :
    (busy 0 false).phase = .up ∧ runPart (busy 0 false) (queueCode (.core 0)) = some 0 ∧ CanFail (busy 0 false) 0 :=
  ⟨rfl, rfl, canFail_busy 0 false⟩

def patrolling (n : Nat) : State := { State.reset with press := { State.reset.press with patrolBusy := true, patrolAt := n } }

/-- DRAM frame 917503 holds a page of partition 0, which runs a step and an item. -/
def lostFrame (e : Pte) : State := (pageOf e).modPart 0 (fun x => { x with step := some stepping }) |>.setRun 0 (some (runs false))
def retiredNow (s : State) : State := { atTime 0 s with press := { s.press with dramRetired := insNat 917503 s.press.dramRetired } }
def homed : Pte := { Pte.reset with valid := true, res := 3, frame := 917503, backing := none }

/-- The new frame, one of those left, is a DRAM frame. -/
theorem pick_lostFrame (s : State) (h : dramUsed s = [917503]) : ∃ n, pickDram s = some n ∧ n < 917504 := by
  refine ⟨32768 + Config.free s.fresh % 884735, ?_, by have := Nat.mod_lt (Config.free s.fresh) (show 884735 > 0 by decide); omega⟩
  have := Nat.mod_lt (Config.free s.fresh) (show 884735 > 0 by decide)
  simp only [pickDram, pickFree, h, State.freeVal]
  norm_num [skipUsed]
  omega

theorem witness_MemoryErrorsRetireFrames :
    State.reset.phase = .up ∧ 917503 < 917504 ∧
    (∀ e ∈ [{ away with res := 2, poison := true }, away, { away with written := true }],
      (lostFrame e).phase = .up ∧ (lostFrame e).press.dramRetired.elem 917503 = false ∧ pageOfDram (lostFrame e) 917503 = some (0, 5, true) ∧
        (lostFrame e).pte 0 5 = e ∧ dramUsed (retiredNow (lostFrame e)) = [917503] ∧ Memory.wf (lostFrame e).mem = true ∧
        feltFrame e.loc e.frame + 65536 ≤ sheetBase) ∧
    (∀ e ∈ [homed, { homed with written := true }, { homed with source := 2 }],
      (lostFrame e).press.dramRetired.elem 917503 = false ∧ pageOfDram (lostFrame e) 917503 = some (0, 5, false) ∧
        (lostFrame e).pte 0 5 = e ∧ e.backing = none ∧ dramUsed (retiredNow (lostFrame e)) = [917503]) ∧
    (away.source = 0 ∧ homed.source = 0 ∧ runPart (lostFrame { homed with source := 2 }) (queueCode (.core 0)) = some 0) ∧
    (nextAllocated (patrolling 0) (0 / 1024) = some 0 ∧ (patrolling 0).press.patrolBusy = true ∧
      nextAllocated (patrolling 0) ((max 0 (0 * 1024) + 1) / 1024) = some 0) ∧
    (nextAllocated (patrolling 33554431) (33554431 / 1024) = some 32767 ∧
      nextAllocated (patrolling 33554431) ((max 33554431 (32767 * 1024) + 1) / 1024) = none) := by decide +kernel

theorem canFail_lostFrame (e : Pte) : CanFail (lostFrame e) 0 := ⟨rfl, stepping, rfl, rfl, rfl⟩

/-! ### Safety -/

/-- The same step with pair 0 SAFE, and with core 0's proof pending. -/
def onSafe (s : State) : State := s.setPair 0 { PairSt.reset with owner := 0, safe := true }
def proving : StepRec := { stepping with proofs := [0] }

theorem serves_inStep (st : StepRec) : Serves (inStep st) 0 0 := ⟨rfl, by decide, rfl⟩

theorem witness_CheckersFailTheStep :
    ((onSafe (inStep stepping)).phase = .up ∧ (onSafe (inStep stepping)).pairFused 0 = false ∧ ((onSafe (inStep stepping)).pair 0).safe = true ∧
      coreFenced (onSafe (inStep stepping)) (2 * 0) = false ∧ Serves (onSafe (inStep stepping)) (2 * 0) 0 ∧
      CanFail (onSafe (inStep stepping)) 0) ∧
    (runPart ((busy 64 false).setBoth (addr (pgPart 0) 0x040) 2) (qSpec 0) = some 0 ∧
      ((busy 64 false).setBoth (addr (pgPart 0) 0x040) 2).isSafety 0 = true ∧ CanFail ((busy 64 false).setBoth (addr (pgPart 0) 0x040) 2) 0) ∧
    (runPart ((busy 128 false).setBoth (addr (pgPart 0) 0x040) 2) (qSieve 0) = some 0 ∧
      CanFail ((busy 128 false).setBoth (addr (pgPart 0) 0x040) 2) 0) ∧
    ((waitingItem 0).queue (queueCode (.core 0)) = [] ++ [queued false] ∧ (queued false).proof = false ∧ CanFail (waitingItem 0) (queued false).part) :=
  ⟨⟨rfl, rfl, rfl, rfl, ⟨rfl, by decide, rfl⟩, rfl, stepping, rfl, rfl, rfl⟩, ⟨rfl, rfl, rfl, stepping, rfl, rfl, rfl⟩,
    ⟨rfl, rfl, stepping, rfl, rfl, rfl⟩, rfl, rfl, rfl, stepping, rfl, rfl, rfl⟩

theorem witness_ClocksAreMonitored :
    ((20000 : Int).natAbs ≤ 20000 ∧ 20000 < (-20001 : Int).natAbs ∧ (inStep stepping).phase = .up ∧ (inStep stepping).pairFused 0 = false ∧
      CanFail (inStep stepping) 0) ∧
    ((onSafe (inStep stepping)).pair 0).safe = true ∧ coreFenced (onSafe (inStep stepping)) (2 * 0) = false ∧
      Serves (onSafe (inStep stepping)) (2 * 0) 0 ∧
    (((inStep stepping).pair 0).safe = false ∧ ∃ k ∈ pairUnits (inStep stepping) 0, coreFenced (inStep stepping) k = false ∧ Serves (inStep stepping) k 0) :=
  ⟨⟨by decide, by decide, rfl, rfl, canFail_inStep⟩, rfl, rfl, ⟨rfl, by decide, rfl⟩, rfl, 0, by decide +kernel, rfl, serves_inStep stepping⟩

/-- SP restarts, with the expected signature of variant 0 as it was last loaded. -/
def proofRestart (result : Bytes) : State :=
  { (inStep proving).setProc 1 { ProcSt.reset with st := .restarting } with safety := { SafetySt.reset with proofSigs := [(0, crc32c result)] } }
/-- The reference of variant 0 for a result. -/
def refOf (result : Bytes) : ProofRef := ⟨0, BitVec.ofNat 32 (crc32c result), BitVec.ofNat 32 (crc32c (toLE 4 (crc32c result)))⟩
/-- The same step in the safe state, its tile running. -/
def safeProof : State := ((inStep proving).modPart 0 (fun x => { x with safe := some (0x6102, 0) })).setRun 0 (some (runs true))

theorem refOf_good (result : Bytes) : (refOf result).variant.val = proving.n % 16 ∧
    crc32c (toLE 4 (refOf result).sig.toNat) = (refOf result).crc.toNat ∧ (refOf result).sig.toNat = crc32c result := by
  have h : (BitVec.ofNat 32 (crc32c result)).toNat = crc32c result := by
    rw [BitVec.toNat_ofNat]; exact Nat.mod_eq_of_lt (crc32c_lt _)
  refine ⟨rfl, ?_, h⟩
  show crc32c (toLE 4 (BitVec.ofNat 32 (crc32c result)).toNat) = (BitVec.ofNat 32 _).toNat
  rw [h, BitVec.toNat_ofNat, Nat.mod_eq_of_lt (crc32c_lt _)]

theorem witness_ProofsPassOrFail :
    (Serves (inStep proving) (unitOf (inStep proving) 0) 0 ∧ ((inStep proving).part 0).step = some proving ∧
      unitOf (inStep proving) 0 ∈ proving.proofs ∧ proofPending (inStep proving) (qCore (unitOf (inStep proving) 0)) = false ∧
      ((inStep proving).proc 1).st = .run ∧ CanFail (inStep proving) 0 ∧ (List.replicate 4096 (0 : Byte)).length = 4096 ∧
      Memory.wf (inStep proving).mem = true ∧ (⟨1, 0, 0⟩ : ProofRef).variant.val ≠ proving.n % 16) ∧
    (Serves (proofRestart []) (unitOf (proofRestart []) 0) 0 ∧ ((proofRestart []).part 0).step = some proving ∧
      proofPending (proofRestart []) (qCore (unitOf (proofRestart []) 0)) = false ∧ ((proofRestart []).proc 1).st ≠ .run ∧
      (proofRestart []).safety.proofSigs.lookup (proving.n % 16) = some (crc32c [])) ∧
    (Serves (safeProof.modPart 0 (fun x => { x with safe := none })) (unitOf safeProof 0) 0 ∧ CanFail (safeProof.modPart 0 (fun x => { x with safe := none })) 0 ∧
      safeProof.run (qCore (unitOf safeProof 0)) = some (runs true) ∧ (safeProof.part 0).step = some proving ∧ unitOf safeProof 0 ∈ proving.proofs ∧
      (runs true).item.proof = true ∧ (runs true).item.emitted + 60000 ≤ (atTime 60000 safeProof).clk.clock) ∧
    (Serves safeProof (unitOf safeProof 0) 0 ∧ (safeProof.part 0).safe.isSome = true ∧ recent (atTime 60000 safeProof) (safeProof.core (unitOf safeProof 0)).strikes = []) :=
  ⟨⟨serves_inStep proving, rfl, by decide +kernel, rfl, rfl, ⟨rfl, proving, rfl, rfl, rfl⟩, List.length_replicate, rfl, by decide⟩,
    ⟨⟨by decide +kernel, by decide, by decide +kernel⟩, rfl, by decide +kernel, by decide +kernel, by decide +kernel⟩,
    ⟨⟨rfl, by decide, rfl⟩, ⟨rfl, proving, rfl, rfl, rfl⟩, rfl, rfl, by decide +kernel, rfl, by decide +kernel⟩, ⟨rfl, by decide, rfl⟩, rfl, rfl⟩

/-- A step that failed at instant 0, with a replay allowed or not, against a unit or none. -/
def failed (replayable : Bool) (u : Option UnitId) : StepRec := { stepping with fail := some ⟨0, 0x6101, replayable, u⟩ }

theorem witness_FailuresAreDecided :
    (∀ u ∈ [none, some (.core 0)], ((inStep (failed false u)).proc 1).st = .run ∧ ((inStep (failed false u)).part 0).step = some (failed false u) ∧
      (failed false u).fail = some ⟨0, 0x6101, false, u⟩ ∧ (failed false u).declared = false) ∧
    (((inStep (failed true (some (.core 0)))).part 0).step = some (failed true (some (.core 0))) ∧
      sysBound (claimStrike (atTime 0 (inStep (failed true (some (.core 0))))) 0) 0 = false ∧ (failed true (some (.core 0))).replay = false ∧
      ((claimStrike (atTime 0 (inStep (failed true (some (.core 0))))) 0).part 0).st ≠ .suspended ∧
      0 + replayMin (claimStrike (atTime 0 (inStep (failed true (some (.core 0))))) 0) 0 ≤
        deadlineOf (claimStrike (atTime 0 (inStep (failed true (some (.core 0))))) 0) 0 (failed true (some (.core 0)))) ∧
    0 + 1500000 ≤ (atTime 1500000 (inStep (failed true none))).clk.dev := by decide +kernel

def held : State := { State.reset with safety := { SafetySt.reset with hold := some 0, tapBad := true } }

theorem witness_TheSentinelTellsTheState :
    (held.safety.hold = some 0 ∧ 0 + 50000000 ≤ (atTime 50000000 held).clk.dev ∧ held.safety.degraded = false ∧
      0 + 200000000 ≤ (atTime 200000000 held).clk.dev ∧ held.safety.dev = 0) ∧
    (held.phase ≠ .off ∧ held.phase ≠ .sleep ∧ held.safety.sentinelOn = true ∧
      (0xFFFF#16).toNat ≠ sentinelWordOf (statusInForce (atTime 0 held)).1 held.safety.counter ∧ held.safety.tapBad = true) := by decide +kernel

/-! ### Self-test -/

def rotating (l : List Checker) : State := { State.reset with selftest := { SelfTestSt.reset with rotating := true, rotStart := some 0, remaining := l } }

/-- The parity of core 0 is to be tested while it runs an item. -/
def parity : State := { busy 0 false with selftest := { SelfTestSt.reset with rotating := true, rotStart := some 0, remaining := [.coreParity 0] } }

/-- One checker of every kind. -/
def everyScope : List Checker :=
  [.comparator 0, .entryDup 0, .coreParity 0, .crcCore 0, .pairClock 0, .engineChecked 0, .fabricClock, .deadlineMonitor, .crcEngine 0, .crcSieve,
    .feltParity 0 0, .hopParity 0, .frameTag 0, .tallyDup 0, .dramSecded, .crcUnit 0, .sieveChecked]

theorem witness_TheCheckersAreTested :
    (State.reset.phase = .up ∧ (State.reset.proc 1).st = .run ∧ State.reset.selftest.rotating = false ∧ State.reset.selftest.rotStart = none) ∧
    (((rotating [.crcSieve, .comparator 0]).proc 1).st = .run ∧ (rotating [.crcSieve, .comparator 0]).selftest.rotating = true ∧
      (rotating [.crcSieve, .comparator 0]).selftest.remaining.elem .crcSieve = true ∧
      ((rotating [.crcSieve, .frameTag 43]).selftest.remaining.erase .crcSieve).filter (stillTested (rotating [.crcSieve, .frameTag 43])) ≠ [] ∧
      injectionWaits (rotating [.crcSieve]) .crcSieve = false) ∧
    ((parity.proc 1).st = .run ∧ parity.selftest.rotating = true ∧ parity.selftest.remaining.elem (.coreParity 0) = true ∧
      injectionWaits parity (.coreParity 0) = true) ∧
    ((rotating [.crcSieve]).selftest.remaining.elem .crcSieve = true ∧ (rotating [.crcSieve]).selftest.remaining.erase .crcSieve = [] ∧
      (∀ x, State.reset.selftest.rotStart = some x → x + 100000000 ≤ (atTime 0 State.reset).clk.dev)) ∧
    ((∀ c ∈ everyScope, (rotating everyScope).selftest.remaining.elem c = true ∧ injectionWaits (rotating everyScope) c = false) ∧
      (rotating everyScope).coreFused 0 = false ∧ coreFenced (rotating everyScope) 0 = false ∧ (rotating everyScope).pairFused 0 = false ∧
      (∃ k ∈ pairUnits (rotating everyScope) 0, coreFenced (rotating everyScope) k = false) ∧ ((rotating everyScope).engine 0).fenced = false) ∧
    ((onSafe (rotating [.comparator 0])).selftest.remaining.elem (.comparator 0) = true ∧ (onSafe (rotating [.comparator 0])).pairFused 0 = false ∧
      ((onSafe (rotating [.comparator 0])).pair 0).safe = true ∧ coreFenced (onSafe (rotating [.comparator 0])) (2 * 0) = false) ∧
    ((rotating []).selftest.late = false ∧ (rotating []).selftest.rotStart = some 0 ∧ 0 + 200000000 ≤ (atTime 200000000 (rotating [])).clk.dev) := by
  decide +kernel

/-- An active set whose first chunk for even cores takes 800 µs. -/
def versioned : State := { State.reset with
  selftest := { SelfTestSt.reset with activeVersion := 1 }, mem := [(bankBase 0 + 264, 0x20), (bankBase 0 + 265, 0x03)] }
def testing : State := State.reset.setCore 39 { CoreSt.reset with testing := true, progress := 0 }
def suspected : State := State.reset.setCore 39 { CoreSt.reset with testing := true, suspect := true }
def covering : State := { State.reset with boot := { BootSt.reset with coverage := [39] }, selftest := { SelfTestSt.reset with staged := 1 } }

theorem witness_ChunksCoverTheCores :
    ((versioned.hdrOf pgSt).cstate ≠ .pending ∧ chunkGrantable (atTime 0 versioned) (unitOf versioned 0) = true) ∧
    ((testing.core 39).testing = true ∧ (testing.proc 1).st = .run ∧ testing.selftest.coreBank.lookup 39 = none ∧
      recent (atTime 0 testing) (testing.core (unitOf testing 39)).strikes = [] ∧ (testing.core 39).suspect = false) ∧
    ((suspected.core 39).testing = true ∧ (suspected.core 39).suspect = true ∧
      (atTime 0 suspected).clk.dev < (suspected.core 39).suspectAt + 60000000000 ∧ suspected.coreFused 39 = false ∧ coreFenced suspected 39 = false) ∧
    (State.reset.coreFused 39 = false ∧ (State.reset.core 39).overdue = false ∧ 900000000000 < covAgeNs (atTime 900000000001 State.reset) 39) ∧
    covering.boot.coverage.elem 39 = true ∧ (covering.selftest.staged = 1 ∧ (covering.proc 1).st = .run) := by decide +kernel

/-! ### Sirris, time, ports -/

/-- Link 0 enabled, UP with one frame kept and credits owed, or DOWN. -/
def linkOn (x : SirLink) : State :=
  ((((State.reset.setBoth (addr 0x1F0 0x040) 1).setBoth (addr (pgPort 10) 0x040) (2 ^ 31)).setOptical 10 { PortSt.reset with link := 2 }).setSir 0 x)
def linkUp : SirLink := { SirLink.reset with up := true, kept := [⟨0, [1]⟩, ⟨1, [2]⟩], owedReq := 1, nextSeq := 2 }
/-- A frame of a TYPE with SEQ and ACKSEQ. -/
def sirOf (typ seq ack : Nat) (msg : Bytes) : Bytes := sirFrame typ 0 seq ack 0 0 msg

theorem witness_SirrisLinksKeepOrder :
    ((linkOn SirLink.reset).phase = .up ∧ sirTrained (linkOn SirLink.reset) 0 = true ∧ ((linkOn SirLink.reset).sir 0).up = false) ∧
    (be (sirOf 4 0 0 (List.replicate 8 0)) 1 1 = 4 ∧ sirCrcOk (sirOf 4 0 0 (List.replicate 8 0)) = true ∧
      sirParse (sirOf 4 0 0 (List.replicate 8 0)) = some ⟨4, 0, 0, 0, 0, 0, List.replicate 8 0⟩) ∧
    (sirTrained (linkOn linkUp) 0 = true ∧ ((linkOn linkUp).sir 0).up = true ∧ ((linkOn linkUp).optical (10 + 0)).link = 2 ∧ ((linkOn linkUp).sir 0).lastGood + 1000000 ≤ (atTime 1000000 (linkOn linkUp)).clk.clock) ∧
    (be (sirOf 1 0 0 []) 1 1 = 1 ∧ sirCrcOk (sirOf 1 0 0 []) = true ∧ sirParse (sirOf 1 0 0 []) = some ⟨1, 0, 0, 0, 0, 0, []⟩ ∧
      0 = ((linkOn linkUp).sir 0).expected ∧ sirParse (sirOf 1 65535 0 []) = some ⟨1, 0, 65535, 0, 0, 0, []⟩ ∧ ((linkOn linkUp).sir 0).lastNack = none) ∧
    (sirCrcOk (sirOf 2 0 2 []) = true ∧ sirParse (sirOf 2 0 2 []) = some ⟨2, 0, 0, 2, 0, 0, []⟩ ∧ ((linkOn linkUp).sir 0).kept = ⟨0, [1]⟩ :: [⟨1, [2]⟩] ∧
      (2 + 65536 - 0) % 65536 ≤ ((linkOn linkUp).sir 0).kept.length ∧ ((linkOn linkUp).sir 0).waiting = [] ∧ be (sirOf 2 0 2 []) 1 1 = 2) ∧
    (be (sirOf 3 1 1 []) 1 1 = 3 ∧ sirCrcOk (sirOf 3 1 1 []) = true ∧ sirParse (sirOf 3 1 1 []) = some ⟨3, 0, 1, 1, 0, 0, []⟩ ∧
      ((linkOn linkUp).sir 0).kept.drop ((1 + 65536 - 0) % 65536) = ⟨1, [2]⟩ :: [] ∧ (1 + 65536 - 1) % 65536 < 1) ∧
    (((linkOn linkUp).sir 0).kept ≠ [] ∧ ((linkOn linkUp).sir 0).lastProgress + 20000 ≤ (atTime 20000 (linkOn linkUp)).clk.clock ∧
      ((linkOn linkUp).sir 0).rounds < 32 ∧ 32 ≤ ((linkOn { linkUp with rounds := 32 }).sir 0).rounds) ∧
    (((linkOn linkUp).sir 0).lastTx + 1000 ≤ (atTime 1000 (linkOn linkUp)).clk.clock) := by decide +kernel

/-- gPTP over port S0, domain 0. -/
def timed (st : Nat) : State := { State.reset.setBoth (addr 0x020 0x040) 0 with clk := { State.reset.clk with time := { TimeSt.reset with st := st } } }

theorem witness_TimeAndPortsFollow :
    ((timed 1).phase = .up ∧ ({ State.reset with phase := .recovery } : State).phase = .recovery ∧ hears { State.reset with phase := .recovery } 8 0 = true ∧ portOn (timed 1) 0 = true ∧ hears (timed 1) 0 0 = true ∧ (1000000 : Int).natAbs ≤ 1000000 ∧ 1000000 < (-1000001 : Int).natAbs ∧
      anyRunning (timed 1) = false ∧ anyRunning (inState .running) = true) ∧
    ((atTime 0 (timed 1)).clk.time.st = 1 ∧ (atTime 0 (timed 2)).clk.time.st = 2) ∧
    ((timed 3).clk.time.st = 3 ∧
      (atTime (holdoverMs (timed 3) * 1000000) (timed 3)).clk.time.lastSync + holdoverMs (timed 3) * 1000000 ≤
        (atTime (holdoverMs (timed 3) * 1000000) (timed 3)).clk.clock) ∧
    (bit (State.reset.inForce (addr (pgPort 9) 0x040)) 31 = true ∧ (State.reset.optical 9).link ≠ 2 ∧
      ((State.reset.setOptical 13 { PortSt.reset with link := 2 }).optical 13).link = 2 ∧
      ((linkOn linkUp).optical 10).link = 2 ∧ ((linkOn linkUp).sir (10 - 10)).up = true) := by decide +kernel

end Sys2Proof.Tests
end

section
/-! What every step keeps: each command answers a next state and changes, once its instant has come, the parts `touched` names and no
others; so no step takes back an output, a clock, a number of the log or a fuse. -/

namespace Sys2Proof.Machine

/-- COMMIT_SAFE_POINT, of a page that is on, commits it and makes the fences that are due then. -/
theorem execCommitSafePoint_frame (t page : Nat) (s : State) :
    ∃ u, execCommitSafePoint t page s = .next u ∧ Frame (touched (.commitSafePoint t page)) (atTime t s) u := by
  refine ⟨_, rfl, ?_⟩
  split
  · exact frame_ite (fencesAfter_frame (commitSafePoint_frame (.refl _ _) (by simp [touched])) (by simp [touched])) (.refl _ _)
  · exact .refl _ _

/-- COUNTER_CLEAR writes the register that clears a page's counters, where the page has one. -/
theorem execCounterClear_frame (t : Nat) (w : Sender) (page : Nat) (s : State) :
    ∃ u, execCounterClear t w page s = .next u ∧ Frame (touched (.counterClear t w page)) (atTime t s) u := by
  refine ⟨_, rfl, ?_⟩
  split
  · split
    · exact hostWrite_frame (.refl _ _) (.refl _)
    · exact .refl _ _
  · exact .refl _ _

/-- Every command answers a next state, reached from the one at its instant within the command's frame. -/
theorem exec_frame (i : Instr) (s : State) : ∃ u, exec i s = .next u ∧ Frame (touched i) (atTime (timeOf i) s) u := by
  cases i with
  | supplyInRange _ => exact ⟨_, rfl, supplyInOp_frame (.refl _ _) (.refl _)⟩
  | supplyOff _ => exact ⟨_, rfl, supplyOffOp_frame (.refl _ _) (.refl _)⟩
  | supplyEmergency _ => exact ⟨_, rfl, supplyEmergOp_frame (.refl _ _) (.refl _)⟩
  | supplyEmergencyClear _ => exact ⟨_, rfl, supplyClearOp_frame (.refl _ _) (.refl _)⟩
  | currentEmergency _ _ => exact ⟨_, rfl, currentOp_frame (.refl _ _) (.refl _)⟩
  | currentEmergencyClear _ _ => exact ⟨_, rfl, currentClearOp_frame (.refl _ _) (.refl _)⟩
  | thermalThrottleStart _ _ _ => exact ⟨_, rfl, throttleStartOp_frame (.refl _ _) (.refl _)⟩
  | thermalThrottleStep _ _ => exact ⟨_, rfl, throttleStepOp_frame (.refl _ _) (.refl _)⟩
  | thermalThrottleClear _ _ _ => exact ⟨_, rfl, throttleClearOp_frame (.refl _ _) (.refl _)⟩
  | thermalShutdown _ _ _ => exact ⟨_, rfl, shutdownOp_frame (.refl _ _) (.refl _)⟩
  | powerLoop _ _ => exact ⟨_, rfl, powerLoopOp_frame (.refl _ _) (.refl _)⟩
  | thermalLoop _ _ _ => exact ⟨_, rfl, thermalLoopOp_frame (.refl _ _) (.refl _)⟩
  | heavyPhaseHintWindow _ _ _ => exact ⟨_, rfl, hintOp_frame (.refl _ _) (.refl _)⟩
  | fillerUpdate _ _ => exact ⟨_, rfl, fillerOp_frame (.refl _ _) (.refl _)⟩
  | stepTick _ _ => exact ⟨_, rfl, stepTickOp_frame (.refl _ _) (.refl _)⟩
  | holdAssembly _ _ _ => exact ⟨_, rfl, holdAssemblyOp_frame (.refl _ _) (.refl _)⟩
  | holdLimitExpiry _ _ => exact ⟨_, rfl, holdLimitOp_frame (.refl _ _) (.refl _)⟩
  | workItemStart _ _ => exact ⟨_, rfl, startOp_frame (.refl _ _) (.refl _)⟩
  | workItemComplete _ _ => exact ⟨_, rfl, completeOp_frame (.refl _ _) (.refl _)⟩
  | publicationDeadline _ _ => exact ⟨_, rfl, deadlineOp_frame (.refl _ _) (.refl _)⟩
  | shedTimeout _ _ => exact ⟨_, rfl, shedOp_frame (.refl _ _) (.refl _)⟩
  | vatPacketRx _ _ _ => exact ⟨_, rfl, whenUp_frame (.refl _ _) (vatRxOp_frame (.refl _ _) (.refl _))⟩
  | decoderTake _ _ => exact ⟨_, rfl, decoderTakeOp_frame (.refl _ _) (.refl _)⟩
  | decodeComplete _ _ _ => exact ⟨_, rfl, decodeCompleteOp_frame (.refl _ _) (.refl _)⟩
  | decodeBudgetExpiry _ _ _ => exact ⟨_, rfl, budgetExpiryOp_frame (.refl _ _) (.refl _)⟩
  | shapingStageComplete _ _ _ => exact ⟨_, rfl, shapingOp_frame (.refl _ _) (.refl _)⟩
  | handoverWriteComplete _ _ _ _ => exact ⟨_, rfl, handoverOp_frame (.refl _ _) (.refl _)⟩
  | endHold _ _ _ => exact ⟨_, rfl, hostWrite_frame (.refl _ _) (.refl _)⟩
  | gptpMessage _ _ => exact ⟨_, rfl, gptpOp_frame (.refl _ _) (.refl _)⟩
  | syncLossTimeout _ => exact ⟨_, rfl, syncLossOp_frame (.refl _ _) (.refl _)⟩
  | holdoverExpiry _ => exact ⟨_, rfl, holdoverExpiryOp_frame (.refl _ _) (.refl _)⟩
  | displayPictureSent _ _ => exact ⟨_, rfl, displaySent_frame (.refl _ _) (.refl _)⟩
  | pageFault _ _ _ => exact ⟨_, rfl, pageFaultOp_frame (.refl _ _) (.refl _)⟩
  | pageFillComplete _ _ _ => exact ⟨_, rfl, pageFillOp_frame (.refl _ _) (.refl _)⟩
  | prefetchServe _ _ => exact ⟨_, rfl, prefetchOp_frame (.refl _ _) (.refl _)⟩
  | translationError _ _ _ _ => exact ⟨_, rfl, translationOp_frame (.refl _ _) (.refl _)⟩
  | sramParityError _ _ _ _ => exact ⟨_, rfl, whenUp_frame (.refl _ _) (sramParityOp_frame (.refl _ _) (.refl _))⟩
  | fabricParityError _ _ _ => exact ⟨_, rfl, whenUp_frame (.refl _ _) (fabricParityOp_frame (.refl _ _) (.refl _))⟩
  | dramEccError _ _ _ _ => exact ⟨_, rfl, whenUp_frame (.refl _ _) (dramError_frame (.refl _ _) (.refl _))⟩
  | poisonedAccess _ _ _ => exact ⟨_, rfl, poisonedOp_frame (.refl _ _) (.refl _)⟩
  | patrolScrub _ _ => exact ⟨_, rfl, whenUp_frame (.refl _ _) (patrolOp_frame (.refl _ _) (.refl _))⟩
  | hawkParityError _ _ => exact ⟨_, rfl, hawkParityOp_frame (.refl _ _) (.refl _)⟩
  | comparatorMismatch _ _ _ => exact ⟨_, rfl, whenUp_frame (.refl _ _) (mismatchOp_frame (.refl _ _) (.refl _))⟩
  | proofVerdict _ _ _ _ => exact ⟨_, rfl, verdictOp_frame (.refl _ _) (.refl _)⟩
  | proofTimeout _ _ => exact ⟨_, rfl, proofTimeoutOp_frame (.refl _ _) (.refl _)⟩
  | spectralMismatch _ _ => exact ⟨_, rfl, spectralMismatchOp_frame (.refl _ _) (.refl _)⟩
  | sieveCheckedMismatch _ _ => exact ⟨_, rfl, sieveMismatchOp_frame (.refl _ _) (.refl _)⟩
  | frameTagMismatch _ _ => exact ⟨_, rfl, tagMismatchOp_frame (.refl _ _) (.refl _)⟩
  | tallyDuplicateMismatch _ _ => exact ⟨_, rfl, whenUp_frame (.refl _ _) (tallyDupOp_frame (.refl _ _) (.refl _))⟩
  | workItemCrcMismatch _ _ => exact ⟨_, rfl, itemCrcOp_frame (.refl _ _) (.refl _)⟩
  | clockMonitorCheck _ _ _ => exact ⟨_, rfl, whenUp_frame (.refl _ _) (clockCheckOp_frame (.refl _ _) (.refl _))⟩
  | spDecision _ _ => exact ⟨_, rfl, decisionOp_frame (.refl _ _) (.refl _)⟩
  | backstopDeclaration _ _ => exact ⟨_, rfl, backstopOp_frame (.refl _ _) (.refl _)⟩
  | strikeExpiry _ _ => exact ⟨_, rfl, strikeExpiryOp_frame (.refl _ _) (.refl _)⟩
  | spLockstepMismatch _ => exact ⟨_, rfl, lockstepOp_frame (.refl _ _) (.refl _)⟩
  | spHoldDegraded _ => exact ⟨_, rfl, holdDegradedOp_frame (.refl _ _) (.refl _)⟩
  | spHoldLimit _ => exact ⟨_, rfl, holdLimitSpOp_frame (.refl _ _) (.refl _)⟩
  | sentinelWord _ _ => exact ⟨_, rfl, sentinelOp_frame (.refl _ _) (.refl _)⟩
  | safeClear _ _ _ => exact ⟨_, rfl, hostWrite_frame (.refl _ _) (.refl _)⟩
  | checkerRotationStart _ => exact ⟨_, rfl, rotationStartOp_frame (.refl _ _) (.refl _)⟩
  | checkerTestResult _ _ _ => exact ⟨_, rfl, testResultOp_frame (.refl _ _) (.refl _)⟩
  | rotationLate _ => exact ⟨_, rfl, rotationLateOp_frame (.refl _ _) (.refl _)⟩
  | chunkGrant _ _ => exact ⟨_, rfl, chunkGrantOp_frame (.refl _ _) (.refl _)⟩
  | chunkComplete _ _ _ => exact ⟨_, rfl, chunkCompleteOp_frame (.refl _ _) (.refl _)⟩
  | coverageOverdue _ _ => exact ⟨_, rfl, overdueOp_frame (.refl _ _) (.refl _)⟩
  | coverageRunComplete _ _ _ => exact ⟨_, rfl, coverageRunOp_frame (.refl _ _) (.refl _)⟩
  | stVerify _ _ => exact ⟨_, rfl, hostWrite_frame (.refl _ _) (.refl _)⟩
  | patternSetVerified _ => exact ⟨_, rfl, patternVerifiedOp_frame (.refl _ _) (.refl _)⟩
  | stActivate _ _ => exact ⟨_, rfl, hostWrite_frame (.refl _ _) (.refl _)⟩
  | discard _ _ => exact ⟨_, rfl, hostWrite_frame (.refl _ _) (.refl _)⟩
  | stFence _ _ => exact ⟨_, rfl, hostWrite_frame (.refl _ _) (.refl _)⟩
  | regReq _ _ _ => exact ⟨_, rfl, besideH0_frame (fun _ h => regReqOp_frame h (.refl _)) (.refl _ _) (by simp [touched, allParts])⟩
  | bulkRead _ _ _ => exact ⟨_, rfl, onFrame_frame (fun _ _ h => bulkReadOp_frame h (.refl _)) (.refl _ _) (by simp [touched])⟩
  | bulkWrite _ _ _ => exact ⟨_, rfl, onFrame_frame (fun _ _ h => bulkWriteOp_frame h (.refl _)) (.refl _ _) (by simp [touched])⟩
  | flashProgramComplete _ => exact ⟨_, rfl, flashDoneOp_frame (.refl _ _) (.refl _)⟩
  | claim _ _ => exact ⟨_, rfl, besideH0_frame (fun _ h => claimWrite_frame h (.refl _)) (.refl _ _) (by simp [touched, allParts])⟩
  | takeover _ _ => exact ⟨_, rfl, hostWrite_frame (.refl _ _) (.refl _)⟩
  | release _ _ => exact ⟨_, rfl, hostWrite_frame (.refl _ _) (.refl _)⟩
  | claimReset _ _ _ => exact ⟨_, rfl, besideH0_frame (fun _ h => claimWrite_frame h (.refl _)) (.refl _ _) (by simp [touched, allParts])⟩
  | heartbeat _ _ _ => exact ⟨_, rfl, hostWrite_frame (.refl _ _) (.refl _)⟩
  | heartbeatTimeout _ => exact ⟨_, rfl, orphanOp_frame (.refl _ _) (.refl _)⟩
  | pageCommit _ _ _ _ => exact ⟨_, rfl, hostWrite_frame (.refl _ _) (.refl _)⟩
  | commitSafePoint t page => exact execCommitSafePoint_frame t page s
  | revert _ _ _ => exact ⟨_, rfl, hostWrite_frame (.refl _ _) (.refl _)⟩
  | pageErrClear _ _ _ => exact ⟨_, rfl, hostWrite_frame (.refl _ _) (.refl _)⟩
  | counterClear t w page => exact execCounterClear_frame t w page s
  | ptIndexLatch _ _ _ _ => exact ⟨_, rfl, hostWrite_frame (.refl _ _) (.refl _)⟩
  | instarIndexLatch _ _ _ => exact ⟨_, rfl, hostWrite_frame (.refl _ _) (.refl _)⟩
  | stIndexLatch _ _ _ => exact ⟨_, rfl, hostWrite_frame (.refl _ _) (.refl _)⟩
  | pwrPairIndexLatch _ _ _ => exact ⟨_, rfl, hostWrite_frame (.refl _ _) (.refl _)⟩
  | stallyIndexLatch _ _ _ => exact ⟨_, rfl, hostWrite_frame (.refl _ _) (.refl _)⟩
  | tallyWAdd _ _ _ _ => exact ⟨_, rfl, hostWrite_frame (.refl _ _) (.refl _)⟩
  | sieveHostRdWrite _ _ _ _ => exact ⟨_, rfl, hostWrite_frame (.refl _ _) (.refl _)⟩
  | load _ _ _ => exact ⟨_, rfl, hostWrite_frame (.refl _ _) (.refl _)⟩
  | unload _ _ _ => exact ⟨_, rfl, hostWrite_frame (.refl _ _) (.refl _)⟩
  | launch _ _ _ => exact ⟨_, rfl, hostWrite_frame (.refl _ _) (.refl _)⟩
  | stop _ _ _ => exact ⟨_, rfl, hostWrite_frame (.refl _ _) (.refl _)⟩
  | seqOpen _ _ _ => exact ⟨_, rfl, hostWrite_frame (.refl _ _) (.refl _)⟩
  | seqRetire _ _ _ => exact ⟨_, rfl, hostWrite_frame (.refl _ _) (.refl _)⟩
  | verify _ _ => exact ⟨_, rfl, hostWrite_frame (.refl _ _) (.refl _)⟩
  | slotVerified _ => exact ⟨_, rfl, slotVerifiedOp_frame (.refl _ _) (.refl _)⟩
  | activate _ _ => exact ⟨_, rfl, hostWrite_frame (.refl _ _) (.refl _)⟩
  | activationDeferredStart _ => exact ⟨_, rfl, activationOp_frame (.refl _ _) (.refl _)⟩
  | cancel _ _ => exact ⟨_, rfl, hostWrite_frame (.refl _ _) (.refl _)⟩
  | start _ _ => exact ⟨_, rfl, hostWrite_frame (.refl _ _) (.refl _)⟩
  | sleep _ _ => exact ⟨_, rfl, hostWrite_frame (.refl _ _) (.refl _)⟩
  | secBurn _ _ => exact ⟨_, rfl, hostWrite_frame (.refl _ _) (.refl _)⟩
  | hostReady _ _ => exact ⟨_, rfl, hostReadyOp_frame (.refl _ _) (.refl _)⟩
  | startFailed _ _ => exact ⟨_, rfl, startFailedOp_frame (.refl _ _) (.refl _)⟩
  | romWatchdog _ => exact ⟨_, rfl, romWatchdogOp_frame (.refl _ _) (.refl _)⟩
  | startGood _ => exact ⟨_, rfl, startGoodOp_frame (.refl _ _) (.refl _)⟩
  | wakLightWake _ => exact ⟨_, rfl, lightWakeOp_frame (.refl _ _) (.refl _)⟩
  | sleepTimerExpiry _ => exact ⟨_, rfl, timerWakeOp_frame (.refl _ _) (.refl _)⟩
  | wakePattern _ => exact ⟨_, rfl, wakePatternOp_frame (.refl _ _) (.refl _)⟩
  | restart _ _ _ _ => exact ⟨_, rfl, hostWrite_frame (.refl _ _) (.refl _)⟩
  | procWatchdogExpiry _ _ => exact ⟨_, rfl, procTrapOp_frame (.refl _ _) (.refl _)⟩
  | fatalTrap _ _ => exact ⟨_, rfl, procTrapOp_frame (.refl _ _) (.refl _)⟩
  | procRestartComplete _ _ => exact ⟨_, rfl, procBackOp_frame (.refl _ _) (.refl _)⟩
  | restartEscalation _ _ _ => exact ⟨_, rfl, escalateOp_frame (.refl _ _) (.refl _)⟩
  | dumpCopy _ _ => exact ⟨_, rfl, dumpCopyOp_frame (.refl _ _) (.refl _)⟩
  | logCopy _ => exact ⟨_, rfl, logCopyOp_frame (.refl _ _) (.refl _)⟩
  | helloSend _ _ => exact ⟨_, rfl, helloSendOp_frame (.refl _ _) (.refl _)⟩
  | hello _ _ _ => exact ⟨_, rfl, sirReceive_frame (.refl _ _) (.refl _)⟩
  | linkTimeout _ _ => exact ⟨_, rfl, linkTimeoutOp_frame (.refl _ _) (.refl _)⟩
  | data _ _ _ => exact ⟨_, rfl, sirReceive_frame (.refl _ _) (.refl _)⟩
  | ack _ _ _ => exact ⟨_, rfl, sirReceive_frame (.refl _ _) (.refl _)⟩
  | nack _ _ _ => exact ⟨_, rfl, sirReceive_frame (.refl _ _) (.refl _)⟩
  | retryTimeout _ _ => exact ⟨_, rfl, retryTimeoutOp_frame (.refl _ _) (.refl _)⟩
  | ackIdleTimeout _ _ => exact ⟨_, rfl, ackIdleOp_frame (.refl _ _) (.refl _)⟩
  | portLinkTrained _ _ => exact ⟨_, rfl, linkTrainedOp_frame (.refl _ _) (.refl _)⟩
  | portLinkLost _ _ => exact ⟨_, rfl, linkLostOp_frame (.refl _ _) (.refl _)⟩
  | hostFrameDrop _ _ _ => exact ⟨_, rfl, dropOp_frame (.refl _ _) (.refl _)⟩
  | spectralParityError _ _ => exact ⟨_, rfl, spectralParityOp_frame (.refl _ _) (.refl _)⟩
  | displayEncoderFault _ _ => exact ⟨_, rfl, displayFault_frame (.refl _ _) (.refl _)⟩
  | aonSensorRead _ _ => exact ⟨_, rfl, aonSensorOp_frame (.refl _ _) (.refl _)⟩
  | wakLitChange _ _ => exact ⟨_, rfl, litChangeOp_frame (.refl _ _) (.refl _)⟩

/-- The same for a step: it takes the front command, whose frame it stays in, or idles. -/
theorem step_cases {s u : State} (h : step s = .next u) :
    (s.pending = [] ∧ u = s) ∨
      ∃ c rest, s.pending = c :: rest ∧ Frame (touched c) (atTime (timeOf c) { s with pending := rest }) u := by
  cases hp : s.pending with
  | nil =>
    rw [step, hp] at h
    exact .inl ⟨rfl, (Host.Outcome.next.inj h).symm⟩
  | cons c rest =>
    rw [step, hp] at h
    obtain ⟨v, hv, hf⟩ := exec_frame c { s with pending := rest }
    obtain rfl := Host.Outcome.next.inj (hv.symm.trans h)
    exact .inr ⟨c, rest, rfl, hf⟩

/-- Settles O6: a step idles, or it is a command's frame over the state at the command's instant, where the clock alone has moved, forward. -/
theorem nothingIsTakenBack : Obligations.NothingIsTakenBack := by
  intro s u h
  obtain ⟨hp, rfl⟩ | ⟨c, rest, hp, hf⟩ := step_cases h
  · exact ⟨List.prefix_refl _, le_refl _, le_refl _, le_refl _, rfl, by rw [hp]; rfl⟩
  · have hclk : s.clk.clock ≤ u.clk.clock := by
      rw [hf.clock, atTime_clock]
      exact le_max_left _ _
    exact ⟨hf.out, hclk, hf.seq, hf.minSec, hf.fuses, by rw [hf.pending, hp]; rfl⟩

end Sys2Proof.Machine
end

section
/-! The loops of power and heat: what each operation leaves of the power's state, and that each of MP's passes ends with its choice of
frequencies. -/

namespace Sys2Proof.Machine

/-! ### What an operation leaves of the power's state -/

/-- MP's choice of frequencies sets VCORE and nothing else of the power's state. -/
@[simp] theorem setFrequencies_power (s : State) : (setFrequencies s).power = { s.power with vcore := vcoreFor s } := by
  rw [setFrequencies_eq]
  exact (frame_foldl (W := [.fresh, .regs, .units]) _ (.refl _ _) (fun _ _ h => chooseFreq_frame h (.refl _))).same .power (by decide)

@[simp] theorem hwRise_power (s : State) : (hwRise s).power = s.power :=
  (hwRise_frame (.refl [.units] s) (.refl _)).same .power (by decide)
@[simp] theorem hwRise_phase (s : State) : (hwRise s).phase = s.phase :=
  (hwRise_frame (.refl [.units] s) (.refl _)).same .phase (by decide)
@[simp] theorem hwRise_procs (s : State) : (hwRise s).procs = s.procs :=
  (hwRise_frame (.refl [.units] s) (.refl _)).same .procs (by decide)
@[simp] theorem raiseLast_power (s : State) : (raiseLast s).power = s.power :=
  (raiseLast_frame (.refl [.units] s) (.refl _)).same .power (by decide)
@[simp] theorem moveTherm_power (s : State) (q : Nat) (f : Nat → Nat) : (moveTherm s q f).power = s.power :=
  (moveTherm_frame (.refl [.units] s) (.refl _)).same .power (by decide)
@[simp] theorem logReduce3_power (s : State) : (logReduce3 s).power = s.power :=
  (logReduce3_frame (.refl [.fresh, .regs, .log] s) (.refl _)).same .power (by decide)
@[simp] theorem emergEnd_power (s : State) (was : Bool) : (emergEnd s was).power = s.power :=
  (emergEnd_frame (.refl [.fresh, .regs, .boot, .log] s) (.refl _)).same .power (by decide)
@[simp] theorem thermalEnd_phase (s : State) : (thermalEnd s).phase = s.phase :=
  (thermalEnd_frame (.refl [.fresh, .regs, .boot, .log, .power] s) (.refl _)).same .phase (by decide)
@[simp] theorem thermalEnd_procs (s : State) : (thermalEnd s).procs = s.procs :=
  (thermalEnd_frame (.refl [.fresh, .regs, .boot, .log, .power] s) (.refl _)).same .procs (by decide)
@[simp] theorem thermalEnd_sensors (s : State) : (thermalEnd s).power.sensors = s.power.sensors := by
  unfold thermalEnd
  split
  · rw [emergEnd_power]
  · rfl

/-- Setting filler counts and wakes units; it leaves the power's state. -/
theorem setFillers_power (l : List (Nat × Nat)) (s : State) : (l.foldl (fun s e => setFiller s e.1 e.2) s).power = s.power :=
  (frame_foldl (W := [.fresh, .regs, .units]) l (.refl _ s) (fun _ _ h => setFiller_frame h (.refl _))).same .power (by decide)

/-- A group lowered is noted with its instant (R475), and nothing else of the power's state changes. -/
theorem lowerGroup_power (s : State) (g : Nat × Nat) : (lowerGroup s g).power =
    { s.power with lowered := (g.1, s.clk.dev) :: s.power.lowered.filter (fun e => e.1 != g.1) } := by
  unfold lowerGroup
  exact (frame_foldl (W := [.units]) _ (.refl _ _)
    (fun _ _ h => frame_ite (State.setPair_frame h (.refl _)) h)).same .power (by decide)

/-- The power's state of two states differs at most in which partitions MP has lowered. -/
def SamePower (s u : State) : Prop := { u.power with lowered := s.power.lowered } = s.power

theorem SamePower.of_eq {s u : State} (h : u.power = s.power) : SamePower s u := by
  rw [SamePower, h]

theorem SamePower.trans {s t u : State} (h : SamePower s t) (k : SamePower t u) : SamePower s u := by
  unfold SamePower at *
  rw [← h, ← k]

theorem SamePower.windows {s u : State} (h : SamePower s u) : u.power.windows = s.power.windows := by
  unfold SamePower at h
  rw [← h]

theorem lowerGroup_samePower (s : State) (g : Nat × Nat) : SamePower s (lowerGroup s g) := by
  rw [SamePower, lowerGroup_power]

theorem lowerGroups_samePower (l : List (Nat × Nat)) : ∀ s, SamePower s (l.foldl lowerGroup s) := by
  induction l with
  | nil => exact fun _ => .of_eq rfl
  | cons g r ih => exact fun s => (lowerGroup_samePower s g).trans (ih _)

theorem lowerFirst_samePower (s : State) : SamePower s (lowerFirst s) := by
  unfold lowerFirst
  split
  · exact .of_eq rfl
  · next g _ _ =>
    dsimp only
    split
    · exact (lowerGroup_samePower s g).trans (.of_eq (logReduce3_power _))
    · exact lowerGroup_samePower s g

theorem hintLower_samePower (s : State) : SamePower s (hintLower s) := by
  unfold hintLower
  dsimp only
  split
  · exact .of_eq rfl
  · exact lowerGroups_samePower _ s

/-! ### Frequencies after a pass -/

/-- Every enabled, unfenced pair is at the frequency that MP chooses for it (R468). -/
def AllAtFrequency (s : State) : Prop := ∀ i ∈ runPairs s, AtFrequency s i

theorem setFrequencies_all (s : State) : AllAtFrequency (setFrequencies s) := setFrequencies_freq s

/-- Counting leaves the pairs at their frequencies. -/
theorem SameChoice.allAtFrequency {s u : State} (h : SameChoice s u) (hs : AllAtFrequency s) : AllAtFrequency u := by
  intro i hi
  have hf : pairFreq u i = pairFreq s i := pairFreq_congr h.force (by rw [h.pair]) (by rw [h.pair]) (by rw [h.pair]) (by rw [h.pair])
  have hr : runPairs u = runPairs s := runPairs_congr h.fuses h.fenced h.boot (fun k => by rw [h.pair])
  have hk : pairStopped u i = pairStopped s i := by simp only [pairStopped, h.inRun]
  rw [AtFrequency, hf, hk, h.pair]
  exact hs i (hr ▸ hi)

/-! ### The passes -/

/-- MP runs where its processor's state is as in a state in which it is in RUN. -/
theorem mpUp_of_procs {s u : State} (h : u.procs = s.procs) (hs : (s.proc 0).st = .run) : mpUp u = true := by
  unfold mpUp State.proc
  rw [h]
  exact beq_iff_eq.2 hs

/-- MP holds a sample of the power, after those of the milliseconds before (R465). -/
def Sampled (s u : State) (m : PowerSample) : Prop :=
  u.power.vin = m.vin ∧ u.power.iin = m.iin ∧ u.power.hist = (m.vin * m.iin :: s.power.hist).take 10000

theorem SamePower.sampled {s t u : State} {m : PowerSample} (h : SamePower t u) (ht : Sampled s t m) : Sampled s u m := by
  obtain ⟨h1, h2, h3⟩ := ht
  unfold SamePower at h
  rw [← h] at h1 h2 h3
  exact ⟨h1, h2, h3⟩

/-- The power pass takes its sample, moves the power caps, and ends with the choice of frequencies, which may be counted (R469, R483). -/
theorem powerLoopOp_eq {s : State} (m : PowerSample) (hp : s.phase = .up) (hm : (s.proc 0).st = .run) :
    ∃ z, Sampled s z m ∧
      (powerLoopOp s m = setFrequencies z ∨ powerLoopOp s m = (setFrequencies z).bump pgPwr 0x0B0 1) := by
  unfold powerLoopOp
  rw [if_neg (by simp [hp])]
  extract_lets +onlyGivenNames s1
  rw [if_neg (by simp [s1, hp, mpUp_of_procs (hwRise_procs s) hm])]
  extract_lets pk e src s2 s3
  have h3 : Sampled s s3 m := by simp [Sampled, s3, s2, s1, pk]
  clear_value s3
  split
  extract_lets s4 s5 s6
  have h4 : SamePower s3 s4 := by
    unfold s4
    split
    · exact lowerFirst_samePower _
    · split
      · exact .of_eq (raiseLast_power _)
      · exact .of_eq rfl
  have h5 : SamePower s4 s5 := by
    unfold s5
    split
    · exact .of_eq rfl
    · exact hintLower_samePower _
  refine ⟨s5, (h4.trans h5).sampled h3, ?_⟩
  split
  · exact .inr rfl
  · exact .inl rfl

theorem setSensors_sensor (s : State) {q k : Nat} {temps : List Int} (hq : q < 4) (hk : k < 4) (hl : temps.length = 4) :
    (setSensors s q temps).power.sensors.getD (4 * q + k) 0 = temps.getD k 0 := by
  have h1 : 4 * q + k < 16 := by omega
  have h2 : (4 * q + k) / 4 = q := by omega
  have h3 : (4 * q + k) % 4 = k := by omega
  simp [setSensors, List.getD_eq_getElem?_getD, h1, h2, h3, hl, hk]

/-- The thermal pass sets its quadrant's sensors, moves the thermal caps, and ends with the choice of frequencies (R471). -/
theorem thermalLoopOp_eq {s : State} (q : Nat) {temps : List Int} (hp : s.phase = .up) (hm : (s.proc 0).st = .run) (hl : temps.length = 4) :
    ∃ z, z.power.sensors = (setSensors s q temps).power.sensors ∧ thermalLoopOp s q temps = setFrequencies z := by
  unfold thermalLoopOp
  rw [if_neg (by simp [hp, hl])]
  extract_lets +onlyGivenNames s1
  have hphase : s1.phase = .up := (thermalEnd_phase _).trans hp
  have hmp : mpUp s1 = true := mpUp_of_procs (s := s) (thermalEnd_procs _) hm
  rw [if_neg (by simp [hphase, hmp])]
  extract_lets tt hotQ cool n src s2 s3 s4
  have h2 : s2.power.sensors = (setSensors s q temps).power.sensors := thermalEnd_sensors _
  have h3 : s3.power = s2.power := by
    unfold s3
    split
    · exact State.bump_power ..
    · rfl
  have h4 : s4.power = s3.power := by
    unfold s4
    split
    · exact moveTherm_power ..
    · split
      · exact moveTherm_power ..
      · rfl
  exact ⟨s4, by rw [h4, h3, h2], rfl⟩

/-- A hint's window opens, groups are lowered for it, and the pass ends with the choice of frequencies (R475). -/
theorem hintOp_eq {s : State} {p idx : Nat} {w : HintWindow} (hp : s.phase = .up) (hm : (s.proc 0).st = .run) (he : emergency s = false)
    (hw : (s.power.windows.filter (fun w => w.part == p))[idx]? = some w) (ho : w.opened = false) (h1 : w.startNs ≤ s.clk.dev + 200000)
    (h2 : s.clk.dev < w.endNs) :
    ∃ z, { w with opened := true } ∈ z.power.windows ∧ hintOp s p idx = setFrequencies z := by
  have hmem : w ∈ s.power.windows := (List.mem_filter.1 (List.mem_of_getElem? hw)).1
  unfold hintOp
  rw [hw]
  dsimp only
  rw [if_neg (by simp [hp, mpUp_of_procs rfl hm, ho, h1, h2]), if_neg (by simp [he])]
  refine ⟨_, ?_, rfl⟩
  rw [(hintLower_samePower _).windows]
  exact List.mem_map.2 ⟨w, hmem, if_pos rfl⟩

/-- The filler update holds I_work and the floor F (R476). -/
theorem fillerOp_power {s : State} (iWork : Nat) (hp : s.phase = .up) :
    (fillerOp s iWork).power.iWork = iWork ∧
    (fillerOp s iWork).power.floor = if bit (s.inForce (addr pgPwr 0x048)) 31
      then max iWork (s.power.floor - bits (s.inForce (addr pgPwr 0x048)) 7 0 * 100) else iWork := by
  unfold fillerOp
  rw [if_neg (by simp [hp])]
  extract_lets r on f need l src s1 mA s2 pj
  have h : s2.power = s1.power := setFillers_power l s1
  have hb : ({ s2 with power := { s2.power with fillRem := pj % 1000000 } }.bump pgPwr 0x0A8 (pj / 1000000)).power =
      { s2.power with fillRem := pj % 1000000 } := State.bump_power ..
  rw [hb, h]
  exact ⟨rfl, rfl⟩

/-- Settles O15: each pass of MP ends with the choice of frequencies; what it was told, and the floor F, are held beside it. -/
theorem loopsSetFrequencies : Obligations.LoopsSetFrequencies := by
  refine ⟨fun t m s hp hm => ?_, fun t q temps s hp hm hl => ?_, fun t p idx w s hp hm he hw ho h1 h2 => ?_, fun t iWork s hp => ?_⟩
  · obtain ⟨z, ⟨hv, hi, hh⟩, hu | hu⟩ := powerLoopOp_eq (s := atTime t s) m hp hm
    · refine ⟨_, rfl, ?_⟩
      rw [hu, setFrequencies_power]
      exact ⟨hv, hi, hh, setFrequencies_all z⟩
    · refine ⟨_, rfl, ?_⟩
      rw [hu, State.bump_power, setFrequencies_power]
      exact ⟨hv, hi, hh, (bump_sameChoice ..).allAtFrequency (setFrequencies_all z)⟩
  · obtain ⟨z, hz, hu⟩ := thermalLoopOp_eq (s := atTime t s) q.val hp hm hl
    refine ⟨_, rfl, ?_⟩
    rw [hu, setFrequencies_power]
    refine ⟨fun k => ?_, setFrequencies_all z⟩
    dsimp only
    rw [hz]
    exact setSensors_sensor _ q.isLt k.isLt hl
  · obtain ⟨z, hz, hu⟩ := hintOp_eq (s := atTime t s) hp hm he hw ho h1 h2
    refine ⟨_, rfl, ?_⟩
    rw [hu, setFrequencies_power]
    exact ⟨hz, setFrequencies_all z⟩
  · exact ⟨_, rfl, fillerOp_power (s := atTime t s) iWork hp⟩

end Sys2Proof.Machine
end

section
/-! How INT4 elements lie in memory (R31): what reading and storing one of them does, stated once for an element of any index. -/

namespace Sys2Proof.Machine

/-! ### Bytes and nibbles through a port -/

/-- After a part that answers, a computation goes on with the answer, from the trace which that part left. -/
theorem bind_run_of_ok {α β : Type} {c : Comp α} {a : α} {o o' : Trace} (h : c.run.run o = (.ok a, o')) (f : α → Comp β) :
    (c >>= f).run.run o = (f a).run.run o' := by
  rw [ExceptT.run_bind, StateT.run_bind, h]
  rfl

/-- Where a computation has stored neither nibble of a byte, it reads the byte that the port gives (R175). -/
theorem rd8_run_of_not_stored {P : Port} {va : Nat} {b : Byte} {o : Trace} (hrd : P.rd va = .ok b)
    (hlo : storedNibble va false o.writes = none) (hhi : storedNibble va true o.writes = none) :
    (rd8 P va).run.run o = (.ok b, o.touch va) := by
  have hb : BitVec.ofNat 8 (b.toNat / 16 * 16 + b.toNat % 16) = b := by rw [Nat.div_add_mod', BitVec.ofNat_toNat, BitVec.setWidth_eq]
  unfold rd8
  rw [bind_run_of_ok (show (get : Comp Trace).run.run o = (.ok o, o) from rfl)]
  simp only [hlo, hhi, hrd, Option.getD_none, hb]
  rfl

/-- A store that the port takes becomes the newest one of the trace, under its row and its unit. -/
theorem put8_run_of_writable {P : Port} {va : Nat} (hwr : P.wr va = .ok ()) (b : Byte) (half : Nat) (o : Trace) :
    (put8 P va b half).run.run o = (.ok (), { o.touch va with writes := ⟨va, b, half, o.row, o.hawk⟩ :: o.writes }) := by
  simp only [put8, hwr]
  rfl

/-- A byte made of a number's low four bits holds them. -/
theorem toNat_ofNat_nibble (v : Nat) : (BitVec.ofNat 8 (v % 16)).toNat % 16 = v % 16 := by
  rw [BitVec.toNat_ofNat]
  omega

/-- A store of the low nibble leaves the high one (R75). -/
theorem Put.on_lowNibble (va v row : Nat) (hawk : Bool) (b : Byte) :
    Put.on ⟨va, BitVec.ofNat 8 (v % 16), 1, row, hawk⟩ b = BitVec.ofNat 8 (b.toNat / 16 * 16 + v % 16) := by
  simp only [Put.on, toNat_ofNat_nibble]
  rfl

/-- A store of the high nibble leaves the low one (R75). -/
theorem Put.on_highNibble (va v row : Nat) (hawk : Bool) (b : Byte) :
    Put.on ⟨va, BitVec.ofNat 8 (v % 16), 2, row, hawk⟩ b = BitVec.ofNat 8 (v % 16 * 16 + b.toNat % 16) := by
  simp only [Put.on, toNat_ofNat_nibble]
  rfl

/-! ### Elements of an INT4 tensor -/

/-- Reading an INT4 element answers a nibble of its byte: the low one at an even index, the high one at an odd index. -/
theorem runComp_rdElem_int4 {P : Port} {va i : Nat} {b : Byte} (hrd : P.rd (va + i / 2) = .ok b) :
    (runComp (rdElem P .int4 va i)).1 = .ok (if i % 2 = 0 then b.toNat % 16 else b.toNat / 16) := by
  have hrun := rd8_run_of_not_stored (o := ⟨[], [], 0, false, 0, 0⟩) hrd rfl rfl
  simp only [runComp, rdElem, Fmt.bits, if_true]
  rw [bind_run_of_ok hrun]
  rfl

/-- Writing an INT4 element is one store, of a nibble of its byte. -/
theorem runComp_wrElem_int4_writes {P : Port} {va i : Nat} (hwr : P.wr (va + i / 2) = .ok ()) (v : Nat) :
    (runComp (wrElem P .int4 va i v)).2.writes =
      [⟨va + i / 2, BitVec.ofNat 8 (v % 16), if i % 2 = 0 then 1 else 2, 0, false⟩] := by
  have hrun := put8_run_of_writable hwr (BitVec.ofNat 8 (v % 16)) (if i % 2 = 0 then 1 else 2) ⟨[], [], 0, false, 0, 0⟩
  simp only [runComp, wrElem, Fmt.bits, if_true]
  rw [hrun]
  rfl

/-- Settles O42: elements 2i and 2i + 1 lie in byte i, whose other nibble each store leaves. -/
theorem twoIntegersShareAByte : Obligations.TwoIntegersShareAByte := by
  intro P va i v b hrd hwr
  have heven : 2 * i / 2 = i := by omega
  have hodd : (2 * i + 1) / 2 = i := by omega
  have hmod : (2 * i + 1) % 2 ≠ 0 := by omega
  refine ⟨?_, ?_, ?_, ?_⟩
  · rw [runComp_rdElem_int4 (by rwa [heven]), if_pos (Nat.mul_mod_right 2 i)]
  · rw [runComp_rdElem_int4 (by rwa [hodd]), if_neg hmod]
  · rw [runComp_wrElem_int4_writes (by rwa [heven]), heven, if_pos (Nat.mul_mod_right 2 i), List.map_singleton, Put.on_lowNibble]
  · rw [runComp_wrElem_int4_writes (by rwa [hodd]), hodd, if_neg hmod, List.map_singleton, Put.on_highNibble]

end Sys2Proof.Machine
end

section
/-! What an abort leaves (R84, R90, R149, R338): work goes and none is new, while the clock, the steps' records and the safe states stay; and from that,
what the failure of a step comes to, for every rule under which one fails. -/

namespace Sys2Proof.Machine

/-! ### Work that goes -/

/-- s came from a by taking work out of the queues and units: what is queued or running was so before, and the clock, each partition's step and its safe
state are as they were. -/
structure CutsWork (a s : State) : Prop where
  clk : s.clk = a.clk
  step : ∀ p, (s.part p).step = (a.part p).step
  safe : ∀ p, (s.part p).safe = (a.part p).safe
  queue : ∀ q, s.queue q ⊆ a.queue q
  running : ∀ e ∈ s.plans.running, ∃ e' ∈ a.plans.running, e'.1 = e.1 ∧ e'.2.item = e.2.item

theorem CutsWork.of_plans {a s : State} (hp : s.plans = a.plans) (hc : s.clk = a.clk) : CutsWork a s := by
  refine ⟨hc, fun p => ?_, fun p => ?_, fun q => ?_, fun e he => ⟨e, hp ▸ he, rfl, rfl⟩⟩
  · rw [State.part, hp, State.part]
  · rw [State.part, hp, State.part]
  · rw [State.queue, hp, State.queue]
    exact List.Subset.refl _

theorem CutsWork.refl (s : State) : CutsWork s s := .of_plans rfl rfl

theorem CutsWork.trans {a s u : State} (h : CutsWork a s) (k : CutsWork s u) : CutsWork a u := by
  refine ⟨k.clk.trans h.clk, fun p => (k.step p).trans (h.step p), fun p => (k.safe p).trans (h.safe p), fun q => List.Subset.trans (k.queue q) (h.queue q), fun e he => ?_⟩
  obtain ⟨e', he', hq', hi'⟩ := k.running e he
  obtain ⟨e'', he'', hq'', hi''⟩ := h.running e' he'
  exact ⟨e'', he'', hq''.trans hq', hi''.trans hi'⟩

/-- What changes neither the plans nor the clock takes no work and adds none. -/
theorem CutsWork.of_frame {W : List Field} {a s : State} (h : Frame W a s) (hp : .plans ∉ W) (hc : .clk ∉ W) : CutsWork a s :=
  .of_plans (h.same .plans hp) (h.same .clk hc)

theorem CutsWork.foldl {β : Type} {f : State → β → State} (hf : ∀ s b, CutsWork s (f s b)) (l : List β) (s : State) : CutsWork s (l.foldl f s) := by
  induction l generalizing s with
  | nil => exact .refl s
  | cons b l ih => exact (hf s b).trans (ih _)

theorem CutsWork.foldl_fst {β γ : Type} {f : State × γ → β → State × γ} (hf : ∀ s b, CutsWork s.1 (f s b).1) (l : List β) (s : State × γ) :
    CutsWork s.1 (l.foldl f s).1 := by
  induction l generalizing s with
  | nil => exact .refl s.1
  | cons b l ih => exact (hf s b).trans (ih _)

/-- What each operation of a fold brings about for its own element, and no later one undoes, holds for every element in the end. -/
theorem CutsWork.foldl_each {β : Type} {f : State → β → State} {P : β → State → Prop} (hf : ∀ s b, CutsWork s (f s b)) (hP : ∀ s b, P b (f s b))
    (hk : ∀ {s u b}, CutsWork s u → P b s → P b u) (l : List β) (s : State) : ∀ b ∈ l, P b (l.foldl f s) := by
  induction l generalizing s with
  | nil => exact fun _ hb => absurd hb List.not_mem_nil
  | cons c l ih =>
    intro b hb
    obtain rfl | hb := List.mem_cons.1 hb
    · exact hk (CutsWork.foldl hf l _) (hP s b)
    · exact ih _ b hb

/-! ### The changes of the plans that an abort makes -/

theorem State.modPart_part (s : State) (p i : Nat) (f : PartSt → PartSt) :
    (s.modPart p f).part i = f (s.part i) ∨ (s.modPart p f).part i = s.part i := by
  by_cases h : i = p
  · exact .inl (h ▸ State.modPart_part_self ..)
  · exact .inr (State.modPart_part_ne _ f h)

theorem State.modPart_cutsWork (s : State) (p : Nat) {f : PartSt → PartSt} (hs : ∀ x, (f x).step = x.step) (hf : ∀ x, (f x).safe = x.safe) :
    CutsWork s (s.modPart p f) := by
  refine ⟨rfl, fun i => ?_, fun i => ?_, fun _ => List.Subset.refl _, fun e he => ⟨e, he, rfl, rfl⟩⟩
  · obtain h | h := s.modPart_part p i f
    · rw [h, hs]
    · rw [h]
  · obtain h | h := s.modPart_part p i f
    · rw [h, hf]
    · rw [h]

theorem State.setPte_cutsWork (s : State) (p key : Nat) (e : Pte) : CutsWork s (s.setPte p key e) :=
  s.modPart_cutsWork p (fun _ => rfl) (fun _ => rfl)

theorem dropPrefetch_cutsWork (s : State) (p id : Nat) : CutsWork s (dropPrefetch s p id) :=
  s.modPart_cutsWork p (fun _ => rfl) (fun _ => rfl)

theorem cutSieve_cutsWork (s : State) (q c d : Nat) : CutsWork s (cutSieve s q c d) :=
  ⟨rfl, fun _ => rfl, fun _ => rfl, fun _ => List.Subset.refl _, fun e he => ⟨e, he, rfl, rfl⟩⟩

theorem State.setRun_none_cutsWork (s : State) (q : Nat) : CutsWork s (s.setRun q none) :=
  ⟨rfl, fun _ => rfl, fun _ => rfl, fun _ => List.Subset.refl _, fun e he => ⟨e, (List.mem_filter.1 he).1, rfl, rfl⟩⟩

theorem mem_running_of_run {s : State} {q : Nat} {r : Running} (h : s.run q = some r) : (q, r) ∈ s.plans.running := by
  obtain ⟨l₁, l₂, hl, -⟩ := List.lookup_eq_some_iff.1 h
  rw [hl]
  exact List.mem_append_right _ List.mem_cons_self

/-- A unit's account of the item that it runs is another one of the same item. -/
theorem State.setRun_some_cutsWork {s : State} {q : Nat} {r r' : Running} (h : s.run q = some r) (hi : r.item = r'.item) :
    CutsWork s (s.setRun q (some r')) := by
  refine ⟨rfl, fun _ => rfl, fun _ => rfl, fun _ => List.Subset.refl _, fun e he => ?_⟩
  obtain he | he := List.mem_append.1 he
  · exact ⟨e, (List.mem_filter.1 (List.mem_filter.1 he).1).1, rfl, rfl⟩
  · obtain rfl | he := List.mem_cons.1 he
    · exact ⟨(q, r), mem_running_of_run h, rfl, hi⟩
    · exact ⟨e, (List.mem_filter.1 (List.mem_filter.1 he).1).1, rfl, rfl⟩

theorem State.setQueue_cutsWork {s : State} {q : Nat} {l : List QItem} (h : l ⊆ s.queue q) : CutsWork s (s.setQueue q l) := by
  refine ⟨rfl, fun _ => rfl, fun _ => rfl, fun i => ?_, fun e he => ⟨e, he, rfl, rfl⟩⟩
  by_cases hi : i = q
  · subst hi
    rwa [State.setQueue_queue_self]
  · rw [State.setQueue_queue_ne _ l hi]
    exact List.Subset.refl _

/-! ### Accesses and stores -/

theorem touchPage_cutsWork (s : State) (p cls up va : Nat) : CutsWork s (touchPage s p cls up va) := by
  unfold touchPage
  split
  · dsimp only
    split
    · exact (CutsWork.of_frame (grantAccess_frame (.refl [.fresh, .regs, .press] s) (.refl _)) (by decide) (by decide)).trans
        (State.setPte_cutsWork ..)
    · exact .refl s
  · exact .refl s

theorem touchPages_cutsWork (s : State) (p up : Nat) (l : List Nat) : CutsWork s (touchPages s p up l) :=
  .foldl (fun _ _ => touchPage_cutsWork ..) _ s

theorem touchRange_cutsWork (s : State) (p cls va n : Nat) : CutsWork s (touchRange s p cls va n) :=
  .foldl (fun _ _ => touchPage_cutsWork ..) _ s

theorem partWrite_cutsWork (s : State) (p va : Nat) (b : Byte) : CutsWork s (partWrite s p va b) := by
  unfold partWrite
  split
  · exact .refl s
  · extract_lets s1
    have h1 : CutsWork s s1 := .foldl (f := fun s a => s.wr (a + va % 65536) b) (fun _ _ => .of_plans rfl rfl) _ s
    exact h1.trans (State.setPte_cutsWork ..)

theorem landPut_cutsWork (s : State) (p : Nat) (w : Put) : CutsWork s (landPut s p w) := by
  unfold landPut
  split
  · exact .refl s
  · exact partWrite_cutsWork ..

theorem partWrites_cutsWork (s : State) (p : Nat) (l : List Put) : CutsWork s (partWrites s p l) :=
  .foldl (fun _ _ => landPut_cutsWork ..) _ s

theorem partStore_cutsWork (s : State) (p va : Nat) (bs : Bytes) : CutsWork s (partStore s p va bs) :=
  .foldl (fun _ _ => partWrite_cutsWork ..) _ s

theorem takeWrite_cutsWork (s : State) (src p a : Nat) (data : Bytes) : CutsWork s (takeWrite s src p a data).1 := by
  unfold takeWrite
  extract_lets can status
  dsimp only
  split
  · exact (touchRange_cutsWork ..).trans (partStore_cutsWork ..)
  · exact .of_frame (State.logEntry_frame (.refl [.fresh, .regs, .log] s) (.refl _)) (by decide) (by decide)

theorem sendLine_cutsWork (s : State) (p : Nat) (q : Option Nat) (e : Nat × Nat × Nat × Nat) : CutsWork s (sendLine s p q e).1 := by
  unfold sendLine
  extract_lets data s1
  have h1 : CutsWork s s1 := touchRange_cutsWork ..
  split
  · exact h1.trans (takeWrite_cutsWork ..)
  · next s2 _ =>
    have h2 : CutsWork s1 s2 := .of_plans rfl rfl
    exact (h1.trans h2).trans (.of_frame (sirForward_frame (.refl [.out, .fresh, .regs, .log, .net] s2) (.refl _)) (by decide) (by decide))

theorem sendWritten_cutsWork (s : State) (p : Nat) (q : Option Nat) (vas : List Nat) : CutsWork s (sendWritten s p q vas).1 := by
  unfold sendWritten
  refine CutsWork.foldl_fst (s := (s, false)) (fun a e => ?_) _
  exact sendLine_cutsWork a.1 p q e

/-! ### Units -/

theorem account_cutsWork (s : State) (u : Nat) : CutsWork s (account s u) :=
  .of_frame (account_frame (.refl [.fresh, .regs, .units] s) (.refl _)) (by decide) (by decide)

theorem settleCore_cutsWork (s : State) (u : Nat) : CutsWork s (settleCore s u) :=
  .of_frame (settleCore_frame (.refl [.fresh, .regs, .units] s) (.refl _)) (by decide) (by decide)

theorem settleUnits_cutsWork (s : State) : CutsWork s (settleUnits s) :=
  .of_frame (settleUnits_frame (.refl [.fresh, .regs, .units] s) (.refl _)) (by decide) (by decide)

theorem undefUnit_cutsWork (s : State) (u : Nat) (active1 : Bool) : CutsWork s (undefUnit s u active1) :=
  .of_frame (undefUnit_frame (.refl [.fresh, .units] s) (.refl _)) (by decide) (by decide)

theorem accountEngine_cutsWork (s : State) (q : Nat) : CutsWork s (accountEngine s q) := by
  unfold accountEngine
  split
  · exact .refl s
  · next r hr =>
    extract_lets _ _
    split
    next l s1 h1 =>
    extract_lets s2
    have hF : Frame [.fresh, .regs] s s2 :=
      bumpRow_frame (freeUpTo_frame' h1 (.refl _ s) (by decide)) (by decide)
    have hp : s2.plans = s.plans := hF.same .plans (by decide)
    have hr2 : s2.run (qSpec q) = some r := by rw [← hr, State.run, hp, State.run]
    exact (CutsWork.of_frame hF (by decide) (by decide)).trans (State.setRun_some_cutsWork hr2 rfl)

/-- An item that is taken out leaves its unit in the midst of what its abort does: no work is added before, nor after. -/
theorem abortUnit_passes {s : State} {q : Nat} {r : Running} (hr : s.run q = some r) :
    ∃ z, CutsWork s z ∧ CutsWork (z.setRun q none) (abortUnit s q) := by
  unfold abortUnit
  split
  next h => exact absurd (h.symm.trans hr) nofun
  next r' _ =>
  extract_lets p s1 _ _ s2 put s3 _ _ s4 s5
  have h1 : CutsWork s s1 := by
    unfold s1
    split
    · exact account_cutsWork s q
    · split
      · exact accountEngine_cutsWork ..
      · exact .refl s
  have h3 : CutsWork s2 s3 := by
    unfold s3
    split
    · exact .refl s2
    · have hw : CutsWork s2 (partWrites s2 p put).tick.tick := (partWrites_cutsWork s2 p put).trans (.of_plans rfl rfl)
      exact hw.trans (sendWritten_cutsWork ..)
  have h5 : CutsWork (s3.setRun q none) s5 := (CutsWork.of_plans rfl rfl : CutsWork (s3.setRun q none) s4).trans (dropPrefetch_cutsWork ..)
  refine ⟨s3, (h1.trans (touchPages_cutsWork ..)).trans h3, h5.trans ?_⟩
  clear_value s5
  split
  · exact (undefUnit_cutsWork ..).trans (settleCore_cutsWork ..)
  split
  · exact .refl s5
  split
  · next res _ =>
    split
    · exact (CutsWork.of_frame (sieveCounts_frame (.refl [.fresh, .regs, .log] s5) (.refl _)) (by decide) (by decide)).trans
        (cutSieve_cutsWork ..)
    · refine .trans (.of_plans ?_ ?_) (cutSieve_cutsWork ..) <;> simp
  · exact .refl s5

theorem abortUnit_cutsWork (s : State) (q : Nat) : CutsWork s (abortUnit s q) := by
  cases hr : s.run q with
  | none =>
    have hs : abortUnit s q = s := by rw [abortUnit, hr]
    rw [hs]
    exact .refl s
  | some r =>
    obtain ⟨z, hz, hu⟩ := abortUnit_passes hr
    exact (hz.trans (z.setRun_none_cutsWork q)).trans hu

/-- No item runs on a queue's unit. -/
def NoneRuns (q : Nat) (s : State) : Prop := ∀ e ∈ s.plans.running, e.1 ≠ q

theorem CutsWork.noneRuns {a s : State} {q : Nat} (h : CutsWork a s) (ha : NoneRuns q a) : NoneRuns q s := by
  intro e he
  obtain ⟨e', he', hq, -⟩ := h.running e he
  exact hq ▸ ha e' he'

theorem noneRuns_of_run {s : State} {q : Nat} (h : s.run q = none) : NoneRuns q s := by
  intro e he hq
  have hne := List.lookup_eq_none_iff.1 h e he
  simp [hq] at hne

theorem abortUnit_noneRuns (s : State) (q : Nat) : NoneRuns q (abortUnit s q) := by
  cases hr : s.run q with
  | none => exact (abortUnit_cutsWork s q).noneRuns (noneRuns_of_run hr)
  | some r =>
    obtain ⟨z, -, hu⟩ := abortUnit_passes hr
    exact hu.noneRuns (noneRuns_of_run (z.setRun_run_none q))

/-! ### The abort of a step (R338) -/

/-- Every item of a partition that runs is aborted. -/
def abortRunning (s : State) (p : Nat) : State :=
  (s.plans.running.filter (fun e => e.2.item.part == p)).foldl (fun s e => abortUnit s e.1) s

/-- A queue loses a partition's items, and what they named is no longer protected (R172). -/
def clearQueue (p : Nat) (s : State) (q : Nat) : State :=
  let l := s.queue q
  if l.any (fun x => x.part == p) then
    (l.filter (fun x => x.part == p)).foldl (fun s x => dropPrefetch s p x.id) (s.setQueue q (l.filter (fun x => x.part != p)))
  else s

theorem abortStep_eq (s : State) (p : Nat) : abortStep s p = settleUnits (allQueues.foldl (clearQueue p) (abortRunning s p)) := rfl

theorem abortRunning_cutsWork (s : State) (p : Nat) : CutsWork s (abortRunning s p) :=
  .foldl (fun _ _ => abortUnit_cutsWork ..) _ s

/-- Each unit that ran an item of the partition was aborted, and none has taken one up. -/
theorem abortRunning_running (s : State) (p : Nat) : ∀ e ∈ (abortRunning s p).plans.running, e.2.item.part ≠ p := by
  intro e he hp
  obtain ⟨e', he', hq, hi⟩ := (abortRunning_cutsWork s p).running e he
  have hmem : e' ∈ s.plans.running.filter (fun e => e.2.item.part == p) := List.mem_filter.2 ⟨he', beq_iff_eq.2 (by rw [hi, hp])⟩
  have hnone : NoneRuns e'.1 (abortRunning s p) :=
    CutsWork.foldl_each (P := fun (e : Nat × Running) u => NoneRuns e.1 u) (fun s e => abortUnit_cutsWork s e.1)
      (fun s e => abortUnit_noneRuns s e.1) CutsWork.noneRuns _ s e' hmem
  exact hnone e he hq.symm

/-- None of a partition's items is in a queue. -/
def NoneQueued (p q : Nat) (s : State) : Prop := ∀ x ∈ s.queue q, x.part ≠ p

theorem CutsWork.noneQueued {a s : State} {p q : Nat} (h : CutsWork a s) (ha : NoneQueued p q a) : NoneQueued p q s :=
  fun x hx => ha x (h.queue q hx)

theorem dropPrefetches_cutsWork (s : State) (p : Nat) (l : List QItem) : CutsWork s (l.foldl (fun s x => dropPrefetch s p x.id) s) :=
  .foldl (fun _ _ => dropPrefetch_cutsWork ..) l s

theorem clearQueue_cutsWork (p : Nat) (s : State) (q : Nat) : CutsWork s (clearQueue p s q) := by
  unfold clearQueue
  dsimp only
  split
  · exact (State.setQueue_cutsWork (List.filter_subset_self _)).trans (dropPrefetches_cutsWork ..)
  · exact .refl s

theorem clearQueue_noneQueued (p : Nat) (s : State) (q : Nat) : NoneQueued p q (clearQueue p s q) := by
  unfold clearQueue
  dsimp only
  split
  · refine (dropPrefetches_cutsWork ..).noneQueued fun x hx => ?_
    rw [State.setQueue_queue_self] at hx
    exact bne_iff_ne.1 (List.mem_filter.1 hx).2
  · next h => exact fun x hx hp => h (List.any_eq_true.2 ⟨x, hx, beq_iff_eq.2 hp⟩)

/-- Nothing is taken up once the running items are aborted. -/
theorem abortStep_cutsWork_abortRunning (s : State) (p : Nat) : CutsWork (abortRunning s p) (abortStep s p) :=
  (CutsWork.foldl (clearQueue_cutsWork p) allQueues _).trans (settleUnits_cutsWork _)

theorem abortStep_cutsWork (s : State) (p : Nat) : CutsWork s (abortStep s p) :=
  (abortRunning_cutsWork s p).trans (abortStep_cutsWork_abortRunning s p)

theorem abortStep_noneQueued (s : State) (p : Nat) : ∀ q ∈ allQueues, NoneQueued p q (abortStep s p) := by
  rw [abortStep_eq]
  intro q hq
  exact (settleUnits_cutsWork _).noneQueued
    (CutsWork.foldl_each (P := NoneQueued p) (clearQueue_cutsWork p) (clearQueue_noneQueued p) CutsWork.noneQueued allQueues _ q hq)

theorem abortStep_running (s : State) (p : Nat) : ∀ e ∈ (abortStep s p).plans.running, e.2.item.part ≠ p := by
  intro e he
  obtain ⟨e', he', -, hi⟩ := (abortStep_cutsWork_abortRunning s p).running e he
  exact hi ▸ abortRunning_running s p e' he'

/-! ### The failure of a step (R337, R338) -/

theorem CutsWork.canFail {a s : State} {p : Nat} (h : CutsWork a s) (ha : CanFail a p) : CanFail s p := by
  unfold CanFail
  rwa [h.step, h.safe]

theorem State.modStep_part_self (s : State) (p : Nat) (f : StepRec → StepRec) :
    (s.modStep p f).part p = { s.part p with step := (s.part p).step.map f } := State.modPart_part_self ..

/-- That an item of the step is lost does not keep the step from failing. -/
theorem CanFail.lost {s : State} {p : Nat} (h : CanFail s p) : CanFail (s.modStep p (fun st => { st with lost := true })) p := by
  obtain ⟨hsafe, st, hst, hf, hd⟩ := h
  unfold CanFail
  rw [State.modStep_part_self, hst]
  exact ⟨hsafe, { st with lost := true }, rfl, hf, hd⟩

theorem failStep_of_canFail {s : State} {p : Nat} (h : CanFail s p) (code : Nat) (replayable : Bool) (u : Option UnitId) :
    failStep s p code replayable u = abortStep (s.modStep p (fun st => { st with fail := some ⟨s.clk.dev, code, replayable, u⟩ })) p := by
  obtain ⟨hsafe, st, hst, hf, hd⟩ := h
  simp [failStep, hst, hf, hd, hsafe]

/-- A step that can fail has failed, and nothing of it is left. -/
theorem failStep_hasFailed {s : State} {p : Nat} (h : CanFail s p) (code : Nat) (replayable : Bool) (u : Option UnitId) :
    HasFailed (failStep s p code replayable u) p code replayable u := by
  rw [failStep_of_canFail h]
  obtain ⟨-, st, hst, -, -⟩ := h
  set z := s.modStep p (fun st => { st with fail := some ⟨s.clk.dev, code, replayable, u⟩ }) with hz
  have hcut : CutsWork z (abortStep z p) := abortStep_cutsWork z p
  refine ⟨⟨{ st with fail := some ⟨s.clk.dev, code, replayable, u⟩ }, ?_, ?_⟩, abortStep_noneQueued z p, abortStep_running z p⟩
  · rw [hcut.step, hz, State.modStep_part_self, hst]
    rfl
  · rw [hcut.clk]
    rfl

theorem abortItem_canFail {s : State} {q : Nat} {r : Running} (hr : s.run q = some r) (h : CanFail s r.item.part) :
    CanFail (abortItem s q) r.item.part := by
  rw [abortItem, hr]
  exact ((abortUnit_cutsWork s q).canFail h).lost

/-- The item that a unit runs is aborted and its step fails, whatever was counted and logged before it. -/
theorem failItem_hasFailed {s z : State} {q p : Nat} (hz : z.plans = s.plans) (hr : runPart s q = some p) (h : CanFail s p)
    (code : Nat) (replayable : Bool) (u : Option UnitId) : HasFailed (failItem z q code replayable u) p code replayable u := by
  obtain ⟨r, hrun, rfl⟩ := Option.map_eq_some_iff.1 hr
  have hzr : z.run q = some r := by rw [← hrun, State.run, hz, State.run]
  have hzc : CanFail z r.item.part := by
    unfold CanFail at h ⊢
    rwa [State.part, hz, ← State.part]
  rw [failItem, hzr]
  exact failStep_hasFailed (abortItem_canFail hzr hzc) code replayable u

/-! ### Errors of accesses and transfers -/

/-- A translation error is counted, logged and fails the item without a replay (R171, R337). -/
theorem translationOp_of_error {s : State} {q va p x : Nat} {w y : Bool} (hr : runPart s q = some p)
    (ha : access s p va w = .error (.translation x y)) :
    ∃ z, z.plans = s.plans ∧ translationOp s q va w = failItem z q 0x2007 false none := by
  obtain ⟨r, hrun, rfl⟩ := Option.map_eq_some_iff.1 hr
  unfold translationOp
  rw [hrun]
  dsimp only
  rw [ha]
  exact ⟨_, by simp, rfl⟩

/-- A read of a poisoned page is counted, logged with its place and fails the item with a replay (R176, R337). -/
theorem poisonedOp_of_error {s : State} {q va p x : Nat} (hr : runPart s q = some p) (ha : access s p va false = .error (.poisoned x)) :
    ∃ z, z.plans = s.plans ∧ poisonedOp s q va = failItem z q 0x210A true none := by
  obtain ⟨r, hrun, rfl⟩ := Option.map_eq_some_iff.1 hr
  unfold poisonedOp
  rw [hrun]
  dsimp only
  rw [ha]
  exact ⟨_, by simp, rfl⟩

/-- A parity error of a hawk path is counted, logged and fails the item of its unit, against the unit (R90, R337). -/
theorem hawkParityOp_of_run {s : State} {c p : Nat} (hr : runPart s (qCore (unitOf s c)) = some p) :
    ∃ z, z.plans = s.plans ∧ hawkParityOp s c = failItem z (qCore (unitOf s c)) 0x6112 true (unitIdOf (qCore (unitOf s c))) := by
  obtain ⟨r, hrun, -⟩ := Option.map_eq_some_iff.1 hr
  unfold hawkParityOp
  dsimp only
  rw [hrun]
  exact ⟨_, by simp, rfl⟩

/-- Settles O49: each of the three errors counts, logs and then fails the item that the unit runs, whose step so fails with nothing left of it. -/
theorem accessErrorsFailTheStep : Obligations.AccessErrorsFailTheStep := by
  refine ⟨fun t q va p w s hr hc => ⟨fun x y ha => ?_, fun x ha => ?_⟩, fun t core p s hr hc => ?_⟩
  · obtain ⟨z, hz, hu⟩ := translationOp_of_error (s := atTime t s) hr ha
    exact ⟨_, rfl, hu ▸ failItem_hasFailed hz hr hc 0x2007 false none⟩
  · obtain ⟨z, hz, hu⟩ := poisonedOp_of_error (s := atTime t s) hr ha
    exact ⟨_, rfl, hu ▸ failItem_hasFailed hz hr hc 0x210A true none⟩
  · obtain ⟨z, hz, hu⟩ := hawkParityOp_of_run (s := atTime t s) hr
    exact ⟨_, rfl, hu ▸ failItem_hasFailed hz hr hc 0x6112 true _⟩

end Sys2Proof.Machine
end

section
/-! What the checkers come to (R148, R149, R328, R330): each of them counts and logs what it found and fails the step, and the abort that follows
changes of a pair no more than the frequency that it has (R24, R25), so that what the comparator found stays on its page (R364). -/

namespace Sys2Proof.Machine

/-! ### What an abort changes of the pairs -/

/-- s came from a without any pair changed but in the frequency that it has. -/
structure Retunes (a s : State) : Prop where
  pair : ∀ i, ∃ f, s.pair i = { a.pair i with freq := f }

theorem Retunes.of_pairs {a s : State} (h : ∀ i, s.pair i = a.pair i) : Retunes a s := ⟨fun i => ⟨(a.pair i).freq, h i⟩⟩

theorem Retunes.refl (s : State) : Retunes s s := .of_pairs fun _ => rfl

theorem Retunes.trans {a s u : State} (h : Retunes a s) (k : Retunes s u) : Retunes a u := by
  refine ⟨fun i => ?_⟩
  obtain ⟨f, hf⟩ := h.pair i
  obtain ⟨g, hg⟩ := k.pair i
  exact ⟨g, by rw [hg, hf]⟩

theorem Retunes.of_frame {W : List Field} {a s : State} (h : Frame W a s) (hw : .units ∉ W) : Retunes a s :=
  .of_pairs fun i => by rw [State.pair, h.same .units hw, State.pair]

theorem Retunes.foldl {β : Type} {f : State → β → State} (hf : ∀ s b, Retunes s (f s b)) (l : List β) (s : State) : Retunes s (l.foldl f s) := by
  induction l generalizing s with
  | nil => exact .refl s
  | cons b l ih => exact (hf s b).trans (ih _)

theorem setFreq_retunes (s : State) (i f : Nat) : Retunes s (s.setPair i { s.pair i with freq := f }) := by
  refine ⟨fun k => ?_⟩
  obtain rfl | h := eq_or_ne k i
  · exact ⟨f, State.setPair_pair_self ..⟩
  · exact ⟨(s.pair k).freq, State.setPair_pair_ne _ _ h⟩

theorem modUnit_retunes (s : State) (u : Nat) (f : CoreSt → CoreSt) : Retunes s (modUnit s u f) :=
  .foldl (f := fun s n => s.setCore n (f (s.core n))) (fun _ _ => .of_pairs fun _ => rfl) _ s

theorem account_retunes (s : State) (u : Nat) : Retunes s (account s u) := .of_pairs (account_sameChoice s u).pair

theorem undefUnit_retunes (s : State) (u : Nat) (active1 : Bool) : Retunes s (undefUnit s u active1) :=
  (modUnit_retunes s u _).trans (.of_pairs fun _ => rfl)

theorem lapse_retunes (s : State) (u : Nat) : Retunes s (lapse s u) := by
  unfold lapse
  split
  · exact (account_retunes s u).trans (modUnit_retunes ..)
  · exact .refl s

theorem stopUnit_retunes (s : State) (u : Nat) : Retunes s (stopUnit s u) := by
  unfold stopUnit
  exact (account_retunes s u).trans (modUnit_retunes ..)

theorem settleCore_retunes (s : State) (u : Nat) : Retunes s (settleCore s u) := by
  refine (lapse_retunes s u).trans ?_
  unfold settleCore
  dsimp only
  split
  · exact stopUnit_retunes ..
  · exact .refl _

/-- A wake is where a pair may take the frequency chosen for it (R25). -/
theorem wakeUnit_retunes (s : State) (u : Nat) : Retunes s (wakeUnit s u) := by
  refine (lapse_retunes s u).trans ?_
  unfold wakeUnit
  extract_lets s1 same s2 i _ s3
  split
  · exact modUnit_retunes ..
  · have h2 : Retunes s1 s2 := by
      unfold s2
      split
      · exact .refl s1
      · exact .foldl (fun s n => .of_frame (State.bump_frame (.refl [.regs] s) (.refl _)) (by decide)) _ s1
    have h3 : Retunes s2 s3 := by
      unfold s3
      split
      · exact setFreq_retunes ..
      · exact .refl s2
    exact (h2.trans h3).trans (modUnit_retunes ..)

theorem settleUnit_retunes (s : State) (u : Nat) : Retunes s (settleUnit s u) := by
  refine (lapse_retunes s u).trans ?_
  unfold settleUnit
  dsimp only
  split
  · split
    · exact settleCore_retunes ..
    · exact modUnit_retunes ..
  split
  · exact wakeUnit_retunes ..
  · exact .refl _

theorem settleUnits_retunes (s : State) : Retunes s (settleUnits s) := by
  refine .foldl (fun s n => ?_) _ s
  split
  · exact settleUnit_retunes s n
  · exact .refl s

theorem abortUnit_retunes (s : State) (q : Nat) : Retunes s (abortUnit s q) := by
  unfold abortUnit
  split
  · exact .refl s
  next r _ =>
  extract_lets p s1 _ _ s2 put s3 _ _ s4 s5
  have h1 : Retunes s s1 := by
    unfold s1
    split
    · exact account_retunes s q
    · split
      · exact .of_frame (accountEngine_frame (.refl [.fresh, .regs, .plans] s) (.refl _)) (by decide)
      · exact .refl s
  have h2 : Retunes s1 s2 := .of_frame (touchPages_frame (.refl [.fresh, .regs, .plans, .press] s1) (.refl _)) (by decide)
  have h3 : Retunes s2 s3 := by
    unfold s3
    split
    · exact .refl s2
    · have hw : Frame [.out, .fresh, .mem, .regs, .plans, .press, .log, .net] s2 (partWrites s2 p put).tick.tick :=
        State.tick_frame (State.tick_frame (partWrites_frame (.refl _ s2) (by decide)) (by decide)) (by decide)
      exact .of_frame (sendWritten_frame hw (.refl _)) (by decide)
  have h5 : Retunes s3 s5 := .of_pairs fun _ => rfl
  refine ((h1.trans h2).trans (h3.trans h5)).trans ?_
  clear_value s5
  split
  · exact (undefUnit_retunes ..).trans (settleCore_retunes ..)
  split
  · exact .refl s5
  split
  · next res _ =>
    split
    · have hc : Retunes s5 (sieveCounts s5 p res) := .of_frame (sieveCounts_frame (.refl [.fresh, .regs, .log] s5) (.refl _)) (by decide)
      exact hc.trans (.of_pairs fun _ => rfl)
    · exact .of_pairs fun i => by simp [State.pair, cutSieve]
  · exact .refl s5

theorem clearQueue_retunes (p : Nat) (s : State) (q : Nat) : Retunes s (clearQueue p s q) := by
  unfold clearQueue
  dsimp only
  split
  · exact .of_frame (frame_foldl _ (State.setQueue_frame (.refl [.plans] s) (.refl _)) fun _ _ h => dropPrefetch_frame h (.refl _)) (by decide)
  · exact .refl s

theorem abortRunning_retunes (s : State) (p : Nat) : Retunes s (abortRunning s p) := .foldl (fun _ _ => abortUnit_retunes ..) _ s

theorem abortStep_retunes (s : State) (p : Nat) : Retunes s (abortStep s p) := by
  rw [abortStep_eq]
  exact ((abortRunning_retunes s p).trans (.foldl (clearQueue_retunes p) allQueues _)).trans (settleUnits_retunes _)

theorem failStep_retunes {s : State} {p : Nat} (h : CanFail s p) (code : Nat) (replayable : Bool) (u : Option UnitId) :
    Retunes s (failStep s p code replayable u) := by
  rw [failStep_of_canFail h]
  exact (Retunes.of_frame (State.modStep_frame (.refl [.plans] s) (.refl _)) (by decide)).trans (abortStep_retunes _ p)

/-! ### A step that fails, whatever was counted and logged before -/

@[simp] theorem unitLog_plans (s : State) (code p unit : Nat) : (unitLog s code p unit).plans = s.plans := by simp [unitLog]
@[simp] theorem unitLog_units (s : State) (code p unit : Nat) : (unitLog s code p unit).units = s.units := by simp [unitLog]

theorem CanFail.of_plans {s z : State} {p : Nat} (hz : z.plans = s.plans) (h : CanFail s p) : CanFail z p := by
  unfold CanFail at h ⊢
  rwa [State.part, hz, ← State.part]

/-- Work that goes after the failure changes nothing of it. -/
theorem CutsWork.hasFailed {a s : State} {p code : Nat} {replayable : Bool} {u : Option UnitId} (h : CutsWork a s)
    (ha : HasFailed a p code replayable u) : HasFailed s p code replayable u := by
  obtain ⟨hst, hq, hr⟩ := ha
  refine ⟨by rwa [h.step, h.clk], fun q hmem => h.noneQueued (hq q hmem), fun e he => ?_⟩
  obtain ⟨e', he', -, hi⟩ := h.running e he
  exact hi ▸ hr e' he'

/-! ### The comparator (R330, R331, R364) -/

/-- A failure of a unit that serves a plan is a failure of the plan's step (R337). -/
theorem failUnit_of_serves {s : State} {u p : Nat} (h : Serves s u p) (code : Nat) (att : Option UnitId) :
    failUnit s u code att = failStep s p code true att := by
  obtain ⟨rfl, hp, hl⟩ := h
  exact if_pos ⟨hp, hl⟩

/-- Which partition a unit serves depends on its pair's owner and the bindings alone. -/
theorem Serves.congr {s z : State} {u p : Nat} (ho : (z.pair (u / 2)).owner = (s.pair (u / 2)).owner) (hz : z.plans = s.plans)
    (h : Serves s u p) : Serves z u p := by
  obtain ⟨hp, hlt, hl⟩ := h
  refine ⟨ho.trans hp, hlt, ?_⟩
  rwa [logicalOf, State.part, hz, ← State.part]

/-- A mismatch of a SAFE pair that serves a plan is noted in the pair, counted, logged and fails the step against the pair's unit. -/
theorem mismatchOp_of_serves {s : State} {i cls p : Nat} (hf : s.pairFused i = false) (hsafe : (s.pair i).safe = true)
    (hc : coreFenced s (2 * i) = false) (h : Serves s (2 * i) p) :
    ∃ z, z.plans = s.plans ∧ z.pair i = { s.pair i with lastClass := cls, lastPart := p } ∧
      mismatchOp s i cls = failStep z p 0x6101 true (unitIdOf (2 * i)) := by
  have hi : 2 * i / 2 = i := by omega
  have hp : pairOwner s i = p := hi ▸ h.1
  set z := unitLog ((s.setPair i { s.pair i with lastClass := cls, lastPart := p }).bump (pgPair i) 0x050 1) 0x6101 p (2 * i) with hz
  have hplans : z.plans = s.plans := by simp [hz]
  have hpair : z.pair i = { s.pair i with lastClass := cls, lastPart := p } := by
    have hu : z.units = (s.setPair i { s.pair i with lastClass := cls, lastPart := p }).units := by simp [hz]
    rw [State.pair, hu]
    exact State.setPair_pair_self ..
  have hserves : Serves z (2 * i) p := h.congr (by rw [hi, hpair]) hplans
  refine ⟨z, hplans, hpair, ?_⟩
  rw [← failUnit_of_serves hserves]
  simp [mismatchOp, hf, hsafe, hc, hp, hz]

theorem mismatchOp_hasFailed {s : State} {i cls p : Nat} (hf : s.pairFused i = false) (hsafe : (s.pair i).safe = true)
    (hc : coreFenced s (2 * i) = false) (h : Serves s (2 * i) p) (hcan : CanFail s p) :
    HasFailed (mismatchOp s i cls) p 0x6101 true (unitIdOf (2 * i)) ∧
      ((mismatchOp s i cls).pair i).lastClass = cls ∧ ((mismatchOp s i cls).pair i).lastPart = p := by
  obtain ⟨z, hplans, hpair, hu⟩ := mismatchOp_of_serves (cls := cls) hf hsafe hc h
  have hz : CanFail z p := hcan.of_plans hplans
  obtain ⟨f, hkept⟩ := (failStep_retunes hz 0x6101 true (unitIdOf (2 * i))).pair i
  rw [hu]
  exact ⟨failStep_hasFailed hz .., by rw [hkept, hpair], by rw [hkept, hpair]⟩

/-! ### The engines and the shared blocks (R148, R149, R328) -/

theorem unitIdOf_qSpec (q : Fin 4) : unitIdOf (qSpec q.val) = some (.engine q) := by
  fin_cases q <;> rfl

/-- What fails in an engine's item is counted, logged and fails the item against the engine. -/
theorem engineFail_hasFailed {s : State} {q : Fin 4} {p : Nat} (hr : runPart s (qSpec q.val) = some p) (h : CanFail s p) (cnt code : Nat) :
    HasFailed (engineFail s q.val cnt code) p code true (some (.engine q)) := by
  obtain ⟨r, hrun, -⟩ := Option.map_eq_some_iff.1 hr
  rw [engineFail, hrun, unitIdOf_qSpec]
  exact failItem_hasFailed (by simp) hr h ..

/-- The two results are compared for a safety-relevant partition. -/
theorem spectralMismatchOp_of_safety {s : State} {q p : Nat} (hr : runPart s (qSpec q) = some p) (h : s.isSafety p = true) :
    spectralMismatchOp s q = engineFail s q 0x070 0x610A := by
  simp [spectralMismatchOp, hr, h]

/-- A check of a shared block is counted, logged and fails the step of the item that it was made for, against no unit. -/
theorem sharedFail_hasFailed {s : State} {q p : Nat} (hr : runPart s q = some p) (h : CanFail s p) (cnt code unit : Nat) :
    HasFailed (sharedFail s q cnt code unit) p code true none := by
  obtain ⟨r, hrun, rfl⟩ := Option.map_eq_some_iff.1 hr
  rw [sharedFail, hrun]
  exact failStep_hasFailed (h.of_plans (by simp)) ..

/-- The Sieve runs an item twice for a safety-relevant partition. -/
theorem sieveMismatchOp_of_safety {s : State} {p : Nat} (h : s.isSafety p = true) :
    sieveMismatchOp s p = sharedFail s (qSieve p) 0x0E0 0x610B 0xFF := if_pos h

theorem tallyDupOp_hasFailed {s : State} {p : Nat} (h : CanFail s p) : HasFailed (tallyDupOp s p) p 0x610D true none :=
  failStep_hasFailed (h.of_plans (by simp)) ..

/-! ### An item that arrives damaged (R328) -/

/-- The item leaves its queue, its step is one that lost an item, and that step fails, after which every unit is settled. -/
theorem crcRefuse_hasFailed {s : State} {q : Nat} {x : QItem} (h : CanFail s x.part) : HasFailed (crcRefuse s q x) x.part 0x610E true none := by
  have hqueue : CutsWork s (s.setQueue q ((s.queue q).filter (fun y => y.id != x.id))) := State.setQueue_cutsWork (List.filter_subset_self _)
  have hdrop := (dropPrefetch_cutsWork _ x.part x.id).canFail (hqueue.canFail h).lost
  exact (settleUnits_cutsWork _).hasFailed (failStep_hasFailed (hdrop.of_plans (by simp)) ..)

theorem itemCrcOp_of_queue {s : State} {q : Nat} {x : QItem} {r : List QItem} (hq : s.queue q = r ++ [x]) (hx : x.proof = false) :
    itemCrcOp s q = crcRefuse s q x := by
  simp [itemCrcOp, hq, hx]

theorem whenUp_of_up {s : State} (h : s.phase = .up) (f : State → State) : whenUp f s = f s := if_pos h

/-- Settles O52: each checker's command is, at its instant, one of the failures above, for the step of the partition that the unit serves. -/
theorem checkersFailTheStep : Obligations.CheckersFailTheStep := by
  refine ⟨fun t i c p s hup hf hsafe hc hs h => ?_, fun t q p s hr h => ⟨fun hp => ?_, ?_⟩, fun t k p s hr hk h => ?_, fun t q p s hr h => ?_,
    fun t p s hup h => ?_, fun t q x r s hq hx h => ?_⟩
  · refine ⟨_, rfl, ?_⟩
    rw [whenUp_of_up (s := atTime t s) hup]
    exact mismatchOp_hasFailed hf hsafe hc hs h
  · refine ⟨_, rfl, ?_⟩
    rw [spectralMismatchOp_of_safety (s := atTime t s) hr hp]
    exact engineFail_hasFailed (s := atTime t s) hr h ..
  · exact ⟨_, rfl, engineFail_hasFailed (s := atTime t s) hr h ..⟩
  · refine ⟨_, rfl, ?_⟩
    rw [sieveMismatchOp_of_safety (s := atTime t s) hk]
    exact sharedFail_hasFailed (s := atTime t s) hr h ..
  · exact ⟨_, rfl, sharedFail_hasFailed (s := atTime t s) hr h ..⟩
  · refine ⟨_, rfl, ?_⟩
    rw [whenUp_of_up (s := atTime t s) hup]
    exact tallyDupOp_hasFailed h
  · refine ⟨_, rfl, ?_⟩
    rw [itemCrcOp_of_queue (s := atTime t s) hq hx]
    exact crcRefuse_hasFailed h

end Sys2Proof.Machine
end

section
/-! What a write of an index register does (R190, R319, R388, R483, R509), and of HOST_RD (R285): over a quiet link the value comes into force and what
the register shows is latched from the state as it stands. -/

namespace Sys2Proof.Machine

/-- A write of an RW register that its page keeps at its own address comes into force, and then latches what it names. -/
theorem hostWrite_rw {z : State} {w : Sender} {page off v first : Nat} {b : Block} (h : HostCan z w page) (hb : blockOf page = some (b, first))
    (h1 : off < 4096) (h2 : off % 4 = 0) (h3 : 0x040 ≤ off) (ha : accOf b off = .rw) (hk : regKey z b page off = addr page off) :
    hostWrite z w page off v = latchIndex (z.setForce (addr page off) v) b page off v := by
  rw [hostWrite_of_can h hb h1 h2, if_neg (by omega)]
  simp [writeBlock, ha, deadPage_of_can h b, hk]

/-- All bits of a value that fits are the value. -/
theorem bits_toNat {n : Nat} (v : BitVec (n + 1)) : bits v.toNat n 0 = v.toNat := by
  simp [bits]

theorem setForce_inForce_word (s : State) (k : Nat) {n : Nat} (hn : n ≤ 32) (v : BitVec n) : (s.setForce k v.toNat).inForce k = v.toNat := by
  rw [State.setForce_inForce_self]
  exact Nat.mod_eq_of_lt (v.isLt.trans_le (Nat.pow_le_pow_right (by decide) hn))

@[simp] theorem setLatch_latched_self (s : State) (a v : Nat) : latched (setLatch s a v) a = v % 2 ^ 32 := by
  simp [latched, setLatch]

theorem setLatch_latched_ne (s : State) {a b : Nat} (v : Nat) (h : b ≠ a) : latched (setLatch s a v) b = latched s b := by
  simp only [latched, setLatch, sget_sput_ne _ _ _ _ h]

/-- What the overwrites of a cycle come to after a write of HOST_RD changes no setting (R275). -/
theorem judgeOvers_inForce (s : State) (p hostRd k : Nat) : (judgeOvers s p hostRd).inForce k = s.inForce k := by
  have hforce := ((judgeOvers_frame (.refl [.regs, .plans] s) (List.Subset.refl _) : Frame _ s (judgeOvers s p hostRd)).same .settings (by decide)).1
  rw [State.inForce, hforce, State.inForce]

/-! ### What each index register latches -/

/-- A write of PT_INDEX shows the entry of the page of that number (R190). -/
theorem latchIndex_pressP (s : State) (p page v : Nat) :
    ((latchIndex s (.pressP p) page 0x05C v).part p).ptEntry = BitVec.ofNat 64 (pteWord (s.pte p (v % 2 ^ 32))) := by
  rw [latchIndex, if_pos rfl, State.modPart_part_self]

theorem latchIndex_instar (s : State) (page v : Nat) :
    (latchIndex s .instar page 0x044 v).plans.instarEntry = wordsOf (instarBytes (s.instarAt (bits v 11 0))) 8 := rfl

theorem latchIndex_st (s : State) (page v : Nat) :
    latched (latchIndex s .st page 0x05C v) (addr pgSt 0x060) = stCoreWord s (bits v 5 0) % 2 ^ 32 := setLatch_latched_self ..

theorem latchIndex_pwr (s : State) (page v : Nat) :
    latched (latchIndex s .pwr page 0x088 v) (addr page 0x08C) = pwrPairWord s (bits v 4 0) % 2 ^ 32 := setLatch_latched_self ..

/-- A write of STALLY_INDEX shows the count that the tally took last, with its step (R509). -/
theorem latchIndex_stally {s : State} {page v : Nat} {e : Nat × Nat} {r : List (Nat × Nat)} (h : (s.stally (bits v 11 0)).counts = e :: r) :
    latched (latchIndex s .stally page 0x04C v) (addr page 0x050) = e.1 % 2 ^ 32 ∧
      latched (latchIndex s .stally page 0x04C v) (addr page 0x054) = e.2 % 2 ^ 32 := by
  have hl : latchIndex s .stally page 0x04C v = setLatch (setLatch s (addr page 0x050) e.1) (addr page 0x054) e.2 := by simp [latchIndex, h]
  have hne : addr page 0x050 ≠ addr page 0x054 := by simp [addr]
  rw [hl]
  exact ⟨by rw [setLatch_latched_ne _ _ hne, setLatch_latched_self], setLatch_latched_self ..⟩

/-- The offset of a HOST_RD register names its partition. -/
theorem latchIndex_sieve (s : State) (p page v : Nat) : latchIndex s .sieve page (0x098 + 0x40 * p) v = judgeOvers s p v := by
  simp [latchIndex]

theorem accOf_sieve_hostRd (p : Fin 8) : accOf .sieve (0x098 + 0x40 * p.val) = .rw := by revert p; decide
theorem accOf_pressP_ptIndex (p : Nat) : accOf (.pressP p) 0x05C = .rw := rfl

/-- Settles O27: each of the six commands is one write of an RW register, and what it latches is read from a state in which that register alone has
changed. -/
theorem indexWritesLatch : Obligations.IndexWritesLatch := by
  refine ⟨fun t w p vpn s h => ⟨_, rfl, ?_⟩, fun t w i s h => ⟨_, rfl, ?_⟩, fun t w core s h => ⟨_, rfl, ?_⟩, fun t w pair s h => ⟨_, rfl, ?_⟩,
    fun t w i s h => ⟨_, rfl, ?_⟩, fun t w p v s h => ⟨_, rfl, ?_⟩⟩
  · rw [hostWrite_rw h (blockOf_pressP p) (by decide) (by decide) (by decide) (accOf_pressP_ptIndex _) rfl, latchIndex_pressP,
      Nat.mod_eq_of_lt vpn.isLt]
    exact ⟨rfl, setForce_inForce_word _ _ le_rfl vpn⟩
  · rw [hostWrite_rw (page := pgInstar) (b := .instar) h rfl (by decide) (by decide) (by decide) (by decide) rfl, latchIndex_instar, bits_toNat]
    exact ⟨rfl, setForce_inForce_word _ _ (by decide) i⟩
  · rw [hostWrite_rw (b := .st) h rfl (by decide) (by decide) (by decide) (by decide) rfl, latchIndex_st, bits_toNat]
    exact ⟨rfl, setForce_inForce_word _ _ (by decide) core⟩
  · rw [hostWrite_rw (page := pgPwr) (b := .pwr) h rfl (by decide) (by decide) (by decide) (by decide) rfl]
    exact ⟨(latchIndex_pwr ..).trans (by rw [bits_toNat]; rfl), setForce_inForce_word _ _ (by decide) pair⟩
  · rw [hostWrite_rw (page := pgStally) (b := .stally) h rfl (by decide) (by decide) (by decide) (by decide) rfl]
    refine ⟨setForce_inForce_word _ _ (by decide) i, fun e r he => latchIndex_stally (r := r) ?_⟩
    rw [bits_toNat]
    exact he
  · rw [hostWrite_rw (page := pgSieve) (b := .sieve) h rfl (by omega) (by omega) (by omega) (accOf_sieve_hostRd p) rfl, latchIndex_sieve,
      judgeOvers_inForce]
    exact setForce_inForce_word _ _ le_rfl v

end Sys2Proof.Machine
end

section
/-! Pages of the Press: what a bulk copy and a wipe leave to be read, and what the faults, the fills and the prefetches of a partition come to
(R167, R168, R172, R173). -/

namespace Sys2Proof.Machine

/-! ### Memory in pieces -/

theorem memGet_of_absent {m : List Host.Cell} {a : Nat} (h : ∀ c ∈ m, c.1 ≠ a) : memGet m a = blank a := by
  induction m with
  | nil => rfl
  | cons c m ih => exact (if_neg (h c List.mem_cons_self)).trans (ih fun d hd => h d (List.mem_cons_of_mem _ hd))

/-- A piece without an address leaves it to what follows. -/
theorem memGet_append_absent {l m : List Host.Cell} {a : Nat} (h : ∀ c ∈ l, c.1 ≠ a) : memGet (l ++ m) a = memGet m a := by
  induction l with
  | nil => rfl
  | cons c l ih => exact (if_neg (h c List.mem_cons_self)).trans (ih fun d hd => h d (List.mem_cons_of_mem _ hd))

/-- A piece without an address adds nothing to what precedes it. -/
theorem memGet_append_of_absent {l m : List Host.Cell} {a : Nat} (h : ∀ c ∈ m, c.1 ≠ a) : memGet (l ++ m) a = memGet l a := by
  induction l with
  | nil => exact memGet_of_absent h
  | cons c l ih => simp only [List.cons_append, memGet, ih]

/-- A filter by address keeps what an address that passes reads as. -/
theorem memGet_filter {f : Nat → Bool} {a : Nat} (m : List Host.Cell) (h : f a = true) : memGet (m.filter (fun c => f c.1)) a = memGet m a := by
  induction m with
  | nil => rfl
  | cons c m ih =>
    by_cases hc : f c.1 = true
    · simp only [List.filter_cons, hc, if_true, memGet, ih]
    · have hne : c.1 ≠ a := fun e => hc (e ▸ h)
      simp only [List.filter_cons, hc, Bool.false_eq_true, if_false, memGet, if_neg hne, ih]

/-- The cells of a range put at another place, without those that read as blank there. -/
def shifted (m : List Host.Cell) (src dst : Nat) : List Host.Cell :=
  (m.map (fun c => (c.1 - src + dst, c.2))).filter (fun c => decide (c.2 ≠ blank c.1))

theorem memGet_shifted {m : List Host.Cell} {lo src dst i : Nat} (h : memFrom m lo = true) (hlo : src ≤ lo)
    (hb : blank (src + i) = blank (dst + i)) : memGet (shifted m src dst) (dst + i) = memGet m (src + i) := by
  induction m generalizing lo with
  | nil => exact hb.symm
  | cons c m ih =>
    obtain ⟨j, v⟩ := c
    simp only [memFrom, Bool.and_eq_true, decide_eq_true_eq] at h
    obtain ⟨⟨hj, hv⟩, hm⟩ := h
    have ih := ih hm (by omega)
    unfold shifted at ih ⊢
    by_cases e : j = src + i
    · subst e
      have hkept : v ≠ blank (i + dst) := by rwa [Nat.add_comm, ← hb]
      rw [List.map_cons, List.filter_cons_of_pos (by simpa using hkept)]
      simp [memGet, Nat.add_comm]
    · have hkey : j - src + dst ≠ dst + i := by omega
      rw [List.map_cons, List.filter_cons]
      split <;> simp only [memGet, if_neg hkey, if_neg e, ih]

/-! ### Reading after a bulk copy -/

theorem mem_memRange {m : List Host.Cell} {a n : Nat} {c : Host.Cell} (h : c ∈ memRange m a n) : a ≤ c.1 ∧ c.1 < a + n := by
  simpa [memRange] using (List.mem_filter.1 h).2

theorem memFrom_memRange {m : List Host.Cell} (h : Memory.wf m = true) (a n : Nat) : memFrom (memRange m a n) a = true :=
  memFrom_high _ 0 a (memFrom_filter _ 0 h _) fun _ hc => (mem_memRange hc).1

theorem copyRam_mem (s : State) (src dst n : Nat) :
    (s.copyRam src dst n).mem = s.mem.filter (fun c => decide (c.1 < dst)) ++ shifted (memRange s.mem src n) src dst ++
      s.mem.filter (fun c => decide (dst + n ≤ c.1)) := rfl

/-- What is copied lies in the range that it is copied to. -/
theorem mem_shifted_memRange {m : List Host.Cell} {src dst n : Nat} {c : Host.Cell} (h : c ∈ shifted (memRange m src n) src dst) :
    dst ≤ c.1 ∧ c.1 < dst + n := by
  obtain ⟨d, hd, rfl⟩ := List.mem_map.1 (List.mem_filter.1 h).1
  have := mem_memRange hd
  dsimp only
  omega

/-- A byte copied reads as its source did, where what nothing has written reads the same in both places. -/
theorem State.rd_copyRam_in {s : State} {src dst n i : Nat} (h : Memory.wf s.mem = true) (hi : i < n) (hb : blank (src + i) = blank (dst + i)) :
    (s.copyRam src dst n).rd (dst + i) = s.rd (src + i) := by
  have hlo : ∀ c ∈ s.mem.filter (fun c => decide (c.1 < dst)), c.1 ≠ dst + i := fun c hc => by
    have := of_decide_eq_true (List.mem_filter.1 hc).2
    omega
  have hhi : ∀ c ∈ s.mem.filter (fun c => decide (dst + n ≤ c.1)), c.1 ≠ dst + i := fun c hc => by
    have := of_decide_eq_true (List.mem_filter.1 hc).2
    omega
  rw [State.rd, copyRam_mem, memGet_append_of_absent hhi, memGet_append_absent hlo, memGet_shifted (memFrom_memRange h src n) le_rfl hb]
  exact memGet_filter (f := fun a => decide (src ≤ a) && decide (a < src + n)) s.mem (by simp; omega)

/-- Every byte outside the range copied to reads as before. -/
theorem State.rd_copyRam_out (s : State) {src dst n a : Nat} (h : a < dst ∨ dst + n ≤ a) : (s.copyRam src dst n).rd a = s.rd a := by
  have hseg : ∀ c ∈ shifted (memRange s.mem src n) src dst, c.1 ≠ a := fun c hc => by
    have := mem_shifted_memRange hc
    omega
  rw [State.rd, copyRam_mem, State.rd]
  obtain h | h := h
  · have hhi : ∀ c ∈ s.mem.filter (fun c => decide (dst + n ≤ c.1)), c.1 ≠ a := fun c hc => by
      have := of_decide_eq_true (List.mem_filter.1 hc).2
      omega
    rw [memGet_append_of_absent hhi, memGet_append_of_absent hseg]
    exact memGet_filter (f := fun i => decide (i < dst)) s.mem (decide_eq_true h)
  · have hlo : ∀ c ∈ s.mem.filter (fun c => decide (c.1 < dst)), c.1 ≠ a := fun c hc => by
      have := of_decide_eq_true (List.mem_filter.1 hc).2
      omega
    rw [List.append_assoc, memGet_append_absent hlo, memGet_append_absent hseg]
    exact memGet_filter (f := fun i => decide (dst + n ≤ i)) s.mem (decide_eq_true h)

/-- Two places below the flash read alike while nothing has written them. -/
theorem blank_eq_of_lt {a b : Nat} (ha : a < flashBase) (hb : b < flashBase) : blank a = blank b := by
  rw [blank, blank, if_neg (by omega), if_neg (by omega)]

/-- A DRAM frame lies below the felt slices. -/
theorem dramFrame_end_le {b : Nat} (h : b < 917504) : dramFrame b + 65536 ≤ feltBase := by
  simp only [dramFrame, feltBase]
  omega

/-! ### Page-table entries -/

theorem State.pte_of_plans {s z : State} (h : z.plans = s.plans) (p k : Nat) : z.pte p k = s.pte p k := by
  rw [State.pte, State.part, h, State.pte, State.part]

@[simp] theorem State.setPte_pte_self (s : State) (p key : Nat) (e : Pte) : (s.setPte p key e).pte p key = e := by
  rw [State.pte, State.setPte, State.modPart_part_self]
  exact sget_sput_self ..

theorem State.setPte_pte_ne (s : State) {p key k : Nat} (e : Pte) (h : k ≠ key) : (s.setPte p key e).pte p k = s.pte p k := by
  rw [State.pte, State.setPte, State.modPart_part_self]
  exact sget_sput_ne _ _ _ _ h

@[simp] theorem State.setPte_rd (s : State) (p key : Nat) (e : Pte) (a : Nat) : (s.setPte p key e).rd a = s.rd a := rfl

theorem requestFill_plans (s : State) (p q : Nat) : (requestFill s p q).plans = s.plans :=
  (requestFill_frame (.refl [.regs, .press] s) (.refl _)).same .plans (by decide)

theorem requestFill_rd (s : State) (p q a : Nat) : (requestFill s p q).rd a = s.rd a := by
  have hmem : (requestFill s p q).mem = s.mem := (requestFill_frame (.refl [.regs, .press] s) (.refl _)).same .mem (by decide)
  rw [State.rd, hmem, State.rd]

/-! ### Faults (R167, R173) -/

/-- A fill that starts is that of its page. -/
theorem startFill_filling {s v : State} {p key : Nat} (h : startFill s p key = some v) : (v.pte p key).filling = true := by
  unfold startFill at h
  split at h
  · cases h
  · obtain rfl := Option.some.inj h
    rw [State.setPte_pte_self]

/-- The pages of the holds that a partition has released in this cycle. -/
def releasedNow (s : State) (p : Nat) : List Nat := if (s.part p).relAt = s.clk.clock then (s.part p).rels else []

/-- What a fault does with a page that is neither resident, nor on its way, nor poisoned. -/
def faultAway (s : State) (p key : Nat) : State :=
  match startFill ((releasedNow s p).foldl (fun s k => placeHold s p k) s) p key with
  | some v => ((releasedNow s p).foldl (fun s k => releaseHold s p k) v).bump (pgPressP p) 0x070 1
  | none => s.bump (pgPressP p) 0x088 1

theorem pageFaultOp_of_away {s : State} {p vpn key : Nat} {ro : Bool} (hr : resolve s p (vpn * 65536) = some (key, ro))
    (hv : (s.pte p key).valid = true) (hn : (s.pte p key).res = 0) (hf : (s.pte p key).filling = false) (hp : (s.pte p key).poison = false) :
    pageFaultOp s p vpn = faultAway s p key := by
  unfold pageFaultOp
  rw [hr]
  exact if_pos (by simp [hv, hn, hf, hp])

/-- The holds released in the cycle of the fault stand while a frame is looked for. -/
theorem faultAway_of_some {s v : State} {p key : Nat}
    (h : startFill ((releasedNow s p).foldl (fun s k => placeHold s p k) s) p key = some v) :
    faultAway s p key = ((releasedNow s p).foldl (fun s k => releaseHold s p k) v).bump (pgPressP p) 0x070 1 := by
  rw [faultAway, h]

theorem faultAway_of_none {s : State} {p key : Nat}
    (h : startFill ((releasedNow s p).foldl (fun s k => placeHold s p k) s) p key = none) :
    faultAway s p key = s.bump (pgPressP p) 0x088 1 := by
  rw [faultAway, h]

/-! ### Fills (R168, R173) -/

/-- A page once its fill from a backing frame has ended: resident, clean, with the frame's bytes. -/
def filledPage (s : State) (p key b : Nat) : State :=
  let e := s.pte p key
  let z := requestFill (s.copyRam (dramFrame b) (feltFrame e.loc e.frame) 65536) p e.loc
  z.setPte p key { e with res := 2, filling := false, dirty := false, used := z.usNow }

theorem pageFillOp_of_filling {s : State} {p vpn key b : Nat} {ro : Bool} (hr : resolve s p (vpn * 65536) = some (key, ro))
    (hf : (s.pte p key).filling = true) (hb : (s.pte p key).backing = some b) : pageFillOp s p vpn = shrinkFelt 1504 (filledPage s p key b) p := by
  unfold pageFillOp
  rw [hr]
  dsimp only
  split
  · next b' hb' =>
    obtain rfl : b = b' := Option.some.inj (hb.symm.trans hb')
    exact if_pos hf
  · next hnone => exact absurd (hnone.symm.trans hb) nofun

theorem filledPage_pte_self (s : State) (p key b : Nat) :
    ((filledPage s p key b).pte p key).res = 2 ∧ ((filledPage s p key b).pte p key).filling = false ∧
      ((filledPage s p key b).pte p key).dirty = false := by
  rw [filledPage, State.setPte_pte_self]
  exact ⟨rfl, rfl, rfl⟩

theorem filledPage_pte_ne (s : State) (p b : Nat) {key k : Nat} (h : k ≠ key) : (filledPage s p key b).pte p k = s.pte p k := by
  rw [filledPage, State.setPte_pte_ne _ _ h, State.pte_of_plans (requestFill_plans ..)]
  rfl

/-- Memory is as the bulk copy leaves it. -/
theorem filledPage_rd (s : State) (p key b a : Nat) :
    (filledPage s p key b).rd a = (s.copyRam (dramFrame b) (feltFrame (s.pte p key).loc (s.pte p key).frame) 65536).rd a := by
  rw [filledPage, State.setPte_rd, requestFill_rd]

/-- The page's frame holds the bytes of its backing frame. -/
theorem filledPage_rd_in {s : State} {p key b o : Nat} (h : Memory.wf s.mem = true) (hb : b < 917504) (ho : o < 65536)
    (hl : feltFrame (s.pte p key).loc (s.pte p key).frame + 65536 ≤ sheetBase) :
    (filledPage s p key b).rd (feltFrame (s.pte p key).loc (s.pte p key).frame + o) = s.rd (dramFrame b + o) := by
  have hd := dramFrame_end_le hb
  have hs : sheetBase < flashBase := by decide
  have hf : feltBase < sheetBase := by decide
  rw [filledPage_rd]
  exact State.rd_copyRam_in h ho (blank_eq_of_lt (by omega) (by omega))

/-- Nothing is evicted where the quota is met or another fill is pending. -/
theorem shrinkFelt_of_met {s : State} {p : Nat} (h : feltResident s p ≤ quotaFelt s p ∨ (s.part p).ptes.any (fun e => e.2.filling) = true) (n : Nat) :
    shrinkFelt n s p = s := by
  cases n with
  | zero => rfl
  | succ n =>
    refine if_neg fun hc => ?_
    obtain ⟨hq, hn⟩ := hc
    obtain h | h := h
    · omega
    · rw [h] at hn
      cases hn

/-! ### Prefetches (R172) -/

/-- What has been served is passed over. -/
theorem serveList_served (s : State) (p : Nat) {l : List (Nat × Nat × Bool)} (h : ∀ e ∈ l, e.2.2 = true) (pre r : List (Nat × Nat × Bool)) :
    serveList s p pre (l ++ r) = serveList s p (pre ++ l) r := by
  induction l generalizing pre with
  | nil => simp
  | cons e l ih =>
    obtain ⟨key, id, served⟩ := e
    obtain rfl : served = true := h _ List.mem_cons_self
    rw [List.cons_append, serveList, ih (fun e he => h e (List.mem_cons_of_mem _ he)), List.append_assoc, List.singleton_append]

/-- The first prefetch that has not been served, of an item still queued or running, whose page is away. -/
theorem serveList_of_startFill {s v : State} {p key id : Nat} (hi : itemLive s id = true) (hv : (s.pte p key).valid = true)
    (hn : (s.pte p key).res = 0) (hf : (s.pte p key).filling = false) (hs : startFill s p key = some v) (pre r : List (Nat × Nat × Bool)) :
    serveList s p pre ((key, id, false) :: r) = v.modPart p (fun x => { x with prefetch := pre ++ (key, id, true) :: r }) := by
  simp [serveList, hi, hv, hn, hf, hs]

theorem serveList_of_no_frame {s : State} {p key id : Nat} (hi : itemLive s id = true) (hv : (s.pte p key).valid = true)
    (hn : (s.pte p key).res = 0) (hf : (s.pte p key).filling = false) (hs : startFill s p key = none) (pre r : List (Nat × Nat × Bool)) :
    serveList s p pre ((key, id, false) :: r) = (s.modPart p (fun x => { x with prefetch := pre ++ r })).bump (pgPressP p) 0x090 1 := by
  simp [serveList, hi, hv, hn, hf, hs]

/-- Settles O48: a fault is the start of its page's fill, a fill that ends is the copy of the backing frame and what the quota then evicts, and a prefetch
is served once those before it have been. -/
theorem pagesFillFromTheirBacking : Obligations.PagesFillFromTheirBacking := by
  refine ⟨fun t p vpn key ro s hr hv hn hf hp held hheld => ?_, fun t p vpn key b ro s hr hf hback hb hwf => ?_,
    fun t p s pre key id r hl hpre hi hv hn hf => ?_⟩
  · have hop : exec (.pageFault t p vpn) s = .next (faultAway (atTime t s) p.val key) :=
      congrArg _ (pageFaultOp_of_away (s := atTime t s) hr hv hn hf hp)
    obtain rfl : held = releasedNow (atTime t s) p.val := hheld
    rw [hop]
    exact ⟨fun v hs => ⟨congrArg _ (faultAway_of_some hs), startFill_filling hs⟩, fun hs => congrArg _ (faultAway_of_none hs)⟩
  · have hop : exec (.pageFillComplete t p vpn) s = .next (shrinkFelt 1504 (filledPage (atTime t s) p.val key b) p.val) :=
      congrArg _ (pageFillOp_of_filling (s := atTime t s) hr hf hback)
    obtain ⟨hres, hfilling, hdirty⟩ := filledPage_pte_self (atTime t s) p.val key b
    refine ⟨_, hop, hres, hfilling, hdirty, fun k hk => filledPage_pte_ne _ _ _ hk, fun o ho hl => filledPage_rd_in hwf hb ho hl,
      fun a ha => ?_, fun hq => ?_⟩
    · rw [filledPage_rd]
      exact State.rd_copyRam_out _ ha
    · rw [hop, shrinkFelt_of_met hq]
  · have hop : exec (.prefetchServe t p) s = .next (serveList (atTime t s) p.val pre ((key, id, false) :: r)) := by
      have hserved := serveList_served (atTime t s) p.val hpre [] ((key, id, false) :: r)
      rw [← hl] at hserved
      exact congrArg _ hserved
    rw [hop]
    exact ⟨fun v hs => congrArg _ (serveList_of_startFill (s := atTime t s) hi hv hn hf hs ..),
      fun hs => congrArg _ (serveList_of_no_frame (s := atTime t s) hi hv hn hf hs ..)⟩

end Sys2Proof.Machine
end

section
/-! What an abort leaves of the frames retired (R177, R182), and what a fabric parity error comes to, retransmitted once or failing twice (R180). -/

namespace Sys2Proof.Machine

/-! ### Frames retired -/

/-- s came from a without a frame retired or taken back. -/
structure KeepsRetired (a s : State) : Prop where
  sheet : s.aon.retiredSheet = a.aon.retiredSheet
  felt : s.aon.retiredFelt = a.aon.retiredFelt
  dram : s.press.dramRetired = a.press.dramRetired

theorem KeepsRetired.of_parts {a s : State} (ha : s.aon = a.aon) (hp : s.press = a.press) : KeepsRetired a s := ⟨by rw [ha], by rw [ha], by rw [hp]⟩

theorem KeepsRetired.of_frame {W : List Field} {a s : State} (h : Frame W a s) (ha : .aon ∉ W) (hp : .press ∉ W) : KeepsRetired a s :=
  .of_parts (h.same .aon ha) (h.same .press hp)

theorem KeepsRetired.refl (s : State) : KeepsRetired s s := .of_parts rfl rfl

theorem KeepsRetired.trans {a s u : State} (h : KeepsRetired a s) (k : KeepsRetired s u) : KeepsRetired a u :=
  ⟨k.sheet.trans h.sheet, k.felt.trans h.felt, k.dram.trans h.dram⟩

theorem KeepsRetired.foldl {β : Type} {f : State → β → State} (hf : ∀ s b, KeepsRetired s (f s b)) (l : List β) (s : State) :
    KeepsRetired s (l.foldl f s) := by
  induction l generalizing s with
  | nil => exact .refl s
  | cons b l ih => exact (hf s b).trans (ih _)

theorem KeepsRetired.foldl_fst {β γ : Type} {f : State × γ → β → State × γ} (hf : ∀ s b, KeepsRetired s.1 (f s b).1) (l : List β) (s : State × γ) :
    KeepsRetired s.1 (l.foldl f s).1 := by
  induction l generalizing s with
  | nil => exact .refl s.1
  | cons b l ih => exact (hf s b).trans (ih _)

/-! ### Requests, accesses and stores: the arbiters' part of the Press alone changes -/

theorem grantOne_keepsRetired (s : State) (port : Nat) : KeepsRetired s (grantOne s port) := by
  unfold grantOne
  dsimp only
  split
  · exact .refl s
  split
  · exact .refl s
  split <;> constructor <;> simp

theorem grantAll_keepsRetired (port n : Nat) (s : State) : KeepsRetired s (grantAll port n s) := by
  induction n generalizing s with
  | zero => exact .refl s
  | succ n ih => exact (grantOne_keepsRetired s port).trans (ih _)

theorem serveArbs_keepsRetired (s : State) : KeepsRetired s (serveArbs s) := by
  unfold serveArbs
  split
  · exact .refl s
  · extract_lets s1
    have h1 : KeepsRetired s s1 := .foldl (fun s port => grantAll_keepsRetired port _ s) _ s
    clear_value s1
    exact h1.trans ⟨rfl, rfl, rfl⟩

theorem request_keepsRetired (s : State) (r : Req) : KeepsRetired s (request s r) := by
  unfold request
  extract_lets s1
  have h1 : KeepsRetired s s1 := by
    unfold s1
    split
    · exact .refl s
    · exact serveArbs_keepsRetired s
  clear_value s1
  exact h1.trans ⟨rfl, rfl, rfl⟩

theorem grantAccess_keepsRetired (s : State) (cls up : Nat) (e : Pte) : KeepsRetired s (grantAccess s cls up e) := by
  unfold grantAccess
  split
  · exact .refl s
  · exact (KeepsRetired.of_parts rfl rfl : KeepsRetired s s.tick.tick).trans (request_keepsRetired ..)

theorem touchPage_keepsRetired (s : State) (p cls up va : Nat) : KeepsRetired s (touchPage s p cls up va) := by
  unfold touchPage
  split
  · dsimp only
    split
    · exact (grantAccess_keepsRetired ..).trans (.of_parts rfl rfl)
    · exact .refl s
  · exact .refl s

theorem touchPages_keepsRetired (s : State) (p up : Nat) (l : List Nat) : KeepsRetired s (touchPages s p up l) :=
  .foldl (fun _ _ => touchPage_keepsRetired ..) _ s

theorem touchRange_keepsRetired (s : State) (p cls va n : Nat) : KeepsRetired s (touchRange s p cls va n) :=
  .foldl (fun _ _ => touchPage_keepsRetired ..) _ s

theorem takeWrite_keepsRetired (s : State) (src p a : Nat) (data : Bytes) : KeepsRetired s (takeWrite s src p a data).1 := by
  unfold takeWrite
  extract_lets can status
  dsimp only
  split
  · exact (touchRange_keepsRetired ..).trans (.of_frame (partStore_frame (.refl [.mem, .plans] _) (.refl _)) (by decide) (by decide))
  · exact .of_parts (by simp) (by simp)

theorem sendLine_keepsRetired (s : State) (p : Nat) (q : Option Nat) (e : Nat × Nat × Nat × Nat) : KeepsRetired s (sendLine s p q e).1 := by
  unfold sendLine
  extract_lets data s1
  have h1 : KeepsRetired s s1 := touchRange_keepsRetired ..
  split
  · exact h1.trans (takeWrite_keepsRetired ..)
  · next s2 _ =>
    have h2 : KeepsRetired s1 s2 := .of_parts rfl rfl
    exact (h1.trans h2).trans (.of_frame (sirForward_frame (.refl [.out, .fresh, .regs, .log, .net] s2) (.refl _)) (by decide) (by decide))

theorem sendWritten_keepsRetired (s : State) (p : Nat) (q : Option Nat) (vas : List Nat) : KeepsRetired s (sendWritten s p q vas).1 := by
  unfold sendWritten
  refine KeepsRetired.foldl_fst (s := (s, false)) (fun a e => ?_) _
  exact sendLine_keepsRetired a.1 p q e

/-! ### Aborts -/

theorem abortUnit_keepsRetired (s : State) (q : Nat) : KeepsRetired s (abortUnit s q) := by
  unfold abortUnit
  split
  · exact .refl s
  next r _ =>
  extract_lets p s1 _ _ s2 put s3 _ _ s4 s5
  have h1 : KeepsRetired s s1 := by
    unfold s1
    split
    · exact .of_frame (account_frame (.refl [.fresh, .regs, .units] s) (.refl _)) (by decide) (by decide)
    · split
      · exact .of_frame (accountEngine_frame (.refl [.fresh, .regs, .plans] s) (.refl _)) (by decide) (by decide)
      · exact .refl s
  have h3 : KeepsRetired s2 s3 := by
    unfold s3
    split
    · exact .refl s2
    · have hw : Frame [.fresh, .mem, .plans] s2 (partWrites s2 p put).tick.tick :=
        State.tick_frame (State.tick_frame (partWrites_frame (.refl _ s2) (by decide)) (by decide)) (by decide)
      exact (KeepsRetired.of_frame hw (by decide) (by decide)).trans (sendWritten_keepsRetired ..)
  have h5 : KeepsRetired s3 s5 := .of_parts rfl rfl
  refine ((h1.trans (touchPages_keepsRetired ..)).trans (h3.trans h5)).trans ?_
  clear_value s5
  split
  · exact .of_frame (settleCore_frame (undefUnit_frame (.refl [.fresh, .regs, .units] s5) (by decide)) (.refl _)) (by decide) (by decide)
  split
  · exact .refl s5
  split
  · next res _ =>
    split
    · exact .of_frame (cutSieve_frame (sieveCounts_frame (.refl [.fresh, .regs, .plans, .log] s5) (by decide)) (by decide)) (by decide) (by decide)
    · exact .of_parts (by simp [cutSieve]) (by simp [cutSieve])
  · exact .refl s5

theorem clearQueue_keepsRetired (p : Nat) (s : State) (q : Nat) : KeepsRetired s (clearQueue p s q) := by
  unfold clearQueue
  dsimp only
  split
  · exact .of_frame (frame_foldl _ (State.setQueue_frame (.refl [.plans] s) (.refl _)) fun _ _ h => dropPrefetch_frame h (.refl _)) (by decide) (by decide)
  · exact .refl s

theorem abortStep_keepsRetired (s : State) (p : Nat) : KeepsRetired s (abortStep s p) := by
  rw [abortStep_eq]
  have hrun : KeepsRetired s (abortRunning s p) := .foldl (fun _ _ => abortUnit_keepsRetired ..) _ s
  exact (hrun.trans (.foldl (clearQueue_keepsRetired p) allQueues _)).trans
    (.of_frame (settleUnits_frame (.refl [.fresh, .regs, .units] _) (.refl _)) (by decide) (by decide))

theorem abortItem_keepsRetired (s : State) (q : Nat) : KeepsRetired s (abortItem s q) := by
  unfold abortItem
  split
  · exact .refl s
  · exact (abortUnit_keepsRetired s q).trans (.of_parts rfl rfl)

/-- A failure that blames no unit records no strike, and so fences nothing. -/
theorem failStep_keepsRetired (s : State) (p code : Nat) (replayable : Bool) : KeepsRetired s (failStep s p code replayable none) := by
  unfold failStep
  dsimp only
  split
  · exact .refl s
  split
  · exact (KeepsRetired.of_parts rfl rfl : KeepsRetired s (s.modStep p _)).trans (abortStep_keepsRetired _ p)
  · exact .refl s

theorem failItem_keepsRetired (s : State) (q code : Nat) (replayable : Bool) : KeepsRetired s (failItem s q code replayable none) := by
  unfold failItem
  split
  · exact .refl s
  · exact (abortItem_keepsRetired s q).trans (failStep_keepsRetired ..)

/-! ### What is counted and logged -/

/-- A log entry that is formed while MP runs (R450, R454). -/
theorem logEntryOf_logged {a s : State} (hl : s.log = a.log) (hc : s.clk = a.clk) (hp : (s.proc 0).st = .run) (code part unit step : Nat)
    (spot : Option (Option Nat × Nat)) : Logged a (s.logEntryOf code part unit step spot) code := by
  rw [State.logEntryOf, if_neg fun h => h.1 hp]
  exact ⟨_, by rw [hl], rfl, by rw [hc]⟩

/-- Of the counters a log entry advances none but that of the entries lost (R450). -/
theorem logEntryOf_counter (s : State) (code part unit step : Nat) (spot : Option (Option Nat × Nat)) {page off : Nat}
    (h : addr page off ≠ addr 0x003 0x0A0) : (s.logEntryOf code part unit step spot).counter page off = s.counter page off := by
  unfold State.logEntryOf
  split
  · exact State.bump_counter_ne s 1 h
  · rfl

/-! ### Fabric parity errors (R180, R184) -/

/-- The partition of the item that a transfer serves. -/
def transferPart (s : State) (q : Option Nat) : Option Nat := q.bind (runPart s)

/-- A fabric parity error is counted and logged: with page and frame the second time. -/
def fabricLogged (s : State) (second : Bool) (q : Option Nat) : State :=
  let s := s.bump pgPress 0x058 1
  let p := transferPart s q
  let spot := transferSpot s q
  s.logEntryOf (if second then 0x2107 else 0x2103) (p.getD 0xFF) 0xFF (match p with | some p => stepNumber (s.part p) | none => 0)
    (if second then some (spot.1.map (·.2), spot.2) else none)

theorem fabricParityOp_first (s : State) (q : Option Nat) : fabricParityOp s false q = fabricLogged s false q := by
  cases q <;> rfl

theorem fabricParityOp_second_none (s : State) : fabricParityOp s true none = fabricLogged s true none := rfl

theorem fabricParityOp_second_some (s : State) (q : Nat) : fabricParityOp s true (some q) = failItem (fabricLogged s true (some q)) q 0x2107 true none := rfl

theorem fabricLogged_frame (s : State) (second : Bool) (q : Option Nat) : Frame [.regs, .log, .fresh] s (fabricLogged s second q) :=
  State.logEntryOf_frame (State.bump_frame (.refl _ s) (by decide)) (by decide)

theorem fabricLogged_counter (s : State) (second : Bool) (q : Option Nat) :
    (fabricLogged s second q).counter pgPress 0x058 = (s.counter pgPress 0x058 + 1) % 2 ^ 64 :=
  (logEntryOf_counter _ _ _ _ _ _ (by decide)).trans (State.bump_counter_self s 1 rfl)

theorem fabricLogged_logged {s : State} (h : (s.proc 0).st = .run) (q : Option Nat) : Logged s (fabricLogged s false q) 0x2103 :=
  logEntryOf_logged (by simp) (by simp) (by simpa [State.proc] using h) ..

/-- Settles O50: the first error is no more than what is counted and logged; a second one fails the item of the transfer, and an abort retires no
frame. -/
theorem fabricErrorsAreRetransmitted : Obligations.FabricErrorsAreRetransmitted := by
  refine fun t b s hup => ⟨⟨_, rfl, ?_⟩, ⟨_, rfl, ?_⟩⟩
  · rw [whenUp_of_up (s := atTime t s) hup, fabricParityOp_first]
    exact ⟨fabricLogged_counter .., fun h => fabricLogged_logged (s := atTime t s) h _, (fabricLogged_frame ..).same⟩
  · rw [whenUp_of_up (s := atTime t s) hup]
    have hlog := fabricLogged_frame (atTime t s) true (byQueue b)
    have hkeep : KeepsRetired (atTime t s) (fabricLogged (atTime t s) true (byQueue b)) := .of_frame hlog (by decide) (by decide)
    cases b with
    | none => exact ⟨hkeep.sheet, hkeep.felt, hkeep.dram, nofun⟩
    | some q =>
      have hfail := hkeep.trans (failItem_keepsRetired _ (queueCode q) 0x2107 true)
      refine ⟨hfail.sheet, hfail.felt, hfail.dram, fun q' p hq hr hc => ?_⟩
      obtain rfl := Option.some.inj hq
      exact failItem_hasFailed (s := atTime t s) (hlog.same .plans (by decide)) hr hc ..

end Sys2Proof.Machine
end

section
/-! A page in a DRAM frame that fails while the page is also marked as on its way into felt: its recovery looks for a felt frame, not for a DRAM frame
(R178), so that what is said of a lost DRAM-home frame does not hold of it. -/

namespace Sys2Proof.Machine

/-- Where the last number of a range alone is in use, the number taken is one below it. -/
theorem pickFree_last_used (s : State) (base : Nat) {n : Nat} (hn : 0 < n) : pickFree s base (n + 1) [base + n] = some (base + s.freeVal n) := by
  have hfree : s.freeVal n < n := by
    rw [State.freeVal, if_neg (by omega)]
    exact Nat.mod_lt _ hn
  have hmany : ¬ n = 0 := by omega
  simp [pickFree, skipUsed, hfree, hmany]

/-- An unwritten page of SOURCE ZERO that has its home in the last DRAM frame, without a backing frame, and yet a fill is in progress for it. -/
def fillingHomePage : Pte := { Pte.reset with valid := true, res := 3, frame := 917503, filling := true }

/-- The state after reset, but that partition 0 has that page under key 5; its felt quota is 0. -/
def fillingHome : State := State.reset.setPart 0 { PartSt.reset with ptes := [(5, fillingHomePage)] }

/-- The same once the frame has been retired. -/
def fillingHomeRetired : State := { atTime 0 fillingHome with press := { fillingHome.press with dramRetired := insNat 917503 fillingHome.press.dramRetired } }

theorem pickDram_fillingHomeRetired : pickDram fillingHomeRetired = some (32768 + fillingHomeRetired.freeVal 884735) := by
  have hused : dramUsed fillingHomeRetired = [32768 + 884735] := by decide +kernel
  rw [pickDram, hused]
  exact pickFree_last_used _ _ (by decide)

/-- No felt frame is free within a quota of 0, so the page is poisoned. -/
theorem dramError_fillingHome_poisons : ((dramError (atTime 0 fillingHome) 917503 true none).pte 0 5).poison = true := by decide +kernel

/-- Refutes O51: nothing said of a lost DRAM-home frame keeps the page from being marked as filling too. Of such a page the recovery goes by the fill in
progress: with no felt frame to be had the page is poisoned, though it was never written, comes from SOURCE ZERO, and a DRAM frame is free. -/
theorem not_memoryErrorsRetireFrames : ¬ Obligations.MemoryErrorsRetireFrames := by
  rintro ⟨-, -, hrecover, -⟩
  have hfree : fillingHomeRetired.freeVal 884735 < 884735 := Nat.mod_lt _ (by decide)
  obtain ⟨u, hexec, -, -, -, hhome, -, -⟩ := hrecover 0 917503 0 5 _ false fillingHomePage none fillingHome rfl (by decide) (by decide +kernel)
    (by decide +kernel) (by decide +kernel) (by omega) pickDram_fillingHomeRetired rfl
  obtain ⟨-, hkept, -⟩ := hhome rfl rfl rfl rfl rfl
  have hu : u = dramError (atTime 0 fillingHome) 917503 true none := (Host.Outcome.next.inj hexec).symm
  rw [hu, dramError_fillingHome_poisons] at hkept
  cases hkept

end Sys2Proof.Machine
end

section
/-! Hold waits (R224–R226, R318): a mark on a member changes nothing but that member's entry in the wait of its group, and a group whose members are
all resolved assembles with the members that HOLD_LIMIT resolved as its late ones. -/

namespace Sys2Proof.Machine

/-! ### A member's mark -/

/-- A channel keeps its owner where the registers stay. -/
theorem chanOwner_of_regs {s u : State} (h : u.regs = s.regs) (ch : Nat) : chanOwner u ch = chanOwner s ch := by
  simp only [chanOwner, State.partReg, State.inForce, h]

/-- The entry of a channel among a group's members, once the channel is marked. -/
theorem find?_marked (ms : List (Nat × Nat)) (ch v : Nat) :
    (ms.map (fun m => if m.1 = ch then (ch, v) else m)).find? (fun m => m.1 == ch) = (ms.find? (fun m => m.1 == ch)).map (fun _ => (ch, v)) := by
  induction ms with
  | nil => rfl
  | cons m ms ih =>
    by_cases hm : m.1 = ch
    · simp [hm]
    · simpa [hm] using ih

/-- The same among the waits of a step. -/
theorem findSome?_marked (ws : List HoldWait) (ch v : Nat) :
    (ws.map (fun w => { w with members := w.members.map (fun m : Nat × Nat => if m.1 = ch then (ch, v) else m) })).findSome?
        (fun w => w.members.find? (fun m => m.1 == ch)) =
      (ws.findSome? (fun w => w.members.find? (fun m => m.1 == ch))).map (fun _ => (ch, v)) := by
  induction ws with
  | nil => rfl
  | cons w ws ih =>
    rw [List.map_cons, List.findSome?_cons, List.findSome?_cons, find?_marked, ih]
    cases w.members.find? (fun m => m.1 == ch) <;> rfl

/-- A member that waits stands as it was marked. -/
theorem waitOf_markMember {s : State} {ch p tick mark : Nat} (h : waitOf s ch = some (p, tick, mark)) (v : Nat) :
    waitOf (markMember s p ch v) ch = some (p, tick, v) := by
  unfold waitOf at h ⊢
  rw [chanOwner_of_regs (s := s) (u := markMember s p ch v) rfl]
  cases ho : chanOwner s ch with
  | none => rw [ho] at h; cases h
  | some q =>
    rw [ho] at h
    dsimp only at h ⊢
    cases hs : (s.part q).step with
    | none => rw [hs] at h; cases h
    | some st =>
      rw [hs] at h
      obtain ⟨m, hm, he⟩ := Option.map_eq_some_iff.1 h
      obtain ⟨rfl, rfl, -⟩ : q = p ∧ st.tick = tick ∧ m.2 = mark := by simpa using he
      rw [markMember, State.modStep_part_self, hs]
      simp [findSome?_marked, hm]

/-! ### Assembly, HOLD_LIMIT and END -/

/-- The members that HOLD_LIMIT resolved. -/
def lateMembers (w : HoldWait) : List Nat := w.members.filterMap (fun m => if m.2 = 2 then some m.1 else none)

theorem mem_lateMembers (w : HoldWait) (ch : Nat) : ch ∈ lateMembers w ↔ (ch, 2) ∈ w.members := by
  simp only [lateMembers, List.mem_filterMap, Option.ite_none_right_eq_some, Option.some.injEq]
  constructor
  · rintro ⟨⟨c, v⟩, hm, rfl, rfl⟩
    exact hm
  · exact fun h => ⟨_, h, rfl, rfl⟩

theorem holdAssemblyOp_of_open {s : State} {p g : Nat} {st : StepRec} {w : HoldWait} (hs : (s.part p).step = some st)
    (hw : st.waits.find? (fun w => w.group == g) = some w) (h : holdResolved s w st.tick = false) : holdAssemblyOp s p g = s := by
  simp [holdAssemblyOp, hs, hw, h]

theorem holdAssemblyOp_of_resolved {s : State} {p g : Nat} {st : StepRec} {w : HoldWait} (hs : (s.part p).step = some st)
    (hw : st.waits.find? (fun w => w.group == g) = some w) (h : holdResolved s w st.tick = true) :
    holdAssemblyOp s p g = startStep p (assembleGroup s p g (lateMembers w)) := by
  simp only [holdAssemblyOp, hs, hw, h, if_true]
  rfl

theorem holdLimitOp_of_due {s : State} {ch p tick : Nat} (hw : waitOf s ch = some (p, tick, 0)) (ho : settledMember s ch tick = false)
    (hd : tick + (s.chanCfg ch).holdLimit * 1000000 ≤ s.clk.dev) : holdLimitOp s ch = markMember s p ch 2 := by
  simp [holdLimitOp, hw, ho, hd]

theorem endOp_of_not_hold {s : State} {ch : Nat} (h : (s.chanCfg ch).hold = false) : endOp s ch = s := by simp [endOp, h]

theorem endOp_of_no_wait {s : State} {ch : Nat} (h : (s.chanCfg ch).hold = true) (hw : waitOf s ch = none) :
    endOp s ch = s.setChan ch { s.chan ch with endLatched := true } := by simp [endOp, h, hw]

theorem endOp_of_wait {s : State} {ch p tick : Nat} (h : (s.chanCfg ch).hold = true) (hw : waitOf s ch = some (p, tick, 0)) :
    endOp s ch = markMember s p ch 1 := by simp [endOp, h, hw]

/-- END_HOLD is END on the channel's command register, and does nothing else (R225). -/
theorem execEndHold_of_can {t : Nat} {w : Sender} {ch : Fin 32} {s : State} (h : HostCan (atTime t s) w (pgChan ch.val)) :
    exec (.endHold t w ch) s = .next (endOp (atTime t s) ch.val) := congrArg Host.Outcome.next (hostWrite_chan h 2)

/-- Settles O38: by the rule of each of the three commands; the waits do not move with the clock. -/
theorem holdGroupsResolve : Obligations.HoldGroupsResolve := by
  refine ⟨fun t p g s st w hs hw => ⟨fun h => ?_, fun h => ?_⟩, fun t ch p tick s hw ho hd => ?_,
    fun t w ch s hcan => ⟨fun h => ?_, fun h hw => ?_, fun p tick h hw => ?_⟩⟩
  · exact congrArg Host.Outcome.next (holdAssemblyOp_of_open (s := atTime t s) hs hw h)
  · exact ⟨lateMembers w, mem_lateMembers w, congrArg Host.Outcome.next (holdAssemblyOp_of_resolved (s := atTime t s) hs hw h)⟩
  · refine ⟨markMember (atTime t s) p ch.val 2, congrArg Host.Outcome.next (holdLimitOp_of_due (s := atTime t s) hw ho hd), ?_, rfl, rfl⟩
    exact waitOf_markMember (s := atTime t s) hw 2
  · rw [execEndHold_of_can hcan, endOp_of_not_hold (s := atTime t s) h]
  · rw [execEndHold_of_can hcan, endOp_of_no_wait (s := atTime t s) h hw, atTime_chan]
  · refine ⟨markMember (atTime t s) p ch.val 1, ?_, waitOf_markMember (s := atTime t s) hw 1, rfl⟩
    rw [execEndHold_of_can hcan, endOp_of_wait (s := atTime t s) h hw]

end Sys2Proof.Machine
end

section
/-! Slots of the Vat (R207–R218): what a channel's slots read after an update, and how a frame ends in its channel's history. -/

namespace Sys2Proof.Machine

theorem State.chan_of_vat {s u : State} (h : u.vat = s.vat) (ch : Nat) : u.chan ch = s.chan ch := by
  simp only [State.chan, h]

theorem State.slot_of_vat {s u : State} (h : u.vat = s.vat) (ch k : Nat) : u.slot ch k = s.slot ch k := by
  rw [State.slot, State.slot, State.chan_of_vat h]

theorem lookup_filter_key_ne {α : Type} (l : List (Nat × α)) (k : Nat) : (l.filter (fun e => e.1 != k)).lookup k = none := by
  rw [List.lookup_eq_none_iff]
  intro e he
  have hne : e.1 ≠ k := by simpa using (List.mem_filter.1 he).2
  simpa using hne.symm

@[simp] theorem slotOf_setSlot_self (x : ChanSt) (k : Nat) (v : Option Slot) : slotOf (Machine.setSlot x k v) k = v := by
  cases v with
  | none => exact lookup_filter_key_ne ..
  | some z =>
    have hlow : ((x.slots.filter (fun e => e.1 != k)).filter (fun e => e.1 < k)).lookup k = none := by
      rw [List.lookup_eq_none_iff]
      intro e he
      have hlt : e.1 < k := by simpa using (List.mem_filter.1 he).2
      simpa using hlt.ne'
    rw [slotOf, Machine.setSlot, List.lookup_append, hlow, List.lookup_cons_self, Option.none_or]

@[simp] theorem State.setSlot_slot_self (s : State) (ch k : Nat) (v : Option Slot) : (s.setSlot ch k v).slot ch k = v := by
  rw [State.slot, State.setSlot, State.setChan_chan_self, slotOf_setSlot_self]

@[simp] theorem State.setSlot_clk (s : State) (ch k : Nat) (v : Option Slot) : (s.setSlot ch k v).clk = s.clk := rfl

/-- A channel that keeps its slots. -/
theorem State.setChan_slot {s : State} {ch : Nat} {x : ChanSt} (h : x.slots = (s.chan ch).slots) (c k : Nat) :
    (s.setChan ch x).slot c k = s.slot c k := by
  by_cases hc : c = ch
  · subst hc
    rw [State.slot, State.slot, State.setChan_chan_self, slotOf, slotOf, h]
  · rw [State.slot, State.slot, State.setChan_chan_ne _ _ hc]

theorem noteShaped_slot (s : State) (ch dev c k : Nat) : (noteShaped s ch dev).slot c k = s.slot c k := by
  unfold noteShaped
  apply State.setChan_slot
  rfl

/-! ### What the Vat's other work leaves -/

@[simp] theorem sysAccess_vat (s : State) : (sysAccess s).vat = s.vat :=
  (sysAccess_frame (.refl [.fresh, .regs, .press] s) (List.Subset.refl _)).same .vat (by decide)

@[simp] theorem sysAccess_clk (s : State) : (sysAccess s).clk = s.clk :=
  (sysAccess_frame (.refl [.fresh, .regs, .press] s) (List.Subset.refl _)).same .clk (by decide)

@[simp] theorem handover_vat (s : State) (ch k : Nat) : (handover s ch k).vat = s.vat :=
  (handover_frame (.refl [.plans] s) (List.Subset.refl _)).same .vat (by decide)

@[simp] theorem handover_clk (s : State) (ch k : Nat) : (handover s ch k).clk = s.clk :=
  (handover_frame (.refl [.plans] s) (List.Subset.refl _)).same .clk (by decide)

@[simp] theorem freeDecoder_clk (s : State) (ch k : Nat) : (freeDecoder s ch k).clk = s.clk := rfl

/-- A shaped frame's handover leaves every slot, and no time passes. -/
theorem handover_noteShaped_slot (s : State) (ch k dev c j : Nat) : (handover (noteShaped s ch dev) ch k).slot c j = s.slot c j := by
  rw [State.slot_of_vat (handover_vat ..), noteShaped_slot]

theorem handover_noteShaped_clk (s : State) (ch k dev : Nat) : (handover (noteShaped s ch dev) ch k).clk = s.clk := handover_clk ..

/-! ### The end of a frame (R210, R212) -/

/-- A frame has ended: its slot is FREE, and the newest outcome of its channel is its own, with a status. -/
def FrameEnded (u : State) (ch k status : Nat) (z : Slot) : Prop :=
  u.slot ch k = none ∧ (u.chan ch).history.head? = some ⟨some z.wm.captureNs, status, z.wm.devFrame, none⟩

theorem outcome_slots (s : State) (ch status : Nat) (capture : Option Int) (dev : Nat) (ends : Bool) :
    ((outcome s ch status capture dev ends).chan ch).slots = (s.chan ch).slots := by
  unfold outcome
  dsimp only
  split
  · rw [State.chan_of_vat (State.bump_vat ..), State.setChan_chan_self]
  · rw [State.chan_of_vat (State.logLimited_vat ..), State.chan_of_vat (State.bump_vat ..), State.setChan_chan_self]

theorem outcome_history (s : State) (ch status : Nat) (capture : Option Int) (dev : Nat) (ends : Bool) :
    ((outcome s ch status capture dev ends).chan ch).history.head? = some ⟨capture, status, dev, none⟩ := by
  unfold outcome
  dsimp only
  split
  · rw [State.chan_of_vat (State.bump_vat ..), State.setChan_chan_self]
    rfl
  · rw [State.chan_of_vat (State.logLimited_vat ..), State.chan_of_vat (State.bump_vat ..), State.setChan_chan_self]
    rfl

theorem dropSlot_ended {s : State} {ch k : Nat} {z : Slot} (h : s.slot ch k = some z) (status : Nat) : FrameEnded (dropSlot s ch k status) ch k status z := by
  rw [dropSlot, h]
  refine ⟨?_, outcome_history ..⟩
  rw [State.slot, slotOf, outcome_slots, State.setSlot, State.setChan_chan_self]
  exact slotOf_setSlot_self ..

/-- A later state with the same slots and history of the channel. -/
theorem FrameEnded.of_chan {s u : State} {ch k status : Nat} {z : Slot} (h : FrameEnded s ch k status z) (hs : (u.chan ch).slots = (s.chan ch).slots)
    (hh : (u.chan ch).history = (s.chan ch).history) : FrameEnded u ch k status z := by
  obtain ⟨hslot, hhist⟩ := h
  refine ⟨?_, by rw [hh, hhist]⟩
  rw [State.slot, slotOf, hs]
  exact hslot

/-- The device times of a channel's INTEGRITY frames of the last second, the one of this instant first, at most three (R386). -/
def integrityTimes (s : State) (ch : Nat) : List Nat :=
  (s.clk.dev :: (s.chan ch).integrity.filter (fun t => decide (s.clk.dev < t + 1000000000))).take 3

/-- What SP does about an INTEGRITY frame leaves the Vat but for these times. -/
theorem integrityReport_vat (s : State) (ch : Nat) :
    (integrityReport s ch).vat = (s.setChan ch { s.chan ch with integrity := integrityTimes s ch }).vat := by
  have hdecl (u : State) (p : Nat) : (declareInvalid u p 0x3109).vat = u.vat :=
    (declareInvalid_frame (.refl [.out, .fresh, .mem, .regs, .units, .plans, .press, .safety, .selftest, .aon, .log, .net] u) (List.Subset.refl _)).same
      .vat (by decide)
  have hsafe (u : State) (p : Nat) : (enterSafe u p 0x3109).vat = u.vat :=
    (enterSafe_frame (.refl [.fresh, .regs, .plans, .log] u) (List.Subset.refl _)).same .vat (by decide)
  unfold integrityReport
  dsimp only
  split
  · rfl
  · split
    · split
      · split
        · rfl
        · exact hdecl ..
      · exact hsafe ..
    · rfl

theorem integritySlot_ended {s : State} {ch k : Nat} {z : Slot} (h : s.slot ch k = some z) : FrameEnded (integritySlot s ch k) ch k 9 z := by
  refine (dropSlot_ended h 9).of_chan ?_ ?_ <;>
    rw [integritySlot, State.chan_of_vat (integrityReport_vat ..), State.setChan_chan_self]

end Sys2Proof.Machine
end

section
/-! Decoders and shaping stages (R215, R216, R230): what each command leaves of a frame in its slot. -/

namespace Sys2Proof.Machine

/-! ### Decoders (R215, R216) -/

/-- What waits on the raw path's queue is taken in order. -/
theorem decoderTakeOp_raw {s : State} {e : Nat × Nat} {r : List (Nat × Nat)} (hp : s.vat.rawPath = none) (hq : s.vat.rawQ = e :: r) :
    decoderTakeOp s true = { s with vat := { s.vat with rawPath := some e, rawQ := r } } := by
  simp [decoderTakeOp, hp, hq]

/-- The state once decoder i has taken the first frame of the queue. -/
def decoderTaken (s : State) (i : Nat) (e : Nat × Nat) (r : List (Nat × Nat)) : State :=
  { s with vat := { s.vat with decoders := s.vat.decoders.set i (some e), decodeQ := r } }

theorem decoderTakeOp_of_slot {s : State} {i : Nat} {e : Nat × Nat} {r : List (Nat × Nat)} {z : Slot}
    (hi : s.vat.decoders.findIdx? (fun d => d.isNone) = some i) (hq : s.vat.decodeQ = e :: r) (hz : s.slot e.1 e.2 = some z) :
    decoderTakeOp s false = (decoderTaken s i e r).setSlot e.1 e.2 (some { z with budgetFrom := s.clk.clock }) := by
  have hz' : (decoderTaken s i e r).slot e.1 e.2 = some z := hz
  unfold decoderTaken at hz' ⊢
  simp only [decoderTakeOp, hi, hq, hz', Bool.false_eq_true, if_false]

theorem decoderTakeOp_of_no_slot {s : State} {i : Nat} {e : Nat × Nat} {r : List (Nat × Nat)}
    (hi : s.vat.decoders.findIdx? (fun d => d.isNone) = some i) (hq : s.vat.decodeQ = e :: r) (hz : s.slot e.1 e.2 = none) :
    decoderTakeOp s false = decoderTaken s i e r := by
  have hz' : (decoderTaken s i e r).slot e.1 e.2 = none := hz
  unfold decoderTaken at hz' ⊢
  simp only [decoderTakeOp, hi, hq, hz', Bool.false_eq_true, if_false]

/-! ### Stage 2 (R215) -/

/-- Only a FREE slot takes a frame back whose budget has just run out. -/
theorem reviveSlot_of_slot {s : State} {ch k : Nat} {z : Slot} (h : s.slot ch k = some z) : reviveSlot s ch k = s := by
  unfold reviveSlot
  split
  · rw [if_neg (by simp [h])]
  · rfl

/-- A frame once stage 2 has given its pixels or records: of POINTS it is READY, of the others shaping follows. -/
def decodedAs (clock : Nat) (z : Slot) (d : Decoded) : Slot :=
  { z with
    decoded := some d, st := if z.cfg.kind == 8 then .ready else .shaping, readyAt := if z.cfg.kind == 8 then some clock else none
    wm := { z.wm with stage := 2, dataCrc := crc32c (decodedBytes d) } }

section

variable {s : State} {ch k : Nat} {z : Slot}

/-- Stage 2 ends within its budget, on a frame whose watermark holds. -/
structure DecodeEnds (s : State) (ch k : Nat) (z : Slot) : Prop where
  slot : s.slot ch k = some z
  under : stage2 s ch k z = true
  inTime : s.clk.clock ≤ z.budgetFrom + z.cfg.budgetUs * 1000
  whole : z.corrupt = false

/-- Data that are not valid drop the frame. -/
theorem decodeCompleteOp_ended (h : DecodeEnds s ch k z) (hd : decodeSlot z = none) : FrameEnded (decodeCompleteOp s ch k) ch k 8 z := by
  have hop : decodeCompleteOp s ch k = dropSlot (freeDecoder (sysAccess s) ch k) ch k 8 := by
    simp [decodeCompleteOp, reviveSlot_of_slot h.slot, h.slot, h.under, h.inTime, h.whole, hd]
  have hz : (freeDecoder (sysAccess s) ch k).slot ch k = some z := (State.slot_of_vat (sysAccess_vat s) ch k).trans h.slot
  rw [hop]
  exact dropSlot_ended hz 8

/-- What stage 2 gave is in the slot, and no time has passed. -/
theorem decodeCompleteOp_of_decoded (h : DecodeEnds s ch k z) {d : Decoded} (hd : decodeSlot z = some d) :
    (decodeCompleteOp s ch k).slot ch k = some (decodedAs s.clk.clock z d) := by
  have hop : decodeCompleteOp s ch k =
      if z.cfg.kind == 8 then
        handover (noteShaped ((freeDecoder (sysAccess s) ch k).setSlot ch k (some (decodedAs s.clk.clock z d))) ch z.wm.devFrame) ch k
      else (freeDecoder (sysAccess s) ch k).setSlot ch k (some (decodedAs s.clk.clock z d)) := by
    simp [decodeCompleteOp, reviveSlot_of_slot h.slot, h.slot, h.under, h.inTime, h.whole, hd, decodedAs]
  rw [hop]
  split
  · rw [handover_noteShaped_slot, State.setSlot_slot_self]
  · rw [State.setSlot_slot_self]

/-- A budget that has run out drops the frame, whether or not stage 2 ends in the same cycle. -/
theorem budgetExpiryOp_ended (hz : s.slot ch k = some z) (hst : z.st = .decoding) (hr : z.cfg.kind ≠ 1 ∨ stage2 s ch k z = true)
    (hb : z.budgetFrom + z.cfg.budgetUs * 1000 ≤ s.clk.clock) : FrameEnded (budgetExpiryOp s ch k) ch k 7 z := by
  have hdrop : FrameEnded (dropSlot (freeDecoder s ch k) ch k 7) ch k 7 z := dropSlot_ended (s := freeDecoder s ch k) hz 7
  have hruns : (z.st == .decoding && (z.cfg.kind != 1 || stage2 s ch k z)) = true := by
    rcases hr with hr | hr <;> simp [hst, hr]
  simp only [budgetExpiryOp, hz, hruns, hb, decide_true, Bool.and_self, if_true]
  split
  · exact hdrop.of_chan rfl rfl
  · exact hdrop

end

/-- Settles O45: by the rules of the three commands; a frame that stage 2 leaves stays in its slot while its handover begins. -/
theorem decodersWorkInOrder : Obligations.DecodersWorkInOrder := by
  refine ⟨fun t s e r => ⟨fun hp hq => ?_, fun i hi hq => ?_⟩, fun t ch k s z hz => ⟨fun h2 hb hc => ?_, fun hst hr hb => ?_⟩⟩
  · exact congrArg Host.Outcome.next (decoderTakeOp_raw (s := atTime t s) hp hq)
  · cases hz : s.slot e.1 e.2 with
    | none =>
      refine ⟨decoderTaken (atTime t s) i e r, congrArg Host.Outcome.next (decoderTakeOp_of_no_slot (s := atTime t s) hi hq hz), rfl, rfl, fun z hz' => ?_⟩
      cases hz'
    | some z =>
      refine ⟨(decoderTaken (atTime t s) i e r).setSlot e.1 e.2 (some { z with budgetFrom := (atTime t s).clk.clock }),
        congrArg Host.Outcome.next (decoderTakeOp_of_slot (s := atTime t s) hi hq hz), rfl, rfl, fun z' hz' => ?_⟩
      obtain rfl := Option.some.inj hz'
      exact State.setSlot_slot_self ..
  · have hends : DecodeEnds (atTime t s) ch.val k.val z := ⟨hz, h2, hb, hc⟩
    exact ⟨decodeCompleteOp (atTime t s) ch.val k.val, rfl,
      fun d hd => ⟨decodedAs (atTime t s).clk.clock z d, decodeCompleteOp_of_decoded hends hd, rfl, rfl, rfl, rfl, by simp [decodedAs]⟩,
      decodeCompleteOp_ended hends⟩
  · exact ⟨budgetExpiryOp (atTime t s) ch.val k.val, rfl, budgetExpiryOp_ended (s := atTime t s) hz hst hr hb⟩

end Sys2Proof.Machine
end

section
/-! Shaping stages and the handover write (R211, R230, R239–R241, R249): the frame a stage leaves in its slot, and what a completed write leaves of its
partition. -/

namespace Sys2Proof.Machine

/-! ### Stages 3 to 9 (R230) -/

section

variable {s : State} {ch k : Nat} {z : Slot}

/-- A stage of shaping ends on a frame whose watermark holds. -/
structure StageEnds (s : State) (ch k : Nat) (z : Slot) : Prop where
  slot : s.slot ch k = some z
  shaping : z.st = .shaping
  whole : z.corrupt = false

theorem shapingOp_ended (hz : s.slot ch k = some z) (hst : z.st = .shaping) (hc : z.corrupt = true) : FrameEnded (shapingOp s ch k) ch k 9 z := by
  have hop : shapingOp s ch k = integritySlot s ch k := by simp [shapingOp, hz, hst, hc]
  rw [hop]
  exact integritySlot_ended hz

/-- Stage n has left its working values in a frame, and its number and their CRC in the watermark; of stage 3 the colour image too, and a frame that no
input record awaits may be READY (R253). -/
def Staged (s : State) (ch : Nat) (z z' : Slot) (n : Nat) : Prop :=
  z'.working = stageWork s ch z n ∧ z'.wm = { z.wm with stage := n, dataCrc := crc32c (levelsBytes z'.working) }

theorem shapingOp_of_stage (h : StageEnds s ch k z) (h9 : nextStage z.shape z.working z.wm.stage ≠ 9) :
    ∃ z', (shapingOp s ch k).slot ch k = some z' ∧ Staged s ch z z' (nextStage z.shape z.working z.wm.stage) := by
  unfold shapingOp
  rw [h.slot]
  dsimp only
  rw [if_neg (not_not.2 h.shaping), if_neg (by simp [h.whole]), if_neg h9, State.setSlot_slot_self]
  split <;> split <;> exact ⟨_, rfl, rfl, rfl⟩

theorem shapingOp_of_no_input (h : StageEnds s ch k z) (h9 : nextStage z.shape z.working z.wm.stage = 9) (hi : inputsFor s ch = none) :
    shapingOp s ch k = (sysAccess s).setSlot ch k (some { z with st := .ready }) := by
  simp [shapingOp, h.slot, h.shaping, h.whole, h9, hi]

/-- The frame that stage 9 leaves at an instant: READY, with its sample, the stage's number and the sample's CRC. -/
def sampledAs (clock : Nat) (z : Slot) (cells : List SampleCell) : Slot :=
  { z with sample := some cells, st := .ready, readyAt := some clock, wm := { z.wm with stage := 9, dataCrc := crc32c (sampleBytes cells) } }

theorem shapingOp_of_input (h : StageEnds s ch k z) (h9 : nextStage z.shape z.working z.wm.stage = 9) {p i pos : Nat} {r : InputRec}
    (hi : inputsFor s ch = some (p, i, r, pos)) :
    shapingOp s ch k =
      handover (noteShaped ((sysAccess s).setSlot ch k (some (sampledAs s.clk.clock z (stageSample s p r z)))) ch z.wm.devFrame) ch k := by
  simp [shapingOp, h.slot, h.shaping, h.whole, h9, hi, sampledAs]

end

/-! ### The handover write (R249) -/

/-- The frame is in the buffer and no longer under way to it. -/
theorem setBuffer_part (s : State) (p i pos : Nat) (w : Watermark) :
    ((setBuffer s p i pos (some w)).part p).buffers.lookup (i, pos) = some w ∧ ((setBuffer s p i pos (some w)).part p).handovers.lookup (i, pos) = none := by
  rw [setBuffer, State.modPart_part_self]
  refine ⟨by simp, ?_⟩
  rw [List.lookup_eq_none_iff]
  intro e he
  have hne : e.1 ≠ (i, pos) := bne_iff_ne.1 (List.mem_filter.1 he).2
  exact bne_iff_ne.2 hne.symm

/-- The watermark that a handover write leaves in the buffer. -/
def bufferedAs (z : Slot) (cells : List SampleCell) : Watermark := { z.wm with stage := 10, dataCrc := crc32c (sampleBytes cells) }

/-- Memory once a sample has been written from a position's address on. -/
def sampleWritten (s : State) (p pos : Nat) (r : InputRec) (cells : List SampleCell) : State :=
  cells.foldl (fun s c => writeCell s p (posVa r pos) c) (touchRange s p 15 (posVa r pos) r.sampleBytes)

theorem handoverOp_of_slot {s : State} {p i pos ch k : Nat} {pl : Plan} {r : InputRec} {z : Slot} {cells : List SampleCell}
    (hh : (s.part p).handovers.lookup (i, pos) = some (ch, k, z.wm.devFrame)) (hpl : (s.part p).plan = some pl) (hr : pl.inputs[i]? = some r)
    (hz : s.slot ch k = some z) (hc : z.corrupt = false) (hs : sampleFor z r = some cells) :
    handoverOp s p i pos = setBuffer (sampleWritten s p pos r cells) p i pos (some (bufferedAs z cells)) := by
  simp only [handoverOp, hh, hpl, hr, hz, hc, ne_eq, not_true_eq_false, if_false, Bool.false_eq_true, copySample, hs]
  rfl

/-- Settles O46: by the rules of the two commands. -/
theorem shapingGoesStageByStage : Obligations.ShapingGoesStageByStage := by
  refine ⟨fun t ch k s z hz hst hc => ?_, fun t ch k s z n hz hst hc hn => ?_, fun t p i pos s ch k pl r z cells hh hpl hr hz hc hs => ?_⟩
  · exact ⟨shapingOp (atTime t s) ch.val k.val, rfl, shapingOp_ended (s := atTime t s) hz hst hc⟩
  · have hends : StageEnds (atTime t s) ch.val k.val z := ⟨hz, hst, hc⟩
    refine ⟨fun h9 => ?_, fun h9 hi => ?_, fun p i r pos h9 hi => ?_⟩
    · subst hn
      obtain ⟨z', hslot, hleft⟩ := shapingOp_of_stage hends h9
      exact ⟨shapingOp (atTime t s) ch.val k.val, z', rfl, hslot, hleft⟩
    · refine ⟨_, congrArg Host.Outcome.next (shapingOp_of_no_input hends (hn.symm.trans h9) hi), ?_⟩
      exact State.setSlot_slot_self ..
    · refine ⟨_, sampledAs (atTime t s).clk.clock z (stageSample (atTime t s) p r z),
        congrArg Host.Outcome.next (shapingOp_of_input hends (hn.symm.trans h9) hi), ?_, rfl, rfl, ?_, rfl⟩
      · rw [handover_noteShaped_slot, State.setSlot_slot_self]
      · rw [handover_noteShaped_clk, State.setSlot_clk, sysAccess_clk]
        rfl
  · refine ⟨_, congrArg Host.Outcome.next (handoverOp_of_slot (s := atTime t s) hh hpl hr hz hc hs), ?_, ?_, rfl⟩
    · exact (setBuffer_part ..).2
    · exact (setBuffer_part ..).1

end Sys2Proof.Machine
end

section
/-! The Vat's receive side (R193–R199, R217): a frame that no channel takes is counted and nothing more, and the first packet of a raw frame in good
format and geometry begins the frame in receive in the slot it takes. -/

namespace Sys2Proof.Machine

/-! ### Fields of a packet -/

theorem be_drop (b : Bytes) (m o n : Nat) : be (b.drop m) o n = be b (m + o) n := by
  rw [be, slice, List.drop_drop, be, slice]

theorem be_take (b : Bytes) {m o n : Nat} (h : o + n ≤ m) : be (b.take m) o n = be b o n := by
  rw [be, slice, List.drop_take, List.take_take, Nat.min_eq_left (by omega), be, slice]

/-- The Himir header is 32 bytes (R197). -/
theorem parseHimir_take (b : Bytes) : parseHimir (b.take 32) = parseHimir b := by
  simp (disch := decide) only [parseHimir, be_take]

theorem le_roundPage (n : Nat) : n ≤ roundPage n := by
  unfold roundPage ceilDiv
  omega

/-! ### Counted and nothing more -/

/-- One counter has counted one event, and nothing but the registers has changed. -/
def CountedOnly (a s : State) (page off : Nat) : Prop :=
  s.counter page off = (a.counter page off + 1) % 2 ^ 64 ∧ ∀ f, f ≠ .regs → Same f a s

/-- A frame has reached a port (R525). -/
def received (s : State) (port : Nat) : State := s.bump (pgPort port) 0x050 1

theorem received_bump_countedOnly {s : State} {page off : Nat} (port : Nat) (hc : s.counting page = true) (hne : addr page off ≠ addr (pgPort port) 0x050) :
    CountedOnly s ((received s port).bump page off 1) page off := by
  refine ⟨?_, fun f hf => ?_⟩
  · rw [received, State.bump_counter_self _ 1 ((State.bump_counting ..).trans hc), State.bump_counter_ne s 1 hne]
  · exact (State.bump_frame (State.bump_frame (.refl [.regs] s) (List.Subset.refl _)) (List.Subset.refl _)).same f (by simpa using hf)

theorem counting_port (s : State) (port : Fin 8) : s.counting (pgPort port.val) = true := by
  have hb : blockOf (pgPort port.val) = some (.port port.val, 0x010) := by revert port; decide
  rw [State.counting, hb]
  rfl

theorem counting_chan (s : State) {ch : Nat} (h : ch < 32) : s.counting (pgChan ch) = true := by
  rw [State.counting, blockOf_chan ⟨ch, h⟩]
  rfl

/-- The clock's advance counts nothing. -/
theorem CountedOnly.of_atTime {t : Nat} {s u : State} {page off : Nat} (h : CountedOnly (atTime t s) u page off) :
    u.counter page off = (s.counter page off + 1) % 2 ^ 64 ∧ ∀ f, f ≠ .regs → Same f (atTime t s) u := by
  rwa [CountedOnly, atTime_counter] at h

/-! ### Which channel takes a frame (R193–R195) -/

theorem State.chanCfg_of_force {s u : State} (h : u.regs.force = s.regs.force) (n : Nat) : u.chanCfg n = s.chanCfg n := by
  have hregs : u.regsOf (pgChan n) = s.regsOf (pgChan n) := funext fun off => by simp only [State.regsOf, State.inForce, h]
  rw [State.chanCfg, State.chanCfg, hregs]

theorem matchChan_of_force {s u : State} (h : u.regs.force = s.regs.force) (port : Nat) (vid : Option Nat) (p : Bytes) :
    matchChan u port vid p = matchChan s port vid p := by
  simp only [matchChan, State.chanCfg_of_force h]

theorem matchChan_lt {s : State} {port : Nat} {vid : Option Nat} {p : Bytes} {ch : Nat} (h : matchChan s port vid p = some ch) : ch < 32 := by
  unfold matchChan at h
  split at h
  · cases h
  · exact List.mem_range.1 (List.mem_of_find?_eq_some h)

theorem received_chanCfg (s : State) (port n : Nat) : (received s port).chanCfg n = s.chanCfg n := State.chanCfg_of_force (State.bump_regs_force ..) n

theorem received_matchChan (s : State) (port : Nat) (vid : Option Nat) (p : Bytes) : matchChan (received s port) port vid p = matchChan s port vid p :=
  matchChan_of_force (State.bump_regs_force ..) ..

theorem avtpFrame_of_no_channel {s : State} {port : Nat} {vid : Option Nat} {p : Bytes} (h : matchChan s port vid p = none) :
    avtpFrame s port vid p = s.bump (pgPort port) 0x070 1 := by
  rw [avtpFrame, h]

theorem avtpFrame_of_unsuited {s : State} {port : Nat} {vid : Option Nat} {p : Bytes} {ch : Nat} (h : matchChan s port vid p = some ch)
    (hs : suits (be p 0 1) (s.chanCfg ch).kind = false) : avtpFrame s port vid p = s.bump (pgChan ch) 0x0E8 1 := by
  simp [avtpFrame, chanPacket, h, hs]

/-! ### A frame boundary at which nothing is due (R226, R227) -/

theorem endRx_of_no_frame {s : State} {ch : Nat} (h : (s.chan ch).rx = none) (status : Nat) : endRx s ch status = s := by
  simp [endRx, h]

theorem settleTimed_of_not_pending {s : State} {page : Nat} (h : (s.hdrOf page).cstate ≠ .pending) (b : Block) : settleTimed s b page = s := by
  unfold settleTimed settle
  dsimp only
  rw [if_pos h, ite_self]

/-- Between frames of a channel, with no commit of its pages pending, the first packet begins a frame at once. -/
theorem avtpFrame_of_first {s : State} {port : Nat} {vid : Option Nat} {p : Bytes} {ch : Nat} (h : matchChan s port vid p = some ch)
    (hs : suits (be p 0 1) (s.chanCfg ch).kind = true) (hf : startsFrame (be p 0 1 == 3) p = true) (hrx : (s.chan ch).rx = none)
    (hc : (s.hdrOf (pgChan ch)).cstate ≠ .pending) (hsh : (s.hdrOf (pgShape ch)).cstate ≠ .pending) :
    avtpFrame s port vid p = chanPacket s ch p := by
  simp only [avtpFrame, h, hs, hf, Bool.and_self, if_true, endRx_of_no_frame hrx, settleTimed_of_not_pending hc, settleTimed_of_not_pending hsh]

/-- A Himir packet that starts a frame: the frame begins with the channel's settings in force (R196, R197). -/
theorem chanPacket_of_himir_first {s : State} {ch : Nat} {b p : Bytes} {h : Himir} (hs : suits (be b 0 1) (s.chanCfg ch).kind = true)
    (h6 : be b 0 1 = 0x6F) (hp : p = b.take (24 + be b 22 2)) (hh : h = parseHimir (slice p 24 32)) (hf : h.first = true) :
    chanPacket s ch b = himirPacket (beginRx (sysAccess s) ch (be p 2 1)
      (if h.tsValid then some (h.capture : Int) else avtpCapture (sysAccess s) p (s.chanCfg ch)) [h.count, h.capture, b2n h.tsValid]) ch (be p 2 1) true
      (slice p 24 32) (p.drop 56) := by
  have hd : parseHimir (p.drop 24) = h := by rw [hh, slice, parseHimir_take]
  have hstart : startsFrame false p = true := by rw [startsFrame, if_neg (by decide), hd, hf]
  have h3 : (be b 0 1 == 3) = false := by rw [h6]; rfl
  simp only [chanPacket, hs, h3, Bool.not_true, Bool.false_eq_true, if_false, ← hp, hstart, if_true, hd]

/-! ### The first packet of a raw frame (R197–R199, R217) -/

theorem noteSeen_rx_slots (s : State) (ch : Nat) :
    ((noteSeen s ch).chan ch).rx = (s.chan ch).rx ∧ ((noteSeen s ch).chan ch).slots = (s.chan ch).slots := by
  unfold noteSeen
  dsimp only
  split
  · split
    · rw [State.setChan_chan_self]
      exact ⟨rfl, rfl⟩
    · exact ⟨rfl, rfl⟩
  · exact ⟨rfl, rfl⟩

theorem takeSlot_congr {x y : ChanSt} (h : y.slots = x.slots) (n : Nat) : takeSlot y n = takeSlot x n := by
  simp only [takeSlot, slotOf, h]

theorem takeRxSlot_rx {s : State} {ch k : Nat} {r : RxFrame} (hr : (s.chan ch).rx = some r) (hk : takeSlot (s.chan ch) r.cfg.nslots = some k) :
    ((takeRxSlot s ch).chan ch).rx = some { r with slot := some k } := by
  simp [takeRxSlot, hr, hk]

theorem modRx_rx {s : State} {ch : Nat} (g : RxFrame → RxFrame) : ((s.modRx ch g).chan ch).rx = (s.chan ch).rx.map g := by
  rw [State.modRx, State.setChan_chan_self]

/-- A frame in receive once a tile has joined it. -/
def withTile (c : ChanCfg) (seq : Nat) (hb data : Bytes) (r : RxFrame) : RxFrame :=
  { r with
    seq := seq, tile := some ((parseHimir hb).rowFirst, (parseHimir hb).rowCount, (parseHimir hb).colFirst, (parseHimir hb).colCount)
    recNext := (parseHimir hb).recFirst + (parseHimir hb).colCount
    crcOk := r.crcOk && decide (crc32c (hb.take 28 ++ data) = (parseHimir hb).crc), data := r.data ++ data
    pixels := r.pixels ++ tilePixels c (parseHimir hb) data }

/-- The first tile of a raw frame in the format and geometry of its channel, not the last one (R197–R199). -/
structure FirstTile (c : ChanCfg) (h : Himir) (data : Bytes) : Prop where
  kindLow : 2 ≤ c.kind
  kindHigh : c.kind ≤ 5
  version : h.version = 1
  kind : h.kind = c.kind
  colFirst : h.colFirst = 0
  rowFirst : h.rowFirst = 0
  align : h.colCount % kindAlign c.kind = 0
  length : data.length = h.rowCount * tileRowBytes c.kind h.colCount
  fw : h.fw = c.w
  fh : h.fh = c.h
  wMax : c.w ≤ 8192
  hMax : c.h ≤ 8192
  cols : h.colCount ≤ c.w
  rows : h.rowCount ≤ c.h
  more : h.last = false
  room : data.length ≤ recvBytes c

theorem himirPacket_rx_of_firstTile {s : State} {ch seq k : Nat} {hb data : Bytes} {r : RxFrame} (hr : (s.chan ch).rx = some r)
    (ht : FirstTile r.cfg (parseHimir hb) data) (hhead : r.head = [(parseHimir hb).count, (parseHimir hb).capture, b2n (parseHimir hb).tsValid])
    (hdata : r.data = []) (htile : r.tile = none) (hk : takeSlot (s.chan ch) r.cfg.nslots = some k) :
    ((himirPacket s ch seq true hb data).chan ch).rx = some (withTile r.cfg seq hb data { r with slot := some k }) := by
  obtain ⟨hseen, hslots⟩ := noteSeen_rx_slots s ch
  have hrx : ((takeRxSlot (noteSeen s ch) ch).chan ch).rx = some { r with slot := some k } :=
    takeRxSlot_rx (hseen.trans hr) ((takeSlot_congr hslots _).trans hk)
  have hpts : (r.cfg.kind == 8) = false := beq_false_of_ne (by have := ht.kindHigh; omega)
  have hroom : ¬ roundPage (recvBytes r.cfg) < data.length := not_lt.2 (ht.room.trans (le_roundPage _))
  have hfollows : tileFollows r.cfg.w none (parseHimir hb) = true := by simp [tileFollows, ht.rowFirst, ht.colFirst]
  have hop : himirPacket s ch seq true hb data = (takeRxSlot (noteSeen s ch) ch).modRx ch (withTile r.cfg seq hb data) := by
    unfold himirPacket
    rw [hr]
    dsimp only
    rw [hpts, if_neg, if_neg, if_pos rfl, if_pos rfl, hrx]
    · simp [hdata, hroom, hhead, htile, hfollows, ht.more, modRx_rx, hrx]
      rfl
    · simp [ht.fw, ht.fh, ht.wMax, ht.hMax, ht.colFirst, ht.rowFirst, ht.cols, ht.rows]
    · simp [ht.version, ht.kind, ht.colFirst, ht.align, ht.length]
  rw [hop, modRx_rx, hrx, Option.map_some]

/-- A frame in receive as its first packet begins it, before it has a slot (R196). -/
def begunRx (s : State) (ch seq : Nat) (capture : Option Int) (head : List Nat) : RxFrame :=
  { cfg := s.chanCfg ch, shape := s.shapeCfg ch, slot := none, firstAt := s.clk.dev, unsync := unsynced s, seq := seq, capture := capture
    head := head, tile := none, recNext := 0, crcOk := true, dims := none, sof := false, qtab := [], data := [], pixels := [] }

theorem beginRx_chan (s : State) (ch seq : Nat) (capture : Option Int) (head : List Nat) :
    (beginRx s ch seq capture head).chan ch = { s.chan ch with discard := false, rx := some (begunRx s ch seq capture head) } := State.setChan_chan_self ..

/-- The frame in receive that the first packet of a raw frame leaves: in its slot, with its first tile. -/
def firstTileRx (s : State) (ch k : Nat) (p : Bytes) (h : Himir) : RxFrame :=
  withTile (s.chanCfg ch) (be p 2 1) (slice p 24 32) (p.drop 56)
    { begunRx s ch (be p 2 1) (if h.tsValid then some (h.capture : Int) else avtpCapture s p (s.chanCfg ch)) [h.count, h.capture, b2n h.tsValid] with
      slot := some k }

theorem firstTileRx_capture {h : Himir} (hts : h.tsValid = true) (s : State) (ch k : Nat) (p : Bytes) :
    (firstTileRx s ch k p h).capture = some (h.capture : Int) := if_pos hts

theorem sysAccess_force (s : State) : (sysAccess s).regs.force = s.regs.force :=
  ((sysAccess_frame (.refl [.fresh, .regs, .press] s) (List.Subset.refl _)).same .settings (by decide)).1

/-- A channel is between two frames, with no commit of its pages pending, and has a slot for a frame that starts. -/
structure BetweenFrames (s : State) (ch k : Nat) : Prop where
  idle : (s.chan ch).rx = none
  chanSettled : (s.hdrOf (pgChan ch)).cstate ≠ .pending
  shapeSettled : (s.hdrOf (pgShape ch)).cstate ≠ .pending
  slot : takeSlot (s.chan ch) (s.chanCfg ch).nslots = some k

theorem BetweenFrames.received {s : State} {ch k : Nat} (h : BetweenFrames s ch k) (port : Nat) : BetweenFrames (received s port) ch k := by
  have hchan : (Machine.received s port).chan ch = s.chan ch := State.chan_of_vat (State.bump_vat ..) ch
  have hhdr (page : Nat) : (Machine.received s port).hdrOf page = s.hdrOf page := by simp [Machine.received, State.hdrOf]
  exact ⟨by rw [hchan, h.idle], by rw [hhdr]; exact h.chanSettled, by rw [hhdr]; exact h.shapeSettled, by rw [hchan, received_chanCfg, h.slot]⟩

/-- An AVTP frame b is the first packet of a raw frame in good format and geometry: p is its packet and h its Himir header. -/
structure FirstPacket (c : ChanCfg) (b p : Bytes) (h : Himir) : Prop where
  subtype : be b 0 1 = 0x6F
  packet : p = b.take (24 + be b 22 2)
  header : h = parseHimir (slice p 24 32)
  whole : parseHimir (b.drop 24) = h
  first : h.first = true
  tile : FirstTile c h (p.drop 56)

theorem FirstPacket.suits {c : ChanCfg} {b p : Bytes} {h : Himir} (hp : FirstPacket c b p h) : suits (be b 0 1) c.kind = true := by
  simp [Machine.suits, himirKind, hp.subtype, hp.tile.kindLow, hp.tile.kindHigh]

section

variable {s : State} {port ch k : Nat} {vid : Option Nat} {b p : Bytes} {h : Himir}

theorem avtpFrame_of_firstPacket (hm : matchChan s port vid b = some ch) (hb : BetweenFrames s ch k) (hp : FirstPacket (s.chanCfg ch) b p h) :
    avtpFrame s port vid b = chanPacket s ch b := by
  have hf : startsFrame (be b 0 1 == 3) b = true := by simp [startsFrame, hp.subtype, hp.whole, hp.first]
  exact avtpFrame_of_first hm hp.suits hf hb.idle hb.chanSettled hb.shapeSettled

theorem chanPacket_rx_of_firstPacket (hb : BetweenFrames s ch k) (hp : FirstPacket (s.chanCfg ch) b p h) :
    ((chanPacket s ch b).chan ch).rx = some (firstTileRx (sysAccess s) ch k p h) := by
  have hcfg : (sysAccess s).chanCfg ch = s.chanCfg ch := State.chanCfg_of_force (sysAccess_force s) ch
  have hchan : (sysAccess s).chan ch = s.chan ch := State.chan_of_vat (sysAccess_vat s) ch
  have hslot := hb.slot
  have htile := hp.tile
  rw [← hcfg] at hslot htile
  rw [hp.header] at htile
  rw [chanPacket_of_himir_first hp.suits hp.subtype hp.packet hp.header hp.first, ← hcfg, firstTileRx]
  refine himirPacket_rx_of_firstTile (by rw [beginRx_chan]) htile ?_ rfl rfl ?_
  · rw [← hp.header]
    rfl
  · rw [beginRx_chan, takeSlot_congr (x := s.chan ch) (by rw [← hchan])]
    exact hslot

/-- No time passes while a packet is taken. -/
theorem chanPacket_clk (s : State) (ch : Nat) (b : Bytes) : (chanPacket s ch b).clk = s.clk :=
  (chanPacket_frame (.refl [.fresh, .regs, .vat, .press, .log] s) (List.Subset.refl _)).same .clk (by decide)

end

/-! ### What a port makes of a frame (R193, R525) -/

section

variable {s : State} {port ch : Nat} {f : Bytes} (hup : s.phase = .up) (hon : portOn s port = true)
include hup hon

theorem vatRxOp_of_bad_fcs : vatRxOp s port f false = (received s port).bump (pgPort port) 0x060 1 := by
  simp [vatRxOp, hup, hon, received]

theorem vatRxOp_of_other (h8 : be f 12 2 ≠ 0x8100) (h1 : be f 12 2 ≠ 0x88F7) (h2 : be f 12 2 ≠ 0x22F0) :
    vatRxOp s port f true = (received s port).bump (pgPort port) 0x068 1 := by
  simp [vatRxOp, hup, hon, received, h8, h1, h2]

theorem vatRxOp_of_avtp (h : be f 12 2 = 0x22F0) : vatRxOp s port f true = avtpFrame (received s port) port none (f.drop 14) := by
  simp [vatRxOp, hup, hon, received, h]

theorem vatRxOp_of_no_channel (h : be f 12 2 = 0x22F0) (hm : matchChan s port none (f.drop 14) = none) :
    vatRxOp s port f true = (received s port).bump (pgPort port) 0x070 1 := by
  rw [vatRxOp_of_avtp hup hon h, avtpFrame_of_no_channel ((received_matchChan ..).trans hm)]

theorem vatRxOp_of_unsuited (h : be f 12 2 = 0x22F0) (hm : matchChan s port none (f.drop 14) = some ch) (hs : suits (be f 14 1) (s.chanCfg ch).kind = false) :
    vatRxOp s port f true = (received s port).bump (pgChan ch) 0x0E8 1 := by
  rw [vatRxOp_of_avtp hup hon h, avtpFrame_of_unsuited ((received_matchChan ..).trans hm) (by rw [be_drop, received_chanCfg]; exact hs)]

theorem vatRxOp_of_firstPacket {k : Nat} {p : Bytes} {h : Himir} (ht : be f 12 2 = 0x22F0) (hm : matchChan s port none (f.drop 14) = some ch)
    (hb : BetweenFrames s ch k) (hp : FirstPacket (s.chanCfg ch) (f.drop 14) p h) :
    (vatRxOp s port f true).clk = s.clk ∧ ((vatRxOp s port f true).chan ch).rx = some (firstTileRx (sysAccess (received s port)) ch k p h) := by
  have hb' := hb.received port
  have hp' := hp
  rw [← received_chanCfg s port] at hp'
  rw [vatRxOp_of_avtp hup hon ht, avtpFrame_of_firstPacket ((received_matchChan ..).trans hm) hb' hp']
  exact ⟨(chanPacket_clk ..).trans (State.bump_clk ..), chanPacket_rx_of_firstPacket hb' hp'⟩

end

/-- A channel's counter of packets of the wrong subtype is no port's counter. -/
theorem chan_addr_ne_port {ch port off off' : Nat} (hp : port < 8) (ho : off < 4096) (ho' : off' < 4096) :
    addr (pgChan ch) off ≠ addr (pgPort port) off' := by
  unfold addr pgChan pgPort
  omega

/-- Settles O44: what no channel takes only counts; of a first packet, at a channel between two frames, the tile is the frame's first. -/
theorem packetsReachTheirChannel : Obligations.PacketsReachTheirChannel := by
  intro t port f s hup hon
  have hnext {fcs : Bool} {u : State} (h : vatRxOp (atTime t s) port.val f fcs = u) : exec (.vatPacketRx t port ⟨f, fcs⟩) s = .next u :=
    congrArg Host.Outcome.next ((whenUp_of_up (s := atTime t s) hup _).trans h)
  have hport {off : Nat} (hne : off ≠ 0x050) :
      CountedOnly (atTime t s) ((received (atTime t s) port.val).bump (pgPort port.val) off 1) (pgPort port.val) off :=
    received_bump_countedOnly port.val (counting_port ..) (by unfold addr; omega)
  refine ⟨?_, fun h8 => ⟨fun h1 h2 => ?_, fun h hm => ?_, fun ch h hm hs => ?_, ?_⟩⟩
  · exact ⟨_, hnext (vatRxOp_of_bad_fcs (s := atTime t s) hup hon), (hport (by decide)).of_atTime⟩
  · exact ⟨_, hnext (vatRxOp_of_other (s := atTime t s) hup hon h8 h1 h2), (hport (by decide)).of_atTime⟩
  · exact ⟨_, hnext (vatRxOp_of_no_channel (s := atTime t s) hup hon h hm), (hport (by decide)).of_atTime⟩
  · have hcount : CountedOnly (atTime t s) ((received (atTime t s) port.val).bump (pgChan ch) 0x0E8 1) (pgChan ch) 0x0E8 :=
      received_bump_countedOnly port.val (counting_chan _ (matchChan_lt hm)) (chan_addr_ne_port port.isLt (by decide) (by decide))
    exact ⟨_, hnext (vatRxOp_of_unsuited (s := atTime t s) hup hon h hm hs), hcount.of_atTime⟩
  · intro ch k p h c ht hm hrx hc hsh h6 hp hh hw hcfg hfirst hlow hhigh hver hkind hcol hrow halign hlen hfw hfh hwMax hhMax hcols hrows hlast
      hroom hk
    subst hcfg
    have hbetween : BetweenFrames (atTime t s) ch k := ⟨hrx, hc, hsh, hk⟩
    have hpacket : FirstPacket ((atTime t s).chanCfg ch) (f.drop 14) p h :=
      ⟨by rw [be_drop, h6], by rw [be_drop, hp], hh, by rw [List.drop_drop, hw], hfirst,
        ⟨hlow, hhigh, hver, hkind, hcol, hrow, halign, hlen, hfw, hfh, hwMax, hhMax, hcols, hrows, hlast, hroom⟩⟩
    obtain ⟨hclk, hbegun⟩ := vatRxOp_of_firstPacket (s := atTime t s) hup hon ht hm hbetween hpacket
    refine ⟨vatRxOp (atTime t s) port.val f true, _, hnext rfl, hbegun, rfl, rfl, rfl, ?_, ?_, fun hts => ?_⟩
    · rw [hclk]
      exact congrArg Clk.dev ((sysAccess_clk _).trans (State.bump_clk ..))
    · exact (State.chanCfg_of_force (sysAccess_force _) ch).trans (received_chanCfg ..)
    · exact firstTileRx_capture hts ..

end Sys2Proof.Machine
end

section
/-! The commands of PART_CMD and of TALLY_W (R291, R304, R305, R311, R320, R321, R323, R501, R502): over a quiet link each of them is one shared
operation, which the state of the partition lets run or refuses. -/

namespace Sys2Proof.Machine

/-! ### Which commands a state allows (R321) -/

section
variable {s : State} {p a0 a1 a2 : Nat}

theorem partCommand_load (h : (s.part p).st = .ready) : partCommand s p 1 a0 a1 a2 = loadPlan s p a0 a1 := by
  simp [partCommand, bits, h]

theorem partCommand_unload (h : (s.part p).st = .loaded ∨ (s.part p).st = .suspended) : partCommand s p 2 a0 a1 a2 = unloadPart s p := by
  obtain h | h := h <;> simp [partCommand, bits, h]

theorem partCommand_launch (h : (s.part p).st = .loaded) : partCommand s p 3 a0 a1 a2 = launchOp s p a0 a1 a2 3 := by
  simp [partCommand, bits, h]

theorem partCommand_stop (h : (s.part p).st = .running) : partCommand s p 4 a0 a1 a2 = stopOp s p := by
  simp [partCommand, bits, h]

theorem partCommand_seqOpen (h : (s.part p).st = .loaded ∨ (s.part p).st = .running) :
    partCommand s p 5 a0 a1 a2 = seqOpenOp s p a0 a1 a2 5 := by
  obtain h | h := h <;> simp [partCommand, bits, h]

theorem partCommand_seqRetire (h : (s.part p).st = .loaded ∨ (s.part p).st = .running) :
    partCommand s p 6 a0 a1 a2 = seqRetireOp s p a0 a2 6 := by
  obtain h | h := h <;> simp [partCommand, bits, h]

theorem partCommand_load_refused (h : (s.part p).st ≠ .ready) : partCommand s p 1 a0 a1 a2 = refuseCmd s p 0x5002 1 := by
  cases hst : (s.part p).st with
  | ready => exact absurd hst h
  | _ => simp [partCommand, bits, hst]

theorem partCommand_unload_refused (hl : (s.part p).st ≠ .loaded) (hs : (s.part p).st ≠ .suspended) :
    partCommand s p 2 a0 a1 a2 = refuseCmd s p 0x5002 2 := by
  cases hst : (s.part p).st with
  | loaded => exact absurd hst hl
  | suspended => exact absurd hst hs
  | _ => simp [partCommand, bits, hst]

theorem partCommand_launch_refused (h : (s.part p).st ≠ .loaded) : partCommand s p 3 a0 a1 a2 = refuseCmd s p 0x5002 3 := by
  cases hst : (s.part p).st with
  | loaded => exact absurd hst h
  | _ => simp [partCommand, bits, hst]

theorem partCommand_stop_refused (h : (s.part p).st ≠ .running) : partCommand s p 4 a0 a1 a2 = refuseCmd s p 0x5002 4 := by
  cases hst : (s.part p).st with
  | running => exact absurd hst h
  | _ => simp [partCommand, bits, hst]

theorem partCommand_seqOpen_refused (hl : (s.part p).st ≠ .loaded) (hr : (s.part p).st ≠ .running) :
    partCommand s p 5 a0 a1 a2 = refuseSeqOpen s p 0x5002 5 := by
  cases hst : (s.part p).st with
  | loaded => exact absurd hst hl
  | running => exact absurd hst hr
  | _ => simp [partCommand, bits, hst]

theorem partCommand_seqRetire_refused (hl : (s.part p).st ≠ .loaded) (hr : (s.part p).st ≠ .running) :
    partCommand s p 6 a0 a1 a2 = refuseCmd s p 0x5002 6 := by
  cases hst : (s.part p).st with
  | loaded => exact absurd hst hl
  | running => exact absurd hst hr
  | _ => simp [partCommand, bits, hst]

end

/-- A change of a partition changes the plans alone. -/
theorem State.modPart_same (s : State) (p : Nat) (f : PartSt → PartSt) {g : Field} (hg : g ≠ .plans) : Same g s (s.modPart p f) := by
  cases g with
  | plans => exact absurd rfl hg
  | settings => exact ⟨rfl, rfl⟩
  | commits => exact fun _ => ⟨rfl, rfl, rfl, rfl⟩
  | _ => rfl

/-- A write of PART_CMD of the host at its instant, while QP runs and no command waits (R321, R450). -/
theorem hostWrite_part_atTime {t : Nat} {w : Sender} {p : Fin 8} {s : State} (h : HostCan (atTime t s) w (pgPart p.val))
    (hc : (s.part p.val).cmd = none) (hq : (s.proc 2).st = .run) (v : Nat) :
    hostWrite (atTime t s) w (pgPart p.val) 0x068 v =
      partCommand (atTime t s) p.val v (s.partReg p.val 0x06C) (s.partReg p.val 0x070) (s.partReg p.val 0x074) :=
  hostWrite_part h hc hq v

/-- What a command of PART_CMD comes to, as the outcome of its instruction. -/
theorem partCommand_next {t : Nat} {w : Sender} {p : Fin 8} {s u : State} {v : Nat} (h : HostCan (atTime t s) w (pgPart p.val))
    (hc : (s.part p.val).cmd = none) (hq : (s.proc 2).st = .run)
    (hu : partCommand (atTime t s) p.val v (s.partReg p.val 0x06C) (s.partReg p.val 0x070) (s.partReg p.val 0x074) = u) :
    (.next (hostWrite (atTime t s) w (pgPart p.val) 0x068 v) : Host.Outcome State Fault Refusal) = .next u :=
  congrArg Host.Outcome.next ((hostWrite_part_atTime h hc hq v).trans hu)

/-- Settles O32: each command is one write of PART_CMD, and the partition's state leads it to the refusal. -/
theorem partitionCommandsCheckTheState : Obligations.PartitionCommandsCheckTheState := by
  intro t w p s h hc hq
  have hcmd {v : Nat} {u : State} := partCommand_next (v := v) (u := u) h hc hq
  refine ⟨fun hs => hcmd (partCommand_load_refused hs), fun hl hs => hcmd (partCommand_unload_refused hl hs),
    fun hs => hcmd (partCommand_launch_refused hs), fun hs => hcmd (partCommand_stop_refused hs),
    fun hl hr => ⟨hcmd (partCommand_seqRetire_refused hl hr), ?_⟩⟩
  refine ⟨_, hcmd (partCommand_seqOpen_refused hl hr), ?_, fun q hne => ?_, fun g hg => State.modPart_same _ _ _ hg⟩
  · rw [State.modPart_part_self]
  · exact State.modPart_part_ne _ _ hne

/-! ### TALLY_W_ADD (R311, R323) -/

/-- An add to a tally that no system tally is bound to is made here, and stops at 2^32 − 1. -/
theorem tallyAdd_unbound {s : State} {p t : Nat} (h : bindingFor s p t = none) (n : Nat) :
    tallyAdd s p t n = s.setTally (devTally s p t) (min (s.tally (devTally s p t) + n) (2 ^ 32 - 1)) := by
  simp [tallyAdd, h]

/-- The host's add is an add; what else it notes is no tally. -/
theorem hostAdd_tally (s : State) (p t n k : Nat) : (hostAdd s p t n).tally k = (tallyAdd s p t n).tally k := by
  unfold hostAdd
  dsimp only
  split <;> rfl

theorem settleUnits_plans (s : State) : (settleUnits s).plans = s.plans :=
  (settleUnits_frame (.refl [.fresh, .regs, .units] s) (.refl _)).same .plans (by decide)

theorem tallyWrite_tally {s : State} {p v : Nat} (ht : bits v 31 16 < bits (s.partReg p 0x050) 15 0) (hn : bits v 15 0 ≠ 0) (k : Nat) :
    (tallyWrite s p v).tally k = (tallyAdd s p (bits v 31 16) (bits v 15 0)).tally k := by
  rw [tallyWrite, if_neg (by omega), State.tally, settleUnits_plans]
  exact hostAdd_tally ..

theorem tallyWrite_refused {s : State} {p v : Nat} (h : bits (s.partReg p 0x050) 15 0 ≤ bits v 31 16 ∨ bits v 15 0 = 0) :
    tallyWrite s p v = s.pageErr (pgTally p) 1 0x5046 0x044 := by
  rw [tallyWrite, if_pos h]

/-- Settles O28: the write is one add to an unbound tally, or the refusal. -/
theorem tallyWritesAdd : Obligations.TallyWritesAdd := by
  intro t w p v s h
  have hexec : exec (.tallyWAdd t w p v) s = .next (tallyWrite (atTime t s) p.val v.toNat) :=
    congrArg Host.Outcome.next (hostWrite_tally h v.toNat)
  refine ⟨fun ht hn hb => ⟨_, hexec, ?_, fun k hk => ?_⟩, fun hr => hexec.trans (congrArg Host.Outcome.next (tallyWrite_refused hr))⟩
  · rw [tallyWrite_tally (s := atTime t s) ht hn, tallyAdd_unbound (s := atTime t s) hb]
    exact State.setTally_tally_self ..
  · rw [tallyWrite_tally (s := atTime t s) ht hn, tallyAdd_unbound (s := atTime t s) hb]
    exact State.setTally_tally_ne _ _ hk

/-! ### STEP_TICK (R307) -/

/-- Settles O37: the tick's instant decides between nothing and the step's beginning, which is the stated order of the model's own operations. -/
theorem stepsBeginAtTheirTick : Obligations.StepsBeginAtTheirTick := by
  intro t p s T hup hT
  refine ⟨fun h => congrArg Host.Outcome.next ?_, fun h => ⟨_, _, rfl, rfl, congrArg Host.Outcome.next ?_⟩⟩
  · simp [stepTickOp, hT, h]
  · have hdue : ¬ ((atTime t s).phase ≠ .up ∨ (atTime t s).clk.dev < T) := by simp [hup, h]
    simp only [stepTickOp, hT, if_neg hdue]
    rfl

end Sys2Proof.Machine
end

section
/-! What taking and giving back pages leaves of the plans (R161–R165, R169, R172, R295): of every partition its page table and its prefetches may change,
and nothing else of the plans does. -/

namespace Sys2Proof.Machine

/-- s came from a with no change in the plans but in the partitions' page tables and prefetches. -/
structure PagesOnly (a s : State) : Prop where
  rest : { s.plans with parts := a.plans.parts } = a.plans
  part : ∀ p, ∃ l m, s.part p = { a.part p with ptes := l, prefetch := m }

theorem PagesOnly.of_plans {a s : State} (h : s.plans = a.plans) : PagesOnly a s :=
  ⟨by rw [h], fun p => ⟨(a.part p).ptes, (a.part p).prefetch, by rw [State.part, h, State.part]⟩⟩

theorem PagesOnly.refl (s : State) : PagesOnly s s := .of_plans rfl

theorem PagesOnly.of_frame {W : List Field} {a s : State} (h : Frame W a s) (hp : .plans ∉ W) : PagesOnly a s := .of_plans (h.same .plans hp)

theorem PagesOnly.trans {a s u : State} (h : PagesOnly a s) (k : PagesOnly s u) : PagesOnly a u := by
  refine ⟨?_, fun p => ?_⟩
  · rw [← h.rest, ← k.rest]
  · obtain ⟨l, m, hp⟩ := h.part p
    obtain ⟨l', m', kp⟩ := k.part p
    exact ⟨l', m', by rw [kp, hp]⟩

theorem PagesOnly.foldl {β : Type} {f : State → β → State} (hf : ∀ s b, PagesOnly s (f s b)) (l : List β) (s : State) : PagesOnly s (l.foldl f s) := by
  induction l generalizing s with
  | nil => exact .refl s
  | cons b l ih => exact (hf s b).trans (ih _)

section
variable {a s : State} (h : PagesOnly a s)
include h

theorem PagesOnly.instarAt (i : Nat) : s.instarAt i = a.instarAt i :=
  have e := congrArg Plans.instar h.rest
  congrArg (sget InstarEntry.reset · i) e

theorem PagesOnly.queue (q : Nat) : s.queue q = a.queue q :=
  have e := congrArg Plans.queues h.rest
  congrArg (sget [] · q) e

theorem PagesOnly.run (q : Nat) : s.run q = a.run q :=
  have e := congrArg Plans.running h.rest
  congrArg (List.lookup q) e

theorem PagesOnly.st (p : Nat) : (s.part p).st = (a.part p).st := by obtain ⟨l, m, hp⟩ := h.part p; rw [hp]
theorem PagesOnly.plan (p : Nat) : (s.part p).plan = (a.part p).plan := by obtain ⟨l, m, hp⟩ := h.part p; rw [hp]
theorem PagesOnly.step (p : Nat) : (s.part p).step = (a.part p).step := by obtain ⟨l, m, hp⟩ := h.part p; rw [hp]
theorem PagesOnly.stepNo (p : Nat) : (s.part p).stepNo = (a.part p).stepNo := by obtain ⟨l, m, hp⟩ := h.part p; rw [hp]
theorem PagesOnly.wrSeq (p : Nat) : (s.part p).wrSeq = (a.part p).wrSeq := by obtain ⟨l, m, hp⟩ := h.part p; rw [hp]
theorem PagesOnly.safe (p : Nat) : (s.part p).safe = (a.part p).safe := by obtain ⟨l, m, hp⟩ := h.part p; rw [hp]

end

/-! ### Page tables -/

theorem State.modPart_pagesOnly (s : State) (p : Nat) {f : PartSt → PartSt} (hf : ∀ x, ∃ l m, f x = { x with ptes := l, prefetch := m }) :
    PagesOnly s (s.modPart p f) := by
  refine ⟨rfl, fun i => ?_⟩
  obtain h | h := s.modPart_part p i f
  · rw [h]
    exact hf _
  · exact ⟨_, _, h⟩

theorem State.setPte_pagesOnly (s : State) (p key : Nat) (e : Pte) : PagesOnly s (s.setPte p key e) :=
  s.modPart_pagesOnly p fun _ => ⟨_, _, rfl⟩

theorem freeKeys_pagesOnly (s : State) (p : Nat) (dead : Nat → Bool) : PagesOnly s (freeKeys s p dead) :=
  s.modPart_pagesOnly p fun _ => ⟨_, _, rfl⟩

theorem dropPrefetch_pagesOnly (s : State) (p id : Nat) : PagesOnly s (dropPrefetch s p id) :=
  s.modPart_pagesOnly p fun _ => ⟨_, _, rfl⟩

theorem touchPage_pagesOnly (s : State) (p cls up va : Nat) : PagesOnly s (touchPage s p cls up va) := by
  unfold touchPage
  split
  · dsimp only
    split
    · exact (PagesOnly.of_frame (grantAccess_frame (.refl [.fresh, .regs, .press] s) (.refl _)) (by decide)).trans (State.setPte_pagesOnly ..)
    · exact .refl s
  · exact .refl s

theorem touchPages_pagesOnly (s : State) (p up : Nat) (l : List Nat) : PagesOnly s (touchPages s p up l) :=
  .foldl (fun _ _ => touchPage_pagesOnly ..) _ s

theorem touchRange_pagesOnly (s : State) (p cls va n : Nat) : PagesOnly s (touchRange s p cls va n) :=
  .foldl (fun _ _ => touchPage_pagesOnly ..) _ s

/-! ### Frames given and taken -/

theorem evict_pagesOnly (s : State) (p key : Nat) : PagesOnly s (evict s p key) := by
  unfold evict
  extract_lets e s1 s2
  have h1 : PagesOnly s s1 := .of_frame (State.bump_frame (.refl [.regs] s) (.refl _)) (by decide)
  have h2 : PagesOnly s1 s2 := by
    unfold s2
    split
    · split
      · exact .of_frame (State.bump_frame (requestBack_frame (State.copyRam_frame (.refl [.mem, .regs, .press] s1) (by decide)) (by decide))
          (by decide)) (by decide)
      · exact .refl s1
    · exact .refl s1
  exact (h1.trans h2).trans (State.setPte_pagesOnly ..)

theorem freeFelt_pagesOnly {s t : State} {p : Nat} {slice : State → Option Nat} {q f : Nat} (h : freeFelt s p slice = some (q, f, t)) : PagesOnly s t :=
  .of_frame (freeFelt_frame h (.refl [.fresh] s) (.refl _)) (by decide)

theorem takeFelt_pagesOnly {s t : State} {p : Nat} {aff : Option Nat} {q f : Nat} (h : takeFelt s p aff = some (q, f, t)) : PagesOnly s t := by
  unfold takeFelt at h
  split at h
  next r hr => exact freeFelt_pagesOnly (hr.trans h)
  next =>
    split at h
    · exact absurd h nofun
    · exact (evict_pagesOnly ..).trans (freeFelt_pagesOnly h)

/-- The contents of a new page reach its frame. -/
theorem initPage_pagesOnly (s : State) (p : Nat) (image : List Nat) (e : Pte) (dst : Nat) (into : Option Nat) :
    PagesOnly s (requestInit (initFrame s image e dst) p e into) :=
  .of_frame (requestInit_frame (initFrame_frame (.refl [.mem, .regs, .press] s) (by decide)) (by decide)) (by decide)

theorem allocPage_pagesOnly {s t : State} {p : Nat} {image : List Nat} {bind : List (Option Nat)} {r : Region} {key src : Nat}
    (h : allocPage s p image bind r key src = some t) : PagesOnly s t := by
  have htick : PagesOnly s s.tick := .of_plans rfl
  unfold allocPage at h
  dsimp only at h
  split at h
  · split at h
    · exact absurd h nofun
    · cases h
      exact (htick.trans (initPage_pagesOnly ..)).trans (State.setPte_pagesOnly ..)
  split at h
  · split at h
    · split at h
      · exact absurd h nofun
      · cases h
        exact (htick.trans (.foldl (fun _ _ => initPage_pagesOnly ..) _ _)).trans (State.setPte_pagesOnly ..)
    · exact absurd h nofun
  split at h
  · exact absurd h nofun
  next b z hb =>
    have hz : PagesOnly s z := by
      split at hb
      · split at hb
        · exact absurd hb nofun
        · cases hb
          exact htick.trans (initPage_pagesOnly ..)
      · cases hb
        exact .refl s
    split at h
    · split at h
      · exact absurd h nofun
      next hf =>
        cases h
        exact (((hz.trans (State.setPte_pagesOnly ..)).trans (takeFelt_pagesOnly hf)).trans (initPage_pagesOnly ..)).trans (State.setPte_pagesOnly ..)
    · cases h
      exact hz.trans (State.setPte_pagesOnly ..)

theorem allocPages_pagesOnly {l : List Nat} {s t : State} {p : Nat} {image : List Nat} {bind : List (Option Nat)} {r : Region} {keyOf : Nat → Nat}
    (h : allocPages s p image bind r keyOf l = some t) : PagesOnly s t := by
  induction l generalizing s with
  | nil => cases h; exact .refl _
  | cons k ks ih =>
    unfold allocPages at h
    split at h
    next hs => exact (allocPage_pagesOnly hs).trans (ih h)
    · exact absurd h nofun

theorem allocRegions_pagesOnly {l : List Region} {s t : State} {p : Nat} {image : List Nat} {bind : List (Option Nat)}
    (h : allocRegions s p image bind l = some t) : PagesOnly s t := by
  induction l generalizing s with
  | nil => cases h; exact .refl _
  | cons r rs ih =>
    unfold allocRegions at h
    split at h
    · exact ih h
    · split at h
      next hs => exact (allocPages_pagesOnly hs).trans (ih h)
      · exact absurd h nofun

theorem allocPads_pagesOnly {l : List SClass} {i : Nat} {s t : State} {p : Nat} {image : List Nat} {bind : List (Option Nat)} {regions : List Region}
    (h : allocPads s p image bind regions i l = some t) : PagesOnly s t := by
  induction l generalizing s i with
  | nil => cases h; exact .refl _
  | cons c cs ih =>
    unfold allocPads at h
    split at h
    · exact absurd h nofun
    · split at h
      next hs => exact (allocPages_pagesOnly hs).trans (ih h)
      · exact absurd h nofun

/-- Regions allocated one after another, each on what the one before it left. -/
theorem allocEach_pagesOnly {s t : State} {p idx : Nat} {image : List Nat} (l : List Region) (o : Option State) (ho : ∀ z, o = some z → PagesOnly s z)
    (h : l.foldl (fun o r => match o with
      | some s => allocPages s p image (s.part p).bind r (r.key idx) (List.range r.pages)
      | none => none) o = some t) : PagesOnly s t := by
  induction l generalizing o with
  | nil => exact ho t h
  | cons r rs ih =>
    refine ih _ (fun z hz => ?_) h
    cases o with
    | none => exact absurd hz nofun
    | some y => exact (ho y rfl).trans (allocPages_pagesOnly hz)

theorem allocSequence_pagesOnly {s t : State} {p idx : Nat} (h : allocSequence s p idx = some t) : PagesOnly s t := by
  unfold allocSequence at h
  split at h
  · exact absurd h nofun
  next pl _ =>
    extract_lets seqs at h
    split at h
    · exact absurd h nofun
    split at h
    · exact absurd h nofun
    · refine allocEach_pagesOnly seqs (some s) (fun z hz => ?_) h
      cases hz
      exact .refl s

theorem freeSequence_pagesOnly (s : State) (p idx : Nat) : PagesOnly s (freeSequence s p idx) := by
  unfold freeSequence
  split
  · exact .refl s
  · exact freeKeys_pagesOnly ..

end Sys2Proof.Machine
end

section
/-! Sequences that open and retire on command (R304, R305, R320), a launch and a stop (R291, R294, R501, R502), and a plan's load and unload
(R291, R293, R297). -/

namespace Sys2Proof.Machine

@[simp] theorem State.bump_instarAt (s : State) (page off n i : Nat) : (s.bump page off n).instarAt i = s.instarAt i := by
  rw [State.instarAt, State.bump_plans, State.instarAt]

@[simp] theorem State.bump_part (s : State) (page off n p : Nat) : (s.bump page off n).part p = s.part p := by
  rw [State.part, State.bump_plans, State.part]

@[simp] theorem State.modPart_instarAt (s : State) (p : Nat) (f : PartSt → PartSt) (i : Nat) : (s.modPart p f).instarAt i = s.instarAt i := rfl

@[simp] theorem State.setInstar_part (s : State) (i : Nat) (e : InstarEntry) (p : Nat) : (s.setInstar i e).part p = s.part p := rfl

/-! ### SEQ_OPEN and SEQ_RETIRE -/

section
variable {s : State} {p a0 a1 a2 v : Nat} {pl : Plan} {c : SClass} (hpl : (s.part p).plan = some pl) (hcl : pl.classes[bits a0 7 0]? = some c)
  (hm : bits a0 15 8 < 32 ∨ c.bind = false ∧ bits a0 15 8 = 0xFF)
include hpl hcl hm

/-- In RUNNING an open waits for its step; it is the last SEQ_OPEN from now on. -/
theorem seqOpenOp_of_running {n : Nat} (hst : (s.part p).st = .running) (hn : stepAt (s.part p) a2 = some n) :
    seqOpenOp s p a0 a1 a2 v = s.modPart p (fun x => { x with
      openResult := 0, opens := x.opens.map (fun o => { o with last := false }) ++ [⟨bits a0 7 0, bits a0 15 8, a1, n, true⟩] }) := by
  obtain hm | ⟨hb, hm⟩ := hm <;> simp [seqOpenOp, *]

/-- In LOADED an open takes effect at once. -/
theorem seqOpenOp_of_loaded (hst : (s.part p).st = .loaded) :
    seqOpenOp s p a0 a1 a2 v = hostOpen (s.modPart p (fun x => { x with openResult := 0 })) p ⟨bits a0 7 0, bits a0 15 8, a1, 0, true⟩ 0 := by
  obtain hm | ⟨hb, hm⟩ := hm <;> simp [seqOpenOp, *]

end

/-- The entry that an open writes (R303). -/
def openEntry (s : State) (p : Nat) (o : PendingOpen) (first : Nat) : InstarEntry :=
  ⟨(s.part p).sid, 1, p, o.sclass, true, false, o.member, o.user, first, 0, 0⟩

theorem openSeq_of_alloc {s v : State} {p i : Nat} (hi : (instarRange s p).find? (fun i => (s.instarAt i).st == 0) = some i)
    (hv : allocSequence s p i = some v) (o : PendingOpen) (first : Nat) :
    openSeq s p o first = (((v.setInstar i (openEntry s p o first)).modPart p (fun x => { x with sid := (s.part p).sid + 1 })).bump pgInstar 0x078 1,
      .ok (i, (s.part p).sid)) := by
  simp only [openSeq, hi, hv, openEntry]

/-- An open that finds an entry and its pages takes the entry, which is told where it is the last one; no other entry changes. -/
theorem hostOpen_of_alloc {s v : State} {p i : Nat} (hi : (instarRange s p).find? (fun i => (s.instarAt i).st == 0) = some i)
    (hv : allocSequence s p i = some v) (o : PendingOpen) (hl : o.last = true) (first : Nat) :
    (hostOpen s p o first).instarAt i = openEntry s p o first ∧
      ((hostOpen s p o first).part p).openResult = BitVec.ofNat 32 (2 ^ 31 + (s.part p).sid % 2 ^ 18 * 2 ^ 12 + i) ∧
      ∀ j, j ≠ i → (hostOpen s p o first).instarAt j = s.instarAt j := by
  unfold hostOpen
  rw [openSeq_of_alloc hi hv]
  refine ⟨?_, ?_, fun j hj => ?_⟩
  · simp
  · rw [State.modPart_part_self, if_pos hl]
  · rw [State.modPart_instarAt, State.bump_instarAt, State.modPart_instarAt, State.setInstar_instarAt_ne _ _ hj]
    exact (allocSequence_pagesOnly hv).instarAt j

theorem retireSeq_instarAt (s : State) (p i j : Nat) : (retireSeq s p i).instarAt j = (s.setInstar i InstarEntry.reset).instarAt j := by
  rw [retireSeq, State.bump_instarAt]
  exact (freeSequence_pagesOnly ..).instarAt j

section
variable {s : State} {p a0 a2 v : Nat} (hst : (s.instarAt (bits a0 11 0)).st = 1) (hp : (s.instarAt (bits a0 11 0)).part = p)
include hst hp

theorem seqRetireOp_of_running {n : Nat} (hr : (s.part p).st = .running) (hn : stepAt (s.part p) a2 = some n) :
    seqRetireOp s p a0 a2 v = s.setInstar (bits a0 11 0) { s.instarAt (bits a0 11 0) with st := 2, retireAt := n } := by
  simp [seqRetireOp, hst, hp, hr, hn]

theorem seqRetireOp_of_loaded (hl : (s.part p).st = .loaded) : seqRetireOp s p a0 a2 v = retireSeq s p (bits a0 11 0) := by
  simp [seqRetireOp, hst, hp, hl]

end

/-- Settles O31: in RUNNING each command only notes what its step brings, in LOADED it is done at once. -/
theorem sequencesOpenAndRetire : Obligations.SequencesOpenAndRetire := by
  intro t w p s h hc hq
  refine ⟨fun pl c hpl hcl hm => ⟨fun n hst hn => ?_, fun i v hst hi hv => ⟨_, partCommand_next h hc hq rfl, ?_⟩⟩,
    fun i hi hst hp => ⟨fun n hr hn => ?_, fun hl => ⟨_, partCommand_next h hc hq rfl, ?_⟩⟩⟩
  · exact partCommand_next h hc hq ((partCommand_seqOpen (s := atTime t s) (.inr hst)).trans (seqOpenOp_of_running (s := atTime t s) hpl hcl hm hst hn))
  · rw [partCommand_seqOpen (s := atTime t s) (.inl hst), seqOpenOp_of_loaded (s := atTime t s) hpl hcl hm hst]
    have hsid : (((atTime t s).modPart p.val (fun x => { x with openResult := 0 })).part p.val).sid = (s.part p.val).sid := by
      rw [State.modPart_part_self]
      rfl
    obtain ⟨hentry, hresult, hother⟩ := hostOpen_of_alloc (s := (atTime t s).modPart p.val (fun x => { x with openResult := 0 })) hi hv
      ⟨bits (s.partReg p.val 0x06C) 7 0, bits (s.partReg p.val 0x06C) 15 8, s.partReg p.val 0x070, 0, true⟩ rfl 0
    rw [openEntry, hsid] at hentry
    rw [hsid] at hresult
    exact ⟨hentry, hresult, hother⟩
  · subst hi
    exact partCommand_next h hc hq ((partCommand_seqRetire (s := atTime t s) (.inr hr)).trans (seqRetireOp_of_running (s := atTime t s) hst hp hr hn))
  · subst hi
    rw [partCommand_seqRetire (s := atTime t s) (.inl hl), seqRetireOp_of_loaded (s := atTime t s) hst hp hl]
    refine ⟨?_, fun j hj => ?_⟩
    · rw [retireSeq_instarAt, State.setInstar_instarAt_self]
      rfl
    · rw [retireSeq_instarAt, State.setInstar_instarAt_ne _ _ hj]
      rfl

/-! ### LAUNCH and STOP -/

/-- The instant of a launch: of a global one what the system's clock gives, else the arguments (R501, R502). -/
def launchInstant (s : State) (a0 a1 : Nat) (all : Bool) : Nat :=
  if all then (s.regsOf 0x020 0x064 + 2 ^ 32 * s.regsOf 0x020 0x068)
    + (s.regsOf 0x020 0x078 + 2 ^ 32 * s.regsOf 0x020 0x07C) * bits (s.regsOf 0x020 0x06C) 17 0 * 1000
  else a0 + 2 ^ 32 * a1

/-- A launch whose clock is locked where the launch is global. -/
theorem launchOp_of_locked {s : State} {p a0 a1 a2 v : Nat} (h : bit a2 0 = true → s.clk.time.st = 2) :
    launchOp s p a0 a1 a2 v =
      if launchInstant s a0 a1 (bit a2 0) < s.clk.dev + 1000000 then refuseCmd s p 0x500B v
      else restoreUnits (s.modPart p (fun x => { x with
        st := .running, launchNs := some (launchInstant s a0 a1 (bit a2 0)), launchGlobal := bit a2 0, stepNo := 0, notBefore := 0 })) p := by
  have hlock : ¬ (bit a2 0 && s.clk.time.st != 2) = true := by
    cases hb : bit a2 0 with
    | false => nofun
    | true => simp [h hb]
  unfold launchOp
  extract_lets all t
  rw [if_neg hlock]
  rfl

/-- A partition that lost no unit needs none. -/
theorem restoreUnits_of_none_lost {s : State} {p : Nat} (h : (s.part p).lost = []) :
    restoreUnits s p = s.modPart p (fun x => { x with lost := x.lost.filter (fun w =>
      if w.engine then (x.ebind.getD w.logical none).isNone else (x.bind.getD w.logical none).isNone) }) := by
  simp only [restoreUnits, h, List.foldl_nil]

/-- What a partition runs by, and the opens that wait, are as they were. -/
structure SameRunState (p : Nat) (a s : State) : Prop where
  st : (s.part p).st = (a.part p).st
  launchNs : (s.part p).launchNs = (a.part p).launchNs
  opens : (s.part p).opens = (a.part p).opens
  resetting : (s.part p).resetting = (a.part p).resetting

theorem SameRunState.of_part {p : Nat} {a s : State} (h : s.part p = a.part p) : SameRunState p a s := ⟨by rw [h], by rw [h], by rw [h], by rw [h]⟩

theorem SameRunState.of_plans {a s : State} (h : s.plans = a.plans) (p : Nat) : SameRunState p a s := .of_part (by rw [State.part, h, State.part])

theorem SameRunState.trans {p : Nat} {a s u : State} (h : SameRunState p a s) (k : SameRunState p s u) : SameRunState p a u :=
  ⟨k.st.trans h.st, k.launchNs.trans h.launchNs, k.opens.trans h.opens, k.resetting.trans h.resetting⟩

theorem SameRunState.foldl {β : Type} {p : Nat} {f : State → β → State} (hf : ∀ s b, SameRunState p s (f s b)) (l : List β) (s : State) :
    SameRunState p s (l.foldl f s) := by
  induction l generalizing s with
  | nil => exact .of_part rfl
  | cons b l ih => exact (hf s b).trans (ih _)

theorem PagesOnly.sameRunState {a s : State} (h : PagesOnly a s) (p : Nat) : SameRunState p a s := by
  obtain ⟨l, m, hp⟩ := h.part p
  exact ⟨by rw [hp], by rw [hp], by rw [hp], by rw [hp]⟩

theorem retireSeq_sameRunState (s : State) (p i : Nat) : SameRunState p s (retireSeq s p i) := by
  have hset : SameRunState p s (s.setInstar i InstarEntry.reset) := .of_part rfl
  exact (hset.trans ((freeSequence_pagesOnly ..).sameRunState p)).trans (.of_part (State.bump_part ..))

theorem refuseOpen_sameRunState (s : State) (p : Nat) : SameRunState p s (refuseOpen s p) :=
  .of_plans (by simp [refuseOpen]) p

theorem openSeq_sameRunState (s : State) (p : Nat) (o : PendingOpen) (first : Nat) : SameRunState p s (openSeq s p o first).1 := by
  unfold openSeq
  split
  · exact refuseOpen_sameRunState s p
  split
  · exact refuseOpen_sameRunState s p
  next s' hs =>
    refine ((allocSequence_pagesOnly hs).sameRunState p).trans ?_
    constructor <;> simp

theorem hostOpen_sameRunState (s : State) (p : Nat) (o : PendingOpen) (first : Nat) : SameRunState p s (hostOpen s p o first) := by
  have h := openSeq_sameRunState s p o first
  unfold hostOpen
  split
  next z i sid hz =>
    rw [hz] at h
    exact h.trans (by constructor <;> simp)
  next z code hz =>
    rw [hz] at h
    refine (h.trans (by constructor <;> simp : SameRunState p z (z.modPart p (fun x =>
      { x with openResult := if o.last then 0xC0000000#32 else x.openResult })))).trans (.of_plans (State.pageErr_plans ..) p)

/-- At the end of its step a STOPPING partition is LOADED, and no open waits any more. -/
theorem stopAtEnd_of_stopping {s : State} {p : Nat} (hs : (s.part p).st = .stopping) (hr : (s.part p).resetting = false) :
    ((stopAtEnd s p).part p).st = .loaded ∧ ((stopAtEnd s p).part p).launchNs = none ∧ ((stopAtEnd s p).part p).opens = [] := by
  unfold stopAtEnd
  rw [if_pos (by rw [hs]; rfl)]
  extract_lets s1 s2 os s3 s4
  have h1 : s1.part p = { s.part p with st := .loaded, launchNs := none } := State.modPart_part_self ..
  have h2 : SameRunState p s1 s2 := .foldl (fun s i => by
    split
    · exact retireSeq_sameRunState s p i
    · exact .of_part rfl) _ s1
  have h3 : s3.part p = { s2.part p with opens := [] } := State.modPart_part_self ..
  have h4 : SameRunState p s3 s4 := .foldl (fun s o => hostOpen_sameRunState s p o 0) _ s3
  have hreset : (s4.part p).resetting = false := by rw [h4.resetting, h3, h2.resetting, h1, hr]
  rw [if_neg (by simp [hreset])]
  exact ⟨by rw [h4.st, h3, h2.st, h1], by rw [h4.launchNs, h3, h2.launchNs, h1], by rw [h4.opens, h3]⟩

/-- With no step in progress STOP ends the current step at once. -/
theorem stopOp_of_no_step {s : State} {p : Nat} (hs : (s.part p).step = none) :
    stopOp s p = stopAtEnd (s.modPart p (fun x => { x with st := .stopping })) p := by
  simp [stopOp, hs]

theorem stopOp_of_step {s : State} {p : Nat} (h : (s.part p).step.isSome = true) : stopOp s p = s.modPart p (fun x => { x with st := .stopping }) := by
  obtain ⟨st, hst⟩ := Option.isSome_iff_exists.1 h
  simp [stopOp, hst]

/-- Settles O30: the instant decides between the launch and its refusal, and whether a step is in progress what STOP does at once. -/
theorem partitionsLaunchAndStop : Obligations.PartitionsLaunchAndStop := by
  intro t w p s h hc hq
  refine ⟨fun hst T hT => ?_, fun hst => ⟨fun hs => ?_, fun hs hr => ⟨_, partCommand_next h hc hq rfl, ?_⟩⟩⟩
  · have hlock : bit (s.partReg p.val 0x074) 0 = true → (atTime t s).clk.time.st = 2 := by
      intro hb
      obtain ⟨hn, -⟩ | ⟨-, hl, -⟩ := hT
      · exact absurd (hn.symm.trans hb) nofun
      · exact hl
    have hinst : launchInstant (atTime t s) (s.partReg p.val 0x06C) (s.partReg p.val 0x070) (bit (s.partReg p.val 0x074) 0) = T := by
      obtain ⟨hb, rfl⟩ | ⟨hb, -, rfl⟩ := hT
      · rw [launchInstant, hb]
        rfl
      · rw [launchInstant, hb]
        rfl
    have hlaunch : partCommand (atTime t s) p.val 3 (s.partReg p.val 0x06C) (s.partReg p.val 0x070) (s.partReg p.val 0x074) = _ :=
      (partCommand_launch (s := atTime t s) hst).trans (launchOp_of_locked (s := atTime t s) hlock)
    rw [hinst] at hlaunch
    refine ⟨fun ht => ?_, fun ht hlost => ?_, fun ht => ?_⟩
    · rw [if_neg (by omega)] at hlaunch
      exact partCommand_next h hc hq hlaunch
    · rw [if_neg (by omega), restoreUnits_of_none_lost (by rw [State.modPart_part_self]; exact hlost)] at hlaunch
      refine ⟨_, partCommand_next h hc hq hlaunch, fun q hne => ?_, fun g hg => ?_, ?_⟩
      · rw [State.modPart_part_ne _ _ hne, State.modPart_part_ne _ _ hne]
        rfl
      · exact (State.modPart_frame (State.modPart_frame (.refl [.plans] _) (by decide)) (by decide)).same g (by simpa using hg)
      · simp [hlost]
    · rw [if_pos ht] at hlaunch
      exact partCommand_next h hc hq hlaunch
  · exact partCommand_next h hc hq ((partCommand_stop (s := atTime t s) hst).trans (stopOp_of_step (s := atTime t s) hs))
  · rw [partCommand_stop (s := atTime t s) hst]
    rw [stopOp_of_no_step (s := atTime t s) hs]
    exact stopAtEnd_of_stopping (by rw [State.modPart_part_self]) (by rw [State.modPart_part_self]; exact hr)

end Sys2Proof.Machine
end

section
/-! A plan's load and unload (R161, R291, R293, R296, R297): what LOAD builds keeps the plan it began with, and UNLOAD leaves no sequence open. -/

namespace Sys2Proof.Machine

/-! ### LOAD -/

/-- The plan's image is copied page by page: the plan stays, and so does the number of its next step. -/
theorem copyImage_part {l : List Nat} {s t : State} {p src bytes : Nat} {pl : Plan} (h : copyImage s p src bytes pl l = some t) :
    (t.part p).stepNo = (s.part p).stepNo ∧ (t.part p).plan.isSome = (s.part p).plan.isSome := by
  induction l generalizing s with
  | nil => cases h; exact ⟨rfl, rfl⟩
  | cons k ks ih =>
    unfold copyImage at h
    split at h
    · exact absurd h nofun
    next f _ =>
      extract_lets n s1 s2 at h
      have hp : s1.part p = s.part p := by
        have hF : Frame [.fresh, .mem, .regs, .press] s s1 :=
          requestBack_frame (requestBack_frame (State.copyRam_frame (State.wipe_frame (State.tick_frame (.refl _ s) (by decide)) (by decide))
            (by decide)) (by decide)) (by decide)
        rw [State.part, hF.same .plans (by decide), State.part]
      have h2 : s2.part p = { s1.part p with plan := (s1.part p).plan.map (fun q => { q with image := q.image ++ [f] }) } :=
        State.modPart_part_self ..
      obtain ⟨hn, hpl⟩ := ih h
      exact ⟨by rw [hn, h2, hp], by rw [hpl, h2, hp, Option.isSome_map]⟩

theorem resetTallies_part (s : State) (p i : Nat) : (resetTallies s p).part i = s.part i := by
  unfold resetTallies
  exact List.foldlRecOn (motive := fun u : State => u.part i = s.part i) _ _ rfl fun _ ih _ _ => ih

theorem modUnits_plans (s : State) (l : List (Nat × Nat)) :
    (l.foldl (fun s e => modUnit s e.1 (fun c => { c with logical := e.2 })) s).plans = s.plans :=
  (frame_foldl l (.refl [.units] s) fun _ _ h => modUnit_frame h (.refl _)).same .plans (by decide)

/-- A plan that is installed leaves its partition LOADED with it, before its first step. -/
theorem installPlan_part {s v : State} {p src : Nat} {pl : Plan} (h : installPlan s p src pl = some v) :
    (v.part p).st = .loaded ∧ (v.part p).stepNo = 0 ∧ (v.part p).plan.isSome = true := by
  unfold installPlan at h
  extract_lets us es s1 s2 at h
  have h2 : (s2.part p).stepNo = 0 ∧ (s2.part p).plan.isSome = true := by
    rw [State.modPart_part_self]
    exact ⟨rfl, rfl⟩
  split at h
  · exact absurd h nofun
  next s3 h3 =>
    extract_lets image bind at h
    split at h
    · exact absurd h nofun
    next s4 h4 =>
      split at h
      · exact absurd h nofun
      next s5 h5 =>
        cases h
        obtain ⟨hn, hpl⟩ := copyImage_part h3
        have hpages : PagesOnly s3 s5 := (allocRegions_pagesOnly h4).trans (allocPads_pagesOnly h5)
        rw [resetTallies_part, State.modPart_part_self, State.part, modUnits_plans, ← State.part]
        exact ⟨rfl, by rw [← h2.1, ← hn, ← hpages.stepNo], by rw [← h2.2, ← hpl, ← hpages.plan]⟩

theorem loadPlan_of_installed {s v : State} {p a0 a1 : Nat} {pl : Plan} (hc : loadCheck s p a0 a1 = .ok pl)
    (hv : installPlan s p (dramFrame 4096 + a0) (sealPlan (loadedBytes (planImage s a0 a1) pl.regions) pl) = some v) : loadPlan s p a0 a1 = v := by
  simp only [loadPlan, hc, hv]

theorem loadPlan_of_refused {s : State} {p a0 a1 code off : Nat} (hc : loadCheck s p a0 a1 = .error (code, off)) :
    loadPlan s p a0 a1 = s.pageErr (pgPart p) 3 code off := by
  simp only [loadPlan, hc]

/-! ### UNLOAD -/

theorem mem_of_sget_ne {α : Type} {d : α} {l : List (Nat × α)} {k : Nat} (h : sget d l k ≠ d) : (k, sget d l k) ∈ l := by
  induction l with
  | nil => exact absurd rfl h
  | cons e r ih =>
    obtain ⟨j, v⟩ := e
    rw [sget_cons] at h ⊢
    split at h
    next hj => rw [if_pos hj, hj]; exact List.mem_cons_self
    next hj => rw [if_neg hj]; exact List.mem_cons_of_mem _ (ih h)

/-- An entry of a partition that is not FREE is one of its open indices. -/
theorem mem_openIndices {s : State} {p i : Nat} (hst : (s.instarAt i).st ≠ 0) (hp : (s.instarAt i).part = p) : i ∈ openIndices s p := by
  have hne : s.instarAt i ≠ InstarEntry.reset := fun e => hst (by rw [e]; rfl)
  exact List.mem_filterMap.2 ⟨(i, s.instarAt i), mem_of_sget_ne hne, if_pos ⟨hst, hp⟩⟩

/-- Entries set FREE one after another; the others stay. -/
theorem freeEntries_instarAt (l : List Nat) (s : State) (i : Nat) :
    (l.foldl (fun s i => s.setInstar i InstarEntry.reset) s).instarAt i = if i ∈ l then InstarEntry.reset else s.instarAt i := by
  induction l generalizing s with
  | nil => rfl
  | cons j l ih =>
    rw [List.foldl_cons, ih]
    by_cases hl : i ∈ l
    · rw [if_pos hl, if_pos (List.mem_cons_of_mem _ hl)]
    by_cases hj : i = j
    · rw [if_neg hl, hj, State.setInstar_instarAt_self, if_pos List.mem_cons_self]
    · rw [if_neg hl, State.setInstar_instarAt_ne _ _ hj, if_neg (by simp [hj, hl])]

/-- No entry of a partition is left open once its open indices are FREE. -/
theorem freeEntries_none_open (s : State) (p i : Nat)
    (h : (((openIndices s p).foldl (fun s i => s.setInstar i InstarEntry.reset) s).instarAt i).st ≠ 0) :
    (((openIndices s p).foldl (fun s i => s.setInstar i InstarEntry.reset) s).instarAt i).part ≠ p := by
  rw [freeEntries_instarAt] at h ⊢
  split at h
  · exact absurd rfl h
  next hi =>
    rw [if_neg hi]
    exact fun hp => hi (mem_openIndices h hp)

/-- UNLOAD leaves the partition READY with no plan and nothing bound, and no sequence of it open. -/
theorem unloadPart_unloads (s : State) (p : Nat) :
    ((unloadPart s p).part p).st = .ready ∧ ((unloadPart s p).part p).plan = none ∧ ((unloadPart s p).part p).bind = [] ∧
      ∀ i, ((unloadPart s p).instarAt i).st ≠ 0 → ((unloadPart s p).instarAt i).part ≠ p := by
  unfold unloadPart
  extract_lets s1 x s2 s3 s4 s5
  refine ⟨?_, ?_, ?_, fun i => ?_⟩
  · rw [State.modPart_part_self]
  · rw [State.modPart_part_self]
  · rw [State.modPart_part_self]
  · have h5 : s5.plans = s4.plans := List.foldlRecOn (motive := fun u : State => u.plans = s4.plans) _ _ rfl fun u ih ch _ => by
      split
      · exact ih
      · exact ih
    have hi : s5.instarAt i = s4.instarAt i := congrArg (fun x : Plans => sget InstarEntry.reset x.instar i) h5
    rw [State.modPart_instarAt, hi]
    exact freeEntries_none_open s3 p i

/-- Settles O29: LOAD installs the plan that its checks give or records their refusal, and UNLOAD takes it back. -/
theorem plansLoadAndUnload : Obligations.PlansLoadAndUnload := by
  intro t w p s h hc hq
  refine ⟨fun hst => ⟨fun pl v hok hv => ?_, fun code off herr => ?_⟩, fun hst => ⟨_, partCommand_next h hc hq rfl, ?_⟩⟩
  · exact ⟨partCommand_next h hc hq ((partCommand_load (s := atTime t s) hst).trans (loadPlan_of_installed hok hv)), installPlan_part hv⟩
  · exact partCommand_next h hc hq ((partCommand_load (s := atTime t s) hst).trans (loadPlan_of_refused herr))
  · rw [partCommand_unload (s := atTime t s) hst]
    exact unloadPart_unloads ..

end Sys2Proof.Machine
end

section
/-! The SHED instant (R342) where a shed item's add wakes a wait: the adds of the items that are shed are made (R342), an add to a tally that is bound to
a system tally of this device serves its waits (R498), and a wait of a queued item is noted in that item's place in the queue. -/

namespace Sys2Proof.Machine

/-- An item of partition 0 with nothing to wait for, which may be shed or not. -/
def plainItem (shed : Bool) (adds : List (Nat × Nat)) : WorkItem :=
  { version := 1, kind := 0, shed := shed, after := false, nwait := 0, nadd := adds.length, target := 0, ndesc := 0, npf := 0, waits := [], adds := adds
    descAddr := 0, hawkAddr := 0, pfAddr := 0, sieve := none, raw := [], listBytes := 0, crc := 0 }

/-- The item in queue 0 that is shed; it adds 1 to tally 0. -/
def shedItem : QItem := { part := 0, proof := false, item := plainItem true [(0, 1)], order := 0, id := 0, emitted := 0, sent := [], woken := [] }

/-- The item in queue 1 that stays; its wait 0 was sent with TAG 7. -/
def keptItem : QItem := { part := 0, proof := false, item := plainItem false [], order := 1, id := 1, emitted := 0, sent := [(7, 0)], woken := [] }

/-- A built step that ticked at device time 0. -/
def shedStep : StepRec :=
  { n := 0, tick := 0, start := 0, built := true, replay := false, fail := none, declared := false, published := [], shed := false, sets := [], waits := []
    batches := [], proofs := [], holds := [], lost := false }

/-- Partition 0 is 1 ms after its tick, its SHED instant 1 µs after it. Its tally 0 is bound to system tally 0 of this device, which holds one wait: for
value 1 at step 0, of this device under TAG 7 (R498). -/
def shedState : State :=
  { State.reset with
    clk := ⟨1000000, 1000000, 0, TimeSt.reset⟩
    regs := { State.reset.regs with force := [(addr pgDl 0x084, 1), (indexedKey (addr 0x1F1 0x044) 0, BitVec.ofNat 32 (2 ^ 31)),
      (indexedKey (addr 0x1F1 0x048) 0, 0)] }
    plans := { State.reset.plans with
      parts := [(0, { PartSt.reset with st := .running, stepNo := 1, step := some shedStep })], queues := [(0, [shedItem]), (1, [keptItem])] }
    net := { State.reset.net with stallies := [(0, ⟨[], [(0, 1, 0, 0, 7)]⟩)] } }

/-! ### What is waited for already stays at the head of its queue -/

/-- The wait of the head that is sent touches no queue; the head then holds what was sent. -/
theorem sendWaits_queue_ne (s : State) {q m : Nat} (h : m ≠ q) : (sendWaits s q).queue m = s.queue m := by
  unfold sendWaits
  split
  · rfl
  split
  · rfl
  extract_lets due
  split
  · rfl
  split
  next u sent hu =>
    have hF : Frame [.out, .fresh, .regs, .log, .net] s (u, sent).1 := hu ▸ frame_foldl_fst due (.refl _ s) fun t x ht => by
      extract_lets tag m1 _ _ s1
      have h1 : Frame [.out, .fresh, .regs, .log, .net] s s1 := Frame.set_net ht (by decide)
      show Frame [.out, .fresh, .regs, .log, .net] s ((sirForward s1 0 x.2.1.home m1).bump pgStally 0x090 1)
      exact State.bump_frame (sirForward_frame h1 (by decide)) (by decide)
    have hplans : u.plans = s.plans := hF.same .plans (by decide)
    exact (sget_sput_ne _ _ _ _ h).trans (congrArg (fun x : Plans => sget [] x.queues m) hplans)

/-- A queue whose head has sent its waits stays as it is. -/
theorem sendWaits_queue_of_sent {s : State} {m : Nat} {x : QItem} {l : List QItem} (h : s.queue m = x :: l) (hx : x.sent ≠ []) (q : Nat) :
    (sendWaits s q).queue m = x :: l := by
  by_cases hq : m = q
  · subst hq
    simp [sendWaits, h, hx]
  · rw [sendWaits_queue_ne s hq, h]

theorem sendAll_queue_of_sent {m : Nat} {x : QItem} {l : List QItem} (hx : x.sent ≠ []) (qs : List Nat) {s : State} (h : s.queue m = x :: l) :
    (qs.foldl sendWaits s).queue m = x :: l :=
  List.foldlRecOn (motive := fun u : State => u.queue m = x :: l) qs sendWaits h fun _ ih q _ => sendWaits_queue_of_sent ih hx q

/-- A step does not end while a queue holds an item of its partition. -/
theorem checkEnd_of_queued {s : State} {m : Nat} {x : QItem} {l : List QItem} {p : Nat} (h : s.queue m = x :: l) (hp : x.part = p) :
    checkEnd s p = s := by
  have hmem : (m, x :: l) ∈ s.plans.queues := by
    rw [← h]
    exact mem_of_sget_ne (d := []) (by rw [← State.queue, h]; nofun)
  have hbusy : busyWork s p = true := by
    rw [busyWork, Bool.or_eq_true, List.any_eq_true]
    exact .inl ⟨_, hmem, by simp [hp]⟩
  unfold checkEnd
  split
  · rfl
  · simp [hbusy]

theorem settleUnits_queue (s : State) (q : Nat) : (settleUnits s).queue q = s.queue q := by
  rw [State.queue, settleUnits_plans, State.queue]

/-! ### The wait that is woken -/

theorem shedOp_shedState_wakes : ((shedOp (atTime 0 shedState) 0).queue 1).map (·.woken) = [[0]] := by decide +kernel

/-- Refutes O43: the add of the shed item wakes the wait of an item that stays, so that this item's queue is not the old one without the shed items. -/
theorem not_deadlinesAndShedding : ¬ Obligations.DeadlinesAndShedding := by
  rintro ⟨-, hshed⟩
  obtain ⟨y, hy, hqueues⟩ := hshed 0 0 shedState shedStep rfl rfl (by decide +kernel)
  have hq : y.queue 1 = [keptItem] := hqueues 1 (by decide)
  have hend : (settleUnits (checkEnd (allQueues.foldl sendWaits y) 0)).queue 1 = [keptItem] := by
    have hsent := sendAll_queue_of_sent (x := keptItem) nofun allQueues hq
    rw [settleUnits_queue, checkEnd_of_queued (p := 0) hsent rfl, hsent]
  have hop : shedOp (atTime 0 shedState) 0 = settleUnits (checkEnd (allQueues.foldl sendWaits y) 0) := Host.Outcome.next.inj hy
  have hwoken := shedOp_shedState_wakes
  rw [hop, hend] at hwoken
  exact absurd hwoken (by decide)

end Sys2Proof.Machine
end

section
/-! What an item's stores leave as it is, and the lines of them that leave for other devices (R494, R496): the stores change pages and memory, and each
line that goes to another device is one more message whose answer the item awaits. -/

namespace Sys2Proof.Machine

/-! ### Stores change pages only -/

theorem partWrite_pagesOnly (s : State) (p va : Nat) (b : Byte) : PagesOnly s (partWrite s p va b) := by
  unfold partWrite
  split
  · exact .refl s
  next key e _ =>
    have h : PagesOnly s ((writeBases s e).foldl (fun s a => s.wr (a + va % 65536) b) s) :=
      .foldl (f := fun s a => s.wr (a + va % 65536) b) (fun _ _ => .of_plans rfl) _ s
    exact h.trans (State.setPte_pagesOnly ..)

theorem landPut_pagesOnly (s : State) (p : Nat) (w : Put) : PagesOnly s (landPut s p w) := by
  unfold landPut
  split
  · exact .refl s
  · exact partWrite_pagesOnly ..

theorem partWrites_pagesOnly (s : State) (p : Nat) (l : List Put) : PagesOnly s (partWrites s p l) :=
  .foldl (fun _ _ => landPut_pagesOnly ..) _ s

theorem partStore_pagesOnly (s : State) (p va : Nat) (bs : Bytes) : PagesOnly s (partStore s p va bs) :=
  .foldl (fun _ _ => partWrite_pagesOnly ..) _ s

/-! ### What runs on a queue -/

/-- What a unit is set to run is what it runs. -/
@[simp] theorem State.setRun_run_some (s : State) (q : Nat) (r : Running) : (s.setRun q (some r)).run q = some r := by
  have hless : ((s.plans.running.filter (fun e => e.1 != q)).filter (fun e => e.1 < q)).lookup q = none := by
    rw [List.lookup_eq_none_iff]
    intro e he
    have hlt : e.1 < q := by simpa using (List.mem_filter.1 he).2
    simpa using (Nat.ne_of_lt hlt).symm
  have hsplit : (s.setRun q (some r)).run q = (((s.plans.running.filter (fun e => e.1 != q)).filter (fun e => e.1 < q)) ++
      (q, r) :: (s.plans.running.filter (fun e => e.1 != q)).filter (fun e => q < e.1)).lookup q := rfl
  rw [hsplit, List.lookup_append, hless, List.lookup_cons_self]
  rfl

@[simp] theorem State.setRun_part (s : State) (q : Nat) (r : Option Running) (p : Nat) : (s.setRun q r).part p = s.part p := rfl

/-! ### Messages to other devices -/

theorem State.sirOwe_remote (s : State) (n : Option Nat) (cls : Nat) (msg : Bytes) : (s.sirOwe n cls msg).net.remote = s.net.remote := by
  unfold State.sirOwe
  split
  · rfl
  · rfl

theorem sirSendNow_remote (s : State) (n cls : Nat) (msg : Bytes) : (sirSendNow s n cls msg).net.remote = s.net.remote := by
  simp [sirSendNow, sirTx, State.emit]

theorem sirSend_remote (s : State) (n cls : Nat) (msg : Bytes) (src : Option Nat) : (sirSend s n cls msg src).net.remote = s.net.remote := by
  unfold sirSend
  dsimp only
  split
  · rw [State.sirOwe_remote, sirSendNow_remote]
  · rfl

/-- A message on its way is no answer awaited. -/
theorem sirForward_remote (s : State) (cls dst : Nat) (msg : Bytes) : (sirForward s cls dst msg).net.remote = s.net.remote := by
  unfold sirForward sirPass
  split
  · exact sirSend_remote ..
  · rw [State.sirOwe_remote, State.logLimited_net, State.bump_net]

/-! ### Lines for outbound windows (R494) -/

section
variable {W : List Field} {a s : State} (hF : Frame W a s) (hW : .settings ∉ W)
include hF hW

theorem Frame.inForce (key : Nat) : s.inForce key = a.inForce key := by
  rw [State.inForce, (hF.same .settings hW).1, State.inForce]

theorem Frame.devId : devId s = devId a := by
  rw [Machine.devId, hF.inForce hW, Machine.devId]

theorem Frame.outboundOf (p : Nat) : outboundOf s p = outboundOf a p := by
  simp only [Machine.outboundOf, hF.inForce hW]

/-- The lines that leave are told by the settings and the partition's plan. -/
theorem Frame.remoteLines {p : Nat} (hP : (s.part p).plan = (a.part p).plan) (vas : List Nat) : remoteLines s p vas = remoteLines a p vas := by
  simp only [Machine.remoteLines, hF.outboundOf hW, hF.inForce hW, windowPageOk, hP]

end

theorem remoteLines_of_no_window {s : State} {p : Nat} (h : outboundOf s p = []) (vas : List Nat) : remoteLines s p vas = [] := by
  rw [remoteLines, h, List.flatMap_nil]

theorem sendWritten_of_no_lines {s : State} {p : Nat} {vas : List Nat} (h : remoteLines s p vas = []) (q : Option Nat) :
    sendWritten s p q vas = (s, false) := by
  rw [sendWritten, h, List.foldl_nil]

/-- s came from a by lines that left for other devices, n of them, whose answers q awaits. -/
structure LinesSent (q n : Nat) (a s : State) : Prop where
  frame : Frame [.out, .fresh, .regs, .plans, .press, .log, .net] a s
  pages : PagesOnly a s
  remote : ∃ tags : List Nat, tags.length = n ∧ s.net.remote = a.net.remote ++ tags.map (fun tag => (tag, q))

theorem sendLine_linesSent {s : State} {p q : Nat} {e : Nat × Nat × Nat × Nat} (h : e.1 ≠ devId s) :
    (sendLine s p (some q) e).2 = false ∧ LinesSent q 1 s (sendLine s p (some q) e).1 := by
  have htouch : Frame [.out, .fresh, .regs, .plans, .press, .log, .net] s (touchRange s p 15 e.2.2.2 64) :=
    touchRange_frame (.refl _ s) (by decide)
  have hpages : PagesOnly s (touchRange s p 15 e.2.2.2 64) := touchRange_pagesOnly ..
  have hnet : (touchRange s p 15 e.2.2.2 64).net = s.net :=
    (touchRange_frame (.refl [.fresh, .regs, .plans, .press] s) (by decide)).same .net (by decide)
  have hdev : e.1 ≠ devId (touchRange s p 15 e.2.2.2 64) := by rwa [htouch.devId (by decide)]
  unfold sendLine
  extract_lets data s1 tag m net s2
  rw [if_neg hdev]
  refine ⟨rfl, ?_, ?_, [tag], rfl, ?_⟩
  · exact sirForward_frame (Frame.set_net htouch (by decide)) (by decide)
  · have h2 : PagesOnly s1 s2 := .of_plans rfl
    exact (hpages.trans h2).trans (.of_frame (sirForward_frame (.refl [.out, .fresh, .regs, .log, .net] s2) (.refl _)) (by decide))
  · rw [sirForward_remote]
    exact congrArg (fun x : Net => x.remote ++ [(tag, q)]) hnet

theorem LinesSent.refl (q : Nat) (s : State) : LinesSent q 0 s s := ⟨.refl _ s, .refl s, [], rfl, (List.append_nil _).symm⟩

theorem LinesSent.trans {q n m : Nat} {a s u : State} (h : LinesSent q n a s) (k : LinesSent q m s u) : LinesSent q (m + n) a u := by
  obtain ⟨tags, hlen, hrem⟩ := h.remote
  obtain ⟨tags', hlen', hrem'⟩ := k.remote
  exact ⟨h.frame.trans k.frame, h.pages.trans k.pages, tags ++ tags', by simp [hlen, hlen', Nat.add_comm], by simp [hrem, hrem']⟩

/-- Lines of which none names this device leave one after another, and none is refused. -/
theorem sendLines_linesSent {p q : Nat} (l : List (Nat × Nat × Nat × Nat)) {s : State} (h : ∀ e ∈ l, e.1 ≠ devId s) :
    let u := l.foldl (fun (a : State × Bool) e => ((sendLine a.1 p (some q) e).1, a.2 || (sendLine a.1 p (some q) e).2)) (s, false)
    u.2 = false ∧ LinesSent q l.length s u.1 := by
  induction l generalizing s with
  | nil => exact ⟨rfl, .refl q s⟩
  | cons e l ih =>
    obtain ⟨hgood, hsent⟩ := sendLine_linesSent (p := p) (q := q) (h e List.mem_cons_self)
    have hrest := ih (s := (sendLine s p (some q) e).1) fun e' he => by
      rw [hsent.frame.devId (by decide)]
      exact h e' (List.mem_cons_of_mem _ he)
    dsimp only [List.foldl_cons]
    rw [hgood]
    exact ⟨hrest.1, hsent.trans hrest.2⟩

theorem sendWritten_linesSent {s : State} {p q : Nat} {vas : List Nat} (h : ∀ e ∈ remoteLines s p vas, e.1 ≠ devId s) :
    (sendWritten s p (some q) vas).2 = false ∧ LinesSent q (remoteLines s p vas).length s (sendWritten s p (some q) vas).1 :=
  sendLines_linesSent _ h

end Sys2Proof.Machine
end

section
/-! What a unit's item leaves when it is complete (R312): a proof tile frees its unit (R335), a CORE or SPEC item's stores land and its run is over once
what left for other devices is answered (R494, R496), and a Sieve item's result becomes the record (R269, R271, R275). -/

namespace Sys2Proof.Machine

/-! ### The command -/

/-- Before its deadline an item of a core or of an engine is what its unit completes; from then on it counts as not complete. -/
theorem completeOp_unit {s : State} {q : Nat} {r : Running} {st : StepRec} (hr : s.run q = some r) (hq : q < 128) (hp : r.item.proof = false)
    (he : r.err = none) (hst : (s.part r.item.part).step = some st) :
    completeOp s q = if pastDeadline s r.item.part then s else completeUnit s q r := by
  simp [completeOp, hr, hp, he, hst, hq]

theorem completeOp_proof {s : State} {q : Nat} {r : Running} (hr : s.run q = some r) (hp : r.item.proof = true) : completeOp s q = endProof s q := by
  simp [completeOp, hr, hp]

section
variable {s : State} {q : Nat} {r : Running} {st : StepRec} (hr : s.run q = some r) (hq : ¬ q < 128) (hp : r.item.proof = false) (he : r.err = none)
  (hst : (s.part r.item.part).step = some st)
include hr hq hp he hst

/-- A Sieve item whose record has landed is over once its answers are there. -/
theorem completeOp_sieve_landed (hl : r.landed = true) (hd : pastDeadline s r.item.part = false) :
    completeOp s q = if awaits s q then s else retireItem (s.setRun q none) r := by
  simp [completeOp, hr, hp, he, hst, hq, hl, hd]

variable {d : SieveDesc} {res : SieveResult} (hd : r.item.item.sieve = some d) (hres : r.result = some res)
include hd hres

theorem completeOp_sieve_late (hl : r.landed = false) (hi : res.integrity = false) (hpast : pastDeadline s r.item.part = true) :
    completeOp s q = ((sieveCounts (dropPrefetch (s.setRun q none) r.item.part r.item.id) r.item.part res).bump pgSieve 0x050 1).modStep r.item.part
      (fun st => { st with lost := true }) := by
  simp [completeOp, hr, hp, he, hst, hq, hl, hd, hres, hi, hpast]

theorem completeOp_sieve_published (hl : r.landed = false) (hpast : pastDeadline s r.item.part = false) (hproofs : st.proofs = []) :
    completeOp s q = completeSieve s q r d res st := by
  simp [completeOp, hr, hp, he, hst, hq, hl, hd, hres, hpast, hproofs]

end

/-! ### Proof tiles (R335) -/

/-- A proof tile that is in time, or awaited no longer, frees its unit. -/
theorem endProof_frees {s : State} {u : Nat} {r : Running} (hr : s.run (qCore u) = some r)
    (hin : (∃ st, (s.part r.item.part).step = some st ∧ u ∈ st.proofs) → s.clk.clock < r.item.emitted + 60000) :
    ∃ y, endProof s u = checkEnd y r.item.part ∧ y.run (qCore u) = none ∧ y.plans.parts = s.plans.parts ∧ y.mem = s.mem ∧
      y.safety.proofMax = max s.safety.proofMax (min ((y.clk.clock - r.since) / 10) 0xFFFF) := by
  unfold endProof
  split
  next h => exact absurd (h.symm.trans hr) nofun
  next r' h =>
  obtain rfl : r' = r := Option.some.inj (h.symm.trans hr)
  extract_lets awaited long s1 s2 proofs s3
  have hlate : ¬ (awaited && decide (r'.item.emitted + 60000 ≤ s.clk.clock)) = true := by
    rw [Bool.and_eq_true, decide_eq_true_eq]
    rintro ⟨ha, hlate⟩
    unfold awaited at ha
    split at ha
    next st hst => exact absurd (hin ⟨st, hst, List.elem_iff.1 ha⟩) (by omega)
    · exact absurd ha nofun
  rw [if_neg hlate]
  have hF : Frame [.fresh, .regs, .units] s s2 :=
    undefUnit_frame (frame_foldl _ (State.bump_frame (account_frame (.refl _ s) (by decide)) (by decide)) fun _ _ h => State.bump_frame h (by decide))
      (by decide)
  have hG : Frame [.fresh, .regs, .units] (s3.setRun (qCore u) none) (settleCore (s3.setRun (qCore u) none) u) := settleCore_frame (.refl _ _) (.refl _)
  have hsafety : s2.safety = s.safety := hF.same .safety (by decide)
  refine ⟨_, rfl, ?_, ?_, ?_, ?_⟩
  · rw [State.run, hG.same .plans (by decide), ← State.run, State.setRun_run_none]
  · rw [hG.same .plans (by decide)]
    have hplans : s2.plans = s.plans := hF.same .plans (by decide)
    exact (State.setRun_plans_parts ..).trans (congrArg Plans.parts hplans :)
  · exact (hG.same .mem (by decide)).trans (hF.same .mem (by decide))
  · rw [hG.same .safety (by decide), hG.same .clk (by decide)]
    have hclk : (s3.setRun (qCore u) none).clk = s.clk := hF.same .clk (by decide)
    rw [hclk]
    exact congrArg (fun x : SafetySt => max x.proofMax long) hsafety

/-! ### CORE and SPEC items -/

theorem foldl_setCore_core {P : CoreSt → Prop} {f : CoreSt → CoreSt} (hf : ∀ c, P (f c)) (l : List Nat) (s : State) {k : Nat}
    (h : k ∈ l ∨ P (s.core k)) : P ((l.foldl (fun s n => s.setCore n (f (s.core n))) s).core k) := by
  induction l generalizing s with
  | nil => exact h.resolve_left List.not_mem_nil
  | cons n l ih =>
    refine ih _ ?_
    by_cases hk : k = n
    · subst hk
      exact .inr (by rw [State.setCore_core_self]; exact hf _)
    · rw [State.setCore_core_ne _ _ hk]
      exact h.imp_left fun h => (List.mem_cons.1 h).resolve_left hk

theorem mem_unitCores_self (s : State) (u : Nat) : u ∈ unitCores s u := by
  unfold unitCores
  split
  · simp
    omega
  · exact List.mem_singleton_self u

/-- What a unit's change brings about for every core, it does for the unit's own one. -/
theorem modUnit_core_self {P : CoreSt → Prop} {f : CoreSt → CoreSt} (hf : ∀ c, P (f c)) (s : State) (u : Nat) : P ((modUnit s u f).core u) :=
  foldl_setCore_core hf _ s (.inl (mem_unitCores_self s u))

/-- A run that is over leaves its unit free and a core with what the item left in it; what the item's end brings follows. -/
theorem finishUnit_retires (s : State) (q : Nat) (r : Running) :
    ∃ y, finishUnit s q r = retireItem y r ∧ y.run q = none ∧ y.mem = s.mem ∧ y.out = s.out ∧
      (q < 40 → (y.core q).array = r.array ∧ (y.core q).hawk = r.hawk) := by
  unfold finishUnit
  extract_lets s1 s2 s3
  have hF : Frame [.regs, .units] s s3 := by
    unfold s3
    split
    · exact frame_foldl _ (modUnit_frame (accountDone_frame (.refl _ s) (by decide)) (by decide)) fun _ _ h => State.bump_frame h (by decide)
    · exact bumpRow_frame (.refl _ s) (by decide)
  refine ⟨s3.setRun q none, rfl, State.setRun_run_none .., hF.same .mem (by decide), hF.same .out (by decide), fun hq => ?_⟩
  have hunits : s3.units = s2.units := by
    unfold s3
    rw [if_pos hq]
    exact (frame_foldl _ (.refl [.regs] s2) fun _ _ h => State.bump_frame h (.refl _)).same .units (by decide)
  have hcore : (s3.setRun q none).core q = s2.core q := congrArg (fun x : Units => sget CoreSt.reset x.cores q) hunits
  rw [hcore]
  exact modUnit_core_self (P := fun c => c.array = r.array ∧ c.hawk = r.hawk) (fun _ => ⟨rfl, rfl⟩) s1 q

/-- The state in which the stores of what runs on a queue have landed, before any of them leaves for another device. -/
def landedState (s : State) (q : Nat) (r : Running) : State :=
  (touchPages (partWrites s r.item.part r.writes) r.item.part (uplinkOf q) r.pages).setRun q (some { r with landed := true })

section
variable (s : State) (q : Nat) (r : Running)

theorem landedState_frame : Frame [.fresh, .mem, .regs, .plans, .press] s (landedState s q r) :=
  State.setRun_frame (touchPages_frame (partWrites_frame (.refl _ s) (by decide)) (by decide)) (by decide)

theorem landedState_mem : (landedState s q r).mem = (partWrites s r.item.part r.writes).mem :=
  (touchPages_frame (.refl [.fresh, .regs, .plans, .press] (partWrites s r.item.part r.writes)) (by decide)).same .mem (by decide)

theorem landedState_run : (landedState s q r).run q = some { r with landed := true } := State.setRun_run_some ..

theorem landedState_remoteLines (p : Nat) (vas : List Nat) : remoteLines (landedState s q r) p vas = remoteLines s p vas :=
  (landedState_frame s q r).remoteLines (by decide) (((partWrites_pagesOnly ..).trans (touchPages_pagesOnly ..)).plan p) vas

end

section
variable {s : State} {q : Nat} {r : Running}

theorem completeUnit_landed (hl : r.landed = true) : completeUnit s q r = if awaits s q then s else finishUnit s q r := by
  simp [completeUnit, hl]

/-- What left for other devices, once the stores have landed, decides how the item goes on. -/
theorem completeUnit_not_landed (hl : r.landed = false) {u : State} {bad : Bool}
    (hu : sendWritten (landedState s q r) r.item.part (some q) (r.writes.map (·.va)) = (u, bad)) :
    completeUnit s q r = if bad then remoteFail u q r.item.part else if awaits u q then u else finishUnit u q r := by
  unfold completeUnit
  rw [if_neg (by simp [hl])]
  exact congrArg (fun a : State × Bool => if a.2 then remoteFail a.1 q r.item.part else if awaits a.1 q then a.1 else finishUnit a.1 q r) hu

/-- With no line for another device the run is over at once. -/
theorem completeUnit_of_no_lines (hl : r.landed = false) (hlines : remoteLines s r.item.part (r.writes.map (·.va)) = []) (ha : awaits s q = false) :
    completeUnit s q r = finishUnit (landedState s q r) q r := by
  have hsend : sendWritten (landedState s q r) r.item.part (some q) (r.writes.map (·.va)) = (landedState s q r, false) :=
    sendWritten_of_no_lines ((landedState_remoteLines ..).trans hlines) _
  have hawait : awaits (landedState s q r) q = false := by rw [awaits, (landedState_frame s q r).same .net (by decide)]; exact ha
  rw [completeUnit_not_landed hl hsend]
  simp [hawait]

/-- Lines for other devices leave, and the item awaits their answers. -/
theorem completeUnit_of_lines (hl : r.landed = false) (hlines : remoteLines s r.item.part (r.writes.map (·.va)) ≠ [])
    (haway : ∀ e ∈ remoteLines s r.item.part (r.writes.map (·.va)), e.1 ≠ devId s) :
    LinesSent q (remoteLines s r.item.part (r.writes.map (·.va))).length (landedState s q r) (completeUnit s q r) := by
  have hsent := sendWritten_linesSent (s := landedState s q r) (p := r.item.part) (q := q) (vas := r.writes.map (·.va)) (by
    rw [landedState_remoteLines, (landedState_frame s q r).devId (by decide)]
    exact haway)
  rw [landedState_remoteLines] at hsent
  generalize hu : sendWritten (landedState s q r) r.item.part (some q) (r.writes.map (·.va)) = a at hsent
  obtain ⟨u, bad⟩ := a
  obtain ⟨hgood, hsent⟩ := hsent
  obtain ⟨tags, hlen, hremote⟩ := hsent.remote
  have hawait : awaits u q = true := by
    obtain ⟨tag, rest, rfl⟩ : ∃ tag rest, tags = tag :: rest := List.exists_cons_of_length_pos (by rw [hlen]; exact List.length_pos_iff.2 hlines)
    rw [awaits, hremote]
    simp
  rw [completeUnit_not_landed hl hu, if_neg (Bool.eq_false_iff.1 hgood), if_pos hawait]
  exact hsent

end

end Sys2Proof.Machine
end

section
/-! What a Sieve item's result leaves (R269, R271, R275): the record takes the ring's next place and the output has its record, and the result that comes
at or after the deadline is counted and no record. -/

namespace Sys2Proof.Machine

/-- A record that no outbound window takes is published at once: the output has its record, and the ring's number advances. -/
theorem publishFor_of_no_window {s : State} {p : Nat} {pl : Plan} {ring : RingRec} {st : StepRec} (hpl : (s.part p).plan = some pl)
    (hring : pl.ring = some ring) (hst : (s.part p).step = some st) (hout : outboundOf s p = []) (d : SieveDesc) (validity : Nat) (shed integrity : Bool)
    (res : Option SieveResult) (q : Option Nat) {u : State} {bad : Bool} (hu : publishFor s p d validity shed integrity res q = (u, bad)) :
    bad = false ∧ u.net = s.net ∧ (u.part p).wrSeq = (s.part p).wrSeq + 1 ∧
      (u.part p).step = some { st with published := st.published ++ [(d.output, validity == 1)] } := by
  unfold publishFor at hu
  extract_lets x header batch entries valid r c hostRd at hu
  split at hu
  next pl' st' hpl' hst' =>
    obtain rfl : pl' = pl := Option.some.inj (hpl'.symm.trans hpl)
    obtain rfl : st' = st := Option.some.inj (hst'.symm.trans hst)
    split at hu
    next h => exact absurd (h.symm.trans hring) nofun
    next ring' _ =>
    extract_lets bytes slots s1 place lost at hu
    have htouch : Frame [.fresh, .regs, .plans, .press, .mem] s (partStore s1 p place bytes) :=
      partStore_frame (touchRange_frame (touchRange_frame (.refl _ s) (by decide)) (by decide)) (by decide)
    have hpages : PagesOnly s (partStore s1 p place bytes) :=
      ((touchRange_pagesOnly ..).trans (touchRange_pagesOnly ..)).trans (partStore_pagesOnly ..)
    split at hu
    next z b hz =>
    have hlines := remoteLines_of_no_window ((htouch.outboundOf (by decide) p).trans hout)
    rw [sendWritten_of_no_lines (hlines _)] at hz
    obtain ⟨rfl, rfl⟩ := Prod.mk.inj hz
    extract_lets s3 s4 s5 s6 s7 at hu
    obtain ⟨rfl, rfl⟩ := Prod.mk.inj hu
    have h3 : Frame [.fresh, .regs, .log] (partStore s1 p place bytes) s3 := State.bump_frame (.refl _ _) (by decide)
    have h4 : Frame [.fresh, .regs, .log] (partStore s1 p place bytes) s4 :=
      frame_ite (State.logLimited_frame (State.bump_frame h3 (by decide)) (by decide)) h3
    have h5 : Frame [.fresh, .regs, .log] (partStore s1 p place bytes) s5 :=
      frame_ite (State.logLimited_frame (State.bump_frame h4 (by decide)) (by decide)) h4
    have h6 : Frame [.fresh, .regs, .log] (partStore s1 p place bytes) s6 := frame_ite (State.bump_frame h5 (by decide)) h5
    have hnet : s6.net = s.net := (h6.same .net (by decide)).trans (htouch.same .net (by decide))
    have hpart : s6.part p = (partStore s1 p place bytes).part p := by rw [State.part, h6.same .plans (by decide), State.part]
    have hstep : (s6.part p).step = some st' := by rw [hpart, hpages.step p, hst]
    have hseq : (s6.part p).wrSeq = (s.part p).wrSeq := by rw [hpart, hpages.wrSeq p]
    clear_value s6
    refine ⟨rfl, hnet, ?_, ?_⟩
    · rw [State.modStep_part_self, State.modPart_part_self]
      exact congrArg (· + 1) hseq
    · rw [State.modStep_part_self, State.modPart_part_self]
      exact congrArg (Option.map _) hstep
  next h => exact absurd hst (h pl st hpl)

theorem sieveCounts_of_intact {res : SieveResult} (h : res.integrity = false) (s : State) (p : Nat) :
    sieveCounts s p res = (s.bump pgSieve 0x058 res.capped).bump pgSieve 0x060 res.dropped := by
  rw [sieveCounts, if_neg (by simp [h])]

theorem counting_sieve (s : State) : s.counting pgSieve = true := rfl

theorem State.modStep_counter (s : State) (p : Nat) (f : StepRec → StepRec) (page off : Nat) : (s.modStep p f).counter page off = s.counter page off := rfl

theorem State.modStep_run (s : State) (p : Nat) (f : StepRec → StepRec) (q : Nat) : (s.modStep p f).run q = s.run q := rfl

theorem State.modStep_mem (s : State) (p : Nat) (f : StepRec → StepRec) : (s.modStep p f).mem = s.mem := rfl

theorem State.bump_run (s : State) (page off n q : Nat) : (s.bump page off n).run q = s.run q := by
  rw [State.run, State.bump_plans, State.run]

/-- A result that is discarded is counted, and nothing of it reaches memory or the ring. -/
theorem discarded_sieve {s : State} {p : Nat} {res : SieveResult} (hi : res.integrity = false) (q id : Nat) {u : State}
    (hu : ((sieveCounts (dropPrefetch (s.setRun q none) p id) p res).bump pgSieve 0x050 1).modStep p (fun st => { st with lost := true }) = u) :
    u.run q = none ∧ u.mem = s.mem ∧ (u.part p).wrSeq = (s.part p).wrSeq ∧ u.counter pgSieve 0x050 = (s.counter pgSieve 0x050 + 1) % 2 ^ 64 := by
  have hrun : (dropPrefetch (s.setRun q none) p id).run q = none := State.setRun_run_none ..
  have hmem : (dropPrefetch (s.setRun q none) p id).mem = s.mem := rfl
  have hseq : ((dropPrefetch (s.setRun q none) p id).part p).wrSeq = (s.part p).wrSeq := (dropPrefetch_pagesOnly (s.setRun q none) p id).wrSeq p
  have hcount : (dropPrefetch (s.setRun q none) p id).counter pgSieve 0x050 = s.counter pgSieve 0x050 := rfl
  rw [sieveCounts_of_intact hi] at hu
  generalize dropPrefetch (s.setRun q none) p id = v at *
  subst hu
  refine ⟨?_, ?_, ?_, ?_⟩
  · rw [State.modStep_run, State.bump_run, State.bump_run, State.bump_run, hrun]
  · rw [State.modStep_mem, State.bump_mem, State.bump_mem, State.bump_mem, hmem]
  · rw [State.modStep_part_self, State.bump_part, State.bump_part, State.bump_part]
    exact hseq
  · rw [State.modStep_counter, State.bump_counter_self _ _ (counting_sieve _), State.bump_counter_ne _ _ (by decide),
      State.bump_counter_ne _ _ (by decide), hcount]

/-- The state in which a Sieve item's result is counted and its record is on its way. -/
def sieveLanded (s : State) (q : Nat) (r : Running) (res : SieveResult) : State :=
  (sieveCounts (touchPages s r.item.part (uplinkOf q) r.pages) r.item.part res).setRun q (some { r with landed := true, result := none })

section
variable (s : State) (q : Nat) (r : Running) (res : SieveResult)

theorem sieveLanded_frame : Frame [.fresh, .regs, .plans, .press, .log] s (sieveLanded s q r res) :=
  State.setRun_frame (sieveCounts_frame (touchPages_frame (.refl _ s) (by decide)) (by decide)) (by decide)

theorem sieveLanded_part (p : Nat) : (sieveLanded s q r res).part p = (touchPages s r.item.part (uplinkOf q) r.pages).part p := by
  have hplans : (sieveCounts (touchPages s r.item.part (uplinkOf q) r.pages) r.item.part res).plans =
      (touchPages s r.item.part (uplinkOf q) r.pages).plans := (sieveCounts_frame (.refl [.fresh, .regs, .log] _) (.refl _)).same .plans (by decide)
  rw [sieveLanded, State.setRun_part, State.part, hplans, State.part]

end

section
variable {s : State} {q : Nat} {r : Running} {d : SieveDesc} {res : SieveResult} {st : StepRec} (hi : res.integrity = false)
include hi

/-- An intact result is counted; then its record is published unless its output has one, and the item is over once nothing is awaited. -/
theorem completeSieve_of_intact {u : State} {bad : Bool} (hu : (if st.published.any (fun o => o.1 == d.output) then
      ((sieveLanded s q r res).bump pgSieve 0x050 1, false)
    else publishFor (sieveLanded s q r res) r.item.part d (if ((sieveLanded s q r res).part r.item.part).safe.isSome then 3 else 1) false false (some res)
      (some q)) = (u, bad)) :
    completeSieve s q r d res st = if bad then remoteFail u q r.item.part else if awaits u q then u else retireItem (u.setRun q none) r := by
  unfold completeSieve
  rw [if_neg (by simp [hi])]
  exact congrArg (fun a : State × Bool => if a.2 then remoteFail a.1 q r.item.part else if awaits a.1 q then a.1 else retireItem (a.1.setRun q none) r) hu

/-- The output of a Sieve item that has its record gets no other one. -/
theorem completeSieve_of_known (hk : st.published.any (fun o => o.1 == d.output) = true) (ha : awaits s q = false) :
    ∃ y, completeSieve s q r d res st = retireItem y r ∧ y.run q = none ∧ y.mem = s.mem ∧ (y.part r.item.part).wrSeq = (s.part r.item.part).wrSeq := by
  have hF : Frame [.fresh, .regs, .plans, .press, .log] s ((sieveLanded s q r res).bump pgSieve 0x050 1) :=
    State.bump_frame (sieveLanded_frame s q r res) (by decide)
  have hawait : awaits ((sieveLanded s q r res).bump pgSieve 0x050 1) q = false := by rw [awaits, hF.same .net (by decide)]; exact ha
  refine ⟨((sieveLanded s q r res).bump pgSieve 0x050 1).setRun q none, ?_, State.setRun_run_none .., hF.same .mem (by decide), ?_⟩
  · rw [completeSieve_of_intact hi (if_pos hk), hawait]
    rfl
  · rw [State.setRun_part, State.bump_part, sieveLanded_part]
    exact (touchPages_pagesOnly ..).wrSeq _

/-- The record of a Sieve item that no window takes is published, and the item is over. -/
theorem completeSieve_of_unknown {pl : Plan} {ring : RingRec} (hk : st.published.any (fun o => o.1 == d.output) = false) (ha : awaits s q = false)
    (hst : (s.part r.item.part).step = some st) (hpl : (s.part r.item.part).plan = some pl) (hring : pl.ring = some ring)
    (hout : outboundOf s r.item.part = []) :
    ∃ y st', completeSieve s q r d res st = retireItem y r ∧ y.run q = none ∧ (y.part r.item.part).step = some st' ∧
      (y.part r.item.part).wrSeq = (s.part r.item.part).wrSeq + 1 ∧
      st'.published = st.published ++ [(d.output, (s.part r.item.part).safe.isNone)] := by
  have hF := sieveLanded_frame s q r res
  have hpart := sieveLanded_part s q r res r.item.part
  have hpages := touchPages_pagesOnly s r.item.part (uplinkOf q) r.pages
  generalize hu : publishFor (sieveLanded s q r res) r.item.part d (if ((sieveLanded s q r res).part r.item.part).safe.isSome then 3 else 1) false false
    (some res) (some q) = a
  obtain ⟨u, bad⟩ := a
  obtain ⟨rfl, hnet, hseq, hstep⟩ := publishFor_of_no_window (s := sieveLanded s q r res) (by rw [hpart, hpages.plan, hpl]) hring
    (by rw [hpart, hpages.step, hst]) ((hF.outboundOf (by decide) _).trans hout) _ _ _ _ _ _ hu
  have hawait : awaits u q = false := by rw [awaits, hnet, hF.same .net (by decide)]; exact ha
  refine ⟨u.setRun q none, _, ?_, State.setRun_run_none .., hstep, ?_, ?_⟩
  · rw [completeSieve_of_intact hi (if_neg (by simp [hk]) |>.trans hu), hawait]
    rfl
  · rw [State.setRun_part, hseq, hpart, hpages.wrSeq]
  · rw [hpart, hpages.safe]
    cases (s.part r.item.part).safe with
    | none => rfl
    | some _ => rfl

end

/-- Settles O40: the kind of the item and the deadline decide between the ways that a completion goes. -/
theorem workItemsComplete : Obligations.WorkItemsComplete := by
  refine ⟨fun t k s r hr hp hin => ?_, fun t q s r st hr hq hp he hst => ?_, fun t n s r st hr hp he hst => ?_⟩
  · obtain ⟨y, hy, hrest⟩ := endProof_frees (s := atTime t s) hr hin
    exact ⟨y, congrArg Host.Outcome.next ((completeOp_proof (s := atTime t s) hr hp).trans hy), hrest⟩
  · have hop := completeOp_unit (s := atTime t s) hr hq hp he hst
    have hexec {u : State} (h : completeOp (atTime t s) (queueCode q) = u) : exec (.workItemComplete t q) s = .next u := congrArg Host.Outcome.next h
    refine ⟨fun hpast => ?_, fun hpast hl => ⟨fun hlines haway => ?_, fun hlines ha => ?_⟩, fun hpast hl => ⟨fun ha => ?_, fun ha => ?_⟩⟩
    · rw [if_pos hpast] at hop
      exact hexec hop
    all_goals rw [if_neg (Bool.eq_false_iff.1 hpast)] at hop
    · have hsent := completeUnit_of_lines (s := atTime t s) (q := queueCode q) hl hlines haway
      obtain ⟨tags, hlen, hremote⟩ := hsent.remote
      refine ⟨_, hexec hop, ?_, ?_, ?_⟩
      · rw [hsent.pages.run]
        exact landedState_run ..
      · exact (hsent.frame.same .mem (by decide)).trans (landedState_mem ..)
      · rw [hremote, (landedState_frame ..).same .net (by decide), List.length_append, List.length_map, hlen]
        rfl
    · obtain ⟨y, hy, hrun, hmem, hout, hcore⟩ := finishUnit_retires (landedState (atTime t s) (queueCode q) r) (queueCode q) r
      refine ⟨y, hexec (hop.trans ((completeUnit_of_no_lines hl hlines ha).trans hy)), hrun, hmem.trans (landedState_mem ..),
        hout.trans ((landedState_frame ..).same .out (by decide)), ?_⟩
      rintro k rfl
      exact hcore k.isLt
    · exact hexec (hop.trans ((completeUnit_landed hl).trans (if_pos ha)))
    · obtain ⟨y, hy, hrun, hmem, hout, -⟩ := finishUnit_retires (atTime t s) (queueCode q) r
      exact ⟨y, hexec (hop.trans ((completeUnit_landed hl).trans ((if_neg (Bool.eq_false_iff.1 ha)).trans hy))), hrun, hmem, hout⟩
  · have hq : ¬ qSieve n.val < 128 := by simp [qSieve]
    have hexec {u : State} (h : completeOp (atTime t s) (qSieve n.val) = u) : exec (.workItemComplete t (.sieve n)) s = .next u :=
      congrArg Host.Outcome.next h
    refine ⟨fun d res hl hd hres hi => ⟨fun hpast => ?_, fun hpast hproofs ha => ⟨fun hk => ?_, fun pl ring hk hpl hring hout => ?_⟩⟩,
      fun hl hpast => ?_⟩
    · exact ⟨_, hexec (completeOp_sieve_late (s := atTime t s) hr hq hp he hst hd hres hl hi hpast), discarded_sieve (s := atTime t s) hi _ _ rfl⟩
    · obtain ⟨y, hy, hrest⟩ := completeSieve_of_known (s := atTime t s) (r := r) hi hk ha
      exact ⟨y, hexec ((completeOp_sieve_published (s := atTime t s) hr hq hp he hst hd hres hl hpast hproofs).trans hy), hrest⟩
    · obtain ⟨y, st', hy, hrest⟩ := completeSieve_of_unknown (s := atTime t s) hi hk ha hst hpl hring hout
      exact ⟨y, st', hexec ((completeOp_sieve_published (s := atTime t s) hr hq hp he hst hd hres hl hpast hproofs).trans hy), hrest⟩
    · have hop := completeOp_sieve_landed (s := atTime t s) hr hq hp he hst hl hpast
      refine ⟨fun ha => ?_, fun ha => ?_⟩
      · exact hexec (hop.trans (if_pos ha))
      · exact ⟨_, hexec (hop.trans (if_neg (Bool.eq_false_iff.1 ha))), State.setRun_run_none .., rfl, rfl⟩

end Sys2Proof.Machine
end

section
/-! The safe states (R344, R346, R347): how a partition and the device enter one, and how the host clears them; and what SP's hold and the sentinel
make of the state (R352–R356, R367). -/

namespace Sys2Proof.Machine

/-! ### CLEAR (R347, R361) -/

/-- The partitions that a CLEAR names. -/
def namedParts (m : BitVec 8) : List Nat := (List.range 8).filter (fun p => m.getLsbD p)

theorem mem_namedParts {m : BitVec 8} {p : Nat} : p ∈ namedParts m ↔ p < 8 ∧ m.getLsbD p = true := by
  simp [namedParts]

/-- Whether a partition's safe state cannot be cleared (R347, R369). -/
def clearRefused (s : State) (p : Nat) : Bool :=
  let x := s.part p
  x.safe.isNone || x.st != .running || unitMissing x || s.safety.shared

theorem clearRefused_iff {s : State} {p : Nat} : clearRefused s p = true ↔
    (s.part p).safe = none ∨ (s.part p).st ≠ .running ∨ unitMissing (s.part p) = true ∨ s.safety.shared = true := by
  simp [clearRefused, or_assoc]

/-- A CLEAR accepted for a list of partitions waits for the step boundary of each. -/
def markClearing (s : State) (ps : List Nat) : State := ps.foldl (fun s p => s.modPart p (fun x => { x with clearing := true })) s

theorem markClearing_part (ps : List Nat) (s : State) (p : Nat) :
    (markClearing s ps).part p = if p ∈ ps then { s.part p with clearing := true } else s.part p := by
  unfold markClearing
  induction ps generalizing s with
  | nil => rfl
  | cons i ps ih =>
    rw [List.foldl_cons, ih]
    obtain rfl | hne := eq_or_ne p i
    · simp [State.modPart_part_self]
    · simp [State.modPart_part_ne _ _ hne, hne]

theorem markClearing_same (ps : List Nat) (s : State) {g : Field} (hg : g ≠ .plans) : Same g s (markClearing s ps) :=
  (frame_foldl ps (.refl [.plans] s) fun _ _ h => State.modPart_frame h (List.Subset.refl _)).same g (by simpa using hg)

/-- SAFE_CMD holds CLEAR in its low byte and the partitions above it. -/
theorem bit_safeCmd (m : BitVec 8) (p : Nat) : bit (m.toNat * 256 + 1) (8 + p) = m.getLsbD p := by
  rw [bit, show m.toNat * 256 + 1 = 2 ^ 8 * m.toNat + 1 by omega, Nat.testBit_two_pow_mul_add _ (by decide), if_neg (by omega),
    Nat.add_sub_cancel_left, BitVec.testBit_toNat]

/-- What a CLEAR comes to: a refusal for the device, a refusal for a partition named, or the clear of all of them (R347). -/
theorem safeCmdWrite_clear (s : State) (m : BitVec 8) : safeCmdWrite s (m.toNat * 256 + 1) =
    if s.safety.dev ≠ 0 then s.pageErr pgSafe 2 0x6001 (m.toNat * 256 + 1)
    else if (namedParts m).any (clearRefused s) then s.pageErr pgSafe 2 0x6002 (m.toNat * 256 + 1)
    else markClearing s (namedParts m) := by
  have hcmd : ¬ bits (m.toNat * 256 + 1) 3 0 ≠ 1 := by simp [bits]; omega
  rw [safeCmdWrite, if_neg hcmd]
  simp only [bit_safeCmd]
  rfl

/-- Settles O35: the device's safe state and the partitions named decide between the refusals and the clear, which is one for all of them. -/
theorem safeStatesClearWhole : Obligations.SafeStatesClearWhole := by
  intro t w m s h
  have hexec {u : State} (hu : safeCmdWrite (atTime t s) (m.toNat * 256 + 1) = u) : exec (.safeClear t w m) s = .next u :=
    congrArg Host.Outcome.next ((hostWrite_safe h _).trans hu)
  have hclear := safeCmdWrite_clear (atTime t s) m
  refine ⟨fun hd => hexec ?_, fun hd => ⟨fun hs hall => ?_, fun p hp hm hr => hexec ?_⟩⟩
  · rw [hclear, if_pos (by exact hd)]
  · have hnone : (namedParts m).any (clearRefused (atTime t s)) = false := by
      refine List.any_eq_false.2 fun p hp => ?_
      obtain ⟨hlt, hbit⟩ := mem_namedParts.1 hp
      obtain ⟨hsafe, hst, hun⟩ := hall p hlt hbit
      simp [clearRefused, Option.isSome_iff_ne_none.1 hsafe, hst, hun, hs]
    refine ⟨markClearing (atTime t s) (namedParts m), hexec ?_, fun p hlt hbit => ?_, fun p hbit => ?_, fun g hg => markClearing_same _ _ hg⟩
    · rw [hclear, if_neg (not_not.2 (by exact hd)), hnone]
      rfl
    · rw [markClearing_part, if_pos (mem_namedParts.2 ⟨hlt, hbit⟩), atTime_part]
    · rw [markClearing_part, if_neg (by simp [mem_namedParts, hbit]), atTime_part]
  · have hany : (namedParts m).any (clearRefused (atTime t s)) = true :=
      List.any_eq_true.2 ⟨p, mem_namedParts.2 ⟨hp, hm⟩, clearRefused_iff.2 hr⟩
    rw [hclear, if_neg (not_not.2 (by exact hd)), if_pos hany]

/-! ### The safe state of the device (R344, R346) -/

theorem enterSafe_isSafety (s : State) (p code i : Nat) : (enterSafe s p code).isSafety i = s.isSafety i := by
  unfold State.isSafety State.partReg
  rw [(enterSafe_frame (.refl [.fresh, .regs, .plans, .log] s) (List.Subset.refl _)).inForce (by decide)]

/-- Entering the safe state changes of the partitions no more than that one's latch and what waits to clear it. -/
theorem enterSafe_part (s : State) (p code i : Nat) : (enterSafe s p code).part i =
    if i = p ∧ s.isSafety p = true ∧ (s.part p).safe = none then { s.part p with safe := some (code, stepNumber (s.part p)), clearing := false }
    else s.part i := by
  unfold enterSafe
  dsimp only
  by_cases hc : s.isSafety p = true ∧ (s.part p).safe = none
  · rw [if_pos (by simpa using hc)]
    have hplans : ∀ c n z, ((((s.setPart p c).bump pgSafe 0x070 1).logEntry 0x6107 p 0xFF n).part z) = (s.setPart p c).part z := fun c n z => by
      simp [State.part]
    rw [hplans]
    obtain rfl | hne := eq_or_ne i p
    · rw [State.setPart_part_self, if_pos ⟨rfl, hc⟩]
    · rw [State.setPart_part_ne _ _ hne, if_neg fun h => hne h.1]
  · rw [if_neg (by simpa using hc), if_neg fun h => hc h.2]

theorem enterSafe_step (s : State) (p code i : Nat) : ((enterSafe s p code).part i).step = (s.part i).step := by
  rw [enterSafe_part]
  split
  · next h => rw [h.1]
  · rfl

/-- A partition that is in the safe state stays there. -/
theorem enterSafe_keeps_safe {s : State} {i : Nat} (h : (s.part i).safe.isSome = true) (p code : Nat) :
    ((enterSafe s p code).part i).safe.isSome = true := by
  rw [enterSafe_part]
  split
  · rfl
  · exact h

/-- A safety-relevant partition is in the safe state once it has entered it. -/
theorem enterSafe_isSome {s : State} {p : Nat} (h : s.isSafety p = true) (code : Nat) : ((enterSafe s p code).part p).safe.isSome = true := by
  rw [enterSafe_part]
  split
  · rfl
  · next hn => exact Option.isSome_iff_ne_none.2 fun hs => hn ⟨rfl, h, hs⟩

theorem enterAll_keeps_safe (code : Nat) (ps : List Nat) {s : State} {i : Nat} (h : (s.part i).safe.isSome = true) :
    ((ps.foldl (fun s p => enterSafe s p code) s).part i).safe.isSome = true := by
  induction ps generalizing s with
  | nil => exact h
  | cons p ps ih => exact ih (enterSafe_keeps_safe h p code)

theorem enterAll_isSome (code : Nat) {ps : List Nat} {s : State} {i : Nat} (hi : i ∈ ps) (h : s.isSafety i = true) :
    ((ps.foldl (fun s p => enterSafe s p code) s).part i).safe.isSome = true := by
  induction ps generalizing s with
  | nil => exact absurd hi List.not_mem_nil
  | cons p ps ih =>
    obtain rfl | hi := List.mem_cons.1 hi
    · exact enterAll_keeps_safe code ps (enterSafe_isSome h code)
    · exact ih hi ((enterSafe_isSafety ..).trans h)

/-- Every safety-relevant partition is in the safe state in the device safe state. -/
theorem deviceSafe_isSome {s : State} {p : Nat} (hp : p < 8) (h : s.isSafety p = true) (cause code : Nat) :
    ((deviceSafe s cause code).part p).safe.isSome = true := by
  unfold deviceSafe
  dsimp only
  refine enterAll_isSome code (List.mem_range.2 hp) ?_
  split
  · exact h
  · exact h

/-- The device safe state keeps its first cause (R346); nothing else of the safety state changes. -/
theorem deviceSafe_safety (s : State) (cause code : Nat) :
    (deviceSafe s cause code).safety = { s.safety with dev := if s.safety.dev = 0 then cause else s.safety.dev } := by
  have hall : ∀ z : State, ((List.range 8).foldl (fun s p => enterSafe s p code) z).safety = z.safety := fun z =>
    (frame_foldl _ (.refl [.fresh, .regs, .plans, .log] z) fun _ _ h => enterSafe_frame h (List.Subset.refl _)).same .safety (by decide)
  unfold deviceSafe
  dsimp only
  rw [hall]
  split <;> rfl

theorem deviceSafe_out (s : State) (cause code : Nat) : (deviceSafe s cause code).out = s.out :=
  (deviceSafe_frame (.refl [.fresh, .regs, .plans, .safety, .log] s) (List.Subset.refl _)).same .out (by decide)

/-! ### SP's hold (R355) and the sentinel (R352–R356, R367) -/

theorem holdDegradedOp_of_hold {s : State} {h : Nat} (hh : s.safety.hold = some h) (hlate : h + 50000000 ≤ s.clk.dev)
    (hd : s.safety.degraded = false) :
    holdDegradedOp s = ({ s with safety := { s.safety with degraded := true } } : State).logEntry 0x620E 0xFF 0xC1 0 := by
  simp [holdDegradedOp, hh, hd, Nat.not_lt.2 hlate]

theorem holdLimitSpOp_of_hold {s : State} {h : Nat} (hh : s.safety.hold = some h) (hlate : h + 200000000 ≤ s.clk.dev) (hd : s.safety.dev = 0) :
    holdLimitSpOp s = deviceSafe s 2 0x620E := by
  simp [holdLimitSpOp, hh, hd, Nat.not_lt.2 hlate]

/-- The safety state once a word w has been sent: the counter has advanced, and what came back is held against w (R353, R367). -/
def wordSent (x : SafetySt) (w cause : Nat) (bad : Bool) : SafetySt :=
  { x with counter := (x.counter + 1) % 32, lastWord := w, lastCause := cause, tapBad := bad }

/-- A word w has left, and is counted; a bad one on its way back is counted too. -/
def sentWord (s : State) (w cause : Nat) (bad : Bool) : State :=
  let z := (({ s with safety := wordSent s.safety w cause bad } : State).emit (.sentinel (BitVec.ofNat 16 w) (sentinelLight w))).bump pgSntw 0x050 1
  if bad then z.bump pgSntw 0x058 1 else z

theorem sentWord_out (s : State) (w cause : Nat) (bad : Bool) :
    (sentWord s w cause bad).out = s.out ++ [.sentinel (BitVec.ofNat 16 w) (sentinelLight w)] := by
  unfold sentWord
  dsimp only
  split <;> simp [State.emit]

theorem sentWord_safety (s : State) (w cause : Nat) (bad : Bool) : (sentWord s w cause bad).safety = wordSent s.safety w cause bad := by
  unfold sentWord
  dsimp only
  split <;> simp [State.emit]

/-- What a second bad word in a row comes to: it is counted, and takes the device into its safe state unless it is there for that very cause (R367). -/
def failLoopback (s : State) : State :=
  let z := s.bump pgSt 0x090 1
  if z.safety.dev = 4 then z else deviceSafe (z.logEntry 0x6204 0xFF 0xFF 0) 4 0x6204

theorem failLoopback_out (s : State) : (failLoopback s).out = s.out := by
  unfold failLoopback
  dsimp only
  split
  · simp
  · simp [deviceSafe_out]

theorem failLoopback_safety (s : State) : (failLoopback s).safety = { s.safety with dev := if s.safety.dev = 0 then 4 else s.safety.dev } := by
  unfold failLoopback
  dsimp only
  split
  · next h =>
    rw [State.bump_safety] at h ⊢
    have hdev : (if s.safety.dev = 0 then 4 else s.safety.dev) = s.safety.dev := by
      rw [h]
      rfl
    rw [hdev]
  · simp [deviceSafe_safety]

/-- While the sentinel is on, a word leaves with the status in force and the counter (R353); the second bad one in a row fails the loopback. -/
theorem sentinelOp_of_on {s : State} (tap : BitVec 16) {w : Nat} (hoff : s.phase ≠ .off) (hsleep : s.phase ≠ .sleep)
    (hon : s.safety.sentinelOn = true) (hw : w = sentinelWordOf (statusInForce s).1 s.safety.counter) :
    ∃ cause, ∃ z, z = sentWord s w cause (tap.toNat != w) ∧
      sentinelOp s tap = if (tap.toNat != w && s.safety.tapBad) = true then failLoopback z else z := by
  subst hw
  refine ⟨(statusInForce s).2, _, rfl, ?_⟩
  unfold sentinelOp
  rw [if_neg (by simp [hoff, hsleep, hon])]
  rfl

/-- Settles O56: the hold's age decides between nothing, the degraded status and the safe state; a word leaves, and what came back of it and of the
one before decides the rest. -/
theorem theSentinelTellsTheState : Obligations.TheSentinelTellsTheState := by
  refine ⟨fun t h s hh => ⟨fun hlate hd => ?_, fun hlate hd => ?_⟩, fun t tap s w hoff hsleep hon hw => ?_⟩
  · refine ⟨_, congrArg Host.Outcome.next (holdDegradedOp_of_hold (s := atTime t s) hh hlate hd), ?_, ?_⟩
    · simp
    · simp
  · refine ⟨_, congrArg Host.Outcome.next (holdLimitSpOp_of_hold (s := atTime t s) hh hlate hd), ?_, fun p hp hs => ?_⟩
    · rw [deviceSafe_safety]
      exact if_pos hd
    · exact deviceSafe_isSome (s := atTime t s) hp hs _ _
  · obtain ⟨cause, z, hz, hop⟩ := sentinelOp_of_on (s := atTime t s) tap hoff hsleep hon hw
    have hout : z.out = s.out ++ [.sentinel (BitVec.ofNat 16 w) (sentinelLight w)] := hz ▸ sentWord_out ..
    have hsafety : z.safety = wordSent s.safety w cause (tap.toNat != w) := hz ▸ sentWord_safety ..
    refine ⟨_, congrArg Host.Outcome.next hop, ?_⟩
    split
    · next htwice =>
      obtain ⟨hbad, hlast⟩ := Bool.and_eq_true_iff.1 htwice
      rw [failLoopback_out, failLoopback_safety, hout, hsafety]
      refine ⟨rfl, rfl, rfl, fun _ _ hdev => if_pos hdev, fun hgood => ?_⟩
      obtain hw | hlast' := hgood
      · exact absurd hw (bne_iff_ne.1 hbad)
      · exact absurd (hlast.symm.trans hlast') nofun
    · next htwice =>
      rw [hout, hsafety]
      refine ⟨rfl, rfl, rfl, fun hbad hlast _ => absurd ?_ htwice, fun _ => rfl⟩
      exact Bool.and_eq_true_iff.2 ⟨bne_iff_ne.2 hbad, hlast⟩

end Sys2Proof.Machine
end

section
/-! The clock monitors (R328): a pair's clock that is off fails the step that its units serve, once for both units of a SPLIT pair. -/

namespace Sys2Proof.Machine

/-- The units and what holds cores back decide which cores are fenced. -/
theorem coreFenced_congr {s z : State} (hu : z.units = s.units) (hb : z.boot = s.boot) (n : Nat) : coreFenced z n = coreFenced s n := by
  unfold coreFenced pairFenced State.pair State.core
  rw [hu, hb]

/-- A unit whose clock is off, unless it is fenced: its pair's unit is blamed in SAFE mode, none in SPLIT mode (R337). -/
def clockFail (i : Nat) (s : State) (u : Nat) : State :=
  if coreFenced s u then s else failUnit s u 0x610F (if (s.pair i).safe then unitIdOf u else none)

theorem clockFail_of_serves {s : State} {i u p : Nat} (hc : coreFenced s u = false) (h : Serves s u p) :
    clockFail i s u = failStep s p 0x610F true (if (s.pair i).safe then unitIdOf u else none) := by
  rw [clockFail, if_neg (by simp [hc]), failUnit_of_serves h]

/-- A unit that is fenced, or serves no plan of the pair's owner, fails nothing in SPLIT mode. -/
theorem clockFail_of_not_serves {s : State} {i u : Nat} (hsplit : (s.pair i).safe = false)
    (h : coreFenced s u = false → ¬ Serves s u (pairOwner s (u / 2))) : clockFail i s u = s := by
  unfold clockFail
  split
  · rfl
  · next hc =>
    have hn : ¬ (pairOwner s (u / 2) < 8 ∧ (logicalOf s (pairOwner s (u / 2)) u).isSome = true) := fun hs =>
      h (by simpa using hc) ⟨rfl, hs⟩
    simp [failUnit, hn, hsplit]

/-- A step that has failed does not fail again, and no unit is blamed. -/
theorem failStep_of_failed {s : State} {p code : Nat} {r : Bool} {w : Option UnitId} (h : HasFailed s p code r w) (code' : Nat) (r' : Bool) :
    failStep s p code' r' none = s := by
  obtain ⟨⟨st, hst, hf⟩, -, -⟩ := h
  simp [failStep, hst, hf]

theorem clockFail_of_failed {s : State} {i u p code : Nat} {r : Bool} {w : Option UnitId} (hsplit : (s.pair i).safe = false)
    (hp : pairOwner s (u / 2) = p) (h : HasFailed s p code r w) : clockFail i s u = s := by
  by_cases hs : coreFenced s u = false ∧ Serves s u p
  · rw [clockFail_of_serves hs.1 hs.2, hsplit]
    exact failStep_of_failed h ..
  · exact clockFail_of_not_serves hsplit fun hc hs' => hs ⟨hc, hp ▸ hs'⟩

/-- Both units of a SPLIT pair: the first that serves the owner's plan fails its step, and the other one no more. -/
theorem clockFails_hasFailed {s : State} {i k p : Nat} (hsplit : (s.pair i).safe = false) (hk : k ∈ pairUnits s i) (hc : coreFenced s k = false)
    (hs : Serves s k p) (hcan : CanFail s p) : HasFailed ((pairUnits s i).foldl (clockFail i) s) p 0x610F true none := by
  have hunits : pairUnits s i = [2 * i, 2 * i + 1] := by simp [pairUnits, hsplit]
  have heven : 2 * i / 2 = i := by omega
  have hodd : (2 * i + 1) / 2 = i := by omega
  rw [hunits] at hk ⊢
  have hki : k / 2 = i := by
    simp only [List.mem_cons, List.not_mem_nil, or_false] at hk
    omega
  have howner : pairOwner s i = p := hki ▸ hs.1
  have hfail {u : Nat} (hcu : coreFenced s u = false) (hsu : Serves s u p) : clockFail i s u = failStep s p 0x610F true none := by
    rw [clockFail_of_serves hcu hsu, hsplit]
    rfl
  have hfailed : HasFailed (failStep s p 0x610F true none) p 0x610F true none := failStep_hasFailed hcan ..
  show HasFailed (clockFail i (clockFail i s (2 * i)) (2 * i + 1)) p 0x610F true none
  by_cases hfirst : coreFenced s (2 * i) = false ∧ Serves s (2 * i) p
  · obtain ⟨f, hpair⟩ := (failStep_retunes hcan 0x610F true none).pair i
    rw [hfail hfirst.1 hfirst.2, clockFail_of_failed (by rw [hpair, hsplit]) (by rw [hodd, pairOwner, hpair, ← howner, pairOwner]) hfailed]
    exact hfailed
  · rw [clockFail_of_not_serves hsplit fun hc' hs' => hfirst ⟨hc', by rwa [heven, howner] at hs'⟩]
    have hlast : k = 2 * i + 1 := by
      obtain rfl | hk := List.mem_cons.1 hk
      · exact absurd ⟨hc, hs⟩ hfirst
      · exact List.mem_singleton.1 hk
    rw [← hlast, hfail hc hs]
    exact hfailed

/-- A pair's clock that is off is counted and logged, and then fails the pair's units. -/
theorem clockCheckOp_of_pair {s : State} {i : Nat} {ppm : Int} (hppm : 20000 < ppm.natAbs) (hi : i ≠ 20) (hf : s.pairFused i = false) :
    ∃ z, z.plans = s.plans ∧ z.units = s.units ∧ z.boot = s.boot ∧ clockCheckOp s i ppm = (pairUnits z i).foldl (clockFail i) z := by
  refine ⟨unitLog (s.bump (pgPair i) 0x060 1) 0x610F (pairOwner s i) (2 * i), by simp, by simp, by simp [unitLog], ?_⟩
  unfold clockCheckOp
  rw [if_neg (Nat.not_le.2 hppm), if_neg hi, hf]
  rfl

/-- Settles O53: the deviation and the PLL decide between nothing, the device's safe state and the failure of a step. -/
theorem clocksAreMonitored : Obligations.ClocksAreMonitored := by
  intro t pll ppm s hup
  have hexec {u : State} (hu : clockCheckOp (atTime t s) pll.val ppm = u) : exec (.clockMonitorCheck t pll ppm) s = .next u :=
    congrArg Host.Outcome.next ((whenUp_of_up (s := atTime t s) hup _).trans hu)
  refine ⟨fun hin => hexec (if_pos hin), fun hout hpll => ?_, fun hout hpll hf p hcan => ?_⟩
  · set z := (atTime t s).logEntry 0x610F 0xFF 0xFF 0 with hz
    have hop : clockCheckOp (atTime t s) pll.val ppm = deviceSafe z 5 0x610F := by
      rw [clockCheckOp, if_neg (Nat.not_le.2 hout), if_pos hpll]
    have hsafety : z.safety = s.safety := State.logEntry_safety ..
    have hkind (p : Nat) : z.isSafety p = s.isSafety p := by
      unfold State.isSafety State.partReg
      rw [hz, (State.logEntry_frame (.refl [.fresh, .regs, .log] (atTime t s)) (List.Subset.refl _)).inForce (by decide), atTime_inForce]
    refine ⟨_, hexec hop, ?_, fun p hp hs => deviceSafe_isSome hp ((hkind p).trans hs) _ _⟩
    rw [deviceSafe_safety, hsafety]
  · obtain ⟨z, hplans, hunits, hboot, hop⟩ := clockCheckOp_of_pair (s := atTime t s) hout (Nat.ne_of_lt hpll) hf
    have hpair (i : Nat) : z.pair i = s.pair i := by
      rw [State.pair, hunits]
      rfl
    have hc (n : Nat) : coreFenced z n = coreFenced s n := coreFenced_congr (s := s) hunits hboot n
    have hserves {u : Nat} (h : Serves s u p) : Serves z u p := h.congr (s := s) (congrArg PairSt.owner (hpair _)) hplans
    refine ⟨fun hsafe hcore hs => ⟨_, hexec hop, ?_⟩, fun hsplit hk => ⟨_, hexec hop, ?_⟩⟩
    · have hone : pairUnits z pll.val = [2 * pll.val] := by simp [pairUnits, hpair, hsafe]
      have hfail := clockFail_of_serves (i := pll.val) ((hc _).trans hcore) (hserves hs)
      rw [hpair, hsafe, if_pos rfl] at hfail
      rw [hone, List.foldl_cons, List.foldl_nil, hfail]
      exact failStep_hasFailed (hcan.of_plans hplans) ..
    · obtain ⟨k, hmem, hcore, hs⟩ := hk
      have hmem' : k ∈ pairUnits z pll.val := by rwa [pairUnits, hpair, ← pairUnits]
      exact clockFails_hasFailed (by rw [hpair, hsplit]) hmem' ((hc k).trans hcore) (hserves hs) (hcan.of_plans hplans)

end Sys2Proof.Machine
end

section
/-! What leaves the partitions as they are but for their page tables and prefetches (R172): aborts, waits and adds do, whatever they take out of the
queues. And what keeps a step in progress: a strike may fence a unit, move its logical core and suspend a partition, but no step ends by it (R339). -/

namespace Sys2Proof.Machine

/-! ### Partitions that are kept -/

/-- s came from a with no partition changed but in its page table and its prefetches. -/
structure PartsKept (a s : State) : Prop where
  part : ∀ p, ∃ l m, s.part p = { a.part p with ptes := l, prefetch := m }

theorem PagesOnly.partsKept {a s : State} (h : PagesOnly a s) : PartsKept a s := ⟨h.part⟩

theorem PartsKept.of_part {a s : State} (h : ∀ p, s.part p = a.part p) : PartsKept a s := ⟨fun p => ⟨_, _, h p⟩⟩

theorem PartsKept.refl (s : State) : PartsKept s s := .of_part fun _ => rfl

theorem PartsKept.of_frame {W : List Field} {a s : State} (h : Frame W a s) (hp : .plans ∉ W) : PartsKept a s := (PagesOnly.of_frame h hp).partsKept

theorem PartsKept.trans {a s u : State} (h : PartsKept a s) (k : PartsKept s u) : PartsKept a u := by
  refine ⟨fun p => ?_⟩
  obtain ⟨l, m, hp⟩ := h.part p
  obtain ⟨l', m', kp⟩ := k.part p
  exact ⟨l', m', by rw [kp, hp]⟩

theorem PartsKept.foldl_fst {β γ : Type} {f : State × γ → β → State × γ} (hf : ∀ s b, PartsKept s.1 (f s b).1) (l : List β) (s : State × γ) :
    PartsKept s.1 (l.foldl f s).1 := by
  induction l generalizing s with
  | nil => exact .refl s.1
  | cons b l ih => exact (hf s b).trans (ih _)

theorem PartsKept.foldl {β : Type} {f : State → β → State} (hf : ∀ s b, PartsKept s (f s b)) (l : List β) (s : State) : PartsKept s (l.foldl f s) := by
  induction l generalizing s with
  | nil => exact .refl s
  | cons b l ih => exact (hf s b).trans (ih _)

section
variable {a s : State} (h : PartsKept a s)
include h

theorem PartsKept.step (p : Nat) : (s.part p).step = (a.part p).step := by obtain ⟨l, m, hp⟩ := h.part p; rw [hp]
theorem PartsKept.wrSeq (p : Nat) : (s.part p).wrSeq = (a.part p).wrSeq := by obtain ⟨l, m, hp⟩ := h.part p; rw [hp]
theorem PartsKept.bind (p : Nat) : (s.part p).bind = (a.part p).bind := by obtain ⟨l, m, hp⟩ := h.part p; rw [hp]

end

/-! ### Remote writes and aborts -/

theorem takeWrite_partsKept (s : State) (src p a : Nat) (data : Bytes) : PartsKept s (takeWrite s src p a data).1 := by
  unfold takeWrite
  extract_lets can status
  dsimp only
  split
  · exact ((touchRange_pagesOnly ..).trans (partStore_pagesOnly ..)).partsKept
  · exact .of_frame (State.logEntry_frame (.refl [.fresh, .regs, .log] s) (List.Subset.refl _)) (by decide)

theorem sendLine_partsKept (s : State) (p : Nat) (q : Option Nat) (e : Nat × Nat × Nat × Nat) : PartsKept s (sendLine s p q e).1 := by
  unfold sendLine
  extract_lets data s1
  have h1 : PartsKept s s1 := (touchRange_pagesOnly ..).partsKept
  split
  · exact h1.trans (takeWrite_partsKept ..)
  · next s2 _ =>
    have h2 : PartsKept s1 s2 := .of_part fun _ => rfl
    exact (h1.trans h2).trans (.of_frame (sirForward_frame (.refl [.out, .fresh, .regs, .log, .net] s2) (List.Subset.refl _)) (by decide))

theorem sendWritten_partsKept (s : State) (p : Nat) (q : Option Nat) (vas : List Nat) : PartsKept s (sendWritten s p q vas).1 := by
  unfold sendWritten
  refine PartsKept.foldl_fst (s := (s, false)) (fun a e => ?_) _
  exact sendLine_partsKept a.1 p q e

theorem accountEngine_partsKept (s : State) (q : Nat) : PartsKept s (accountEngine s q) := by
  unfold accountEngine
  split
  · exact .refl s
  · extract_lets _ _
    split
    next l s1 h1 =>
    extract_lets s2
    have h2 : PartsKept s s2 := .of_frame (bumpRow_frame (freeUpTo_frame' h1 (.refl [.fresh, .regs] s) (by decide)) (by decide)) (by decide)
    exact h2.trans (.of_part fun _ => rfl)

theorem abortUnit_partsKept (s : State) (q : Nat) : PartsKept s (abortUnit s q) := by
  unfold abortUnit
  split
  · exact .refl s
  next r _ =>
  extract_lets p s1 _ _ s2 put s3 _ _ s4 s5
  have h1 : PartsKept s s1 := by
    unfold s1
    split
    · exact .of_frame (account_frame (.refl [.fresh, .regs, .units] s) (List.Subset.refl _)) (by decide)
    · split
      · exact accountEngine_partsKept ..
      · exact .refl s
  have h3 : PartsKept s2 s3 := by
    unfold s3
    split
    · exact .refl s2
    · have hw : PartsKept s2 (partWrites s2 p put).tick.tick := (partWrites_pagesOnly s2 p put).partsKept.trans (.of_part fun _ => rfl)
      exact hw.trans (sendWritten_partsKept ..)
  have h5 : PartsKept s3 s5 := (PartsKept.of_part (fun _ => rfl) : PartsKept s3 s4).trans (dropPrefetch_pagesOnly ..).partsKept
  refine ((h1.trans (touchPages_pagesOnly ..).partsKept).trans (h3.trans h5)).trans ?_
  clear_value s5
  split
  · exact .of_frame (settleCore_frame (undefUnit_frame (.refl [.fresh, .regs, .units] s5) (by decide)) (List.Subset.refl _)) (by decide)
  split
  · exact .refl s5
  split
  · next res _ =>
    split
    · exact (PartsKept.of_frame (sieveCounts_frame (.refl [.fresh, .regs, .log] s5) (List.Subset.refl _)) (by decide)).trans (.of_part fun _ => rfl)
    · exact .of_part fun i => by simp [State.part, cutSieve]
  · exact .refl s5

theorem setQueue_partsKept (s : State) (q : Nat) (l : List QItem) : PartsKept s (s.setQueue q l) := .of_part fun _ => rfl

theorem clearQueue_partsKept (p : Nat) (s : State) (q : Nat) : PartsKept s (clearQueue p s q) := by
  unfold clearQueue
  dsimp only
  split
  · exact (setQueue_partsKept s q _).trans (.foldl (fun _ _ => (dropPrefetch_pagesOnly ..).partsKept) _ _)
  · exact .refl s

theorem settleUnits_partsKept (s : State) : PartsKept s (settleUnits s) := .of_part fun p => by rw [State.part, settleUnits_plans, State.part]

theorem abortStep_partsKept (s : State) (p : Nat) : PartsKept s (abortStep s p) := by
  rw [abortStep_eq]
  have hrun : PartsKept s (abortRunning s p) := .foldl (fun _ _ => abortUnit_partsKept ..) _ s
  exact (hrun.trans (.foldl (clearQueue_partsKept p) allQueues _)).trans (settleUnits_partsKept _)

/-! ### Adds and waits (R311, R498) -/

theorem sirWake_partsKept (s : State) (tag : Nat) : PartsKept s (sirWake s tag) := by
  refine .foldl (fun s q => ?_) _ s
  split
  · exact .refl s
  · split
    · exact setQueue_partsKept ..
    · exact .refl s

theorem sirForward_partsKept (s : State) (cls dst : Nat) (msg : Bytes) : PartsKept s (sirForward s cls dst msg) :=
  .of_frame (sirForward_frame (.refl [.out, .fresh, .regs, .log, .net] s) (List.Subset.refl _)) (by decide)

theorem bump_partsKept (s : State) (page off n : Nat) : PartsKept s (s.bump page off n) := .of_part fun _ => State.bump_part ..

theorem sysWake_partsKept (s : State) (sys : Nat) : PartsKept s (sysWake s sys) := by
  unfold sysWake
  extract_lets t met due keep s1
  have h1 : PartsKept s s1 := .of_part fun _ => rfl
  refine h1.trans (.foldl (fun z w => ?_) due s1)
  dsimp only
  split
  · exact (sirWake_partsKept ..).trans (bump_partsKept ..)
  · exact (sirForward_partsKept ..).trans (bump_partsKept ..)

theorem sysAdd_partsKept (s : State) (sys step n : Nat) : PartsKept s (sysAdd s sys step n) := by
  unfold sysAdd
  dsimp only
  split
  · exact bump_partsKept ..
  · exact (PartsKept.of_part fun _ => rfl : PartsKept s (s.setStally sys _)).trans (sysWake_partsKept ..)

theorem tallyAdd_partsKept (s : State) (p t n : Nat) : PartsKept s (tallyAdd s p t n) := by
  unfold tallyAdd
  split
  · exact .of_part fun _ => rfl
  · dsimp only
    split
    · exact sysAdd_partsKept ..
    · exact ((PartsKept.of_part fun _ => rfl : PartsKept s { s with net := { s.net with tag := s.net.tag + 1 } }).trans
        (sirForward_partsKept ..)).trans (bump_partsKept ..)

theorem tallyAdds_partsKept (s : State) (p : Nat) (adds : List (Nat × Nat)) : PartsKept s (tallyAdds s p adds) :=
  .foldl (fun _ _ => tallyAdd_partsKept ..) adds s

theorem sendWaits_partsKept (s : State) (q : Nat) : PartsKept s (sendWaits s q) := by
  unfold sendWaits
  split
  · exact .refl s
  split
  · exact .refl s
  extract_lets due
  split
  · exact .refl s
  dsimp only
  refine PartsKept.trans (PartsKept.foldl_fst (s := (s, [])) (fun a d => ?_) due) (.of_part fun _ => rfl)
  have htag : PartsKept a.1 { a.1 with net := { a.1.net with tag := a.1.net.tag + 1 } } := .of_part fun _ => rfl
  dsimp only
  exact (htag.trans (sirForward_partsKept ..)).trans (bump_partsKept ..)

/-! ### Steps that stay in progress -/

/-- s came from a without the end of a step: what was in progress still is. -/
structure StepsStay (a s : State) : Prop where
  step : ∀ p, (a.part p).step.isSome = true → (s.part p).step.isSome = true

theorem StepsStay.refl (s : State) : StepsStay s s := ⟨fun _ => id⟩

theorem StepsStay.trans {a s u : State} (h : StepsStay a s) (k : StepsStay s u) : StepsStay a u := ⟨fun p hp => k.step p (h.step p hp)⟩

theorem PartsKept.stepsStay {a s : State} (h : PartsKept a s) : StepsStay a s := ⟨fun p => by rw [h.step]; exact id⟩

theorem StepsStay.of_frame {W : List Field} {a s : State} (h : Frame W a s) (hp : .plans ∉ W) : StepsStay a s := (PartsKept.of_frame h hp).stepsStay

theorem State.setPart_stepsStay (s : State) (p : Nat) {c : PartSt} (hc : (s.part p).step.isSome = true → c.step.isSome = true) :
    StepsStay s (s.setPart p c) := by
  refine ⟨fun i hi => ?_⟩
  obtain rfl | hne := eq_or_ne i p
  · rw [State.setPart_part_self]
    exact hc hi
  · rw [State.setPart_part_ne _ _ hne]
    exact hi

theorem State.modPart_stepsStay (s : State) (p : Nat) {f : PartSt → PartSt} (hf : ∀ x, x.step.isSome = true → (f x).step.isSome = true) :
    StepsStay s (s.modPart p f) := s.setPart_stepsStay p (hf _)

theorem State.modStep_stepsStay (s : State) (p : Nat) (f : StepRec → StepRec) : StepsStay s (s.modStep p f) :=
  s.modPart_stepsStay p fun _ => by simp

theorem enterSafe_stepsStay (s : State) (p code : Nat) : StepsStay s (enterSafe s p code) :=
  ⟨fun i hi => by rwa [enterSafe_step]⟩

theorem suspend_stepsStay (s : State) (p code : Nat) : StepsStay s (suspend s p code) := by
  unfold suspend
  extract_lets s1 s2
  have h1 : StepsStay s s1 := s.modPart_stepsStay p fun _ => id
  have h2 : StepsStay s1 s2 := (abortStep_partsKept s1 p).stepsStay.trans (State.modStep_stepsStay ..)
  exact (h1.trans h2).trans (enterSafe_stepsStay ..)

theorem abortItem_stepsStay (s : State) (q : Nat) : StepsStay s (abortItem s q) := by
  unfold abortItem
  split
  · exact .refl s
  · exact (abortUnit_partsKept s q).stepsStay.trans (State.modStep_stepsStay ..)

theorem takeUnit_stepsStay (s : State) (p u code : Nat) : StepsStay s (takeUnit s p u code) := by
  unfold takeUnit
  extract_lets i o src s1 s2 x hit s3
  have h2 : StepsStay s s2 := (PartsKept.of_part fun _ => rfl : PartsKept s s1).stepsStay.trans (s1.modPart_stepsStay p fun _ => id)
  have h3 : StepsStay s2 s3 := s2.setPart_stepsStay o id
  split
  · exact .refl s
  split
  · split
    · exact (h2.trans h3).trans (suspend_stepsStay ..)
    · exact h2.trans h3
  · exact h2

theorem placeCore_stepsStay (s : State) (p l u code : Nat) : StepsStay s (placeCore s p l u code) := by
  unfold placeCore bindCore
  set s1 := takeUnit s p u code
  have h1 : StepsStay s s1 := takeUnit_stepsStay ..
  set s2 := modUnit s1 u (fun c => { c with logical := l })
  have h2 : StepsStay s1 s2 := .of_frame (modUnit_frame (.refl [.units] s1) (List.Subset.refl _)) (by decide)
  set s3 := s2.modPart p (fun x => { x with bind := x.bind.set l (some u) })
  have h3 : StepsStay s2 s3 := s2.modPart_stepsStay p fun _ => id
  have h4 : Frame [.fresh, .regs, .units, .selftest] s3 (settleUnit (endFiller (abortChunk s3 u) u) u) :=
    settleUnit_frame (endFiller_frame (abortChunk_frame (.refl _ s3) (List.Subset.refl _)) (by decide)) (by decide)
  exact ((h1.trans h2).trans h3).trans (.of_frame h4 (by decide))

theorem rebuildSheets_partsKept (s : State) (p l : Nat) : PartsKept s (rebuildSheets s p l).1 := by
  unfold rebuildSheets
  split
  · exact .refl s
  extract_lets rs s1
  have h1 : PartsKept s s1 := (freeKeys_pagesOnly ..).partsKept
  refine h1.trans (PartsKept.foldl_fst (s := (s1, true)) (fun a r => ?_) rs)
  split
  · next h => exact (allocPages_pagesOnly h).partsKept
  · exact .refl a.1

theorem moveCore_stepsStay (s : State) (p l old code : Nat) : StepsStay s (moveCore s p l old code) := by
  unfold moveCore
  extract_lets s1
  have h1 : StepsStay s s1 := .of_frame (modUnit_frame (.refl [.units] s) (List.Subset.refl _)) (by decide)
  refine h1.trans ?_
  clear_value s1
  split
  · next s2 _ _ =>
    have h2 : StepsStay s1 s2 := s1.modPart_stepsStay p fun _ => id
    split
    · exact h2.trans (suspend_stepsStay ..)
    · exact h2
  · next u _ =>
    extract_lets s2 q s3
    have h2 : StepsStay s1 s2 := placeCore_stepsStay ..
    have h3 : StepsStay s2 s3 := ((setQueue_partsKept ..).trans (setQueue_partsKept ..)).stepsStay
    exact (h2.trans h3).trans ((rebuildSheets_partsKept s3 p l).trans (settleUnits_partsKept _)).stepsStay

/-- A fence of a core ends no step: it takes the core's item out, and moves the logical core or suspends its partition (R294, R382–R384). -/
theorem fenceCore_stepsStay (s : State) (n cause : Nat) (faulty : Option Nat) : StepsStay s (fenceCore s n cause faulty) := by
  unfold fenceCore
  split
  · exact .refl s
  extract_lets u p s1 s2 o s3 src s4 x s5 s6
  have h1 : StepsStay s s1 := (abortItem_stepsStay s (qCore u)).trans (.of_frame
    (endFiller_frame (abortChunk_frame (.refl [.fresh, .regs, .units, .selftest] _) (List.Subset.refl _)) (by decide)) (by decide))
  have h2 : StepsStay s1 s2 := .of_frame (powerOff_frame (account_frame (.refl [.fresh, .mem, .regs, .units] s1) (by decide)) (by decide)) (by decide)
  have h3 : StepsStay s2 s3 := by
    unfold s3
    split
    · exact .refl s2
    · exact .of_frame (settleCore_frame (wakeUnit_frame (.refl [.fresh, .regs, .units] s2) (List.Subset.refl _)) (List.Subset.refl _)) (by decide)
  have h4 : StepsStay s3 s4 := .of_frame (Frame.set_aon (.refl [.aon] s3) (by decide)) (by decide)
  have h6 : StepsStay s4 s6 := .of_frame (endRotation_frame (State.logEntry_frame (State.bump_frame (.refl [.fresh, .regs, .selftest, .log] s4)
    (by decide)) (by decide)) (by decide)) (by decide)
  have hfenced : StepsStay s s6 := (h1.trans h2).trans ((h3.trans h4).trans h6)
  clear_value s6
  split
  · split
    · exact hfenced.trans (moveCore_stepsStay ..)
    · exact hfenced
  · exact hfenced

theorem placeEngine_stepsStay (s : State) (p l e : Nat) : StepsStay s (placeEngine s p l e) :=
  (PartsKept.of_part fun _ => rfl : PartsKept s (s.setEngine e _)).stepsStay.trans (State.modPart_stepsStay _ p fun _ => id)

/-- Nor does a fence of an engine (R385). -/
theorem fenceEngine_stepsStay (s : State) (q cause : Nat) : StepsStay s (fenceEngine s q cause) := by
  unfold fenceEngine
  extract_lets e p s1 src s2 s3
  split
  · exact .refl s
  have h2 : StepsStay s s2 := (abortItem_stepsStay s (qSpec q)).trans (PartsKept.of_part fun _ => rfl : PartsKept s1 s2).stepsStay
  have h3 : StepsStay s2 s3 := .of_frame (endRotation_frame (State.logEntry_frame (State.bump_frame (.refl [.fresh, .regs, .selftest, .log] s2)
    (by decide)) (by decide)) (by decide)) (by decide)
  refine (h2.trans h3).trans ?_
  clear_value s3
  split
  · split
    · exact .refl s3
    next l _ =>
    split
    · extract_lets s4
      have h4 : StepsStay s3 s4 := s3.modPart_stepsStay p fun _ => id
      split
      · exact h4.trans (suspend_stepsStay ..)
      · exact h4
    · next e' _ => exact (placeEngine_stepsStay s3 p l e').trans ((setQueue_partsKept ..).trans (setQueue_partsKept ..)).stepsStay
  · exact .refl s3

theorem strike_stepsStay (s : State) (u : UnitId) : StepsStay s (strike s u) := by
  have hcore (k : Nat) (c : CoreSt) (page : Nat) : StepsStay s ((s.setCore k c).bump page 0x058 1) :=
    .of_frame (State.bump_frame (State.setCore_frame (.refl [.regs, .units] s) (by decide)) (by decide)) (by decide)
  have hengine (q : Nat) (e : EngineSt) : StepsStay s (s.setEngine q e) :=
    .of_frame (State.setEngine_frame (.refl [.units] s) (List.Subset.refl _)) (by decide)
  cases u with
  | core n =>
    unfold strike
    dsimp only
    split
    · exact hcore ..
    · exact (hcore ..).trans (fenceCore_stepsStay ..)
  | engine q =>
    unfold strike
    dsimp only
    split
    · exact hengine ..
    · exact (hengine ..).trans (fenceEngine_stepsStay ..)

theorem oweStrike_stepsStay (s : State) (u : UnitId) : StepsStay s (oweStrike s u) := by
  unfold oweStrike
  split
  · exact strike_stepsStay s u
  · exact (PartsKept.of_part fun _ => rfl : PartsKept s { s with safety := { s.safety with owed := s.safety.owed ++ [u] } }).stepsStay

theorem claimStrike_stepsStay (s : State) (p : Nat) : StepsStay s (claimStrike s p) := by
  unfold claimStrike
  split
  · exact .refl s
  split
  · exact .refl s
  split
  · exact .refl s
  · exact (State.modStep_stepsStay ..).trans (oweStrike_stepsStay ..)

end Sys2Proof.Machine
end

section
/-! Proof tiles (R334–R338, R362, R450): what a verdict compares and keeps, and what a proof that failed or is late comes to, in the safe state and
outside it. -/

namespace Sys2Proof.Machine

/-! ### Bytes that are stored read back -/

theorem State.rdN_wrN_self (d : Bytes) {s : State} (h : Memory.wf s.mem = true) (a : Nat) : (s.wrN a d).rdN a d.length = d := by
  refine List.ext_getElem (by simp [State.rdN]) fun i hi hd => ?_
  simp only [State.rdN, List.getElem_map, List.getElem_range]
  exact State.rd_wrN_in d s h a i hd

/-- Frames of different cores lie apart. -/
theorem State.rdN_wrN_sheetFrame {n m f : Nat} (h : n ≠ m) (d : Bytes) (hd : d.length ≤ 65536) (s : State) {k : Nat} (hk : k ≤ 65536) :
    (s.wrN (sheetFrame m f) d).rdN (sheetFrame n f) k = s.rdN (sheetFrame n f) k := by
  refine List.map_congr_left fun i hi => State.rd_wrN_out d s ?_
  have hi := List.mem_range.1 hi
  unfold sheetFrame
  omega

/-- A store of the same bytes in a frame of each core of a list reads back in each. -/
theorem rdN_storeAll {d : Bytes} {f : Nat} (hd : d.length ≤ 65536) (l : List Nat) {s : State} (h : Memory.wf s.mem = true) {n : Nat} (hn : n ∈ l) :
    (l.foldl (fun s m => s.wrN (sheetFrame m f) d) s).rdN (sheetFrame n f) d.length = d := by
  have hkeep (l : List Nat) (s : State) (hnl : n ∉ l) :
      (l.foldl (fun s m => s.wrN (sheetFrame m f) d) s).rdN (sheetFrame n f) d.length = s.rdN (sheetFrame n f) d.length := by
    induction l generalizing s with
    | nil => rfl
    | cons m l ih =>
      exact (ih _ (List.not_mem_of_not_mem_cons hnl)).trans (State.rdN_wrN_sheetFrame (List.ne_of_not_mem_cons hnl) d hd s hd)
  induction l generalizing s with
  | nil => exact absurd hn List.not_mem_nil
  | cons m l ih =>
    by_cases hl : n ∈ l
    · exact ih (Memory.wf_wrN d s _ h) hl
    · obtain rfl : n = m := (List.mem_cons.1 hn).resolve_right hl
      exact (hkeep l _ hl).trans (State.rdN_wrN_self d h _)

/-- The result block reads back in the sheet store of each core of the unit (R334). -/
theorem storeProof_rdN {s : State} {u n : Nat} {result : Bytes} (hlen : result.length = 4096) (h : Memory.wf s.mem = true) (hn : n ∈ unitCores s u) :
    (storeProof s u result).rdN (sheetFrame n 62) 4096 = result := by
  have htake : result.take 4096 = result := List.take_of_length_le hlen.le
  unfold storeProof
  rw [htake, ← hlen]
  exact rdN_storeAll (by omega) _ h hn

/-! ### The verdict (R335, R336) -/

/-- The state in which a verdict on a unit's proof tile is given: the result block is stored, the signature loaded. -/
def judged (s : State) (u : Nat) (result : Bytes) (v : Nat) (ref : ProofRef) : State := loadSig (storeProof s u result) v ref

theorem judged_frame (s : State) (u : Nat) (result : Bytes) (v : Nat) (ref : ProofRef) : Frame [.mem, .safety] s (judged s u result v ref) :=
  loadSig_frame (storeProof_frame (.refl _ s) (by decide)) (by decide)

theorem judged_mem (s : State) (u : Nat) (result : Bytes) (v : Nat) (ref : ProofRef) : (judged s u result v ref).mem = (storeProof s u result).mem :=
  (loadSig_frame (.refl [.safety] (storeProof s u result)) (List.Subset.refl _)).same .mem (by decide)

/-- The verdict on an awaited proof tile that has ended: its signature is the expected one, or the proof has failed. -/
theorem verdictOp_of_awaited {s : State} {core u p : Nat} {st : StepRec} (hu : u = unitOf s core) (hs : Serves s u p) (hst : (s.part p).step = some st)
    (hin : u ∈ st.proofs) (hp : proofPending s (qCore u) = false) (result : Bytes) (ref : ProofRef) :
    verdictOp s core result ref =
      if expectedSig s (st.n % 16) ref = some (crc32c result) then checkEnd (proofGiven (judged s u result (st.n % 16) ref) p u) p
      else proofFailed (judged s u result (st.n % 16) ref) u core 0x6102 0x058 := by
  subst hu
  obtain ⟨rfl, hlt, -⟩ := hs
  unfold verdictOp
  dsimp only
  rw [hst]
  dsimp only
  rw [if_neg (by simp [hin, hp, hlt])]
  rfl

/-- The expected signature is that of the variant's whole reference while SP runs, and the one last loaded while it restarts (R335, R450). -/
theorem expectedSig_eq_some (s : State) (v sig : Nat) (ref : ProofRef) : expectedSig s v ref = some sig ↔
    ((if (s.proc 1).st = .run then ref.variant.val == v && crc32c (toLE 4 ref.sig.toNat) == ref.crc.toNat && ref.sig.toNat == sig
      else s.safety.proofSigs.lookup v == some sig) = true) := by
  unfold expectedSig spUp
  by_cases hup : (s.proc 1).st = .run
  · by_cases hw : ref.variant.val = v ∧ refWhole ref = true
    · simp [hup, hw.1, hw.2, show crc32c (toLE 4 ref.sig.toNat) = ref.crc.toNat by simpa [refWhole] using hw.2]
    · have hnot : (ref.variant.val == v && crc32c (toLE 4 ref.sig.toNat) == ref.crc.toNat) = false := by simpa [refWhole] using hw
      simp only [hup, beq_self_eq_true, if_true, if_neg hw, hnot]
      simp
  · simp [hup]

/-! ### A proof that has failed (R335, R362) -/

theorem failStep_safe {s : State} {p : Nat} (h : CanFail s p) (code : Nat) (r : Bool) (w : Option UnitId) :
    ((failStep s p code r w).part p).safe = none := by
  rw [failStep_of_canFail h, (abortStep_cutsWork _ p).safe, State.modStep_part_self]
  exact h.1

theorem failStep_safety {s : State} {p : Nat} (h : CanFail s p) (code : Nat) (r : Bool) (w : Option UnitId) :
    (failStep s p code r w).safety = s.safety := by
  rw [failStep_of_canFail h]
  exact (abortStep_frame (State.modStep_frame (.refl [.out, .fresh, .mem, .regs, .units, .plans, .press, .log, .net] s) (by decide))
    (List.Subset.refl _)).same .safety (by decide)

/-- A failed proof with its core noted, counted and logged. -/
def proofNoted (s : State) (u core code cnt : Nat) : State :=
  unitLog (({ s with safety := { s.safety with proofFail := core } } : State).bump pgProof cnt 1) code (pairOwner s (u / 2)) u

theorem proofNoted_plans (s : State) (u core code cnt : Nat) : (proofNoted s u core code cnt).plans = s.plans := by simp [proofNoted]
theorem proofNoted_units (s : State) (u core code cnt : Nat) : (proofNoted s u core code cnt).units = s.units := by simp [proofNoted]
theorem proofNoted_clk (s : State) (u core code cnt : Nat) : (proofNoted s u core code cnt).clk = s.clk := by simp [proofNoted, unitLog]
theorem proofNoted_proofFail (s : State) (u core code cnt : Nat) : (proofNoted s u core code cnt).safety.proofFail = core := by
  simp [proofNoted, unitLog]

theorem proofFailed_eq {s : State} {u p : Nat} (hs : Serves s u p) (core code cnt : Nat) : proofFailed s u core code cnt =
    let z := failStep (proofNoted s u core code cnt) p code true (unitIdOf u)
    if (z.part p).safe.isSome then checkEnd (proofGiven z p u) p else z := by
  have hserves : Serves (proofNoted s u core code cnt) u p :=
    hs.congr (by rw [State.pair, proofNoted_units, State.pair]) (proofNoted_plans ..)
  rw [← failUnit_of_serves hserves]
  obtain ⟨rfl, -, -⟩ := hs
  rfl

/-- A proof that fails outside the safe state fails the step against its unit. -/
theorem proofFailed_hasFailed {s : State} {u p : Nat} (hs : Serves s u p) (h : CanFail s p) (core code cnt : Nat) :
    HasFailed (proofFailed s u core code cnt) p code true (unitIdOf u) ∧ (proofFailed s u core code cnt).safety.proofFail = core := by
  have hcan : CanFail (proofNoted s u core code cnt) p := h.of_plans (proofNoted_plans ..)
  rw [proofFailed_eq hs]
  dsimp only
  rw [failStep_safe hcan]
  exact ⟨failStep_hasFailed hcan .., (congrArg SafetySt.proofFail (failStep_safety hcan ..)).trans (proofNoted_proofFail ..)⟩

/-- A unit's first strike in 60 s, or one that waits for SP, is noted and fences nothing (R339, R450). -/
theorem oweStrike_of_none_recent {s : State} {n : Fin 40} (hu : unitOf s n.val = n.val) (hr : recent s (s.core n.val).strikes = []) :
    (oweStrike s (.core n)).plans = s.plans ∧ (oweStrike s (.core n)).safety.proofFail = s.safety.proofFail := by
  unfold oweStrike
  split
  · simp [strike, hu, hr]
  · exact ⟨rfl, rfl⟩

/-- In the safe state no step fails: the failure is only attributed (R338). -/
theorem failStep_of_safe {s : State} {p : Nat} (h : (s.part p).safe.isSome = true) (code : Nat) (r : Bool) (w : UnitId) :
    failStep s p code r (some w) = oweStrike s w := by
  obtain ⟨cause, hc⟩ := Option.isSome_iff_exists.1 h
  unfold failStep
  dsimp only
  split
  · rfl
  · exact if_neg (by simp [hc])

theorem unitIdOf_core {u : Nat} (h : u < 40) : unitIdOf u = some (.core ⟨u, h⟩) := dif_pos h

/-- In the safe state a proof that fails aborts nothing: its unit is struck, and the step goes on without the proof (R338). -/
theorem proofFailed_of_safe {s : State} {u p : Nat} (hs : Serves s u p) (hu : u < 40) (hunit : unitOf s u = u) (hsafe : (s.part p).safe.isSome = true)
    (hr : recent s (s.core u).strikes = []) (core code cnt : Nat) :
    ∃ y, proofFailed s u core code cnt = checkEnd y p ∧ y.plans = (proofGiven s p u).plans ∧ y.safety.proofFail = core := by
  set z := proofNoted s u core code cnt with hz
  have hplans : z.plans = s.plans := proofNoted_plans ..
  have hunits : z.units = s.units := proofNoted_units ..
  have hzsafe : (z.part p).safe.isSome = true := by rwa [State.part, hplans, ← State.part]
  have hfail : failStep z p code true (unitIdOf u) = oweStrike z (.core ⟨u, hu⟩) := by
    rw [unitIdOf_core hu, failStep_of_safe hzsafe]
  obtain ⟨hop, hof⟩ := oweStrike_of_none_recent (s := z) (n := ⟨u, hu⟩) (by rwa [unitOf, State.pair, hunits, ← State.pair, ← unitOf])
    (by rwa [recent, proofNoted_clk, State.core, hunits, ← State.core, ← recent])
  have hyplans : (oweStrike z (.core ⟨u, hu⟩)).plans = s.plans := hop.trans hplans
  have hysafe : ((oweStrike z (.core ⟨u, hu⟩)).part p).safe.isSome = true := by rwa [State.part, hyplans, ← State.part]
  refine ⟨proofGiven (oweStrike z (.core ⟨u, hu⟩)) p u, ?_, ?_, hof.trans (proofNoted_proofFail ..)⟩
  · rw [proofFailed_eq hs, ← hz, hfail]
    exact if_pos hysafe
  · unfold proofGiven State.modStep State.modPart State.setPart State.part
    rw [hyplans]

/-! ### A proof that is late (R335, R338) -/

/-- A proof tile that has not completed 60 µs after its emission. -/
def tileDue (s : State) (x : QItem) : Bool := x.proof && decide (x.emitted + 60000 ≤ s.clk.clock)

/-- Whether a queue's unit runs a proof tile that is due. -/
def dueRuns (s : State) (q : Nat) : Bool := match s.run q with | some r => tileDue s r.item | none => false

/-- The tile goes where it stands, except in the safe state, where it runs on. -/
def cutTile (s : State) (p q : Nat) : State :=
  if (s.part p).safe.isSome then s
  else if dueRuns s q then abortUnit s q else s.setQueue q ((s.queue q).filter (fun x => !tileDue s x))

theorem proofTimeoutOp_of_due {s : State} {core u p : Nat} {st : StepRec} {x : QItem} (hu : u = unitOf s core) (hs : Serves s u p)
    (hst : (s.part p).step = some st) (hin : u ∈ st.proofs) (hx : x.proof = true) (hlate : x.emitted + 60000 ≤ s.clk.clock)
    (hwhere : (∃ r, s.run (qCore u) = some r ∧ r.item = x) ∨ x ∈ s.queue (qCore u)) :
    proofTimeoutOp s core = proofFailed (cutTile s p (qCore u)) u core 0x6103 0x060 := by
  subst hu
  obtain ⟨rfl, -, -⟩ := hs
  have hdue : tileDue s x = true := by simp [tileDue, hx, hlate]
  have hany : (dueRuns s (qCore (unitOf s core)) || (s.queue (qCore (unitOf s core))).any (tileDue s)) = true := by
    rw [Bool.or_eq_true]
    obtain ⟨r, hr, rfl⟩ | hq := hwhere
    · exact .inl (by rw [dueRuns, hr]; exact hdue)
    · exact .inr (List.any_eq_true.2 ⟨x, hq, hdue⟩)
  unfold proofTimeoutOp
  dsimp only
  rw [hst]
  dsimp only
  exact if_pos (Bool.and_eq_true_iff.2 ⟨List.elem_iff.2 hin, hany⟩)

theorem cutTile_cutsWork (s : State) (p q : Nat) : CutsWork s (cutTile s p q) := by
  unfold cutTile
  split
  · exact .refl s
  split
  · exact abortUnit_cutsWork s q
  · exact State.setQueue_cutsWork (List.filter_subset_self _)

theorem cutTile_partsKept (s : State) (p q : Nat) : PartsKept s (cutTile s p q) := by
  unfold cutTile
  split
  · exact .refl s
  split
  · exact abortUnit_partsKept s q
  · exact setQueue_partsKept ..

theorem cutTile_retunes (s : State) (p q : Nat) : Retunes s (cutTile s p q) := by
  unfold cutTile
  split
  · exact .refl s
  split
  · exact abortUnit_retunes s q
  · exact .of_pairs fun _ => rfl

/-- A unit serves whom it served when neither its pair's owner nor the bindings have changed. -/
theorem Serves.of_kept {s z : State} {u p : Nat} (h : Serves s u p) (ht : Retunes s z) (hk : PartsKept s z) : Serves z u p := by
  obtain ⟨hp, hlt, hl⟩ := h
  obtain ⟨f, hf⟩ := ht.pair (u / 2)
  refine ⟨?_, hlt, by rwa [logicalOf, hk.bind, ← logicalOf]⟩
  rw [pairOwner, hf]
  exact hp

theorem unitOf_unitOf (s : State) (n : Nat) : unitOf s (unitOf s n) = unitOf s n := by
  have hdiv : n / 2 * 2 / 2 = n / 2 := by omega
  by_cases h : (s.pair (n / 2)).safe = true
  · simp [unitOf, h, hdiv]
  · simp [unitOf, h]

theorem unitOf_lt (s : State) (n : Fin 40) : unitOf s n.val < 40 := by
  unfold unitOf
  split <;> omega

theorem proofGiven_part {s : State} {p : Nat} {st : StepRec} (hst : (s.part p).step = some st) (u : Nat) :
    (proofGiven s p u).part p = { s.part p with step := some { st with proofs := st.proofs.erase u } } := by
  rw [proofGiven, State.modStep_part_self, hst]
  rfl

/-- Settles O54: the signature decides the verdict, and the safe state what a late proof comes to. -/
theorem proofsPassOrFail : Obligations.ProofsPassOrFail := by
  refine ⟨fun t core result ref good p u v st s hu hs hst hin hp hv hgood => ?_, fun t core p u st x s hu hs hst hin hx hlate hwhere => ?_⟩
  · subst hv
    have hop := verdictOp_of_awaited (s := atTime t s) hu hs hst hin hp result ref
    set z := judged (atTime t s) u result (st.n % 16) ref with hz
    have hF : Frame [.mem, .safety] (atTime t s) z := judged_frame ..
    have hplans : z.plans = s.plans := hF.same .plans (by decide)
    have hpart : z.part p = s.part p := by rw [State.part, hplans, State.part]
    have hsig : expectedSig (atTime t s) (st.n % 16) ref = some (crc32c result) ↔ good = true := by
      rw [hgood]
      exact expectedSig_eq_some ..
    refine ⟨fun hg => ⟨proofGiven z p u, ?_, ?_, fun hlen hwf n hn => ?_⟩, fun hg hcan => ?_⟩
    · exact congrArg Host.Outcome.next (hop.trans (if_pos (hsig.2 hg)))
    · rw [proofGiven_part (hpart ▸ hst), hpart]
    · have hmem : (proofGiven z p u).mem = (storeProof (atTime t s) u result).mem := judged_mem ..
      have hread := storeProof_rdN (s := atTime t s) hlen hwf hn
      unfold State.rdN State.rd at hread ⊢
      rwa [hmem]
    · have hserves : Serves z u p := hs.congr (by rw [State.pair, hF.same .units (by decide)]; rfl) hplans
      obtain ⟨hfailed, hcore⟩ := proofFailed_hasFailed hserves (hcan.of_plans hplans) core.val 0x6102 0x058
      exact ⟨_, congrArg Host.Outcome.next (hop.trans (if_neg (by simp [hsig, hg]))), hfailed, hcore⟩
  · have hop := proofTimeoutOp_of_due (s := atTime t s) hu hs hst hin hx hlate hwhere
    refine ⟨fun hcan => ?_, fun hsafe hr => ?_⟩
    · have hserves : Serves (cutTile (atTime t s) p (qCore u)) u p :=
        Serves.of_kept (s := atTime t s) hs (cutTile_retunes ..) (cutTile_partsKept ..)
      obtain ⟨hfailed, hcore⟩ := proofFailed_hasFailed hserves ((cutTile_cutsWork ..).canFail hcan) core.val 0x6103 0x060
      exact ⟨_, congrArg Host.Outcome.next hop, hfailed, hcore⟩
    · have hcut : cutTile (atTime t s) p (qCore u) = atTime t s := if_pos hsafe
      have hlt : u < 40 := hu ▸ unitOf_lt s core
      have hunit : unitOf (atTime t s) u = u := hu ▸ unitOf_unitOf s core.val
      obtain ⟨y, hy, hplans, hcore⟩ := proofFailed_of_safe (s := atTime t s) hs hlt hunit hsafe hr core.val 0x6103 0x060
      rw [hcut, hy] at hop
      refine ⟨y, congrArg Host.Outcome.next hop, ?_, hcore, ?_⟩
      · rw [hplans]
        rfl
      · rw [State.part, hplans, ← State.part, proofGiven_part (s := atTime t s) hst]
        rfl

end Sys2Proof.Machine
end

section
/-! The decision on a failed step (R339, R340, R343, R499): the records that a declaration publishes leave the step as it stands but for the outputs that
have theirs, so that after it the step is declared invalid and a safety-relevant partition is in the safe state, whatever the strike has fenced before. -/

namespace Sys2Proof.Machine

/-! ### Records that are published -/

/-- A step but for the outputs that have their record. -/
def unpublished (st : StepRec) : StepRec := { st with published := [] }

/-- s came from a by no more of the steps than outputs that got their record, and no safe state entered or left. -/
structure Publishes (a s : State) : Prop where
  step : ∀ p, (s.part p).step.map unpublished = (a.part p).step.map unpublished
  safe : ∀ p, (s.part p).safe = (a.part p).safe

theorem PartsKept.publishes {a s : State} (h : PartsKept a s) : Publishes a s :=
  ⟨fun p => by rw [h.step], fun p => by obtain ⟨l, m, hp⟩ := h.part p; rw [hp]⟩

theorem Publishes.refl (s : State) : Publishes s s := ⟨fun _ => rfl, fun _ => rfl⟩

theorem Publishes.trans {a s u : State} (h : Publishes a s) (k : Publishes s u) : Publishes a u :=
  ⟨fun p => (k.step p).trans (h.step p), fun p => (k.safe p).trans (h.safe p)⟩

theorem Publishes.foldl {β : Type} {f : State → β → State} (hf : ∀ s b, Publishes s (f s b)) (l : List β) (s : State) : Publishes s (l.foldl f s) := by
  induction l generalizing s with
  | nil => exact .refl s
  | cons b l ih => exact (hf s b).trans (ih _)

theorem State.modPart_publishes (s : State) (p : Nat) {f : PartSt → PartSt}
    (hf : ∀ x, (f x).step.map unpublished = x.step.map unpublished ∧ (f x).safe = x.safe) : Publishes s (s.modPart p f) := by
  refine ⟨fun i => ?_, fun i => ?_⟩
  · obtain h | h := s.modPart_part p i f
    · rw [h, (hf _).1]
    · rw [h]
  · obtain h | h := s.modPart_part p i f
    · rw [h, (hf _).2]
    · rw [h]

theorem State.modStep_publishes (s : State) (p : Nat) {f : StepRec → StepRec} (hf : ∀ st, unpublished (f st) = unpublished st) :
    Publishes s (s.modStep p f) :=
  s.modPart_publishes p fun x => ⟨by rw [Option.map_map, show unpublished ∘ f = unpublished from funext hf], rfl⟩

theorem publishFor_publishes (s : State) (p : Nat) (d : SieveDesc) (validity : Nat) (shed integrity : Bool) (res : Option SieveResult)
    (q : Option Nat) : Publishes s (publishFor s p d validity shed integrity res q).1 := by
  unfold publishFor
  extract_lets x header batch entries valid r c hostRd
  split
  · split
    · exact .refl s
    next ring _ =>
    extract_lets bytes slots s1 place lost
    have hstore : PartsKept s (partStore s1 p place bytes) :=
      (((touchRange_pagesOnly ..).trans (touchRange_pagesOnly ..)).trans (partStore_pagesOnly ..)).partsKept
    split
    next s2 bad h2 =>
    have hsent : PartsKept (partStore s1 p place bytes) s2 := by
      have h := sendWritten_partsKept (partStore s1 p place bytes) p q ((List.range bytes.length).map (place + ·))
      rwa [h2] at h
    extract_lets s3 s4 s5 s6 s7
    have h3 : Frame [.fresh, .regs, .log] s2 s3 := State.bump_frame (.refl _ _) (by decide)
    have h4 : Frame [.fresh, .regs, .log] s2 s4 := frame_ite (State.logLimited_frame (State.bump_frame h3 (by decide)) (by decide)) h3
    have h5 : Frame [.fresh, .regs, .log] s2 s5 := frame_ite (State.logLimited_frame (State.bump_frame h4 (by decide)) (by decide)) h4
    have h6 : Frame [.fresh, .regs, .log] s2 s6 := frame_ite (State.bump_frame h5 (by decide)) h5
    have h7 : Publishes s6 s7 := s6.modPart_publishes p fun _ => ⟨rfl, rfl⟩
    have hcounted : Publishes s s6 := ((hstore.trans hsent).trans (.of_frame h6 (by decide))).publishes
    exact (hcounted.trans h7).trans (s7.modStep_publishes p fun _ => rfl)
  · exact .refl s

theorem publishMissing_publishes (s : State) (p validity : Nat) : Publishes s (publishMissing s p validity) := by
  refine .foldl (fun s d => ?_) _ s
  split
  · split
    · exact .refl s
    · exact publishFor_publishes ..
  · exact .refl s

/-! ### Declarations (R343, R344) -/

/-- A step n as it is declared: the strike recorded, its items aborted, the declaration counted and logged. -/
def declaredState (s : State) (p n : Nat) : State :=
  ((abortStep ((claimStrike s p).modStep p (fun st => { st with declared := true, fail := none })) p).bump pgSafe 0x078 1).logEntry 0x6106 p 0xFF n

theorem declareInvalid_of_not_declared {s : State} {p : Nat} {st : StepRec} (hst : (s.part p).step = some st) (hd : st.declared = false) (code : Nat) :
    declareInvalid s p code = publishMissing (enterSafe (declaredState s p st.n) p code) p 3 := by
  unfold declareInvalid
  rw [hst]
  exact if_neg (by simp [hd])

/-- The strike that a declaration records ends no step: the step is there, declared and without its failure. -/
theorem declaredState_step {s : State} {p : Nat} (hst : (s.part p).step.isSome = true) (n : Nat) :
    ∃ st, ((declaredState s p n).part p).step = some st ∧ st.declared = true ∧ st.fail = none := by
  obtain ⟨st, hclaimed⟩ := Option.isSome_iff_exists.1 ((claimStrike_stepsStay s p).step p hst)
  refine ⟨{ st with declared := true, fail := none }, ?_, rfl, rfl⟩
  rw [declaredState, State.part, State.logEntry_plans, State.bump_plans, ← State.part, (abortStep_cutsWork _ p).step, State.modStep_part_self, hclaimed]
  rfl

/-- A step that is not declared yet is, and a safety-relevant partition is in the safe state, whatever the strike that is owed comes to. -/
theorem declareInvalid_isDeclared {s : State} {p : Nat} {st : StepRec} (hst : (s.part p).step = some st) (hd : st.declared = false) (code : Nat) :
    IsDeclared (declareInvalid s p code) p := by
  rw [declareInvalid_of_not_declared hst hd]
  obtain ⟨st1, hst1, hdeclared, hfail⟩ := declaredState_step (Option.isSome_iff_exists.2 ⟨st, hst⟩) st.n
  set z := declaredState s p st.n
  have hpub : Publishes (enterSafe z p code) (publishMissing (enterSafe z p code) p 3) := publishMissing_publishes ..
  have hF : Frame [.out, .fresh, .mem, .regs, .plans, .press, .log, .net] (enterSafe z p code) (publishMissing (enterSafe z p code) p 3) :=
    publishMissing_frame (.refl _ _) (List.Subset.refl _)
  refine ⟨?_, fun hsafety => ?_⟩
  · have hstep := hpub.step p
    rw [enterSafe_step, hst1] at hstep
    obtain ⟨st2, hst2, heq⟩ := Option.map_eq_some_iff.1 hstep
    have hd2 : (unpublished st2).declared = (unpublished st1).declared := by rw [heq]
    have hf2 : (unpublished st2).fail = (unpublished st1).fail := by rw [heq]
    exact ⟨st2, hst2, hd2.trans hdeclared, hf2.trans hfail⟩
  · rw [State.isSafety, State.partReg, hF.inForce (by decide), ← State.partReg, ← State.isSafety, enterSafe_isSafety] at hsafety
    rw [hpub.safe]
    exact enterSafe_isSome hsafety code

/-! ### The strike and the decision (R339) -/

section
variable {s : State} {p : Nat} {st : StepRec} {f : Failure} (hst : (s.part p).step = some st) (hf : st.fail = some f)
include hst hf

theorem claimStrike_of_no_unit (h : f.unit = none) : claimStrike s p = s := by
  simp [claimStrike, hst, hf, h]

/-- While SP runs, the strike that the failure owes is recorded at once, and only once. -/
theorem claimStrike_of_unit {w : UnitId} (hup : (s.proc 1).st = .run) (h : f.unit = some w) :
    claimStrike s p = strike (s.modStep p (fun st => { st with fail := some { f with unit := none } })) w := by
  simp only [claimStrike, hst, hf, h]
  exact if_pos (beq_iff_eq.2 hup)

/-- SP's decision after the strike: the step is declared invalid where it may not be replayed, or has no time to be. -/
theorem decisionOp_of_failed (hup : (s.proc 1).st = .run) {y : State} (hy : y = claimStrike s p) : decisionOp s p =
    if f.replayable = false ∨ sysBound y p = true ∨ st.replay = true ∨ (y.part p).st = .suspended ∨ deadlineOf y p st < f.td + replayMin y p
    then declareInvalid y p f.code else replayStep y p := by
  subst hy
  have hsp : spUp s = true := beq_iff_eq.2 hup
  unfold decisionOp
  rw [hst]
  dsimp only
  rw [hf]
  dsimp only
  rw [if_neg (by simp [hsp])]
  by_cases hno : f.replayable = false ∨ sysBound (claimStrike s p) p = true ∨ st.replay = true ∨ ((claimStrike s p).part p).st = .suspended
  · rw [if_pos (by simpa [or_assoc] using hno), if_pos (by tauto)]
  · rw [if_neg (by simpa [or_assoc] using hno)]
    exact if_congr (by tauto) rfl rfl

/-- Without a decision the failure is counted and logged, and the backstop declares it. -/
theorem backstopOp_isDeclared (hd : st.declared = false) (hlate : f.td + 1500000 ≤ s.clk.dev) : IsDeclared (backstopOp s p) p := by
  unfold backstopOp
  rw [hst]
  dsimp only
  rw [hf]
  dsimp only
  rw [if_neg (Nat.not_lt.2 hlate)]
  refine declareInvalid_isDeclared ?_ hd _
  rw [← hst]
  simp [State.part]

end

/-! ### Strikes that age out (R339) -/

theorem strikeExpiryOp_core (s : State) (n : Fin 40) :
    ((strikeExpiryOp s (.core n)).core (unitOf s n.val)).strikes = recent s (s.core (unitOf s n.val)).strikes := by
  simp [strikeExpiryOp]

theorem strikeExpiryOp_engine (s : State) (q : Fin 4) :
    ((strikeExpiryOp s (.engine q)).engine q.val).strikes = recent s (s.engine q.val).strikes := by
  simp [strikeExpiryOp]

/-- Settles O55: after the strike the failure, the partition and the deadline decide between declaration and replay; the backstop declares. -/
theorem failuresAreDecided : Obligations.FailuresAreDecided := by
  refine ⟨fun t p s y st f hup hst hf hy => ?_, fun t p s st f hst hf hd hlate => ?_, fun t s => ⟨fun n => ?_, fun q => ?_⟩⟩
  · have hop := decisionOp_of_failed (s := atTime t s) hst hf hup hy
    refine ⟨fun hn => hy.trans (claimStrike_of_no_unit (s := atTime t s) hst hf hn),
      fun w hw => hy.trans (claimStrike_of_unit (s := atTime t s) hst hf hup hw),
      fun hno => ⟨congrArg Host.Outcome.next (hop.trans (if_pos hno)), fun hn hd => ?_⟩,
      fun hr hb hrep hs hdl => congrArg Host.Outcome.next (hop.trans (if_neg ?_))⟩
    · rw [hy, claimStrike_of_no_unit (s := atTime t s) hst hf hn]
      exact declareInvalid_isDeclared (s := atTime t s) hst hd _
    · simp [hr, hb, hrep, hs, hdl]
  · exact ⟨_, rfl, backstopOp_isDeclared (s := atTime t s) hst hf hd hlate⟩
  · exact ⟨_, rfl, strikeExpiryOp_core (atTime t s) n⟩
  · exact ⟨_, rfl, strikeExpiryOp_engine (atTime t s) q⟩

end Sys2Proof.Machine
end

section
/-! The Sieve before the proof tiles have passed (R336): neither the start nor the completion of its work item gives an output its record. -/

namespace Sys2Proof.Machine

/-! ### No record -/

/-- What a step says of its records and its proof tiles: the outputs that have theirs, and the units whose tile is awaited. -/
def recordsOf (st : StepRec) : List (Nat × Bool) × List Nat := (st.published, st.proofs)

/-- s came from a without a record published, a number of the ring taken or a proof tile passed. -/
structure NoRecord (a s : State) : Prop where
  step : ∀ p, (s.part p).step.map recordsOf = (a.part p).step.map recordsOf
  wrSeq : ∀ p, (s.part p).wrSeq = (a.part p).wrSeq

theorem PartsKept.noRecord {a s : State} (h : PartsKept a s) : NoRecord a s := ⟨fun p => by rw [h.step], h.wrSeq⟩

theorem NoRecord.refl (s : State) : NoRecord s s := ⟨fun _ => rfl, fun _ => rfl⟩

theorem NoRecord.trans {a s u : State} (h : NoRecord a s) (k : NoRecord s u) : NoRecord a u :=
  ⟨fun p => (k.step p).trans (h.step p), fun p => (k.wrSeq p).trans (h.wrSeq p)⟩

theorem NoRecord.of_frame {W : List Field} {a s : State} (h : Frame W a s) (hp : .plans ∉ W) : NoRecord a s := (PartsKept.of_frame h hp).noRecord

/-- The step in progress is then one with the same records and the same proof tiles awaited. -/
theorem NoRecord.step_of_step {a s : State} (h : NoRecord a s) {p : Nat} {st : StepRec} (hst : (a.part p).step = some st) :
    ∃ st', (s.part p).step = some st' ∧ st'.published = st.published ∧ st'.proofs = st.proofs := by
  have hstep := h.step p
  rw [hst] at hstep
  obtain ⟨st', hst', heq⟩ := Option.map_eq_some_iff.1 hstep
  exact ⟨st', hst', (Prod.mk.inj heq).1, (Prod.mk.inj heq).2⟩

theorem State.modStep_noRecord (s : State) (p : Nat) {f : StepRec → StepRec} (hf : ∀ st, recordsOf (f st) = recordsOf st) :
    NoRecord s (s.modStep p f) := by
  refine ⟨fun i => ?_, fun i => ?_⟩
  · obtain h | h := s.modPart_part p i (fun x => { x with step := x.step.map f })
    · rw [State.modStep, h, Option.map_map, show recordsOf ∘ f = recordsOf from funext hf]
    · rw [State.modStep, h]
  · obtain h | h := s.modPart_part p i (fun x => { x with step := x.step.map f })
    · rw [State.modStep, h]
    · rw [State.modStep, h]

/-- A failure that blames no unit publishes nothing. -/
theorem failStep_noRecord (s : State) (p code : Nat) (r : Bool) : NoRecord s (failStep s p code r none) := by
  unfold failStep
  dsimp only
  split
  · exact .refl s
  split
  · have hfail : NoRecord s (s.modStep p (fun st => { st with fail := some ⟨s.clk.dev, code, r, none⟩ })) := s.modStep_noRecord p fun _ => rfl
    exact hfail.trans (abortStep_partsKept _ p).noRecord
  · exact .refl s

/-- Nor does an item that is refused for its CRC (R328). -/
theorem crcRefuse_noRecord (s : State) (q : Nat) (x : QItem) : NoRecord s (crcRefuse s q x) := by
  unfold crcRefuse
  extract_lets s1 s2
  have h1 : NoRecord s s1 := (setQueue_partsKept s q _).noRecord.trans (State.modStep_noRecord _ x.part fun _ => rfl)
  have h2 : NoRecord s1 s2 := (dropPrefetch_pagesOnly s1 x.part x.id).partsKept.noRecord
  have h3 : NoRecord s2 ((s2.bump pgSt 0x0D8 1).logEntry 0x610E x.part (queueUnit q) (stepNumber (s2.part x.part))) :=
    .of_frame (State.logEntry_frame (State.bump_frame (.refl [.fresh, .regs, .log] s2) (by decide)) (List.Subset.refl _)) (by decide)
  exact ((h1.trans h2).trans h3).trans ((failStep_noRecord ..).trans (settleUnits_partsKept _).noRecord)

/-! ### The start -/

theorem provedStep_of_awaited {s : State} {p : Nat} {st : StepRec} (hst : (s.part p).step = some st) (hp : st.proofs ≠ []) :
    provedStep s p = false := by
  rw [provedStep, hst]
  simpa using hp

/-- A Sieve item that starts before the proof tiles have passed touches its pages and is under way, even where its check of R260 fails. -/
theorem startSieve_partsKept {s : State} {q : Nat} {x : QItem} {st : StepRec} (hst : (s.part x.part).step = some st) (hp : st.proofs ≠ []) :
    PartsKept s (startSieve s q x) := by
  unfold startSieve
  split
  · exact .refl s
  next d _ =>
  split
  next r o _ =>
  extract_lets pages s1 src run s2
  have h1 : PartsKept s s1 := (touchPages_pagesOnly ..).partsKept
  have h2 : PartsKept s s2 := h1.trans (.of_part fun _ => rfl)
  split
  · rw [if_neg (by simp [provedStep_of_awaited ((h2.step _).trans hst) hp])]
    exact h2
  · exact h2

/-- The start of a Sieve item before the proof tiles have passed: at most its refusal, or the item under way. -/
theorem startOp_noRecord {s : State} {q : Nat} {x : QItem} {rest : List QItem} {st : StepRec} (hsieve : ¬ q < 128) (hq : s.queue q = x :: rest)
    (hst : (s.part x.part).step = some st) (hp : st.proofs ≠ []) : NoRecord s (startOp s q) := by
  have hcore : ¬ q < 40 := by omega
  unfold startOp
  rw [hq]
  dsimp only
  split
  · split
    · exact crcRefuse_noRecord ..
    · have h1 : PartsKept s (s.setQueue q rest) := setQueue_partsKept ..
      exact (h1.trans (startSieve_partsKept ((h1.step _).trans hst) hp)).trans (sendWaits_partsKept ..) |>.noRecord
  · exact .refl s

/-! ### The completion -/

/-- The deadline is the step's, in a state with the same settings and clocks. -/
theorem pastDeadline_of_frame {W : List Field} {a s : State} (h : Frame W a s) (hs : .settings ∉ W) (hc : .clk ∉ W) {p : Nat}
    (hst : (s.part p).step = (a.part p).step) : pastDeadline s p = pastDeadline a p := by
  have hclk : s.clk = a.clk := h.same .clk hc
  unfold pastDeadline deadlineOf State.budgetNs State.partReg
  rw [hst, hclk, h.inForce hs]

/-- A failed check of R260 that is reported at or after the deadline publishes no record: the step has failed. -/
theorem sieveFault_late_noRecord {s : State} {q : Nat} {r : Running} {d : SieveDesc} {res : SieveResult} (hpast : pastDeadline s r.item.part = true) :
    NoRecord s (sieveFault s q r d res) := by
  unfold sieveFault
  extract_lets p s1 known s2 s3
  have hF1 : Frame [.plans] s s1 := dropPrefetch_frame (State.setRun_frame (.refl _ s) (List.Subset.refl _)) (List.Subset.refl _)
  have h1 : PartsKept s s1 := (PartsKept.of_part fun _ => rfl : PartsKept s (s.setRun q none)).trans (dropPrefetch_pagesOnly ..).partsKept
  have hpast1 : pastDeadline s1 p = true := (pastDeadline_of_frame hF1 (by decide) (by decide) (h1.step p)).trans hpast
  have h2 : s2 = s1.bump pgSieve 0x050 1 := if_pos (by simp [hpast1])
  have hF3 : Frame [.fresh, .regs, .log] s1 s3 := by
    unfold s3
    rw [h2]
    exact sieveCounts_frame (State.bump_frame (.refl _ s1) (by decide)) (List.Subset.refl _)
  have h3 : PartsKept s1 s3 := .of_frame hF3 (by decide)
  have hpast3 : pastDeadline s3 p = true := (pastDeadline_of_frame hF3 (by decide) (by decide) (h3.step p)).trans hpast1
  rw [if_neg (by simp [hpast3])]
  have hlost : NoRecord s3 (s3.modStep p (fun st => { st with lost := true })) := s3.modStep_noRecord p fun _ => rfl
  exact (h1.trans h3).noRecord.trans (hlost.trans (failStep_noRecord ..))

theorem checkEnd_of_awaited {s : State} {p : Nat} {st : StepRec} (hst : (s.part p).step = some st) (hp : st.proofs ≠ []) : checkEnd s p = s := by
  unfold checkEnd
  rw [hst]
  exact if_neg (by simp [hp])

/-- An item is retired before the proof tiles have passed: its adds are made, and the step is not over. -/
theorem retireItem_of_awaited {s : State} {r : Running} {st : StepRec} (hst : (s.part r.item.part).step = some st) (hp : st.proofs ≠ []) :
    PartsKept s (retireItem s r) ∧ (retireItem s r).mem = s.mem := by
  set p := r.item.part with hpart
  set z := allQueues.foldl (fun s q => if (s.queue q).any (fun x => x.part == p) then sendWaits s q else s)
    (tallyAdds (dropPrefetch s p r.item.id) p r.item.item.adds) with hz
  have hkept : PartsKept s z := by
    refine ((dropPrefetch_pagesOnly s p r.item.id).partsKept.trans (tallyAdds_partsKept ..)).trans (.foldl (fun s q => ?_) _ _)
    split
    · exact sendWaits_partsKept ..
    · exact .refl s
  have hF : Frame [.out, .fresh, .regs, .plans, .log, .net] s z :=
    frame_foldl _ (tallyAdds_frame (dropPrefetch_frame (.refl _ s) (by decide)) (List.Subset.refl _)) fun _ _ h =>
      frame_ite (sendWaits_frame h (List.Subset.refl _)) h
  have hretire : retireItem s r = settleUnits z := by
    unfold retireItem
    dsimp only
    rw [← hpart, ← hz, checkEnd_of_awaited ((hkept.step p).trans hst) hp]
  rw [hretire]
  refine ⟨hkept.trans (settleUnits_partsKept z), ?_⟩
  exact ((settleUnits_frame (.refl [.fresh, .regs, .units] z) (List.Subset.refl _)).same .mem (by decide)).trans (hF.same .mem (by decide))

/-- What the completion of a Sieve item can come to before the proof tiles have passed: nothing; a failed check that is reported at the deadline; a
result that is discarded at the deadline; or the end of an item whose record had landed. -/
theorem completeOp_sieve_awaited {s : State} {q : Nat} {r : Running} {st : StepRec} (hr : s.run q = some r) (hq : ¬ q < 128) (hp : r.item.proof = false)
    (hst : (s.part r.item.part).step = some st) (hproofs : st.proofs ≠ []) :
    completeOp s q = s ∨
    (∃ d res, r.result = some res ∧ res.integrity = true ∧ pastDeadline s r.item.part = true ∧ completeOp s q = sieveFault s q r d res) ∨
    (∃ res, res.integrity = false ∧ completeOp s q =
      ((sieveCounts (dropPrefetch (s.setRun q none) r.item.part r.item.id) r.item.part res).bump pgSieve 0x050 1).modStep r.item.part
        (fun st => { st with lost := true })) ∨
    completeOp s q = retireItem (s.setRun q none) r := by
  cases he : r.err with
  | some e => exact .inl (by simp [completeOp, hr, hp, he])
  | none =>
    cases hpast : pastDeadline s r.item.part with
    | false =>
      cases hl : r.landed with
      | false =>
        left
        simp only [completeOp, hr, hp, he, hst, hpast, hl, hq, if_false, Option.isSome_none, Bool.false_eq_true]
        split
        · exact if_neg (by simpa using hproofs)
        · rfl
      | true =>
        rw [completeOp_sieve_landed hr hq hp he hst hl hpast]
        split
        · exact .inl rfl
        · exact .inr (.inr (.inr rfl))
    | true =>
      cases hl : r.landed with
      | true => exact .inl (by simp [completeOp, hr, hp, he, hst, hpast, hl])
      | false =>
        simp only [completeOp, hr, hp, he, hst, hpast, hl, hq, if_false, if_true, Option.isSome_none, Bool.false_eq_true, decide_false, Bool.or_self]
        split
        · next d res _ hres =>
          cases hi : res.integrity with
          | true => exact .inr (.inl ⟨d, res, hres, hi, trivial, if_pos rfl⟩)
          | false => exact .inr (.inr (.inl ⟨res, hi, if_neg (by simp)⟩))
        · exact .inl rfl

/-- The completion of a Sieve item before the proof tiles have passed publishes no record, and leaves memory unless a failed check ends the step. -/
theorem completeOp_sieve_noRecord {s : State} {q : Nat} {r : Running} {st : StepRec} (hr : s.run q = some r) (hq : ¬ q < 128)
    (hp : r.item.proof = false) (hst : (s.part r.item.part).step = some st) (hproofs : st.proofs ≠ []) :
    NoRecord s (completeOp s q) ∧ ((∀ res, r.result = some res → res.integrity = false) → (completeOp s q).mem = s.mem) := by
  have hrun : PartsKept s (s.setRun q none) := .of_part fun _ => rfl
  obtain h | ⟨d, res, hres, hi, hpast, h⟩ | ⟨res, hi, h⟩ | h := completeOp_sieve_awaited hr hq hp hst hproofs
  · rw [h]
    exact ⟨.refl s, fun _ => rfl⟩
  · rw [h]
    exact ⟨sieveFault_late_noRecord hpast, fun hall => absurd (hi.symm.trans (hall res hres)) nofun⟩
  · obtain ⟨-, hmem, -, -⟩ := discarded_sieve hi q r.item.id h.symm
    refine ⟨?_, fun _ => hmem⟩
    rw [h]
    have hcounted : PartsKept s ((sieveCounts (dropPrefetch (s.setRun q none) r.item.part r.item.id) r.item.part res).bump pgSieve 0x050 1) :=
      (hrun.trans (dropPrefetch_pagesOnly ..).partsKept).trans (.of_frame (State.bump_frame
        (sieveCounts_frame (.refl [.fresh, .regs, .log] _) (List.Subset.refl _)) (by decide)) (by decide))
    exact hcounted.noRecord.trans (State.modStep_noRecord _ _ fun _ => rfl)
  · obtain ⟨hkept, hmem⟩ := retireItem_of_awaited (s := s.setRun q none) hst hproofs
    rw [h]
    exact ⟨(hrun.trans hkept).noRecord, fun _ => hmem⟩

/-- Settles O41: at the start and at the completion no record is published, so that the step keeps what it says of its records. -/
theorem sieveWaitsForProofs : Obligations.SieveWaitsForProofs := by
  have hsieve (q : Fin 8) : ¬ qSieve q.val < 128 := by simp [qSieve]
  refine ⟨fun t q s x rest st hq _ hst hproofs => ?_, fun t q s r st hr hp hst hproofs => ?_⟩
  · have hno := startOp_noRecord (s := atTime t s) (hsieve q) hq hst hproofs
    obtain ⟨st', hst', hpub, -⟩ := hno.step_of_step hst
    exact ⟨_, st', rfl, hst', hpub, hno.wrSeq _⟩
  · obtain ⟨hno, hmem⟩ := completeOp_sieve_noRecord (s := atTime t s) hr (hsieve q) hp hst hproofs
    obtain ⟨st', hst', hpub, hawaited⟩ := hno.step_of_step hst
    exact ⟨_, st', rfl, hst', hpub, hawaited, hno.wrSeq _, hmem⟩

end Sys2Proof.Machine
end

section
/-! What a core keeps of its tests, strikes and fences (R339, R374–R376, R382) whatever becomes of the work on its unit. -/

namespace Sys2Proof.Machine

/-! ### The cores of a unit -/

theorem unitCores_nodup (s : State) (u : Nat) : (unitCores s u).Nodup := by
  unfold unitCores
  split
  · simp
  · exact List.nodup_singleton u

/-- A pass that gives each core of a list a new value from its old one. -/
theorem foldl_setCore_eq (f : CoreSt → CoreSt) {l : List Nat} (hl : l.Nodup) (s : State) (k : Nat) :
    (l.foldl (fun s n => s.setCore n (f (s.core n))) s).core k = if k ∈ l then f (s.core k) else s.core k := by
  induction l generalizing s with
  | nil => rfl
  | cons n l ih =>
    obtain ⟨hn, hl⟩ := List.nodup_cons.1 hl
    rw [List.foldl_cons, ih hl]
    obtain rfl | hk := eq_or_ne k n
    · rw [if_neg hn, if_pos List.mem_cons_self, State.setCore_core_self]
    · rw [State.setCore_core_ne _ _ hk]
      exact if_congr (by simp [hk]) rfl rfl

theorem modUnit_core (s : State) (u : Nat) (f : CoreSt → CoreSt) (k : Nat) :
    (modUnit s u f).core k = if k ∈ unitCores s u then f (s.core k) else s.core k :=
  foldl_setCore_eq f (unitCores_nodup s u) s k

/-- Which cores are one unit is told by the pairs' modes. -/
theorem unitOf_congr {a s : State} (h : ∀ i, (s.pair i).safe = (a.pair i).safe) (n : Nat) : unitOf s n = unitOf a n := by
  rw [unitOf, h, unitOf]

theorem unitCores_congr {a s : State} (h : ∀ i, (s.pair i).safe = (a.pair i).safe) (u : Nat) : unitCores s u = unitCores a u := by
  rw [unitCores, h, unitCores]

theorem Retunes.mode {a s : State} (h : Retunes a s) (i : Nat) : (s.pair i).safe = (a.pair i).safe := by
  obtain ⟨f, hf⟩ := h.pair i
  rw [hf]

/-! ### A core's tests -/

/-- What a core keeps of its self-test, with its strikes and its fence. -/
structure CoreTests where
  fenced : Bool
  overdue : Bool
  suspect : Bool
  testing : Bool
  strikes : List Nat
  progress : Nat
  covAge : Nat
  suspectAt : Nat

def CoreSt.tests (c : CoreSt) : CoreTests :=
  ⟨c.fenced, c.overdue, c.suspect, c.testing, c.strikes, c.progress, c.covAge, c.suspectAt⟩

/-- s came from a without a change of any core's tests, or of an engine. -/
structure TestsStay (a s : State) : Prop where
  tests : ∀ n, (s.core n).tests = (a.core n).tests
  engine : ∀ q, s.engine q = a.engine q

theorem TestsStay.of_units {a s : State} (h : s.units = a.units) : TestsStay a s :=
  ⟨fun n => by rw [State.core, h, State.core], fun q => by rw [State.engine, h, State.engine]⟩

theorem TestsStay.of_frame {W : List Field} {a s : State} (h : Frame W a s) (hw : .units ∉ W) : TestsStay a s := .of_units (h.same .units hw)

theorem TestsStay.refl (s : State) : TestsStay s s := .of_units rfl

theorem TestsStay.trans {a s u : State} (h : TestsStay a s) (k : TestsStay s u) : TestsStay a u :=
  ⟨fun n => (k.tests n).trans (h.tests n), fun q => (k.engine q).trans (h.engine q)⟩

theorem TestsStay.tick {a s : State} (h : TestsStay a s) : TestsStay a s.tick := ⟨h.tests, h.engine⟩

theorem TestsStay.foldl {β : Type} {f : State → β → State} (hf : ∀ s b, TestsStay s (f s b)) (l : List β) (s : State) : TestsStay s (l.foldl f s) := by
  induction l generalizing s with
  | nil => exact .refl s
  | cons b l ih => exact (hf s b).trans (ih _)

section
variable {a s : State} (h : TestsStay a s) (n : Nat)
include h

theorem TestsStay.fenced : (s.core n).fenced = (a.core n).fenced := congrArg CoreTests.fenced (h.tests n)
theorem TestsStay.overdue : (s.core n).overdue = (a.core n).overdue := congrArg CoreTests.overdue (h.tests n)
theorem TestsStay.testing : (s.core n).testing = (a.core n).testing := congrArg CoreTests.testing (h.tests n)

end

/-! ### Work on a unit begins and ends (R22–R25, R84, R85) -/

theorem modUnit_testsStay (s : State) (u : Nat) {f : CoreSt → CoreSt} (hf : ∀ c, (f c).tests = c.tests) : TestsStay s (modUnit s u f) := by
  refine ⟨fun n => ?_, fun q => ?_⟩
  · rw [modUnit_core]
    split
    · exact hf _
    · rfl
  · exact (TestsStay.foldl (f := fun s n => s.setCore n (f (s.core n)))
      (fun s n => ⟨fun k => by
        obtain rfl | hk := eq_or_ne k n
        · rw [State.setCore_core_self, hf]
        · rw [State.setCore_core_ne _ _ hk], fun _ => rfl⟩) (unitCores s u) s).engine q

theorem account_testsStay (s : State) (u : Nat) : TestsStay s (account s u) := by
  unfold account
  extract_lets c
  split
  · exact .refl s
  split
  next n m _ =>
  split
  next l t ht =>
  have htaken : Frame [.fresh, .regs] s t := by
    split at ht
    · split at ht
      · exact freeUpTo_frame' ht (.refl _ s) (by decide)
      · exact (Prod.mk.inj ht).2 ▸ .refl _ s
    · split at ht
      · exact freeUpTo_frame' ht (.refl _ s) (by decide)
      · exact (Prod.mk.inj ht).2 ▸ .refl _ s
  have hcounted := frame_foldl (runCores t u) htaken (f := fun s k => bumpRow s (pgCore k) 0x058 (slotCounts l n))
    fun _ _ h => bumpRow_frame h (by decide)
  exact (TestsStay.of_frame hcounted (by decide)).trans (modUnit_testsStay _ u fun _ => rfl)

theorem lapse_testsStay (s : State) (u : Nat) : TestsStay s (lapse s u) := by
  unfold lapse
  split
  · exact (account_testsStay s u).trans (modUnit_testsStay _ u fun _ => rfl)
  · exact .refl s

theorem stopUnit_testsStay (s : State) (u : Nat) : TestsStay s (stopUnit s u) := by
  unfold stopUnit
  exact (account_testsStay s u).trans (modUnit_testsStay _ u fun _ => rfl)

theorem settleCore_testsStay (s : State) (u : Nat) : TestsStay s (settleCore s u) := by
  refine (lapse_testsStay s u).trans ?_
  unfold settleCore
  dsimp only
  split
  · exact stopUnit_testsStay ..
  · exact .refl _

theorem wakeUnit_testsStay (s : State) (u : Nat) : TestsStay s (wakeUnit s u) := by
  refine (lapse_testsStay s u).trans ?_
  unfold wakeUnit
  extract_lets s1 same s2 i _ s3
  split
  · exact modUnit_testsStay s1 u fun _ => rfl
  · have h2 : TestsStay s1 s2 := by
      unfold s2
      split
      · exact .refl s1
      · exact .of_frame (frame_foldl _ (.refl [.regs] s1) fun _ _ h => State.bump_frame h (by decide)) (by decide)
    have h3 : TestsStay s2 s3 := by
      unfold s3
      split
      · exact ⟨fun _ => rfl, fun _ => rfl⟩
      · exact .refl s2
    exact (h2.trans h3).trans (modUnit_testsStay s3 u fun _ => rfl)

theorem settleUnit_testsStay (s : State) (u : Nat) : TestsStay s (settleUnit s u) := by
  refine (lapse_testsStay s u).trans ?_
  unfold settleUnit
  dsimp only
  split
  · split
    · exact settleCore_testsStay ..
    · exact modUnit_testsStay _ u fun _ => rfl
  split
  · exact wakeUnit_testsStay ..
  · exact .refl _

theorem settleUnits_testsStay (s : State) : TestsStay s (settleUnits s) := by
  refine .foldl (fun s n => ?_) _ s
  split
  · exact settleUnit_testsStay s n
  · exact .refl s

theorem undefUnit_testsStay (s : State) (u : Nat) (active1 : Bool) : TestsStay s (undefUnit s u active1) := by
  unfold undefUnit
  exact .tick (modUnit_testsStay s u fun _ => rfl)

theorem abortUnit_testsStay (s : State) (q : Nat) : TestsStay s (abortUnit s q) := by
  unfold abortUnit
  split
  · exact .refl s
  next r _ =>
  extract_lets p s1 _ _ s2 put s3 _ _ s4 s5
  have h1 : TestsStay s s1 := by
    unfold s1
    split
    · exact account_testsStay s q
    split
    · exact .of_frame (accountEngine_frame (.refl [.fresh, .regs, .plans] s) (List.Subset.refl _)) (by decide)
    · exact .refl s
  have h2 : TestsStay s1 s2 := .of_frame (touchPages_frame (.refl [.fresh, .regs, .plans, .press] s1) (List.Subset.refl _)) (by decide)
  have h3 : TestsStay s2 s3 := by
    unfold s3
    split
    · exact .refl s2
    · have hw : Frame [.out, .fresh, .mem, .regs, .plans, .press, .log, .net] s2 (partWrites s2 p put).tick.tick :=
        State.tick_frame (State.tick_frame (partWrites_frame (.refl _ s2) (by decide)) (by decide)) (by decide)
      exact .of_frame (sendWritten_frame hw (List.Subset.refl _)) (by decide)
  have h5 : TestsStay s3 s5 := .of_units rfl
  refine ((h1.trans h2).trans (h3.trans h5)).trans ?_
  clear_value s5
  split
  · exact (undefUnit_testsStay ..).trans (settleCore_testsStay ..)
  split
  · exact .refl s5
  split
  · next res _ =>
    split
    · have hc : TestsStay s5 (sieveCounts s5 p res) := .of_frame (sieveCounts_frame (.refl [.fresh, .regs, .log] s5) (List.Subset.refl _)) (by decide)
      exact hc.trans (.of_units rfl)
    · exact .of_units (by simp [cutSieve])
  · exact .refl s5

theorem clearQueue_testsStay (p : Nat) (s : State) (q : Nat) : TestsStay s (clearQueue p s q) := by
  unfold clearQueue
  dsimp only
  split
  · exact .of_frame (frame_foldl _ (State.setQueue_frame (.refl [.plans] s) (List.Subset.refl _)) fun _ _ h =>
      dropPrefetch_frame h (List.Subset.refl _)) (by decide)
  · exact .refl s

theorem abortStep_testsStay (s : State) (p : Nat) : TestsStay s (abortStep s p) := by
  rw [abortStep_eq]
  have hrun : TestsStay s (abortRunning s p) := .foldl (fun _ _ => abortUnit_testsStay ..) _ s
  exact (hrun.trans (.foldl (clearQueue_testsStay p) allQueues _)).trans (settleUnits_testsStay _)

end Sys2Proof.Machine
end

section
/-! Latches (R343, R344, R369, R376, R382–R385): whatever is aborted, struck, fenced, moved or suspended, a fenced core or engine stays fenced, an OVERDUE core
OVERDUE, a partition in the safe state in it, and a pair in its mode. -/

namespace Sys2Proof.Machine

/-- s came from a without a latch released. -/
structure LatchesHold (a s : State) : Prop where
  fenced : ∀ n, (a.core n).fenced = true → (s.core n).fenced = true
  overdue : ∀ n, (a.core n).overdue = true → (s.core n).overdue = true
  engine : ∀ q, (a.engine q).fenced = true → (s.engine q).fenced = true
  mode : ∀ i, (s.pair i).safe = (a.pair i).safe
  safe : ∀ p, (a.part p).safe.isSome = true → (s.part p).safe.isSome = true
  shared : a.safety.shared = true → s.safety.shared = true

theorem LatchesHold.refl (s : State) : LatchesHold s s := ⟨fun _ => id, fun _ => id, fun _ => id, fun _ => rfl, fun _ => id, id⟩

theorem LatchesHold.trans {a s u : State} (h : LatchesHold a s) (k : LatchesHold s u) : LatchesHold a u :=
  ⟨fun n hn => k.fenced n (h.fenced n hn), fun n hn => k.overdue n (h.overdue n hn), fun q hq => k.engine q (h.engine q hq),
    fun i => (k.mode i).trans (h.mode i), fun p hp => k.safe p (h.safe p hp), fun hs => k.shared (h.shared hs)⟩

theorem LatchesHold.foldl {β : Type} {f : State → β → State} (hf : ∀ s b, LatchesHold s (f s b)) (l : List β) (s : State) :
    LatchesHold s (l.foldl f s) := by
  induction l generalizing s with
  | nil => exact .refl s
  | cons b l ih => exact (hf s b).trans (ih _)

/-- What leaves the tests, the modes and the safe states releases no latch. -/
theorem TestsStay.latchesHold {a s : State} (h : TestsStay a s) (hr : Retunes a s) (hp : ∀ p, (s.part p).safe = (a.part p).safe)
    (hs : s.safety = a.safety) : LatchesHold a s :=
  ⟨fun n => by rw [h.fenced]; exact id, fun n => by rw [h.overdue]; exact id, fun q => by rw [h.engine]; exact id, hr.mode,
    fun p => by rw [hp]; exact id, by rw [hs]; exact id⟩

/-- Nor does what leaves units, partitions and safety altogether. -/
theorem LatchesHold.of_same {a s : State} (hu : s.units = a.units) (hp : ∀ p, (s.part p).safe = (a.part p).safe) (hs : s.safety = a.safety) :
    LatchesHold a s :=
  (TestsStay.of_units hu).latchesHold (.of_pairs fun i => by rw [State.pair, hu, State.pair]) hp hs

theorem LatchesHold.of_frame {W : List Field} {a s : State} (h : Frame W a s) (hu : .units ∉ W) (hp : .plans ∉ W) (hs : .safety ∉ W) :
    LatchesHold a s :=
  .of_same (h.same .units hu) (fun p => by rw [State.part, h.same .plans hp, State.part]) (h.same .safety hs)

/-- What changes no more than units, counters and free values releases none where it leaves tests and modes. -/
theorem TestsStay.latchesHold_of_frame {W : List Field} {a s : State} (h : TestsStay a s) (hr : Retunes a s) (hF : Frame W a s) (hp : .plans ∉ W)
    (hs : .safety ∉ W) : LatchesHold a s :=
  h.latchesHold hr (fun p => by rw [State.part, hF.same .plans hp, State.part]) (hF.same .safety hs)

/-! ### Cores, engines and partitions that are changed -/

theorem setCore_latchesHold {s : State} {n : Nat} {c : CoreSt} (hf : (s.core n).fenced = true → c.fenced = true)
    (ho : (s.core n).overdue = true → c.overdue = true) : LatchesHold s (s.setCore n c) := by
  have hcore (k : Nat) : k = n ∧ (s.setCore n c).core k = c ∨ (s.setCore n c).core k = s.core k := by
    obtain rfl | hk := eq_or_ne k n
    · exact .inl ⟨rfl, State.setCore_core_self ..⟩
    · exact .inr (State.setCore_core_ne _ _ hk)
  refine ⟨fun k => ?_, fun k => ?_, fun _ => id, fun _ => rfl, fun _ => id, id⟩
  · obtain ⟨rfl, h⟩ | h := hcore k
    · rwa [h]
    · rw [h]
      exact id
  · obtain ⟨rfl, h⟩ | h := hcore k
    · rwa [h]
    · rw [h]
      exact id

theorem modUnit_latchesHold (s : State) (u : Nat) {f : CoreSt → CoreSt} (hf : ∀ c, (f c).fenced = c.fenced) (ho : ∀ c, (f c).overdue = c.overdue) :
    LatchesHold s (modUnit s u f) :=
  .foldl (f := fun s n => s.setCore n (f (s.core n))) (fun s n => setCore_latchesHold (by rw [hf]; exact id) (by rw [ho]; exact id)) _ s

theorem setEngine_latchesHold {s : State} {q : Nat} {e : EngineSt} (h : (s.engine q).fenced = true → e.fenced = true) :
    LatchesHold s (s.setEngine q e) := by
  refine ⟨fun _ => id, fun _ => id, fun k => ?_, fun _ => rfl, fun _ => id, id⟩
  obtain rfl | hk := eq_or_ne k q
  · rwa [State.setEngine_engine_self]
  · rw [State.setEngine_engine_ne _ _ hk]
    exact id

theorem setOwner_latchesHold (s : State) (i o : Nat) : LatchesHold s (s.setPair i { s.pair i with owner := o }) := by
  refine ⟨fun _ => id, fun _ => id, fun _ => id, fun k => ?_, fun _ => id, id⟩
  obtain rfl | hk := eq_or_ne k i
  · rw [State.setPair_pair_self]
  · rw [State.setPair_pair_ne _ _ hk]

theorem setPart_latchesHold {s : State} {p : Nat} {c : PartSt} (h : c.safe = (s.part p).safe) : LatchesHold s (s.setPart p c) := by
  refine .of_same rfl (fun k => ?_) rfl
  obtain rfl | hk := eq_or_ne k p
  · rwa [State.setPart_part_self]
  · rw [State.setPart_part_ne _ _ hk]

theorem modPart_latchesHold (s : State) (p : Nat) {f : PartSt → PartSt} (h : ∀ x, (f x).safe = x.safe) : LatchesHold s (s.modPart p f) :=
  setPart_latchesHold (h _)

theorem modStep_latchesHold (s : State) (p : Nat) (f : StepRec → StepRec) : LatchesHold s (s.modStep p f) := modPart_latchesHold s p fun _ => rfl

theorem setQueue_latchesHold (s : State) (q : Nat) (l : List QItem) : LatchesHold s (s.setQueue q l) := .of_same rfl (fun _ => rfl) rfl

/-! ### Aborts and the safe state -/

theorem enterSafe_latchesHold (s : State) (p code : Nat) : LatchesHold s (enterSafe s p code) := by
  have hF : Frame [.fresh, .regs, .plans, .log] s (enterSafe s p code) := enterSafe_frame (.refl _ s) (List.Subset.refl _)
  have h : LatchesHold { s with plans := (enterSafe s p code).plans } (enterSafe s p code) :=
    .of_same (hF.same .units (by decide)) (fun _ => rfl) (hF.same .safety (by decide))
  exact ⟨h.fenced, h.overdue, h.engine, h.mode, fun i hi => enterSafe_keeps_safe hi p code, h.shared⟩

theorem abortStep_latchesHold (s : State) (p : Nat) : LatchesHold s (abortStep s p) :=
  (abortStep_testsStay s p).latchesHold (abortStep_retunes s p) (abortStep_cutsWork s p).safe
    ((abortStep_frame (.refl [.out, .fresh, .mem, .regs, .units, .plans, .press, .log, .net] s) (List.Subset.refl _)).same .safety (by decide))

theorem abortItem_latchesHold (s : State) (q : Nat) : LatchesHold s (abortItem s q) := by
  unfold abortItem
  split
  · exact .refl s
  next r _ =>
  have hF : Frame [.out, .fresh, .mem, .regs, .units, .plans, .press, .log, .net] s (abortUnit s q) := abortUnit_frame (.refl _ s) (List.Subset.refl _)
  have hcut : LatchesHold s (abortUnit s q) :=
    (abortUnit_testsStay s q).latchesHold (abortUnit_retunes s q) (abortUnit_cutsWork s q).safe (hF.same .safety (by decide))
  exact hcut.trans (modStep_latchesHold _ r.item.part _)

theorem suspend_latchesHold (s : State) (p code : Nat) : LatchesHold s (suspend s p code) := by
  unfold suspend
  extract_lets s1 s2
  have h1 : LatchesHold s s1 := modPart_latchesHold s p fun _ => rfl
  have h2 : LatchesHold s1 s2 := (abortStep_latchesHold s1 p).trans (modStep_latchesHold _ p _)
  exact (h1.trans h2).trans (enterSafe_latchesHold s2 p code)

section
variable (s : State) (u : Nat)

theorem account_latchesHold : LatchesHold s (account s u) :=
  (account_testsStay s u).latchesHold_of_frame (account_retunes s u) (account_frame (.refl [.fresh, .regs, .units] s) (List.Subset.refl _))
    (by decide) (by decide)

theorem settleCore_latchesHold : LatchesHold s (settleCore s u) :=
  (settleCore_testsStay s u).latchesHold_of_frame (settleCore_retunes s u) (settleCore_frame (.refl [.fresh, .regs, .units] s) (List.Subset.refl _))
    (by decide) (by decide)

theorem wakeUnit_latchesHold : LatchesHold s (wakeUnit s u) :=
  (wakeUnit_testsStay s u).latchesHold_of_frame (wakeUnit_retunes s u) (wakeUnit_frame (.refl [.fresh, .regs, .units] s) (List.Subset.refl _))
    (by decide) (by decide)

theorem settleUnit_latchesHold : LatchesHold s (settleUnit s u) :=
  (settleUnit_testsStay s u).latchesHold_of_frame (settleUnit_retunes s u) (settleUnit_frame (.refl [.fresh, .regs, .units] s) (List.Subset.refl _))
    (by decide) (by decide)

theorem settleUnits_latchesHold : LatchesHold s (settleUnits s) :=
  (settleUnits_testsStay s).latchesHold_of_frame (settleUnits_retunes s) (settleUnits_frame (.refl [.fresh, .regs, .units] s) (List.Subset.refl _))
    (by decide) (by decide)

theorem undefUnit_latchesHold (active1 : Bool) : LatchesHold s (undefUnit s u active1) :=
  (undefUnit_testsStay s u active1).latchesHold_of_frame (undefUnit_retunes s u active1)
    (undefUnit_frame (.refl [.fresh, .units] s) (List.Subset.refl _)) (by decide) (by decide)

theorem endFiller_latchesHold : LatchesHold s (endFiller s u) := by
  unfold endFiller
  split
  · exact .refl s
  · exact ((account_latchesHold s u).trans (undefUnit_latchesHold ..)).trans (modUnit_latchesHold _ u (fun _ => rfl) fun _ => rfl)

end

/-! ### Moves (R294, R341, R373) -/

/-- A chunk that is aborted, for work or a fence, leaves what the core has latched: only its progress may begin anew. -/
theorem abortChunk_latchesHold (s : State) (u : Nat) : LatchesHold s (abortChunk s u) := by
  unfold abortChunk
  extract_lets ns s1 same woken s2 old s3 s4 src s5
  split
  · exact .refl s
  have h1 : LatchesHold s s1 := account_latchesHold s u
  have h2 : LatchesHold s1 s2 := by
    unfold s2
    split
    · have hF : Frame [.regs] s1 woken := frame_foldl _ (.refl _ s1) fun _ _ h => State.unbump_frame h (List.Subset.refl _)
      exact (LatchesHold.of_frame hF (by decide) (by decide) (by decide)).trans (modUnit_latchesHold _ u (fun _ => rfl) fun _ => rfl)
    split
    · exact .refl s1
    · exact (LatchesHold.of_frame (State.bump_frame (.refl [.regs] s1) (List.Subset.refl _)) (by decide) (by decide) (by decide)).trans
        (undefUnit_latchesHold ..)
  have h3 : LatchesHold s2 s3 := modUnit_latchesHold s2 u (fun _ => rfl) fun _ => rfl
  have h4 : LatchesHold s3 s4 := .foldl (fun s n => by
    split
    · exact setCore_latchesHold id id
    · exact .refl s) ns s3
  have h5 : LatchesHold s4 s5 := .of_same rfl (fun _ => rfl) rfl
  exact (((h1.trans h2).trans (h3.trans h4)).trans h5).trans (settleCore_latchesHold ..)

theorem takeUnit_latchesHold (s : State) (p u code : Nat) : LatchesHold s (takeUnit s p u code) := by
  unfold takeUnit
  extract_lets i o src s1 s2 x hit s3
  have h2 : LatchesHold s s2 := (setOwner_latchesHold s i p).trans (modPart_latchesHold s1 p fun _ => rfl)
  have h3 : LatchesHold s2 s3 := setPart_latchesHold rfl
  split
  · exact .refl s
  split
  · split
    · exact (h2.trans h3).trans (suspend_latchesHold ..)
    · exact h2.trans h3
  · exact h2

theorem placeCore_latchesHold (s : State) (p l u code : Nat) : LatchesHold s (placeCore s p l u code) := by
  unfold placeCore bindCore
  set s1 := takeUnit s p u code
  have h1 : LatchesHold s s1 := takeUnit_latchesHold ..
  set s2 := modUnit s1 u (fun c => { c with logical := l })
  have h2 : LatchesHold s1 s2 := modUnit_latchesHold s1 u (fun _ => rfl) fun _ => rfl
  set s3 := s2.modPart p (fun x => { x with bind := x.bind.set l (some u) })
  have h3 : LatchesHold s2 s3 := modPart_latchesHold s2 p fun _ => rfl
  have h4 : LatchesHold s3 (endFiller (abortChunk s3 u) u) := (abortChunk_latchesHold s3 u).trans (endFiller_latchesHold _ u)
  exact ((h1.trans h2).trans h3).trans (h4.trans (settleUnit_latchesHold _ u))

theorem rebuildSheets_latchesHold (s : State) (p l : Nat) : LatchesHold s (rebuildSheets s p l).1 := by
  have hF : Frame [.fresh, .mem, .regs, .plans, .press] s (rebuildSheets s p l).1 := rebuildSheets_frame (.refl _ s) (List.Subset.refl _)
  refine .of_same (hF.same .units (by decide)) (fun i => ?_) (hF.same .safety (by decide))
  obtain ⟨_, _, h⟩ := (rebuildSheets_partsKept s p l).part i
  rw [h]

theorem moveCore_latchesHold (s : State) (p l old code : Nat) : LatchesHold s (moveCore s p l old code) := by
  unfold moveCore
  extract_lets s1
  have h1 : LatchesHold s s1 := modUnit_latchesHold s old (fun _ => rfl) fun _ => rfl
  refine h1.trans ?_
  clear_value s1
  split
  · next s2 _ _ =>
    have h2 : LatchesHold s1 s2 := modPart_latchesHold s1 p fun _ => rfl
    split
    · exact h2.trans (suspend_latchesHold ..)
    · exact h2
  · next u _ =>
    extract_lets s2 q s3
    have h2 : LatchesHold s1 s2 := placeCore_latchesHold s1 p l u code
    have h3 : LatchesHold s2 s3 := (setQueue_latchesHold s2 _ _).trans (setQueue_latchesHold _ _ _)
    exact (h2.trans h3).trans ((rebuildSheets_latchesHold s3 p l).trans (settleUnits_latchesHold _))

/-! ### Fences and strikes (R339, R382–R385) -/

theorem powerOff_latchesHold (s : State) (ns : List Nat) : LatchesHold s (powerOff s ns) := by
  refine .foldl (fun s n => ?_) ns s
  have hwiped : LatchesHold s (s.wipe (sheetFrame n 0) (64 * 65536)) := .of_same rfl (fun _ => rfl) rfl
  exact hwiped.trans (setCore_latchesHold (fun _ => rfl) id)

/-- A core that has lost its power is fenced. -/
theorem powerOff_fenced (s : State) {ns : List Nat} {k : Nat} (h : k ∈ ns) : ((powerOff s ns).core k).fenced = true := by
  induction ns generalizing s with
  | nil => exact absurd h List.not_mem_nil
  | cons n ns ih =>
    obtain rfl | h := List.mem_cons.1 h
    · refine (powerOff_latchesHold _ ns).fenced k ?_
      rw [State.setCore_core_self]
    · exact ih _ h

theorem logEntry_latchesHold (s : State) (code p u n : Nat) : LatchesHold s (s.logEntry code p u n) :=
  .of_frame (State.logEntry_frame (.refl [.fresh, .regs, .log] s) (List.Subset.refl _)) (by decide) (by decide) (by decide)

theorem bump_latchesHold (s : State) (page off n : Nat) : LatchesHold s (s.bump page off n) :=
  .of_frame (State.bump_frame (.refl [.regs] s) (List.Subset.refl _)) (by decide) (by decide) (by decide)

theorem endRotation_latchesHold (s : State) : LatchesHold s (endRotation s) :=
  .of_frame (endRotation_frame (.refl [.regs, .selftest] s) (List.Subset.refl _)) (by decide) (by decide) (by decide)

/-- A fence of a core: everything on its unit is aborted before the power goes, and what comes after releases no latch. -/
theorem fenceCore_passes {s : State} {n : Nat} (hfused : s.coreFused n = false) (h : coreFenced s n = false) (cause : Nat) (faulty : Option Nat) :
    ∃ z, LatchesHold s z ∧ LatchesHold (powerOff z (unitCores s (unitOf s n))) (fenceCore s n cause faulty) := by
  unfold fenceCore
  rw [if_neg (by simp [hfused, h])]
  extract_lets u p s1 s2 o s3 src s4 x s5 s6
  have h1 : LatchesHold s s1 := ((abortItem_latchesHold s (qCore u)).trans (abortChunk_latchesHold _ u)).trans (endFiller_latchesHold _ u)
  have hs2 : s2 = powerOff (account s1 u) (unitCores s u) := congrArg (powerOff _) (unitCores_congr h1.mode u)
  refine ⟨account s1 u, h1.trans (account_latchesHold s1 u), ?_⟩
  rw [← hs2]
  have h3 : LatchesHold s2 s3 := by
    unfold s3
    split
    · exact .refl s2
    · exact (wakeUnit_latchesHold s2 o).trans (settleCore_latchesHold _ o)
  have h4 : LatchesHold s3 s4 := .of_frame (Frame.set_aon (.refl [.aon] s3) (by decide)) (by decide) (by decide) (by decide)
  have h5 : LatchesHold s4 s5 := (bump_latchesHold s4 ..).trans (logEntry_latchesHold ..)
  have h6 : LatchesHold s4 s6 := h5.trans (endRotation_latchesHold s5)
  refine ((h3.trans h4).trans h6).trans ?_
  clear_value s6
  split
  · split
    · exact moveCore_latchesHold ..
    · exact .refl s6
  · exact .refl s6

theorem fenceCore_latchesHold (s : State) (n cause : Nat) (faulty : Option Nat) : LatchesHold s (fenceCore s n cause faulty) := by
  by_cases h : s.coreFused n = false ∧ coreFenced s n = false
  · obtain ⟨z, hz, hu⟩ := fenceCore_passes h.1 h.2 cause faulty
    exact (hz.trans (powerOff_latchesHold ..)).trans hu
  · rw [fenceCore, if_pos (by simpa [or_iff_not_imp_left] using h)]
    exact .refl s

theorem fenceCore_fenced {s : State} {n : Nat} (hfused : s.coreFused n = false) (h : coreFenced s n = false) (cause : Nat) (faulty : Option Nat)
    {k : Nat} (hk : k ∈ unitCores s (unitOf s n)) : ((fenceCore s n cause faulty).core k).fenced = true := by
  obtain ⟨z, -, hu⟩ := fenceCore_passes hfused h cause faulty
  exact hu.fenced k (powerOff_fenced z hk)

theorem placeEngine_latchesHold (s : State) (p l e : Nat) : LatchesHold s (placeEngine s p l e) := by
  have howned : LatchesHold s (s.setEngine e { s.engine e with owner := p }) := setEngine_latchesHold id
  exact howned.trans (modPart_latchesHold (s.setEngine e { s.engine e with owner := p }) p fun _ => rfl)

/-- A fence of an engine: its item is aborted before, and what comes after releases no latch. -/
theorem fenceEngine_passes {s : State} {q : Nat} (h : (s.engine q).fenced = false) (cause : Nat) :
    ∃ z, LatchesHold s z ∧ LatchesHold (z.setEngine q { z.engine q with fenced := true }) (fenceEngine s q cause) := by
  unfold fenceEngine
  extract_lets e p s1 src s2 s3
  rw [if_neg (by simp [e, h])]
  refine ⟨s1, abortItem_latchesHold s (qSpec q), ?_⟩
  have h3 : LatchesHold s2 s3 := ((bump_latchesHold s2 ..).trans (logEntry_latchesHold ..)).trans (endRotation_latchesHold _)
  refine h3.trans ?_
  clear_value s3
  split
  · split
    · exact .refl s3
    · split
      · extract_lets s4
        have h4 : LatchesHold s3 s4 := modPart_latchesHold s3 p fun _ => rfl
        split
        · exact h4.trans (suspend_latchesHold ..)
        · exact h4
      · extract_lets s4 w
        exact (placeEngine_latchesHold ..).trans ((setQueue_latchesHold s4 _ _).trans (setQueue_latchesHold _ _ _))
  · exact .refl s3

theorem fenceEngine_latchesHold (s : State) (q cause : Nat) : LatchesHold s (fenceEngine s q cause) := by
  cases h : (s.engine q).fenced with
  | true =>
    rw [fenceEngine, if_pos (by exact h)]
    exact .refl s
  | false =>
    obtain ⟨z, hz, hu⟩ := fenceEngine_passes h cause
    exact (hz.trans (setEngine_latchesHold fun _ => rfl)).trans hu

theorem fenceEngine_fenced {s : State} {q : Nat} (h : (s.engine q).fenced = false) (cause : Nat) :
    ((fenceEngine s q cause).engine q).fenced = true := by
  obtain ⟨z, -, hu⟩ := fenceEngine_passes h cause
  refine hu.engine q ?_
  rw [State.setEngine_engine_self]

theorem strike_latchesHold (s : State) (u : UnitId) : LatchesHold s (strike s u) := by
  cases u with
  | core n =>
    have h (k page : Nat) (ts : List Nat) : LatchesHold s ((s.setCore k { s.core k with strikes := ts }).bump page 0x058 1) := by
      have hset : LatchesHold s (s.setCore k { s.core k with strikes := ts }) := setCore_latchesHold id id
      exact hset.trans (bump_latchesHold ..)
    unfold strike
    dsimp only
    split
    · exact h ..
    · exact (h ..).trans (fenceCore_latchesHold ..)
  | engine q =>
    have h (ts : List Nat) : LatchesHold s (s.setEngine q { s.engine q with strikes := ts }) := setEngine_latchesHold id
    unfold strike
    dsimp only
    split
    · exact h _
    · exact (h _).trans (fenceEngine_latchesHold ..)

theorem claimStrike_latchesHold (s : State) (p : Nat) : LatchesHold s (claimStrike s p) := by
  unfold claimStrike
  split
  · exact .refl s
  split
  · exact .refl s
  split
  · exact .refl s
  next f _ _ u _ =>
  refine (modStep_latchesHold s p (fun st => { st with fail := some { f with unit := none } })).trans ?_
  unfold oweStrike
  split
  · exact strike_latchesHold ..
  · exact ⟨fun _ => id, fun _ => id, fun _ => id, fun _ => rfl, fun _ => id, id⟩

theorem publishMissing_latchesHold (s : State) (p validity : Nat) : LatchesHold s (publishMissing s p validity) := by
  have hF : Frame [.out, .fresh, .mem, .regs, .plans, .press, .log, .net] s (publishMissing s p validity) :=
    publishMissing_frame (.refl _ s) (List.Subset.refl _)
  exact .of_same (hF.same .units (by decide)) (publishMissing_publishes s p validity).safe (hF.same .safety (by decide))

theorem declareInvalid_latchesHold (s : State) (p code : Nat) : LatchesHold s (declareInvalid s p code) := by
  unfold declareInvalid
  split
  · exact .refl s
  split
  · exact .refl s
  extract_lets s1 s2 s3
  have h1 : LatchesHold s (s1.modStep p (fun st => { st with declared := true, fail := none })) :=
    (claimStrike_latchesHold s p).trans (modStep_latchesHold s1 p _)
  have h2 : LatchesHold s s2 := h1.trans (abortStep_latchesHold _ p)
  have h3 : LatchesHold s2 s3 := (bump_latchesHold s2 ..).trans (logEntry_latchesHold ..)
  exact ((h2.trans h3).trans (enterSafe_latchesHold s3 p code)).trans (publishMissing_latchesHold _ p 3)

/-! ### What a counter leaves -/

section
variable (s : State) (page off n k : Nat)

@[simp] theorem State.bump_core : (s.bump page off n).core k = s.core k := by simp [State.core]
@[simp] theorem State.bump_pair : (s.bump page off n).pair k = s.pair k := by simp [State.pair]
@[simp] theorem State.bump_engine : (s.bump page off n).engine k = s.engine k := by simp [State.engine]
@[simp] theorem bump_pairFused : (s.bump page off n).pairFused k = s.pairFused k := by simp [State.pairFused]
@[simp] theorem bump_coreFused : (s.bump page off n).coreFused k = s.coreFused k := by simp [State.coreFused]
@[simp] theorem bump_coreFenced : coreFenced (s.bump page off n) k = coreFenced s k := by simp [coreFenced, pairFenced]
@[simp] theorem bump_unitOf : unitOf (s.bump page off n) k = unitOf s k := by simp [unitOf]
@[simp] theorem bump_unitCores : unitCores (s.bump page off n) k = unitCores s k := by simp [unitCores]
@[simp] theorem bump_pairUnits : pairUnits (s.bump page off n) k = pairUnits s k := by simp [pairUnits]
@[simp] theorem bump_isSafety : (s.bump page off n).isSafety k = s.isSafety k := by simp [State.isSafety, State.partReg]
@[simp] theorem bump_spUp : spUp (s.bump page off n) = spUp s := by simp [spUp, State.proc]

end

/-! ### A fence for a cause of its own (R337, R383) -/

/-- A failure that blames no unit takes a step's work away and leaves every core's tests. -/
theorem failStep_testsStay (s : State) (p code : Nat) (r : Bool) : TestsStay s (failStep s p code r none) := by
  unfold failStep
  dsimp only
  split
  · exact .refl s
  split
  · have hfailed : TestsStay s (s.modStep p (fun st => { st with fail := some ⟨s.clk.dev, code, r, none⟩ })) := .of_units rfl
    exact hfailed.trans (abortStep_testsStay _ p)
  · exact .refl s

theorem failStep_latchesHold (s : State) (p code : Nat) (r : Bool) : LatchesHold s (failStep s p code r none) := by
  unfold failStep
  dsimp only
  split
  · exact .refl s
  split
  · exact (modStep_latchesHold s p (fun st => { st with fail := some ⟨s.clk.dev, code, r, none⟩ })).trans (abortStep_latchesHold _ p)
  · exact .refl s

/-- Which cores are fenced is told by the fences, the modes and the cores that are held back for their coverage run. -/
theorem coreFenced_of_fences {a s : State} (hf : ∀ n, (s.core n).fenced = (a.core n).fenced) (hm : ∀ i, (s.pair i).safe = (a.pair i).safe)
    (hb : s.boot = a.boot) (n : Nat) : coreFenced s n = coreFenced a n := by
  unfold coreFenced pairFenced
  rw [hm, hb, hf, hf, hf]

theorem coreFused_of_frame {W : List Field} {a s : State} (h : Frame W a s) (hw : .fuses ∉ W) (n : Nat) : s.coreFused n = a.coreFused n := by
  rw [State.coreFused, State.pairFused, h.same .fuses hw, ← State.pairFused, ← State.coreFused]

theorem spUp_of_frame {W : List Field} {a s : State} (h : Frame W a s) (hw : .procs ∉ W) : spUp s = spUp a := by
  rw [spUp, State.proc, h.same .procs hw, ← State.proc, ← spUp]

/-- The state in which a unit is fenced: the step that ran on it has failed. -/
def failedFor (s : State) (p : Nat) (bound : Prop) [Decidable bound] (cause : Nat) : State :=
  if bound ∧ (s.part p).step.isSome then failStep s p cause true none else s

theorem failedFor_testsStay (s : State) (p : Nat) (bound : Prop) [Decidable bound] (cause : Nat) : TestsStay s (failedFor s p bound cause) := by
  unfold failedFor
  split
  · exact failStep_testsStay ..
  · exact .refl s

theorem failedFor_latchesHold (s : State) (p : Nat) (bound : Prop) [Decidable bound] (cause : Nat) : LatchesHold s (failedFor s p bound cause) := by
  unfold failedFor
  split
  · exact failStep_latchesHold ..
  · exact .refl s

theorem failedFor_frame (s : State) (p : Nat) (bound : Prop) [Decidable bound] (cause : Nat) :
    Frame [.out, .fresh, .mem, .regs, .units, .plans, .press, .safety, .selftest, .aon, .log, .net] s (failedFor s p bound cause) :=
  frame_ite (failStep_frame (.refl _ s) (List.Subset.refl _)) (.refl _ s)

/-- SP fences a unit after the step that ran on it has failed. -/
theorem fenceUnit_of_up {s : State} (hup : spUp s = true) (n cause : Nat) (faulty : Option Nat) :
    ∃ bound : Prop, ∃ _ : Decidable bound, fenceUnit s n cause faulty = fenceCore (failedFor s (pairOwner s (n / 2)) bound cause) n cause faulty := by
  unfold fenceUnit
  dsimp only
  rw [if_neg (by simp [hup])]
  exact ⟨_, _, rfl⟩

theorem fenceUnit_fenced {s : State} {n : Nat} (hup : spUp s = true) (hfused : s.coreFused n = false) (h : coreFenced s n = false) (cause : Nat)
    (faulty : Option Nat) {k : Nat} (hk : k ∈ unitCores s (unitOf s n)) : ((fenceUnit s n cause faulty).core k).fenced = true := by
  obtain ⟨bound, _, hu⟩ := fenceUnit_of_up hup n cause faulty
  rw [hu]
  set z := failedFor s (pairOwner s (n / 2)) bound cause
  have ht : TestsStay s z := failedFor_testsStay ..
  have hm : ∀ i, (z.pair i).safe = (s.pair i).safe := (failedFor_latchesHold ..).mode
  have hF : Frame _ s z := failedFor_frame ..
  refine fenceCore_fenced ((coreFused_of_frame hF (by decide) n).trans hfused) ?_ cause faulty ?_
  · rwa [coreFenced_of_fences ht.fenced hm (hF.same .boot (by decide))]
  · rwa [unitCores_congr hm, unitOf_congr hm]

theorem fenceUnit_latchesHold (s : State) (n cause : Nat) (faulty : Option Nat) : LatchesHold s (fenceUnit s n cause faulty) := by
  cases hup : spUp s with
  | false =>
    rw [fenceUnit, if_pos (by simp [hup])]
    exact .refl s
  | true =>
    obtain ⟨bound, _, hu⟩ := fenceUnit_of_up hup n cause faulty
    rw [hu]
    exact (failedFor_latchesHold ..).trans (fenceCore_latchesHold ..)

theorem fenceEngineUnit_fenced {s : State} {q : Nat} (hup : spUp s = true) (h : (s.engine q).fenced = false) (cause : Nat) :
    ((fenceEngineUnit s q cause).engine q).fenced = true := by
  unfold fenceEngineUnit
  extract_lets p bound
  rw [if_neg (by simp [hup])]
  refine fenceEngine_fenced ?_ cause
  split
  · rwa [(failStep_testsStay ..).engine]
  · exact h

end Sys2Proof.Machine
end

section
/-! The commands of ST_CMD (R379, R380, R382–R384, R388, R450): each is one write, served at once while SP runs. -/

namespace Sys2Proof.Machine

/-! ### ACTIVATE (R380) -/

/-- A core that runs no chunk begins its list anew. -/
def restartList (s : State) (n : Nat) : State := if (s.core n).testing then s else s.setCore n { s.core n with progress := 0, suspect := false }

theorem restartList_frame (l : List Nat) (s : State) : Frame [.units] s (l.foldl restartList s) :=
  frame_foldl l (.refl _ s) fun _ _ h => frame_ite h (State.setCore_frame h (List.Subset.refl _))

theorem restartLists_progress {l : List Nat} {s : State} {k : Nat} (hk : k ∈ l ∨ (s.core k).progress = 0) (ht : (s.core k).testing = false) :
    ((l.foldl restartList s).core k).progress = 0 := by
  induction l generalizing s with
  | nil => exact hk.resolve_left List.not_mem_nil
  | cons n l ih =>
    rw [List.foldl_cons]
    obtain rfl | hne := eq_or_ne k n
    · have hself : (restartList s k).core k = { s.core k with progress := 0, suspect := false } := by
        rw [restartList, if_neg (by simp [ht]), State.setCore_core_self]
      exact ih (.inr (by rw [hself])) (by rw [hself]; exact ht)
    · have hother : (restartList s n).core k = s.core k := by
        unfold restartList
        split
        · rfl
        · exact State.setCore_core_ne _ _ hne
      rw [← hother] at hk ht
      exact ih (hk.imp_left fun h => (List.mem_cons.1 h).resolve_left hne) ht

theorem setCounters_frame (s : State) (l : List (Nat × Nat)) : Frame [.regs] s { s with regs := { s.regs with counters := l } } :=
  Frame.set_regs (.refl _ s) (List.mem_singleton_self _)

/-- The self-test once the banks have exchanged their roles. -/
def activatedSet (s : State) : SelfTestSt := { s.selftest with
  activeBank := 1 - s.selftest.activeBank, activeVersion := s.selftest.stagedVersion, stagedVersion := 0, staged := 0
  coreBank := ((List.range 40).filter (fun n => (s.core n).testing)).map (fun n => (n, s.selftest.activeBank)) }

/-- The banks are exchanged, the lists begin anew, and the result counters of the old set are cleared and the event logged. -/
theorem patternActivate_passes (s : State) :
    Frame [.fresh, .regs, .log] ((List.range 40).foldl restartList { s with selftest := activatedSet s }) (patternActivate s) := by
  unfold patternActivate
  extract_lets _ busy s1 s2 res
  exact State.logEntry_frame ((setCounters_frame s2 res).mono (by decide)) (List.Subset.refl _)

theorem patternActivate_selftest (s : State) : (patternActivate s).selftest = activatedSet s :=
  ((patternActivate_passes s).same .selftest (by decide)).trans ((restartList_frame ..).same .selftest (by decide))

theorem patternActivate_progress {s : State} {n : Nat} (hn : n < 40) (ht : (s.core n).testing = false) :
    ((patternActivate s).core n).progress = 0 := by
  rw [State.core, (patternActivate_passes s).same .units (by decide), ← State.core]
  exact restartLists_progress (.inl (List.mem_range.2 hn)) ht

/-! ### The command register -/

/-- A command that SP can take up is served at once while SP runs, and waits while it restarts (R388, R450). -/
theorem stCmdWrite_of_idle {s : State} (hb : s.selftest.busy = false) (hw : s.selftest.waiting = none) {v : Nat} (h1 : bits v 3 0 ≠ 0)
    (h4 : bits v 3 0 ≤ 4) :
    stCmdWrite s v = if spUp s then stCommand s v (s.inForce (addr pgSt 0x04C))
      else { s with selftest := { s.selftest with waiting := some (v, s.inForce (addr pgSt 0x04C)) } } := by
  unfold stCmdWrite
  exact if_neg (by simp [hb, hw, h1, h4])

theorem stCommand_fence {s : State} {n : Nat} (hn : n < 40) (hfused : s.coreFused n = false) (h : coreFenced s n = false) :
    stCommand s 4 n = fenceUnit s n 0x620A (some n) := by
  show (if 40 ≤ n ∨ s.coreFused n = true ∨ coreFenced s n = true then s.pageErr pgSt 2 0x6219 4 else fenceUnit s n 0x620A (some n)) = _
  exact if_neg (by simp [hn, hfused, h])

/-- Settles O36: the state of the staged set decides what ACTIVATE comes to, and whether SP runs decides between a command's service and its wait. -/
theorem selfTestCommandsAct : Obligations.SelfTestCommandsAct := by
  intro t w s h hb hw
  have hwrite {v : Nat} (h1 : bits v 3 0 ≠ 0) (h4 : bits v 3 0 ≤ 4) : hostWrite (atTime t s) w pgSt 0x048 v =
      if spUp s then stCommand (atTime t s) v (s.inForce (addr pgSt 0x04C))
      else { atTime t s with selftest := { s.selftest with waiting := some (v, s.inForce (addr pgSt 0x04C)) } } :=
    (hostWrite_st h v).trans (stCmdWrite_of_idle (s := atTime t s) hb hw h1 h4)
  refine ⟨fun hrun => ?_, fun hdown => ?_⟩
  · have hup : spUp s = true := beq_iff_eq.2 hrun
    have hserved {v : Nat} (h1 : bits v 3 0 ≠ 0) (h4 : bits v 3 0 ≤ 4) {u : State} (hu : stCommand (atTime t s) v (s.inForce (addr pgSt 0x04C)) = u) :
        Host.Outcome.next (hostWrite (atTime t s) w pgSt 0x048 v) = (.next u : Host.Outcome State Fault Refusal) :=
      congrArg _ ((hwrite h1 h4).trans ((if_pos hup).trans hu))
    refine ⟨⟨_, hserved (v := 1) (by decide) (by decide) rfl, rfl, rfl, rfl⟩, fun hs => ?_, fun hs => hserved (v := 2) (by decide) (by decide) (if_neg hs),
      hserved (v := 3) (by decide) (by decide) rfl, fun n hn hlt hfused hfree => ?_⟩
    · refine ⟨patternActivate (atTime t s), hserved (v := 2) (by decide) (by decide) (if_pos hs), ?_⟩
      rw [patternActivate_selftest]
      exact ⟨rfl, rfl, rfl, fun n hn ht => patternActivate_progress (s := atTime t s) hn ht⟩
    · subst hn
      exact ⟨_, hserved (v := 4) (by decide) (by decide) (stCommand_fence (s := atTime t s) hlt hfused hfree), fun k hk =>
        fenceUnit_fenced (s := atTime t s) hup hfused hfree _ _ hk⟩
  · exact congrArg _ ((hwrite (v := 4) (by decide) (by decide)).trans (if_neg (by simpa [spUp] using hdown)))

end Sys2Proof.Machine
end

section
/-! The rotation of the checker tests (R366–R370, R377): when it ends, what a test that fails fences by its scope, and whom a shared checker takes into the
safe state. -/

namespace Sys2Proof.Machine

/-! ### The end of a rotation (R366, R367) -/

/-- Which checkers are still tested is told by the units and by what is held back for its coverage run. -/
theorem stillTested_congr {s z : State} (hu : z.units = s.units) (hb : z.boot = s.boot) : stillTested z = stillTested s := by
  funext c
  cases c <;> simp only [stillTested, coreFenced, pairFenced, pairUnits, coreOut, State.core, State.pair, State.engine, hu, hb] <;> rfl

/-- SP starts a rotation where none is in progress and the last began 100 ms ago. -/
theorem rotationStartOp_of_due {s : State} (hphase : s.phase = .up) (hup : spUp s = true) (hr : s.selftest.rotating = false)
    (h : ∀ x, s.selftest.rotStart = some x → x + 100000000 ≤ s.clk.dev) :
    rotationStartOp s = { s with selftest := { s.selftest with rotating := true, rotStart := some s.clk.dev, remaining := checkers s } } := by
  have hdue : s.selftest.rotStart.all (fun x => decide (x + 100000000 ≤ s.clk.dev)) = true := by
    cases hx : s.selftest.rotStart with
    | none => rfl
    | some x =>
      rw [Option.all_some]
      exact decide_eq_true (h x hx)
  unfold rotationStartOp
  exact if_pos ⟨hphase, hup, hr, hdue⟩

theorem checkers_atTime (t : Nat) (s : State) : checkers (atTime t s) = checkers s := by
  unfold checkers
  rfl

theorem rotationLateOp_of_over {s : State} {x : Nat} (hr : s.selftest.rotating = true) (hlate : s.selftest.late = false)
    (hx : s.selftest.rotStart = some x) (h : x + 200000000 ≤ s.clk.dev) :
    rotationLateOp s = ({ s with selftest := { s.selftest with late := true } }.bump pgSt 0x088 1).logEntry 0x6209 0xFF 0xC1 0 := by
  unfold rotationLateOp
  dsimp only
  rw [hx]
  exact if_pos ⟨hr, hlate, h⟩

/-- The state in which the checkers of a list are left to be tested. -/
def withRemaining (s : State) (l : List Checker) : State := { s with selftest := { s.selftest with remaining := l } }

theorem endRotation_of_left {s : State} {l : List Checker} (hl : s.selftest.remaining.filter (stillTested s) = l) (h : l ≠ []) :
    endRotation s = withRemaining s l := by
  unfold endRotation
  dsimp only
  rw [hl]
  exact if_neg (by simp [h])

theorem endRotation_of_none_left {s : State} (hr : s.selftest.rotating = true) (h : s.selftest.remaining.filter (stillTested s) = []) :
    (endRotation s).selftest.rotating = false ∧ (endRotation s).selftest.late = false := by
  unfold endRotation
  dsimp only
  rw [if_pos (by simp [hr, h]), State.bump_selftest]
  exact ⟨rfl, rfl⟩

section
variable {s : State} {c : Checker} (hup : spUp s = true) (hr : s.selftest.rotating = true) (hc : s.selftest.remaining.elem c = true)
  (hw : injectionWaits s c = false)
include hup hr hc hw

/-- A checker passes the test that is due, where that need not wait (R368, R377). -/
theorem testResultOp_passed : testResultOp s c true = endRotation (withRemaining s (s.selftest.remaining.erase c)) := by
  unfold testResultOp
  dsimp only
  exact (if_neg (by rw [hr, hc, hup, hw]; exact Bool.false_ne_true)).trans (if_pos rfl)

/-- One that fails is counted and meets the reaction of its scope. -/
theorem testResultOp_failed : testResultOp s c false = endRotation (checkerFailed (s.bump pgSt 0x090 1) c) := by
  unfold testResultOp
  dsimp only
  exact (if_neg (by rw [hr, hc, hup, hw]; exact Bool.false_ne_true)).trans (if_neg Bool.false_ne_true)

end

theorem testResultOp_waits {s : State} {c : Checker} (hw : injectionWaits s c = true) (ok : Bool) : testResultOp s c ok = s := by
  unfold testResultOp
  dsimp only
  rw [hw, Bool.or_true]
  rfl

theorem endRotation_safety (s : State) : (endRotation s).safety = s.safety :=
  (endRotation_frame (.refl [.regs, .selftest] s) (List.Subset.refl _)).same .safety (by decide)

/-! ### Units and engines (R369) -/

/-- Both units of a SPLIT pair: the fence of one leaves the other to be fenced. -/
theorem fenceUnits_fenced {l : List Nat} {s : State} {k : Nat} (hk : k ∈ l) (hup : spUp s = true) (hsplit : (s.pair (k / 2)).safe = false)
    (hfused : s.coreFused k = false) (h : coreFenced s k = false) (cause : Nat) :
    ((l.foldl (fun s u => fenceUnit s u cause none) s).core k).fenced = true := by
  have hlater (z : State) (l : List Nat) (hz : (z.core k).fenced = true) : ((l.foldl (fun s u => fenceUnit s u cause none) z).core k).fenced = true :=
    (LatchesHold.foldl (fun s u => fenceUnit_latchesHold s u cause none) l z).fenced k hz
  induction l generalizing s with
  | nil => exact absurd hk List.not_mem_nil
  | cons n l ih =>
    rw [List.foldl_cons]
    obtain rfl | hne := eq_or_ne k n
    · have hself : k ∈ unitCores s (unitOf s k) := by simp [unitOf, unitCores, hsplit]
      exact hlater _ l (fenceUnit_fenced hup hfused h cause none hself)
    · have hF : Frame [.out, .fresh, .mem, .regs, .units, .plans, .press, .safety, .selftest, .aon, .log, .net] s (fenceUnit s n cause none) :=
        fenceUnit_frame (.refl _ s) (List.Subset.refl _)
      have hhold := fenceUnit_latchesHold s n cause none
      set z := fenceUnit s n cause none
      have hsplit' : (z.pair (k / 2)).safe = false := (hhold.mode _).trans hsplit
      have hboot : z.boot = s.boot := hF.same .boot (by decide)
      cases hz : coreFenced z k with
      | false =>
        exact ih ((List.mem_cons.1 hk).resolve_left hne) ((spUp_of_frame hF (by decide)).trans hup) hsplit'
          ((coreFused_of_frame hF (by decide) k).trans hfused) hz
      | true =>
        refine hlater z l ?_
        simp only [coreFenced, hsplit', hsplit, hboot, Bool.false_eq_true, if_false, Bool.or_eq_true, Bool.or_eq_false_iff] at hz h
        exact hz.resolve_right (by simp [h.2])

theorem unitOf_two_mul (s : State) (i : Nat) : unitOf s (2 * i) = 2 * i := by
  unfold unitOf
  split <;> omega

theorem checkerFailed_pairClock_fenced {s : State} {i : Fin 20} (hup : spUp s = true) (hfused : s.pairFused i.val = false) {k : Nat}
    (hk : k ∈ pairUnits s i.val) (h : coreFenced s k = false) : ((checkerFailed s (.pairClock i)).core k).fenced = true := by
  have hki : k / 2 = i.val := by
    unfold pairUnits at hk
    split at hk <;> simp at hk <;> omega
  have hfused' : s.coreFused k = false := by rwa [State.coreFused, hki]
  show (((pairUnits s i.val).foldl (fun s u => fenceUnit s u 0x6201 none) s).core k).fenced = true
  cases hmode : (s.pair i.val).safe with
  | true =>
    have hunits : pairUnits s i.val = [2 * i.val] := by simp [pairUnits, hmode]
    rw [hunits] at hk ⊢
    obtain rfl := List.mem_singleton.1 hk
    refine fenceUnit_fenced hup hfused' h _ _ ?_
    rw [unitOf_two_mul]
    exact mem_unitCores_self s _
  | false => exact fenceUnits_fenced hk hup (by rw [hki, hmode]) hfused' h _

/-- A comparator or a duplicate entry of a SAFE pair that fails its test costs both cores. -/
theorem checkerFailed_pair_fenced {s : State} {i : Fin 20} {c : Checker} (hc : c = .comparator i ∨ c = .entryDup i) (hup : spUp s = true)
    (hfused : s.pairFused i.val = false) (hsafe : (s.pair i.val).safe = true) (h : coreFenced s (2 * i.val) = false) :
    ((checkerFailed s c).core (2 * i.val)).fenced = true ∧ ((checkerFailed s c).core (2 * i.val + 1)).fenced = true := by
  have hfail : checkerFailed s c = fenceUnit s (2 * i.val) 0x6201 none := by rcases hc with rfl | rfl <;> rfl
  have hi : 2 * i.val / 2 = i.val := by omega
  have hfused' : s.coreFused (2 * i.val) = false := by rwa [State.coreFused, hi]
  have hunit : unitCores s (unitOf s (2 * i.val)) = [2 * i.val, 2 * i.val + 1] := by
    rw [unitOf_two_mul, unitCores, hi, if_pos hsafe, Nat.mul_comm]
  rw [hfail]
  exact ⟨fenceUnit_fenced hup hfused' h _ _ (by simp [hunit]), fenceUnit_fenced hup hfused' h _ _ (by simp [hunit])⟩

theorem checkerFailed_core_fenced {s : State} {n : Fin 40} {c : Checker} (hc : c = .coreParity n ∨ c = .crcCore n) (hup : spUp s = true)
    (hfused : s.coreFused n.val = false) (h : coreFenced s n.val = false) {k : Nat} (hk : k ∈ unitCores s (unitOf s n.val)) :
    ((checkerFailed s c).core k).fenced = true := by
  have hfail : checkerFailed s c = fenceUnit s n.val 0x6201 (some n.val) := by rcases hc with rfl | rfl <;> rfl
  rw [hfail]
  exact fenceUnit_fenced hup hfused h _ _ hk

/-! ### The safe state (R369) -/

/-- A checker of device scope takes the device into its safe state, and every safety-relevant partition with it. -/
theorem checkerFailed_device {s : State} {c : Checker} (hc : c = .fabricClock ∨ c = .deadlineMonitor) :
    (checkerFailed s c).safety.dev = (if s.safety.dev = 0 then (if c = .fabricClock then 5 else 3) else s.safety.dev) ∧
    ∀ p, p < 8 → s.isSafety p = true → ((checkerFailed s c).part p).safe.isSome = true := by
  have hdevice (entry cause code : Nat) : (deviceSafe (s.logEntry entry 0xFF 0xFF 0) cause code).safety.dev =
        (if s.safety.dev = 0 then cause else s.safety.dev) ∧
      ∀ p, p < 8 → s.isSafety p = true → ((deviceSafe (s.logEntry entry 0xFF 0xFF 0) cause code).part p).safe.isSome = true := by
    refine ⟨by rw [deviceSafe_safety, State.logEntry_safety], fun p hp h => deviceSafe_isSome hp ?_ cause code⟩
    rwa [State.isSafety, State.partReg, (State.logEntry_frame (.refl [.fresh, .regs, .log] s) (List.Subset.refl _)).inForce (by decide)]
  rcases hc with rfl | rfl
  · exact hdevice 0x610F 5 0x610F
  · exact hdevice 0x6203 3 0x6203

/-- What a shared checker's failure does with a partition: its step is declared invalid, and it enters the safe state. -/
def declareSafe (s : State) (p : Nat) : State := enterSafe (declareInvalid s p 0x6202) p 0x6202

theorem declareSafe_latchesHold (s : State) (p : Nat) : LatchesHold s (declareSafe s p) :=
  (declareInvalid_latchesHold ..).trans (enterSafe_latchesHold ..)

theorem declareInvalid_isSafety (s : State) (p code i : Nat) : (declareInvalid s p code).isSafety i = s.isSafety i := by
  have hF : Frame [.out, .fresh, .mem, .regs, .units, .plans, .press, .safety, .selftest, .aon, .log, .net] s (declareInvalid s p code) :=
    declareInvalid_frame (.refl _ s) (List.Subset.refl _)
  rw [State.isSafety, State.partReg, hF.inForce (by decide), ← State.partReg, ← State.isSafety]

theorem declareAll_isSome {l : List Nat} {s : State} {p : Nat} (hp : p ∈ l) (h : s.isSafety p = true) :
    ((l.foldl declareSafe s).part p).safe.isSome = true := by
  induction l generalizing s with
  | nil => exact absurd hp List.not_mem_nil
  | cons q l ih =>
    obtain rfl | hp := List.mem_cons.1 hp
    · exact (LatchesHold.foldl declareSafe_latchesHold l _).safe p (enterSafe_isSome ((declareInvalid_isSafety ..).trans h) _)
    · exact ih hp (((enterSafe_isSafety ..).trans (declareInvalid_isSafety ..)).trans h)

/-- A shared checker's failure is latched, and every safety-relevant partition that runs is in the safe state. -/
theorem sharedChecker_safe (s : State) : (sharedChecker s).safety.shared = true ∧
    ∀ p, p < 8 → s.isSafety p = true → (s.part p).st = .running → ((sharedChecker s).part p).safe.isSome = true := by
  unfold sharedChecker
  extract_lets s1 src s2
  have hF : Frame [.fresh, .regs, .safety, .log] s s2 := Frame.set_safety (State.logEntry_frame (.refl _ s) (by decide)) (by decide)
  have hkind (p : Nat) : s2.isSafety p = s.isSafety p := by
    rw [State.isSafety, State.partReg, hF.inForce (by decide), ← State.partReg, ← State.isSafety]
  refine ⟨(LatchesHold.foldl declareSafe_latchesHold _ s2).shared rfl, fun p hp h hst => declareAll_isSome ?_ ((hkind p).trans h)⟩
  have hst2 : (s2.part p).st = .running := by rwa [State.part, hF.same .plans (by decide), ← State.part]
  exact List.mem_filter.2 ⟨List.mem_filter.2 ⟨List.mem_range.2 hp, (hkind p).trans h⟩, beq_iff_eq.2 hst2⟩

theorem checkerFailed_shared {s : State} {c : Checker}
    (hc : (∃ q, c = .crcEngine q) ∨ c = .crcSieve ∨ (∃ q k, c = .feltParity q k) ∨ (∃ k, c = .hopParity k) ∨ (∃ k, c = .frameTag k) ∨
      (∃ k, c = .tallyDup k) ∨ c = .dramSecded ∨ (∃ k, c = .crcUnit k) ∨ c = .sieveChecked) :
    (checkerFailed s c).safety.shared = true ∧
      ∀ p, p < 8 → s.isSafety p = true → (s.part p).st = .running → ((checkerFailed s c).part p).safe.isSome = true := by
  have hfail : checkerFailed s c = sharedChecker s := by
    rcases hc with ⟨q, rfl⟩ | rfl | ⟨q, k, rfl⟩ | ⟨k, rfl⟩ | ⟨k, rfl⟩ | ⟨k, rfl⟩ | rfl | ⟨k, rfl⟩ | rfl <;> rfl
  rw [hfail]
  exact sharedChecker_safe s

/-- Settles O57: a rotation starts where none is in progress; a test that is due ends with its checker done or its failure met by scope, and ending the
rotation releases no latch. -/
theorem theCheckersAreTested : Obligations.TheCheckersAreTested := by
  refine ⟨fun t s hphase hrun hr hlast => ?_, fun t c l s hrun hr hc hl => ⟨fun hw ok => ?_, fun hw => ?_⟩, fun t x s hr hlate hx hover => ?_⟩
  · refine congrArg Host.Outcome.next ((rotationStartOp_of_due (s := atTime t s) hphase (beq_iff_eq.2 hrun) hr hlast).trans ?_)
    rw [checkers_atTime]
    rfl
  · exact congrArg Host.Outcome.next (testResultOp_waits (s := atTime t s) hw ok)
  · have hup : spUp s = true := beq_iff_eq.2 hrun
    have hpass := congrArg (Host.Outcome.next (φ := Fault) (ρ := Refusal)) (testResultOp_passed (s := atTime t s) hup hr hc hw)
    have hleft : (s.selftest.remaining.erase c).filter (stillTested (withRemaining (atTime t s) (s.selftest.remaining.erase c))) = l := by
      rw [hl, stillTested_congr (s := s) (z := withRemaining (atTime t s) _) rfl rfl]
    refine ⟨fun hne => hpass.trans (congrArg Host.Outcome.next (endRotation_of_left hleft hne)),
      fun hnil => ⟨_, hpass, endRotation_of_none_left hr (hleft.trans hnil)⟩,
      _, congrArg Host.Outcome.next (testResultOp_failed (s := atTime t s) hup hr hc hw), ?_⟩
    have hupb : spUp ((atTime t s).bump pgSt 0x090 1) = true := (bump_spUp ..).trans hup
    have hhold := endRotation_latchesHold (checkerFailed ((atTime t s).bump pgSt 0x090 1) c)
    refine ⟨fun i hc hf hsafe hfree => ?_, fun n hc hf hfree k hk => ?_, fun i hc hf k hk hfree => ?_, fun q hc hfree => ?_, fun hc => ?_, fun hc => ?_⟩
    · obtain ⟨he, ho⟩ := checkerFailed_pair_fenced hc hupb ((bump_pairFused ..).trans hf) ((congrArg PairSt.safe (State.bump_pair ..)).trans hsafe)
        ((bump_coreFenced ..).trans hfree)
      exact ⟨hhold.fenced _ he, hhold.fenced _ ho⟩
    · refine hhold.fenced k (checkerFailed_core_fenced hc hupb ((bump_coreFused ..).trans hf) ((bump_coreFenced ..).trans hfree) ?_)
      rw [bump_unitCores, bump_unitOf]
      exact hk
    · subst hc
      refine hhold.fenced k (checkerFailed_pairClock_fenced hupb ((bump_pairFused ..).trans hf) ?_ ((bump_coreFenced ..).trans hfree))
      rw [bump_pairUnits]
      exact hk
    · subst hc
      exact hhold.engine _ (fenceEngineUnit_fenced hupb ((congrArg EngineSt.fenced (State.bump_engine ..)).trans hfree) _)
    · obtain ⟨hdev, hall⟩ := checkerFailed_device (s := (atTime t s).bump pgSt 0x090 1) hc
      rw [endRotation_safety, hdev, State.bump_safety]
      exact ⟨rfl, fun p hp h => hhold.safe p (hall p hp ((bump_isSafety ..).trans h))⟩
    · obtain ⟨hshared, hall⟩ := checkerFailed_shared (s := (atTime t s).bump pgSt 0x090 1) hc
      exact ⟨hhold.shared hshared, fun p hp h hst => hhold.safe p (hall p hp ((bump_isSafety ..).trans h)
        ((congrArg PartSt.st (State.bump_part ..)).trans hst))⟩
  · refine ⟨_, congrArg Host.Outcome.next (rotationLateOp_of_over (s := atTime t s) hr hlate hx hover), ?_⟩
    rw [State.logEntry_selftest, State.bump_selftest]
    rfl

end Sys2Proof.Machine
end

section
/-! Chunks (R371–R376), coverage runs after a start (R179, R382, R384, R439) and pattern sets (R379): what a grant, a result and an age bring about. -/

namespace Sys2Proof.Machine

/-! ### A grant (R22, R372, R374) -/

theorem unitRun_iff {s : State} {u : Nat} : unitRun s u = true ↔ ∃ k ∈ unitCores s u, (s.core k).clk = .run := by
  simp [unitRun, runCoreOf, List.find?_isSome]

/-- A change of a unit that leaves its clocks leaves it in RUN. -/
theorem modUnit_unitRun {s : State} {u : Nat} {f : CoreSt → CoreSt} (hf : ∀ c, (f c).clk = c.clk) (h : unitRun s u = true) :
    unitRun (modUnit s u f) u = true := by
  obtain ⟨k, hk, hrun⟩ := unitRun_iff.1 h
  refine unitRun_iff.2 ⟨k, ?_, ?_⟩
  · rwa [unitCores_congr (modUnit_retunes s u f).mode]
  · rw [modUnit_core, if_pos hk, hf, hrun]

theorem wakeUnit_unitRun (s : State) (u : Nat) : unitRun (wakeUnit s u) u = true := by
  unfold wakeUnit
  extract_lets s1 same s2 i _ s3
  split
  · next h => exact modUnit_unitRun (fun _ => rfl) h
  · refine unitRun_iff.2 ⟨u, mem_unitCores_self .., ?_⟩
    rw [modUnit_core, if_pos (mem_unitCores_self ..)]

/-- A unit that is granted a chunk is in RUN, and its cores test from this instant on. -/
theorem chunkGrantOp_of_grantable {s : State} {n : Nat} (hp : (s.hdrOf pgSt).cstate ≠ .pending) (h : chunkGrantable s (unitOf s n) = true) :
    unitRun (chunkGrantOp s n) (unitOf s n) = true ∧ ∀ k ∈ unitCores s (unitOf s n),
      ((chunkGrantOp s n).core k).testing = true ∧ ((chunkGrantOp s n).core k).chunkFrom = (chunkGrantOp s n).clk.clock := by
  unfold chunkGrantOp
  rw [settleTimed_of_not_pending hp]
  extract_lets s0 u s1
  rw [if_pos h]
  set s2 := wakeUnit (account s1 u) u
  have hclk : Frame [.fresh, .regs, .units] s1 s2 := wakeUnit_frame (account_frame (.refl _ s1) (List.Subset.refl _)) (List.Subset.refl _)
  have hmode (i : Nat) : (s2.pair i).safe = (s.pair i).safe :=
    (((account_retunes s1 u).trans (wakeUnit_retunes _ u)).mode i).trans
      (((modUnit_retunes (endFiller s u) u _).mode i).trans ((endFiller_latchesHold s u).mode i))
  refine ⟨modUnit_unitRun (fun _ => rfl) (wakeUnit_unitRun ..), fun k hk => ?_⟩
  rw [modUnit_core, if_pos (by rwa [unitCores_congr hmode])]
  refine ⟨rfl, ?_⟩
  rw [(modUnit_frame (.refl [.units] s2) (List.Subset.refl _)).same .clk (by decide), hclk.same .clk (by decide)]

/-! ### The end of a chunk (R374–R376) -/

/-- s came from a by the end of core n's chunk: the core tests no more, and nothing else of any core's tests has changed. -/
structure ChunkEnded (n : Nat) (a s : State) : Prop where
  frame : Frame [.fresh, .regs, .units] a s
  retunes : Retunes a s
  tests : ∀ k, (s.core k).tests = { (a.core k).tests with testing := (s.core k).testing }
  idle : (s.core n).testing = false

theorem ChunkEnded.trans {n : Nat} {a s u : State} (h : ChunkEnded n a s) (hF : Frame [.fresh, .regs, .units] s u) (hr : Retunes s u)
    (ht : TestsStay s u) : ChunkEnded n a u :=
  ⟨h.frame.trans hF, h.retunes.trans hr, fun k => by rw [ht.tests, ht.testing, h.tests], (ht.testing n).trans h.idle⟩

section
variable {n : Nat} {a s : State} (h : ChunkEnded n a s)
include h

theorem ChunkEnded.bump (page off k : Nat) : ChunkEnded n a (s.bump page off k) := by
  have hF : Frame [.regs] s (s.bump page off k) := State.bump_frame (.refl _ s) (List.Subset.refl _)
  exact h.trans (hF.mono (by decide)) (.of_frame hF (by decide)) (.of_frame hF (by decide))

theorem ChunkEnded.clk : s.clk = a.clk := h.frame.same .clk (by decide)
theorem ChunkEnded.fenced (k : Nat) : (s.core k).fenced = (a.core k).fenced := congrArg CoreTests.fenced (h.tests k)
theorem ChunkEnded.suspect (k : Nat) : (s.core k).suspect = (a.core k).suspect := congrArg CoreTests.suspect (h.tests k)
theorem ChunkEnded.suspectAt (k : Nat) : (s.core k).suspectAt = (a.core k).suspectAt := congrArg CoreTests.suspectAt (h.tests k)
theorem ChunkEnded.strikes (k : Nat) : (s.core k).strikes = (a.core k).strikes := congrArg CoreTests.strikes (h.tests k)
theorem ChunkEnded.progress (k : Nat) : (s.core k).progress = (a.core k).progress := congrArg CoreTests.progress (h.tests k)
theorem ChunkEnded.unitOf (k : Nat) : unitOf s k = Machine.unitOf a k := unitOf_congr h.retunes.mode k
theorem ChunkEnded.unitCores (k : Nat) : unitCores s k = Machine.unitCores a k := unitCores_congr h.retunes.mode k
theorem ChunkEnded.recent_strikes : recent s (s.core (Machine.unitOf s n)).strikes = recent a (a.core (Machine.unitOf a n)).strikes := by
  rw [h.unitOf, h.strikes, recent, h.clk, ← recent]
theorem ChunkEnded.coreFenced (k : Nat) : coreFenced s k = Machine.coreFenced a k :=
  coreFenced_of_fences h.fenced h.retunes.mode (h.frame.same .boot (by decide)) k

end

/-- The result of a chunk of the active set: once it has ended and is counted, the core has passed it or is struck. -/
theorem chunkCompleteOp_of_active {s : State} {n : Nat} (ht : (s.core n).testing = true) (hup : spUp s = true)
    (hset : s.selftest.coreBank.lookup n = none) (pass : Bool) :
    ∃ y, ChunkEnded n s y ∧ chunkCompleteOp s n pass = if pass then chunkPassed y n s.selftest.activeBank else chunkStrike y n := by
  unfold chunkCompleteOp
  rw [if_neg (by simp [ht, hup])]
  extract_lets u old bank s1 src s2 s3 s4 s5
  have hold : old = none := hset
  have h1 : Frame [.fresh, .regs, .units] s s1 := account_frame (.refl _ s) (List.Subset.refl _)
  have h2 : ChunkEnded n s s2 := by
    refine ⟨State.setCore_frame h1 (by decide), (account_retunes s u).trans (.of_pairs fun _ => rfl), fun k => ?_, ?_⟩
    · obtain rfl | hk := eq_or_ne k n
      · rw [State.setCore_core_self, ← (account_testsStay s u).tests]
        rfl
      · rw [State.setCore_core_ne _ _ hk, (account_testsStay s u).testing, (account_testsStay s u).tests]
        rfl
    · rw [State.setCore_core_self]
  have h3 : ChunkEnded n s s3 := by
    unfold s3
    split
    · exact h2
    · set s2' := undefUnit s2 u (s2.freeVal 2 == 1)
      exact h2.trans (settleCore_frame (undefUnit_frame (.refl _ s2) (by decide)) (List.Subset.refl _))
        ((undefUnit_retunes ..).trans (settleCore_retunes s2' u)) ((undefUnit_testsStay ..).trans (settleCore_testsStay s2' u))
  have h5 : ChunkEnded n s s5 := by
    unfold s5
    split
    · exact h3.bump ..
    · exact ((h3.bump ..).bump ..).bump ..
  refine ⟨s5, h5, ?_⟩
  have hbank : bank = s.selftest.activeBank := congrArg (Option.getD · s.selftest.activeBank) hold
  rw [if_neg (by simp [hold]), ← hbank]

/-! ### A chunk that passes (R374, R376) -/

theorem coverageDone_core (s : State) (n : Nat) :
    (coverageDone s n).core n = { s.core n with progress := 0, covAge := s.clk.opTime, overdue := false } := by
  unfold coverageDone
  extract_lets c s'
  have hself : s'.core n = { s.core n with progress := 0, covAge := s.clk.opTime, overdue := false } := State.setCore_core_self ..
  split
  · rw [State.core, unitLog_units, ← State.core, hself]
  · exact hself

theorem coverageDone_clk (s : State) (n : Nat) : (coverageDone s n).clk = s.clk :=
  (coverageDone_frame (.refl [.fresh, .regs, .units, .log] s) (List.Subset.refl _)).same .clk (by decide)

theorem chunkCount_of_mem {a s : State} (h : s.mem = a.mem) (b n : Nat) : chunkCount s b n = chunkCount a b n := by
  simp only [chunkCount, State.rdN, State.rd, h]

/-- A core that has passed a chunk is free of suspicion, and the next chunk of its list is due. -/
def advanced (c : CoreSt) : CoreSt := { c with progress := c.progress + 1, suspect := false }

/-- The last chunk of a core's list completes its coverage, any other one advances the list. -/
theorem chunkPassed_core (s : State) (n b : Nat) : (chunkPassed s n b).core n =
    if chunkCount s b n ≤ (s.core n).progress + 1 then { advanced (s.core n) with progress := 0, covAge := s.clk.opTime, overdue := false }
    else advanced (s.core n) := by
  unfold chunkPassed
  extract_lets c s'
  have hself : s'.core n = advanced (s.core n) := State.setCore_core_self ..
  rw [chunkCount_of_mem (show s'.mem = s.mem from rfl)]
  split
  · rw [coverageDone_core, hself]
    rfl
  · exact hself

theorem chunkPassed_clk (s : State) (n b : Nat) : (chunkPassed s n b).clk = s.clk :=
  (chunkPassed_frame (.refl [.fresh, .regs, .units, .log] s) (List.Subset.refl _)).same .clk (by decide)

/-! ### A chunk that fails (R339, R375) -/

/-- A strike is recorded against a unit. -/
def struckUnit (s : State) (u : Nat) : State :=
  (s.setCore u { s.core u with strikes := s.clk.dev :: recent s (s.core u).strikes }).bump (pgPair (u / 2)) 0x058 1

/-- A core is suspected after its unit has been struck. -/
def suspectedCore (s : State) (u n : Nat) : State :=
  unitLog ((struckUnit s u).setCore n { (struckUnit s u).core n with suspect := true, suspectAt := s.clk.dev }) 0x6205 (pairOwner s (u / 2)) n

/-- Whether the chunk that fails is the repetition of one that failed in the last 60 s. -/
def repeatsFailure (s : State) (n : Nat) : Bool := (s.core n).suspect && decide (s.clk.dev < (s.core n).suspectAt + 60000000000)

/-- What a failed chunk comes to: a repetition fences the core, and a first failure is a suspicion, which fences it where the unit has a strike. -/
def answerFailure (s : State) (n : Nat) : State :=
  let u := unitOf s n
  if repeatsFailure s n then fenceUnit (struckUnit s u) n 0x6206 (some n)
  else if (recent s (s.core u).strikes).isEmpty then suspectedCore s u n
  else fenceUnit (suspectedCore s u n) n 0x6111 (some n)

/-- A failed chunk is counted first. -/
theorem chunkStrike_eq (s : State) (n : Nat) : chunkStrike s n = answerFailure (s.bump pgSt 0x0A0 1) n := by
  unfold answerFailure
  rw [bump_unitOf]
  rfl

theorem struckUnit_core (s : State) (u k : Nat) : (struckUnit s u).core k =
    if k = u then { s.core u with strikes := s.clk.dev :: recent s (s.core u).strikes } else s.core k := by
  rw [struckUnit, State.bump_core]
  split
  · next h => rw [h, State.setCore_core_self]
  · next h => exact State.setCore_core_ne _ _ h

theorem suspectedCore_core (s : State) (u n k : Nat) : (suspectedCore s u n).core k =
    if k = n then { (struckUnit s u).core n with suspect := true, suspectAt := s.clk.dev } else (struckUnit s u).core k := by
  rw [suspectedCore, State.core, unitLog_units, ← State.core]
  split
  · next h => rw [h, State.setCore_core_self]
  · next h => exact State.setCore_core_ne _ _ h

section
variable (s : State) (u n : Nat)

theorem struckUnit_frame : Frame [.fresh, .regs, .units, .log] s (struckUnit s u) :=
  State.bump_frame (State.setCore_frame (.refl _ s) (by decide)) (by decide)

theorem suspectedCore_frame : Frame [.fresh, .regs, .units, .log] s (suspectedCore s u n) :=
  unitLog_frame (State.setCore_frame (struckUnit_frame s u) (by decide)) (by decide)

theorem struckUnit_pair (i : Nat) : (struckUnit s u).pair i = s.pair i := State.bump_pair ..

theorem suspectedCore_pair (i : Nat) : (suspectedCore s u n).pair i = s.pair i := by
  rw [suspectedCore, State.pair, unitLog_units, ← State.pair]
  exact struckUnit_pair s u i

theorem struckUnit_fenced (k : Nat) : ((struckUnit s u).core k).fenced = (s.core k).fenced := by
  rw [struckUnit_core]
  split
  · next h => rw [h]
  · rfl

theorem suspectedCore_fenced (k : Nat) : ((suspectedCore s u n).core k).fenced = (s.core k).fenced := by
  rw [suspectedCore_core]
  split
  · next h => exact h ▸ struckUnit_fenced s u n
  · exact struckUnit_fenced s u k

end

/-- What leaves fences, modes and which cores are fused off leaves a unit to be fenced. -/
theorem fenceUnit_fenced_later {W : List Field} {a s : State} {n : Nat} (hF : Frame W a s) (hp : .procs ∉ W) (hu : .fuses ∉ W) (hb : .boot ∉ W)
    (hfences : ∀ k, (s.core k).fenced = (a.core k).fenced) (hmode : ∀ i, (s.pair i).safe = (a.pair i).safe) (hup : spUp a = true)
    (hfused : a.coreFused n = false) (h : coreFenced a n = false) (cause : Nat) (faulty : Option Nat) {k : Nat} (hk : k ∈ unitCores a (unitOf a n)) :
    ((fenceUnit s n cause faulty).core k).fenced = true := by
  refine fenceUnit_fenced ((spUp_of_frame hF hp).trans hup) ((coreFused_of_frame hF hu n).trans hfused) ?_ cause faulty ?_
  · rwa [coreFenced_of_fences hfences hmode (hF.same .boot hb)]
  · rwa [unitCores_congr hmode, unitOf_congr hmode]

section
variable {s : State} {n : Nat}

/-- The first failure of a core in 60 s, with no other strike of its unit: the core is suspected and the unit struck. -/
theorem answerFailure_first (hs : recent s (s.core (unitOf s n)).strikes = [])
    (hr : (s.core n).suspect = false ∨ (s.core n).suspectAt + 60000000000 ≤ s.clk.dev) :
    ((answerFailure s n).core n).testing = (s.core n).testing ∧ ((answerFailure s n).core n).suspect = true ∧
      ((answerFailure s n).core n).suspectAt = (answerFailure s n).clk.dev ∧
      ((answerFailure s n).core (unitOf s n)).strikes = [(answerFailure s n).clk.dev] := by
  have hfirst : repeatsFailure s n = false := by
    rw [repeatsFailure]
    obtain hr | hr := hr
    · rw [hr, Bool.false_and]
    · rw [decide_eq_false (Nat.not_lt.2 hr), Bool.and_false]
  have hsuspected : answerFailure s n = suspectedCore s (unitOf s n) n := by
    rw [answerFailure, hfirst, if_neg Bool.false_ne_true, hs]
    rfl
  have hstrikes : ((struckUnit s (unitOf s n)).core (unitOf s n)).strikes = [s.clk.dev] := by rw [struckUnit_core, if_pos rfl, hs]
  rw [hsuspected, (suspectedCore_frame s (unitOf s n) n).same .clk (by decide)]
  refine ⟨?_, ?_, ?_, ?_⟩
  · rw [suspectedCore_core, if_pos rfl, struckUnit_core]
    split
    · next h => rw [← h]
    · rfl
  · rw [suspectedCore_core, if_pos rfl]
  · rw [suspectedCore_core, if_pos rfl]
  · rw [suspectedCore_core]
    split
    · next h => exact (congrArg (fun k => ((struckUnit s (unitOf s n)).core k).strikes) h.symm).trans hstrikes
    · exact hstrikes

/-- A repetition that fails, or a failure beside another strike of the unit, fences the unit. -/
theorem answerFailure_fenced (hs : recent s (s.core (unitOf s n)).strikes ≠ [] ∨ (s.core n).suspect = true ∧ s.clk.dev < (s.core n).suspectAt + 60000000000)
    (hup : spUp s = true) (hfused : s.coreFused n = false) (h : coreFenced s n = false) {k : Nat} (hk : k ∈ unitCores s (unitOf s n)) :
    ((answerFailure s n).core k).fenced = true := by
  unfold answerFailure
  extract_lets u
  split
  · exact fenceUnit_fenced_later (struckUnit_frame s u) (by decide) (by decide) (by decide) (struckUnit_fenced s u)
      (fun i => congrArg PairSt.safe (struckUnit_pair s u i)) hup hfused h _ _ hk
  next hfirst =>
  have hstruck : recent s (s.core u).strikes ≠ [] := by
    refine hs.resolve_right fun ⟨hsus, hnow⟩ => hfirst ?_
    rw [repeatsFailure, hsus, decide_eq_true hnow]
    rfl
  rw [if_neg (by simpa using hstruck)]
  exact fenceUnit_fenced_later (suspectedCore_frame s u n) (by decide) (by decide) (by decide) (suspectedCore_fenced s u n)
    (fun i => congrArg PairSt.safe (suspectedCore_pair s u n i)) hup hfused h _ _ hk

end

theorem chunkCompleteOp_failed {s : State} {n : Nat} (ht : (s.core n).testing = true) (hup : spUp s = true)
    (hset : s.selftest.coreBank.lookup n = none) : ∃ y, ChunkEnded n s y ∧ chunkCompleteOp s n false = answerFailure y n := by
  obtain ⟨y, hy, hop⟩ := chunkCompleteOp_of_active ht hup hset false
  exact ⟨y.bump pgSt 0x0A0 1, hy.bump .., hop.trans (chunkStrike_eq y n)⟩

/-! ### Coverage (R376, R382, R384, R439) -/

/-- A core whose coverage age passes its limit is OVERDUE, and stays so where its unit is withdrawn at once (R341). -/
theorem overdueOp_of_old {s : State} {n : Nat} (hfused : s.coreFused n = false) (ho : (s.core n).overdue = false)
    (h : 900000000000 < covAgeNs s n) : ((overdueOp s n).core n).overdue = true := by
  unfold overdueOp
  rw [if_neg (by simp [hfused, ho, h])]
  extract_lets p src s1 u
  have h1 : (s1.core n).overdue = true := by
    unfold s1
    rw [State.core, unitLog_units, State.bump_units, ← State.core, State.setCore_core_self]
  split
  · split
    · exact (moveCore_latchesHold ..).overdue n h1
    · exact h1
  · exact h1

section
variable {s : State} {n : Nat} (hn : s.boot.coverage.elem n = true) (hup : spUp s = true)
include hn hup

/-- A recorded core that passes its run is covered, and the fences of R179 that are due come last. -/
theorem coverageRunOp_passed : ∃ y, coverageRunOp s n true = dueFences y ∧ y.boot.coverage = s.boot.coverage.filter (fun c => c != n) ∧
    (y.core n).progress = 0 ∧ (y.core n).covAge = y.clk.opTime := by
  unfold coverageRunOp
  rw [if_neg (by rw [hn, hup]; exact Bool.false_ne_true)]
  extract_lets u s1 boot s2
  refine ⟨coverageDone (settleCore s2 u) n, if_pos rfl, ?_, ?_, ?_⟩
  · have hF : Frame [.fresh, .regs, .units, .log] s2 (coverageDone (settleCore s2 u) n) :=
      coverageDone_frame (settleCore_frame (.refl _ s2) (by decide)) (List.Subset.refl _)
    rw [hF.same .boot (by decide)]
    exact congrArg (fun x : BootSt => x.coverage.filter (fun c => c != n))
      ((account_frame (.refl [.fresh, .regs, .units] s) (List.Subset.refl _)).same .boot (by decide))
  · rw [coverageDone_core]
  · rw [coverageDone_core, coverageDone_clk]

/-- One that fails is fenced for this start, in a SAFE pair with its partner. -/
theorem coverageRunOp_failed : (coverageRunOp s n false).boot.coverage = s.boot.coverage.filter (fun c => !(unitCores s (unitOf s n)).elem c) ∧
    ∀ k ∈ unitCores s (unitOf s n), ((coverageRunOp s n false).core k).fenced = true := by
  unfold coverageRunOp
  rw [if_neg (by rw [hn, hup]; exact Bool.false_ne_true)]
  extract_lets u s1 boot _ us s2 s3 o
  rw [if_neg Bool.false_ne_true]
  have hus : us = unitCores s u := unitCores_congr (account_retunes s u).mode u
  have hboot : s2.boot.coverage = s.boot.coverage.filter (fun c => !us.elem c) :=
    congrArg (fun x : BootSt => x.coverage.filter (fun c => !us.elem c))
      ((account_frame (.refl [.fresh, .regs, .units] s) (List.Subset.refl _)).same .boot (by decide))
  have hF : Frame [.fresh, .mem, .regs, .units] s2 (if (s3.pair (n / 2)).safe || (s3.core o).clk == .off || s3.inRun o then s3
      else settleCore (wakeUnit s3 o) o) :=
    frame_ite (powerOff_frame (.refl _ s2) (by decide))
      (settleCore_frame (wakeUnit_frame (powerOff_frame (.refl _ s2) (by decide)) (by decide)) (by decide))
  refine ⟨?_, fun k hk => ?_⟩
  · rw [hF.same .boot (by decide), hboot, hus]
  · have hoff : (s3.core k).fenced = true := powerOff_fenced s2 (hus ▸ hk)
    split
    · exact hoff
    · exact ((wakeUnit_latchesHold s3 o).trans (settleCore_latchesHold _ o)).fenced k hoff

end

/-! ### Pattern sets (R379) -/

theorem patternCheck_atTime (t : Nat) (s : State) : patternCheck (atTime t s) = patternCheck s := by
  unfold patternCheck
  rfl

section
variable {s : State} (hs : s.selftest.staged = 1) (hup : spUp s = true)
include hs hup

theorem patternVerifiedOp_of_good (h : patternCheck s = none) :
    patternVerifiedOp s = { s with selftest := { s.selftest with staged := 2, busy := false } } := by
  unfold patternVerifiedOp
  dsimp only
  rw [if_neg (by rw [hs, hup]; exact Bool.false_ne_true), h]

theorem patternVerifiedOp_of_refused {code : Nat} (h : patternCheck s = some code) :
    patternVerifiedOp s = ({ s with selftest := { s.selftest with staged := 3, busy := false } }).pageErr pgSt 2 code 1 := by
  unfold patternVerifiedOp
  dsimp only
  rw [if_neg (by rw [hs, hup]; exact Bool.false_ne_true), h]

end

/-- Settles O58: the end of a chunk leaves every core's tests but that it tests no more, and its result, the suspicion and the strikes decide the rest;
coverage runs, ages and the checks of a set by the rules of their commands. -/
theorem chunksCoverTheCores : Obligations.ChunksCoverTheCores := by
  refine ⟨fun t n s hp h => ⟨_, rfl, chunkGrantOp_of_grantable (s := atTime t s) hp h⟩, fun t n s ht hrun hset => ?_,
    fun t n s hfused ho h => ⟨_, rfl, overdueOp_of_old (s := atTime t s) hfused ho h⟩, fun t n s hn hrun => ?_, fun t s hs hrun => ?_⟩
  · have hup : spUp s = true := beq_iff_eq.2 hrun
    refine ⟨?_, fun hnone hfirst => ?_, fun hagain hfused hfree => ?_⟩
    · obtain ⟨y, hy, hop⟩ := chunkCompleteOp_of_active (s := atTime t s) ht hup hset true
      have hcount : chunkCount y s.selftest.activeBank n = chunkCount s s.selftest.activeBank n := chunkCount_of_mem (hy.frame.same .mem (by decide)) _ _
      have hprogress : (y.core n).progress = (s.core n).progress := hy.progress n
      have hcore := chunkPassed_core y n s.selftest.activeBank
      rw [hcount, hprogress] at hcore
      refine ⟨chunkPassed y n s.selftest.activeBank, congrArg Host.Outcome.next hop, ?_⟩
      rw [hcore, chunkPassed_clk]
      split
      · next hlast => exact ⟨hy.idle, rfl, fun h => absurd h (Nat.not_lt.2 hlast), fun _ => ⟨rfl, rfl, rfl⟩⟩
      · next hmore => exact ⟨hy.idle, rfl, fun _ => congrArg (· + 1) hprogress, fun h => absurd h hmore⟩
    · obtain ⟨y, hy, hop⟩ := chunkCompleteOp_failed (s := atTime t s) ht hup hset
      obtain ⟨htesting, hsuspect, hat, hstrikes⟩ := answerFailure_first (hy.recent_strikes.trans hnone)
        (by rw [hy.suspect, hy.suspectAt, hy.clk]; exact hfirst)
      rw [hy.unitOf] at hstrikes
      exact ⟨_, congrArg Host.Outcome.next hop, htesting.trans hy.idle, hsuspect, hat, hstrikes⟩
    · obtain ⟨y, hy, hop⟩ := chunkCompleteOp_failed (s := atTime t s) ht hup hset
      refine ⟨_, congrArg Host.Outcome.next hop, fun k hk => answerFailure_fenced ?_ ((spUp_of_frame hy.frame (by decide)).trans hup)
        ((coreFused_of_frame hy.frame (by decide) n).trans hfused) ((hy.coreFenced n).trans hfree) (by rw [hy.unitCores, hy.unitOf]; exact hk)⟩
      rw [hy.recent_strikes, hy.suspect, hy.suspectAt, hy.clk]
      exact hagain
  · have hup : spUp s = true := beq_iff_eq.2 hrun
    obtain ⟨y, hop, hy⟩ := coverageRunOp_passed (s := atTime t s) hn hup
    exact ⟨⟨y, congrArg Host.Outcome.next hop, hy⟩, _, rfl, coverageRunOp_failed (s := atTime t s) hn hup⟩
  · have hup : spUp s = true := beq_iff_eq.2 hrun
    exact ⟨_, rfl, fun hgood => patternVerifiedOp_of_good (s := atTime t s) hs hup ((patternCheck_atTime t s).trans hgood),
      fun code hbad => patternVerifiedOp_of_refused (s := atTime t s) hs hup ((patternCheck_atTime t s).trans hbad)⟩

end Sys2Proof.Machine
end

section
/-! A clear of the Press's counters while a request waits at an arbiter (R86, R187, R191): the clear first counts what the Press has done up to now, so the
request is granted and its beats are counted on the page of the partition that made it, which is another page than the one cleared. -/

namespace Sys2Proof.Machine

/-- Claimed with session 7; a request of partition 1 waits for the DRAM controller, one of one beat. -/
def claimedWaiting : State :=
  { State.reset with
    link := { LinkSt.reset with host := .claimed, session := 7, version := 0x0100 }
    press := { State.reset.press with waiting := [⟨arbDram, 1, 4, 1, 1⟩] } }

theorem hostCan_claimedWaiting : HostCan (atTime 0 claimedWaiting) ⟨0, 7⟩ 0x180 :=
  ⟨⟨rfl, by decide +kernel, rfl⟩, by decide +kernel, by decide +kernel, (rfl : fusedPage _ .press = false)⟩

theorem claimedWaiting_counter : claimedWaiting.counter (pgPressP 1) 0x0A0 = 0 := rfl

/-- The clear of page 0x180 has counted the beat on partition 1's page. -/
theorem hostWrite_claimedWaiting_counter :
    (hostWrite (atTime 0 claimedWaiting) ⟨0, 7⟩ 0x180 0x04C 1).counter (pgPressP 1) 0x0A0 = 1 := by decide +kernel

/-- Refutes O26: a clear of the PRESS page counts the beats of a waiting request on its partition's page, though the page that is cleared is no core's. -/
theorem not_pageCommandsActOnTheirPage : ¬ Obligations.PageCommandsActOnTheirPage := by
  intro h
  obtain ⟨-, -, -, hclear⟩ := h 0 ⟨0, 7⟩ 0x180 0x180 .press claimedWaiting hostCan_claimedWaiting rfl
  obtain ⟨u, hexec, -, -, hother⟩ := hclear 0x04C rfl
  have hu : u = hostWrite (atTime 0 claimedWaiting) ⟨0, 7⟩ 0x180 0x04C 1 := (Host.Outcome.next.inj hexec).symm
  have hkept := hother (pgPressP 1) 0x0A0 (by decide) (by decide) nofun
  rw [hu, hostWrite_claimedWaiting_counter, claimedWaiting_counter] at hkept
  cases hkept

end Sys2Proof.Machine
end

section
/-! An 802.1AS message with a bad FCS that names no port (R525): the statement lets it name any number, the page of such a "port" can be a partition's
page, and that page counts only while its CNT_EN is 1 (R86, R320). -/

namespace Sys2Proof.Machine

/-- A reserved bit of PART_CTRL is set and CNT_EN is 0 on the page of partition 0. -/
def partNotCounting : State := (State.reset.setForce (addr (pgPart 0) 0x040) (2 ^ 31)).setForce (addr (pgPart 0) 0x098) 0

/-- The number whose port page would be the page of partition 0. -/
def beyondPorts : GptpMsg := ⟨pgPart 0 - pgPort 0, 0, 0, 0, false⟩

theorem gptpOp_beyondPorts_counter : (gptpOp (atTime 0 partNotCounting) beyondPorts).counter (pgPart 0) 0x060 = 0 := by decide +kernel

/-- Refutes O60: its first clause bounds the port of a message nowhere, and on a page that is no port's nothing counts where CNT_EN is 0. -/
theorem not_timeAndPortsFollow : ¬ Obligations.TimeAndPortsFollow := by
  rintro ⟨hfcs, -⟩
  obtain ⟨u, hexec, -, hcount⟩ := hfcs 0 beyondPorts partNotCounting rfl rfl (by decide +kernel)
  have hu : u = gptpOp (atTime 0 partNotCounting) beyondPorts := (Host.Outcome.next.inj hexec).symm
  have hzero : partNotCounting.counter (pgPart 0) 0x060 = 0 := rfl
  rw [hu, show pgPort beyondPorts.port = pgPart 0 from rfl, gptpOp_beyondPorts_counter, hzero] at hcount
  cases hcount

end Sys2Proof.Machine
end

section
/-! Host frames (R390–R393, R398): counting and sending change the counters and the outputs alone, so what a good frame brings about is read from the state
it finds. -/

namespace Sys2Proof.Machine

/-! ### Counting and sending -/

/-- The state with other counters. -/
def State.withCounters (s : State) (c : List (Nat × Nat)) : State := { s with regs := { s.regs with counters := c } }

/-- The state with other counters, once something has left the module. -/
def State.sent (s : State) (o : List Output) (c : List (Nat × Nat)) : State := { s.withCounters c with out := s.out ++ o }

theorem State.bump_eq (s : State) (page off n : Nat) : ∃ c, s.bump page off n = s.withCounters c := by
  unfold State.bump
  split
  · exact ⟨_, rfl⟩
  · exact ⟨s.regs.counters, rfl⟩

theorem countRx_eq (s : State) (port : Nat) (counted : Bool) : ∃ c, countRx s port counted = s.withCounters c := by
  obtain ⟨c, hc⟩ := s.bump_eq (pgPort (8 + port)) 0x050 1
  unfold countRx
  rw [hc]
  split
  · exact State.bump_eq ..
  · exact ⟨c, rfl⟩

theorem hostSend_eq (s : State) (port : Nat) (dst : BitVec 48) (tag : Option (Nat × Nat)) (frame : Bytes) :
    ∃ c, hostSend s port dst tag frame = s.sent [.host port dst tag frame] c := by
  unfold hostSend
  obtain ⟨c, hc⟩ := (s.emit (.host port dst tag frame)).bump_eq pgHost 0x088 1
  rw [hc]
  exact State.bump_eq ..

/-- A part that is neither the outputs nor the registers is as it was after counting and sending. -/
theorem State.sent_same (s : State) (o : List Output) (c : List (Nat × Nat)) : ∀ g, g ≠ .out → g ≠ .regs → Same g s (s.sent o c) := by
  intro g ho hr
  cases g with
  | out => exact absurd rfl ho
  | regs => exact absurd rfl hr
  | settings => exact ⟨rfl, rfl⟩
  | commits => exact fun _ => ⟨rfl, rfl, rfl, rfl⟩
  | _ => rfl

/-! ### Good frames -/

/-- A good frame of the TYPE that a row takes is counted, then carried out. -/
theorem onFrame_of_good {s : State} {port typ : Nat} {f : HostFrame} {r : HostReq} (h : hostRx s port f = .good r) (ht : r.typ = typ)
    (act : State → HostReq → State) : ∃ c, onFrame s port f typ act = act (s.withCounters c) r := by
  obtain ⟨c, hc⟩ := countRx_eq s port true
  exact ⟨c, by simp only [onFrame, h, if_pos ht, hc]⟩

/-- The state in which a claim of H1 runs beside one of H0 (R411). -/
def h0Marked (s : State) : State := { s with link := { s.link with h0First := true } }

/-- Whether or not H0 claims at the same instant, a request runs in the state it finds but for that mark, which is taken back. -/
theorem besideH0_cases (s : State) (t : Nat) (port : Fin 2) (op : State → State) :
    besideH0 s t port op = op s ∨
      besideH0 s t port op = { op (h0Marked s) with link := { (op (h0Marked s)).link with h0First := s.link.h0First } } := by
  unfold besideH0
  split
  · exact .inr rfl
  · exact .inl rfl

/-! ### Kept answers (R398) -/

/-- A REG_REQ whose answer is kept sends that answer again. -/
theorem regRequest_of_kept {s : State} {port : Fin 2} {r : HostReq} {a : Bytes} (h : keptAnswer s.link.kept port.val r = some a) (f : HostFrame) :
    ∃ c, regRequest s port f r = s.sent [.host port.val f.src (portTag s port.val) a] c := by
  obtain ⟨c, hc⟩ := s.bump_eq pgHost 0x090 1
  simp only [regRequest, h, hc]
  exact hostSend_eq ..

theorem bulkWriteOp_of_kept {s : State} {port : Nat} {r : HostReq} {a : Bytes} (h : keptAnswer s.link.keptBulk port r = some a) (f : HostFrame) :
    ∃ c, bulkWriteOp s port f r = s.sent [.host port f.src (portTag s port) a] c := by
  obtain ⟨c, hc⟩ := s.bump_eq pgHost 0x090 1
  simp only [bulkWriteOp, h, hc]
  exact hostSend_eq ..

/-- A REG_REQ whose answer is kept, wherever H0's claim stands: nothing is carried out that the mark could change. -/
theorem regReqOp_of_kept {s : State} {port : Fin 2} {f : HostFrame} {r : HostReq} {a : Bytes} (hrx : hostRx s port.val f = .good r) (ht : r.typ = 1)
    (hk : keptAnswer s.link.kept port.val r = some a) : ∃ c, regReqOp s port f = s.sent [.host port.val f.src (portTag s port.val) a] c := by
  obtain ⟨c, hc⟩ := onFrame_of_good hrx ht (fun s r => regRequest s port f r)
  rw [regReqOp, hc]
  exact regRequest_of_kept (s := s.withCounters c) hk f

/-- Settles O16: a request whose answer is kept is counted and its answer sent again; it reaches neither the registers nor the memories. -/
theorem requestsAreNotRepeated : Obligations.RequestsAreNotRepeated := by
  refine ⟨fun t port f s r a hrx ht hk => ?_, fun t port f s r a hrx ht hk => ?_⟩
  · have hsent : ∃ c, besideH0 (atTime t s) t port (fun s => regReqOp s port f) =
        (atTime t s).sent [.host port.val f.src (portTag s port.val) a] c := by
      obtain h | h := besideH0_cases (atTime t s) t port (fun s => regReqOp s port f)
      · rw [h]
        exact regReqOp_of_kept (s := atTime t s) hrx ht hk
      · obtain ⟨c, hc⟩ := regReqOp_of_kept (s := h0Marked (atTime t s)) (f := f) hrx ht hk
        rw [h, hc]
        exact ⟨c, rfl⟩
    obtain ⟨c, hc⟩ := hsent
    exact ⟨_, congrArg Host.Outcome.next hc, rfl, rfl, State.sent_same _ _ c⟩
  · obtain ⟨c, hc⟩ := onFrame_of_good hrx ht (fun s r => bulkWriteOp s port.val f r)
    obtain ⟨c', hc'⟩ := bulkWriteOp_of_kept (s := (atTime t s).withCounters c) hk f
    exact ⟨_, congrArg Host.Outcome.next (hc.trans hc'), rfl, rfl, State.sent_same (atTime t s) _ c'⟩

/-! ### Frames that no row takes (R390, R393, R525) -/

theorem counting_hostPort (s : State) (port : Fin 2) : s.counting (pgPort (8 + port.val)) = true := by
  have hb : blockOf (pgPort (8 + port.val)) = some (.port (8 + port.val), 0x018) := by revert port; decide
  rw [State.counting, hb]
  rfl

theorem counting_host (s : State) : s.counting pgHost = true := rfl

/-- A frame is received on a port and one thing more is counted of it. -/
theorem countRx_bump_countedOnly {s : State} {page off : Nat} (port : Nat) (hc : s.counting page = true)
    (hne : addr page off ≠ addr (pgPort (8 + port)) 0x050) : CountedOnly s ((countRx s port false).bump page off 1) page off :=
  received_bump_countedOnly (8 + port) hc hne

/-- Settles O20: each class of frame is counted in its own counter, and only a good frame of a reserved TYPE is answered. -/
theorem framesThatNoneTakes : Obligations.FramesThatNoneTakes := by
  intro t port f s
  have hcounted : ∀ {u : State} {page off : Nat}, dropOp (atTime t s) port.val f = u → CountedOnly (atTime t s) u page off →
      ∃ u, exec (.hostFrameDrop t port f) s = .next u ∧ u.out = s.out ∧ u.counter page off = (s.counter page off + 1) % 2 ^ 64 ∧
        ∀ g, g ≠ .regs → Same g (atTime t s) u := by
    intro u page off hu h
    obtain ⟨hcount, hsame⟩ := h.of_atTime
    exact ⟨u, congrArg Host.Outcome.next hu, hsame .out (by decide), hcount, hsame⟩
  have hhost : ∀ {off : Nat}, off < 4096 → addr pgHost off ≠ addr (pgPort (8 + port.val)) 0x050 := by
    intro off hoff
    unfold addr pgPort pgHost
    omega
  refine ⟨fun h => ?_, fun h => ?_, fun h => ?_, fun r h h1 h3 h5 => ?_⟩
  · exact hcounted (page := pgHost) (by simp only [dropOp, h]) (countRx_bump_countedOnly port.val (counting_host _) (hhost (by decide)))
  · exact hcounted (by simp only [dropOp, h, garbled])
      (countRx_bump_countedOnly port.val (counting_hostPort _ port) (by unfold addr; omega))
  · exact hcounted (page := pgHost) (by simp only [dropOp, h]) (countRx_bump_countedOnly port.val (counting_host _) (hhost (by decide)))
  · obtain ⟨c, hc⟩ := countRx_eq (atTime t s) port.val true
    obtain ⟨c', hc'⟩ := hostSend_eq ((atTime t s).withCounters c) port.val f.src (portTag s port.val) (hostFrame 2 0 r.tag r.session 0x9009 [])
    have hu : dropOp (atTime t s) port.val f = ((atTime t s).withCounters c).sent [.host port.val f.src (portTag s port.val)
        (hostFrame 2 0 r.tag r.session 0x9009 [])] c' := by
      simp only [dropOp, h, h1, h3, h5, or_self, if_false, hc]
      exact hc'
    exact ⟨_, congrArg Host.Outcome.next hu, State.sent_same (atTime t s) _ _, rfl⟩

end Sys2Proof.Machine
end

section
/-! Register requests (R394–R397, R405, R412, R413): what a write does while the link is up, in recovery too (R443), and what the answer of a request of one
operation says. -/

namespace Sys2Proof.Machine

/-! ### Writes while the link is up -/

/-- Nothing precedes an access while the link is up (R411). -/
theorem settleLink_of_linkUp {z : State} (h : LinkUp z) : settleLink z = z := by
  obtain ⟨_, hdue, hreset⟩ := h
  simp [settleLink, orphanOp, hdue, hreset]

theorem hostUp_of_linkUp {z : State} (h : LinkUp z) : hostUp z = true := by
  obtain ⟨hphase, _⟩ := h
  simpa [hostUp] using hphase

/-- A write beyond the common header takes effect at once where the host can write the page (R394, R405, R417, R443). -/
theorem regWrite_of_canUp {z : State} {w : Sender} {page off first : Nat} {b : Block} (h : HostCanUp z w page) (hb : blockOf page = some (b, first))
    (h1 : off < 4096) (h2 : off % 4 = 0) (h3 : 0x040 ≤ off) (v : Nat) :
    regWrite z w (addr page off) v = (writeBlock z w b page off v, ⟨0, v % 2 ^ 32⟩) := by
  obtain ⟨_, hs, hbusy, hf⟩ := h
  rw [hb] at hf
  have hp := blockOf_lt hb
  unfold regWrite
  rw [if_neg (by unfold addr; omega)]
  simp only [addr_div h1, addr_mod h1, hb, hbusy, hs, hf.1, Bool.or_true, Bool.not_true, Bool.false_eq_true, if_false,
    if_neg (Nat.not_lt.2 h3)]

theorem deadPage_of_canUp {z : State} {w : Sender} {page first : Nat} {b : Block} (h : HostCanUp z w page) (hb : blockOf page = some (b, first)) :
    deadPage z b = false := by
  obtain ⟨_, _, _, hf⟩ := h
  rw [hb] at hf
  exact hf.2

/-- A write of an RWS register changes its shadow alone (R413). -/
theorem writeBlock_of_rws {z : State} {b : Block} {off : Nat} (hd : deadPage z b = false) (ha : accOf b off = .rws) (w : Sender) (page v : Nat) :
    writeBlock z w b page off v = z.setShadow (regKey z b page off) v := by
  simp [writeBlock, ha, hd]

/-- A write of an RW register comes into force at once (R413). -/
theorem writeBlock_of_rw {z : State} {b : Block} {off : Nat} (hd : deadPage z b = false) (ha : accOf b off = .rw) (w : Sender) (page v : Nat) :
    writeBlock z w b page off v = latchIndex (z.setForce (regKey z b page off) v) b page off v := by
  simp [writeBlock, ha, hd]

/-! ### Requests of one operation -/

/-- A state as a request finds it: counted, and marked where H0 claims at the same instant (R411). -/
def foundAs (s : State) (mark : Bool) (c : List (Nat × Nat)) : State := { s.withCounters c with link := { s.link with h0First := mark } }

theorem linkUp_foundAs {s : State} {mark : Bool} {c : List (Nat × Nat)} : LinkUp (foundAs s mark c) ↔ LinkUp s := Iff.rfl

theorem hostCanUp_foundAs {s : State} {mark : Bool} {c : List (Nat × Nat)} {w : Sender} {page : Nat} :
    HostCanUp (foundAs s mark c) w page ↔ HostCanUp s w page := Iff.rfl

/-- A good REG_REQ is carried out on the state as it finds it; afterwards the link's mark alone is taken back. -/
theorem regReq_runs {s : State} {t : Nat} {port : Fin 2} {f : HostFrame} {r : HostReq} (hrx : hostRx (atTime t s) port.val f = .good r)
    (ht : r.typ = 1) :
    ∃ mark c l, exec (.regReq t port f) s = .next { regRequest (foundAs (atTime t s) mark c) port f r with link := l } := by
  obtain h | h := besideH0_cases (atTime t s) t port (fun s => regReqOp s port f)
  · obtain ⟨c, hc⟩ := onFrame_of_good hrx ht (fun s r => regRequest s port f r)
    exact ⟨s.link.h0First, c, _, congrArg Host.Outcome.next (h.trans hc)⟩
  · obtain ⟨c, hc⟩ := onFrame_of_good (s := h0Marked (atTime t s)) hrx ht (fun s r => regRequest s port f r)
    rw [regReqOp, hc] at h
    exact ⟨true, c, _, congrArg Host.Outcome.next h⟩

/-- The answer is kept and sent: what the request has written stands. -/
theorem answerReg_eq (s : State) (port : Nat) (f : HostFrame) (tag : Option (Nat × Nat)) (r : HostReq) (frame : Bytes) :
    ∃ l c, answerReg s port f tag r frame = ({ s with link := l } : State).sent [.host port f.src tag frame] c := by
  unfold answerReg
  split
  · exact ⟨_, hostSend_eq ..⟩
  · exact ⟨s.link, hostSend_eq ..⟩

/-- A request of one operation is that operation and its answer. -/
theorem regRequest_of_one {z : State} {port : Fin 2} {r : HostReq} (hup : LinkUp z) (hk : keptAnswer z.link.kept port.val r = none)
    (hl : r.payload.length = 12) (f : HostFrame) :
    regRequest z port f r = answerReg (regOperation z ⟨port, BitVec.ofNat 32 r.session⟩ r.payload).1 port.val f (portTag z port.val) r
      (hostFrame 2 0 r.tag r.session 0 (regOperation z ⟨port, BitVec.ofNat 32 r.session⟩ r.payload).2.1) := by
  have hfits : regFits r.payload = true := by simp [regFits, hl]
  have hslice : slice r.payload (12 * 0) 12 = r.payload := by simp [slice, ← hl]
  have hops : opsOf r.payload = [r.payload] := by
    simp only [opsOf, hl, Nat.reduceDiv, List.range_one, List.map_cons, List.map_nil, hslice]
  simp [regRequest, hk, hfits, hops, regOperations, settleLink_of_linkUp hup, hostUp_of_linkUp hup]

/-- A payload that is no whole number of operations is refused (R394). -/
theorem regRequest_of_unfit {z : State} {port : Fin 2} {r : HostReq} (hk : keptAnswer z.link.kept port.val r = none) (hfit : regFits r.payload = false)
    (f : HostFrame) : regRequest z port f r = answerReg z port.val f (portTag z port.val) r (hostFrame 2 0 r.tag r.session 0x9009 []) := by
  simp [regRequest, hk, hfit]

/-- The answer to an operation that was performed repeats it with RESULT 0 (R396). -/
def doneOp (kind a data : Nat) : Bytes := toBE 1 kind ++ toBE 1 0 ++ toBE 2 0 ++ toBE 4 a ++ toBE 4 data

theorem regOperation_of_write {z u : State} {w : Sender} {op : Bytes} {a : Nat} (hop : be op 0 1 = 2) (ha : be op 4 4 = a)
    (hw : regWrite z w a (be op 8 4) = (u, ⟨0, be op 8 4 % 2 ^ 32⟩)) : regOperation z w op = (u, doneOp 2 a (be op 8 4 % 2 ^ 32), true) := by
  simp [regOperation, hop, ha, hw, doneOp]

theorem regOperation_of_read {z : State} {op : Bytes} {a v : Nat} (hop : be op 0 1 = 1) (ha : be op 4 4 = a)
    (hr : regRead z a = (z, ⟨0, v⟩)) (w : Sender) : regOperation z w op = (z, doneOp 1 a v, true) := by
  simp [regOperation, hop, ha, hr, doneOp]

/-- PAGE_ID names the page: the first page of its row and its place there (R412, R418). -/
theorem regRead_pageId {page first : Nat} {b : Block} (hb : blockOf page = some (b, first)) (z : State) :
    regRead z (addr page 0) = (z, ⟨0, first * 2 ^ 16 + (page - first) * 2 ^ 8 + 1⟩) := by
  have hp := blockOf_lt hb
  unfold regRead
  rw [if_neg (by unfold addr; omega)]
  simp [addr_div, addr_mod, hb, readHeader]

/-- What a request of one operation leaves, once that operation is known: its writes stand and its answer leaves. -/
theorem regReq_of_one {s u : State} {t : Nat} {port : Fin 2} {f : HostFrame} {r : HostReq} {mark : Bool} {c : List (Nat × Nat)} {l : LinkSt}
    {a : Bytes} (hup : LinkUp (atTime t s)) (hk : keptAnswer s.link.kept port.val r = none) (hl : r.payload.length = 12)
    (hop : regOperation (foundAs (atTime t s) mark c) ⟨port, BitVec.ofNat 32 r.session⟩ r.payload = (u, a, true)) (ho : u.out = s.out)
    (hexec : exec (.regReq t port f) s = .next { regRequest (foundAs (atTime t s) mark c) port f r with link := l }) :
    ∃ v, exec (.regReq t port f) s = .next v ∧ v.regs.force = u.regs.force ∧ v.regs.shadow = u.regs.shadow ∧
      v.out = s.out ++ [.host port.val f.src (portTag s port.val) (hostFrame 2 0 r.tag r.session 0 a)] := by
  obtain ⟨k, c', hans⟩ := answerReg_eq u port.val f (portTag s port.val) r (hostFrame 2 0 r.tag r.session 0 a)
  have hreq := regRequest_of_one (z := foundAs (atTime t s) mark c) (linkUp_foundAs.2 hup) hk hl f
  rw [hop] at hreq
  rw [hreq.trans hans] at hexec
  exact ⟨_, hexec, rfl, rfl, congrArg (· ++ _) ho⟩

/-- Settles O17: one operation is one write or read of the state as the request finds it, and its answer leaves. -/
theorem regReqIsAnswered : Obligations.RegReqIsAnswered := by
  intro t port f s r page off first b hrx ht hk
  obtain ⟨mark, c, l, hexec⟩ := regReq_runs hrx ht
  refine ⟨fun hl ha hb h1 h2 => ⟨fun hop hcan h3 hacc => ?_, fun hop hcan h3 hacc => ?_, fun hop hup h0 => ?_⟩, fun hfit => ?_⟩
  · have hfound := (hostCanUp_foundAs (mark := mark) (c := c)).2 hcan
    have hw := regWrite_of_canUp hfound hb h1 h2 h3 (be r.payload 8 4)
    rw [writeBlock_of_rws (deadPage_of_canUp hfound hb) hacc] at hw
    obtain ⟨v, hv, hforce, hshadow, hout⟩ := regReq_of_one hcan.1 hk hl (regOperation_of_write hop ha hw) rfl hexec
    refine ⟨v, hv, ?_, hforce, hout⟩
    rw [State.shadowOf, hshadow]
    exact State.setShadow_shadowOf_self ..
  · have hfound := (hostCanUp_foundAs (mark := mark) (c := c)).2 hcan
    have hw := regWrite_of_canUp hfound hb h1 h2 h3 (be r.payload 8 4)
    rw [writeBlock_of_rw (deadPage_of_canUp hfound hb) hacc] at hw
    have hlatch : Frame [.regs, .plans] _ _ := latchIndex_frame (b := b) (page := page) (off := off) (value := be r.payload 8 4)
      (.refl _ ((foundAs (atTime t s) mark c).setForce (regKey (foundAs (atTime t s) mark c) b page off) (be r.payload 8 4))) (.refl _)
    obtain ⟨hkeepForce, hkeepShadow⟩ := hlatch.same .settings (by decide)
    obtain ⟨v, hv, hforce, hshadow, hout⟩ := regReq_of_one hcan.1 hk hl (regOperation_of_write hop ha hw) (hlatch.same .out (by decide)) hexec
    refine ⟨v, hv, ?_, hshadow.trans hkeepShadow, hout⟩
    rw [State.inForce, hforce.trans hkeepForce]
    exact State.setForce_inForce_self ..
  · subst h0
    have hread := regOperation_of_read hop ha (regRead_pageId hb (foundAs (atTime t s) mark c)) ⟨port, BitVec.ofNat 32 r.session⟩
    exact regReq_of_one (u := foundAs (atTime t s) mark c) hup hk hl hread rfl hexec
  · obtain ⟨k, c', hans⟩ := answerReg_eq (foundAs (atTime t s) mark c) port.val f (portTag s port.val) r (hostFrame 2 0 r.tag r.session 0x9009 [])
    rw [(regRequest_of_unfit (z := foundAs (atTime t s) mark c) hk hfit f).trans hans] at hexec
    exact ⟨_, hexec, rfl, rfl, rfl, rfl⟩

end Sys2Proof.Machine
end

section
/-! Claims (R405–R407, R411, R428): what DEV_CLAIM does while the link is up, how a session is recorded, and what a grant leaves. -/

namespace Sys2Proof.Machine

/-! ### A sector that is erased and written (R403, R428) -/

theorem mem_memPut {m : List Host.Cell} {a : Nat} {v : Byte} {c : Host.Cell} (h : c ∈ memPut m a v) : c ∈ m ∨ c.1 = a := by
  induction m with
  | nil =>
    unfold memPut at h
    split at h
    · cases h
    · exact .inr (congrArg Prod.fst (List.mem_singleton.1 h))
  | cons x r ih =>
    obtain ⟨j, w⟩ := x
    unfold memPut at h
    split at h
    · split at h
      · exact .inl h
      · exact (List.mem_cons.1 h).elim (fun e => .inr (congrArg Prod.fst e)) .inl
    split at h
    · split at h
      · exact .inl (List.mem_cons_of_mem _ h)
      · exact (List.mem_cons.1 h).elim (fun e => .inr (congrArg Prod.fst e)) fun e => .inl (List.mem_cons_of_mem _ e)
    · refine (List.mem_cons.1 h).elim (fun e => .inl (e ▸ List.mem_cons_self ..)) fun e => (ih e).imp_left (List.mem_cons_of_mem _)

/-- A byte that no entry holds reads back as written, whether memory is canonical or not. -/
theorem memGet_memPut_of_absent {m : List Host.Cell} {a : Nat} (h : ∀ c ∈ m, c.1 ≠ a) (v : Byte) : memGet (memPut m a v) a = v := by
  induction m with
  | nil =>
    unfold memPut
    split
    · next hv => exact hv.symm
    · exact if_pos rfl
  | cons x r ih =>
    obtain ⟨j, w⟩ := x
    have hj : j ≠ a := h (j, w) (List.mem_cons_self ..)
    have hr : ∀ c ∈ r, c.1 ≠ a := fun c hc => h c (List.mem_cons_of_mem _ hc)
    unfold memPut
    split
    · split
      · next hv => rw [memGet, if_neg hj, memGet_of_absent hr, hv]
      · exact if_pos rfl
    · rw [if_neg (Ne.symm hj), memGet, if_neg hj, ih hr]

/-- Bytes written to a range that holds no entry read back. -/
theorem State.rdN_wrN_of_absent (d : Bytes) {s : State} {a : Nat} (h : ∀ c ∈ s.mem, c.1 < a ∨ a + d.length ≤ c.1) :
    (s.wrN a d).rdN a d.length = d := by
  have hread : ∀ i (hi : i < d.length), (s.wrN a d).rd (a + i) = d[i] := by
    induction d generalizing s a with
    | nil => exact fun i hi => absurd hi (Nat.not_lt_zero i)
    | cons v r ih =>
      rw [List.length_cons] at h
      intro i hi
      cases i with
      | zero =>
        show ((s.wr a v).wrN (a + 1) r).rd a = v
        rw [State.rd_wrN_out r _ (.inl (Nat.lt_succ_self a))]
        exact memGet_memPut_of_absent (fun c hc => by have := h c hc; omega) v
      | succ j =>
        have hrest : ∀ c ∈ (s.wr a v).mem, c.1 < a + 1 ∨ a + 1 + r.length ≤ c.1 := fun c hc => by
          obtain hm | ha := mem_memPut hc
          · have := h c hm
            omega
          · omega
        rw [show a + (j + 1) = a + 1 + j by omega]
        exact ih hrest j (by simpa using hi)
  refine List.ext_getElem (by simp [State.rdN]) fun i h1 h2 => ?_
  simp only [State.rdN, List.getElem_map, List.getElem_range]
  exact hread i h2

theorem State.rd_wipe_out (s : State) {a n b : Nat} (h : b < a ∨ a + n ≤ b) : (s.wipe a n).rd b = s.rd b :=
  memGet_filter (f := fun x => !(decide (a ≤ x) && decide (x < a + n))) s.mem (by simp; omega)

/-- An erased range holds no entry. -/
theorem State.wipe_absent {s : State} {a n : Nat} {c : Host.Cell} (h : c ∈ (s.wipe a n).mem) : c.1 < a ∨ a + n ≤ c.1 := by
  have hc := (List.mem_filter.1 h).2
  simp only [Bool.not_eq_true', Bool.and_eq_false_iff, decide_eq_false_iff_not] at hc
  omega

theorem toLE_length (n v : Nat) : (toLE n v).length = n := by
  induction n generalizing v with
  | zero => rfl
  | succ n ih => rw [toLE, List.length_cons, ih]

theorem recordSession_rdN (s : State) (n : Nat) : (recordSession s n).rdN (sessionAt n) 4 = toLE 4 n := by
  have hw := State.rdN_wrN_of_absent (toLE 4 n) (s := s.wipe (sessionAt n) 65536) (a := sessionAt n) fun c hc => by
    have := State.wipe_absent hc
    rw [toLE_length]
    omega
  rwa [toLE_length] at hw

theorem recordSession_rd_out (s : State) (n : Nat) {x : Nat} (h : x < sessionAt n ∨ sessionAt n + 65536 ≤ x) : (recordSession s n).rd x = s.rd x := by
  rw [recordSession, State.rd_wrN_out _ _ (by rw [toLE_length]; omega), State.rd_wipe_out _ h]

/-! ### Grants (R407, R428) -/

/-- A grant over a state whose last session is that of an earlier one, which no session has followed since. -/
theorem grantClaim_granted {a s : State} (h : s.aon.session = a.aon.session) (port version : Nat) (warm : Bool) :
    Granted a (grantClaim s port version warm) port version warm := by
  unfold grantClaim
  rw [h]
  refine ⟨by simp, by simp, ?_, by simp, by simp, by simp, by simp, ?_⟩
  · simpa using (recordSession_frame (n := nextSession a.aon.session)
      (.refl [.mem] { s with aon := { s.aon with session := nextSession a.aon.session } }) (.refl _)).same .aon (by decide) ▸ rfl
  · simp only [State.rdN, State.rd, State.bump_mem]
    exact recordSession_rdN ..

theorem grantClaim_onlySession {a s : State} (h : s.aon.session = a.aon.session) (hm : s.mem = a.mem) (port version : Nat) (warm : Bool) :
    OnlySession a (grantClaim s port version warm) := by
  intro x hx
  unfold grantClaim
  rw [h, State.rd, State.bump_mem]
  refine (recordSession_rd_out _ _ hx).trans ?_
  simp only [State.rd, hm]

theorem grantClaim_plans (s : State) (port version : Nat) (warm : Bool) : (grantClaim s port version warm).plans = s.plans :=
  (grantClaim_frame (.refl [.mem, .regs, .link, .aon] s) (.refl _)).same .plans (by decide)

theorem grantClaim_resetting (s : State) (port version : Nat) (warm : Bool) : (grantClaim s port version warm).link.resetting = none := by
  simp [grantClaim]

/-! ### DEV_CLAIM (R405, R407, R410) -/

/-- A write of DEV_CLAIM at an instant at which nothing comes before it, in recovery too: any session may make it (R405, R443). -/
theorem hostWrite_claimOf {z : State} (w : Sender) (hup : hostUp z = true) (hs : settleLink z = z) (v : Nat) :
    hostWrite z w pgDev 0x05C v = claimCmd z w v := by
  have hb : blockOf 0 = some (.dev, 0) := rfl
  have hd : deadPage z .dev = false := by simp [deadPage, liveInRecovery]
  unfold hostWrite
  rw [if_pos hup, hs]
  unfold regWrite
  rw [if_neg (by decide)]
  simp only [show addr pgDev 0x05C / 4096 = 0 from rfl, show addr pgDev 0x05C % 4096 = 0x05C from rfl, hb]
  rw [if_neg (by simp [pageBusy, emulated]), if_neg (by simp [anySession]), if_neg (by simp [fusedPage]), if_neg (by decide)]
  show writeBlock z w .dev 0 0x05C v = _
  unfold writeBlock
  rw [show accOf .dev 0x05C = .wo from by decide]
  dsimp only
  rw [if_neg (by decide), hd]
  rfl

theorem hostWrite_claimUp {z : State} (w : Sender) (h : LinkUp z) (v : Nat) : hostWrite z w pgDev 0x05C v = claimCmd z w v :=
  hostWrite_claimOf w (hostUp_of_linkUp h) (settleLink_of_linkUp h) v

/-- The commands of DEV_CLAIM that a claim writes. -/
def claimValue (takeover reset : Bool) : Nat := (if takeover then 3 else 1) * 2 ^ 28 + (if reset then 2 ^ 27 else 0)

theorem claimValue_command (takeover reset : Bool) : bits (claimValue takeover reset) 31 28 = if takeover then 3 else 1 := by
  cases takeover <;> cases reset <;> rfl

theorem claimValue_reset (takeover reset : Bool) : bit (claimValue takeover reset) 27 = reset := by
  cases takeover <;> cases reset <;> rfl

/-- A claim that its state allows: none is being reset, no session stands in the way of a CLAIM nor H0's claim beside it, and a TAKEOVER finds a host. -/
theorem claimCmd_of_allowed {z : State} {w : Sender} {takeover : Bool} (hreset : z.link.resetting = none)
    (hhost : z.link.host ≠ if takeover then .unclaimed else .claimed) (hfirst : z.link.h0First = false) (reset : Bool) :
    claimCmd z w (claimValue takeover reset) = claimFrom z w.port.val (claimValue takeover reset) takeover reset := by
  unfold claimCmd
  rw [claimValue_command, claimValue_reset, hreset]
  cases takeover with
  | false =>
    have h : z.link.host ≠ .claimed := hhost
    simp [h, hfirst]
  | true =>
    have h : z.link.host ≠ .unclaimed := hhost
    simp [h]

/-- A CLAIM in CLAIMED, or one of H1 beside one of H0, is refused (R407, R411). -/
theorem claimCmd_of_taken {z : State} {w : Sender} (hreset : z.link.resetting = none)
    (h : z.link.host = .claimed ∨ z.link.h0First = true ∧ w.port.val = 1) :
    claimCmd z w (claimValue false false) = claimRefuse z w.port.val 0x9011 (claimValue false false) 3 := by
  unfold claimCmd
  rw [claimValue_command, hreset]
  simp [h]

/-- No claim is taken while a reset is in progress (R410). -/
theorem claimCmd_of_resetting {z : State} {w : Sender} (h : z.link.resetting.isSome = true) :
    claimCmd z w (claimValue false false) = z.pageErr pgDev 2 0x9011 (2 ^ 28) := by
  unfold claimCmd
  rw [claimValue_command]
  simp [h, claimRefuse, claimValue]

theorem claimRefuse_link (s : State) (port code value : Nat) {result : Nat} (h : result ≠ 0) :
    (claimRefuse s port code value result).link = { s.link with grant := grantWord result 0 port 0 } := by
  simp [claimRefuse, h]

theorem claimRefuse_plans (s : State) (port code value result : Nat) : (claimRefuse s port code value result).plans = s.plans := by
  unfold claimRefuse
  dsimp only
  split <;> simp

/-- A claim that a version fits is granted, once what it ends has been counted and logged (R406, R407). -/
theorem claimFrom_of_version {z : State} {v : Nat} {warm : Bool} (hw : warm = (List.range 8).any (fun p => (z.part p).st != .empty))
    (hv : claimVersion z warm = some v) (port value : Nat) (takeover : Bool) :
    ∃ y, Frame [.fresh, .regs, .log] z y ∧ claimFrom z port value takeover false = grantClaim y port v warm := by
  unfold claimFrom
  extract_lets held y y'
  have hheld : held = warm := hw.symm
  rw [hheld, hv]
  have hy : Frame [.fresh, .regs, .log] z y :=
    frame_ite (State.logEntry_frame (State.bump_frame (.refl _ z) (by decide)) (by decide)) (.refl _ z)
  exact ⟨y', frame_ite (State.logEntry_frame hy (by decide)) hy, rfl⟩

/-- What a claim over a quiet link leaves: a grant, and the partitions as they are. -/
theorem claimFrom_granted {t : Nat} {s : State} {v : Nat} {warm : Bool} (hw : warm = (List.range 8).any (fun p => (s.part p).st != .empty))
    (hv : claimVersion s warm = some v) (port value : Nat) (takeover : Bool) :
    Granted s (claimFrom (atTime t s) port value takeover false) port v warm ∧
      (claimFrom (atTime t s) port value takeover false).plans = s.plans ∧ OnlySession s (claimFrom (atTime t s) port value takeover false) := by
  obtain ⟨y, hy, hc⟩ := claimFrom_of_version (z := atTime t s) hw hv port value takeover
  have haon : y.aon.session = s.aon.session := congrArg AonSt.session (hy.same .aon (by decide))
  rw [hc, grantClaim_plans]
  exact ⟨grantClaim_granted haon .., hy.same .plans (by decide), grantClaim_onlySession haon (hy.same .mem (by decide)) port v warm⟩

/-! ### Claims at one instant (R411) -/

theorem besideH0_of_alone {s : State} {t : Nat} {port : Fin 2} (h : port = 0 ∨ h0Claims s t = false) (op : State → State) :
    besideH0 s t port op = op s := by
  refine if_neg fun ⟨hport, hclaims⟩ => ?_
  obtain rfl | hfalse := h
  · exact absurd hport (by decide)
  · rw [hfalse] at hclaims
    cases hclaims

theorem besideH0_of_claims {s : State} {t : Nat} (h : h0Claims s t = true) (op : State → State) :
    besideH0 s t 1 op = { op (h0Marked s) with link := { (op (h0Marked s)).link with h0First := s.link.h0First } } :=
  if_pos ⟨rfl, h⟩

theorem h0Claims_of_claimed {s : State} {t : Nat} (h : s.link.host = .claimed) : h0Claims s t = false := by simp [h0Claims, h]

theorem h0Claims_of_resetting {s : State} {t : Nat} (h : s.link.resetting.isSome = true) : h0Claims s t = false := by
  obtain ⟨p, hp⟩ := Option.isSome_iff_exists.1 h
  simp [h0Claims, hp]

theorem claimWrite_eq {s : State} {port : Fin 2} (h : LinkUp s) (takeover reset : Bool) :
    claimWrite s port takeover reset = claimCmd s (anyone port) (claimValue takeover reset) := hostWrite_claimUp _ h _

/-- RELEASE of the session's host with no partition RUNNING or STOPPING (R407). -/
theorem claimCmd_release {z : State} {w : Sender} (hhost : z.link.host = .claimed) (hs : currentSession z w.session = true)
    (hidle : ∀ p, p < 8 → z.active p = false) :
    claimCmd z w (2 * 2 ^ 28) = { z with link := { z.link with host := .unclaimed, session := 0, grant := grantWord 5 0 w.port.val 0 } } := by
  have hany : (List.range 8).any (fun p => z.active p) = false := List.any_eq_false.2 fun p hp => by simp [hidle p (List.mem_range.1 hp)]
  unfold claimCmd
  rw [show bits (2 * 2 ^ 28) 31 28 = 2 from rfl]
  simp [releaseCmd, hhost, hs, hany]

/-- Settles O21: a claim that nothing stands in the way of is a grant over the state as it is, and what stands in its way only refuses it. -/
theorem claimsAreGranted : Obligations.ClaimsAreGranted := by
  refine ⟨fun t port s warm v hup hfirst hw hv => ⟨fun hhost halone => ?_, fun hhost => ?_⟩, fun t port s hup hhost => ?_, fun t s hup hclaims => ?_,
    fun t w s hup hhost hs hidle => ?_⟩
  · have hu : besideH0 (atTime t s) t port (fun s => claimWrite s port false false) =
        claimFrom (atTime t s) port.val (claimValue false false) false false := by
      rw [besideH0_of_alone halone, claimWrite_eq hup]
      exact claimCmd_of_allowed (takeover := false) (z := atTime t s) (w := anyone port) hup.2.2 hhost hfirst false
    exact ⟨_, congrArg Host.Outcome.next hu, claimFrom_granted hw hv ..⟩
  · have hu : hostWrite (atTime t s) (anyone port) pgDev 0x05C (claimValue true false) =
        claimFrom (atTime t s) port.val (claimValue true false) true false := by
      rw [hostWrite_claimUp _ hup]
      exact claimCmd_of_allowed (takeover := true) (z := atTime t s) (w := anyone port) hup.2.2 hhost hfirst false
    exact ⟨_, congrArg Host.Outcome.next hu, claimFrom_granted hw hv ..⟩
  · have hu : besideH0 (atTime t s) t port (fun s => claimWrite s port false false) =
        claimRefuse (atTime t s) port.val 0x9011 (claimValue false false) 3 := by
      rw [besideH0_of_alone (.inr (h0Claims_of_claimed (s := atTime t s) hhost)), claimWrite_eq hup]
      exact claimCmd_of_taken (z := atTime t s) (w := anyone port) hup.2.2 (.inl hhost)
    exact ⟨_, congrArg Host.Outcome.next hu, claimRefuse_link _ _ _ _ (by decide), claimRefuse_plans ..⟩
  · have hop : claimWrite (h0Marked (atTime t s)) 1 false false = claimRefuse (h0Marked (atTime t s)) 1 0x9011 (claimValue false false) 3 := by
      rw [claimWrite_eq (s := h0Marked (atTime t s)) hup]
      exact claimCmd_of_taken (z := h0Marked (atTime t s)) (w := anyone 1) hup.2.2 (.inr ⟨rfl, rfl⟩)
    have hu := besideH0_of_claims hclaims (fun s => claimWrite s 1 false false)
    rw [hop] at hu
    refine ⟨_, congrArg Host.Outcome.next hu, ?_, claimRefuse_plans ..⟩
    rw [claimRefuse_link _ _ _ _ (by decide)]
    rfl
  · have hu : hostWrite (atTime t s) w pgDev 0x05C (2 * 2 ^ 28) = _ :=
      (hostWrite_claimUp w hup _).trans (claimCmd_release (z := atTime t s) hhost hs hidle)
    exact congrArg Host.Outcome.next hu

end Sys2Proof.Machine
end

section
/-! What the partitions run by (R291): what an UNLOAD, a STOP and a stop's end leave of each partition's state, its step, its plan and its mark of a
claim's reset, partition by partition, and what the heartbeat's timeout makes of it (R408, R409). -/

namespace Sys2Proof.Machine

/-- What a partition runs by: its state, whether a step is in progress, its plan, and whether a claim resets it. -/
structure PartRun where
  st : PState
  step : Bool
  plan : Option Plan
  resetting : Bool

def PartSt.toRun (x : PartSt) : PartRun := ⟨x.st, x.step.isSome, x.plan, x.resetting⟩

def runOf (s : State) (p : Nat) : PartRun := (s.part p).toRun

/-- RUNNING or STOPPING (R291). -/
def PartRun.active (r : PartRun) : Bool := r.st == .running || r.st == .stopping

/-- READY, with no plan. -/
def PartRun.unloaded : PartRun := ⟨.ready, false, none, false⟩

/-- After a STOP: STOPPING while a step is in progress, else at the stop's end, where a partition that a claim resets is unloaded (R317, R410). -/
def PartRun.stopped (b : Bool) (r : PartRun) : PartRun :=
  if r.step then { r with st := .stopping } else if r.resetting && b then .unloaded else { r with st := .loaded }

/-! ### What leaves them as they are -/

def KeepsRuns (a s : State) : Prop := ∀ p, runOf s p = runOf a p

theorem KeepsRuns.trans {a s u : State} (h : KeepsRuns a s) (k : KeepsRuns s u) : KeepsRuns a u := fun p => (k p).trans (h p)

theorem KeepsRuns.of_plans {a s : State} (h : s.plans = a.plans) : KeepsRuns a s := fun p => by rw [runOf, State.part, h, runOf, State.part]

theorem KeepsRuns.of_frame {W : List Field} {a s : State} (h : Frame W a s) (hp : .plans ∉ W) : KeepsRuns a s := .of_plans (h.same .plans hp)

theorem KeepsRuns.foldl {β : Type} {f : State → β → State} (hf : ∀ s b, KeepsRuns s (f s b)) (l : List β) (s : State) : KeepsRuns s (l.foldl f s) := by
  induction l generalizing s with
  | nil => exact fun _ => rfl
  | cons b l ih => exact (hf s b).trans (ih _)

theorem PartsKept.keepsRuns {a s : State} (h : PartsKept a s) : KeepsRuns a s := fun p => by
  obtain ⟨l, m, hp⟩ := h.part p
  rw [runOf, hp]
  rfl

theorem runOf_modPart (s : State) (p : Nat) (f : PartSt → PartSt) (q : Nat) :
    runOf (s.modPart p f) q = if q = p then (f (s.part p)).toRun else runOf s q := by
  split
  next h => rw [h, runOf, State.modPart_part_self]
  next h => rw [runOf, State.modPart_part_ne _ _ h, runOf]

theorem modPart_keepsRuns (s : State) (p : Nat) {f : PartSt → PartSt} (hf : ∀ x, (f x).toRun = x.toRun) : KeepsRuns s (s.modPart p f) := fun q => by
  rw [runOf_modPart, hf]
  split
  next h => rw [h, runOf]
  · rfl

theorem retireSeq_keepsRuns (s : State) (p i : Nat) : KeepsRuns s (retireSeq s p i) :=
  (PartsKept.keepsRuns (freeSequence_pagesOnly (s.setInstar i InstarEntry.reset) p i).partsKept).trans (.of_plans (State.bump_plans ..))

theorem refuseOpen_keepsRuns (s : State) (p : Nat) : KeepsRuns s (refuseOpen s p) := .of_plans (by simp [refuseOpen])

theorem openSeq_keepsRuns (s : State) (p : Nat) (o : PendingOpen) (first : Nat) : KeepsRuns s (openSeq s p o first).1 := by
  unfold openSeq
  split
  · exact refuseOpen_keepsRuns s p
  split
  · exact refuseOpen_keepsRuns s p
  next i _ _ z hz =>
    refine ((allocSequence_pagesOnly hz).partsKept.keepsRuns.trans ?_).trans (.of_plans (State.bump_plans ..))
    exact modPart_keepsRuns (z.setInstar i _) p fun _ => rfl

theorem hostOpen_keepsRuns (s : State) (p : Nat) (o : PendingOpen) (first : Nat) : KeepsRuns s (hostOpen s p o first) := by
  have h := openSeq_keepsRuns s p o first
  unfold hostOpen
  split
  next hz =>
    rw [hz] at h
    exact h.trans (modPart_keepsRuns _ p fun _ => rfl)
  next hz =>
    rw [hz] at h
    exact (h.trans (modPart_keepsRuns _ p (f := fun x => { x with openResult := if o.last then 0xC0000000#32 else x.openResult })
      fun _ => rfl)).trans (.of_plans (State.pageErr_plans ..))

/-! ### UNLOAD and STOP -/

/-- The parts of the state that an UNLOAD or a STOP may change while no claim's reset ends by it: settings, sessions and AON are not among them. -/
abbrev runFields : List Field := [.out, .fresh, .mem, .regs, .units, .plans, .vat, .press, .log, .net]

theorem unloadPart_runs (s : State) (p q : Nat) : runOf (unloadPart s p) q = if q = p then .unloaded else runOf s q := by
  unfold unloadPart
  extract_lets s1 x s2 s3 s4 s5
  have h2 : Frame [.vat] s1 s2 := by
    unfold s2
    split
    · exact releaseSlots_frame (.refl [.vat] s1) (.refl _)
    · exact .refl _ s1
  have h3 : Frame [.units] s2 s3 := frame_foldl _ (.refl _ s2) fun t _ h => modUnit_frame h (.refl _)
  have h4 : KeepsRuns s3 s4 := .foldl (f := fun s i => s.setInstar i InstarEntry.reset) (fun _ _ _ => rfl) _ s3
  have h5 : Frame [.vat] s4 s5 := frame_foldl _ (.refl _ s4) fun t _ h => frame_ite (State.setChan_frame h (.refl _)) h
  have hkeep : KeepsRuns s s5 := (((((abortStep_partsKept s p).keepsRuns.trans (.of_frame h2 (by decide))).trans (.of_frame h3 (by decide))).trans
    h4).trans (.of_frame h5 (by decide)))
  rw [runOf_modPart, hkeep q]
  rfl

/-- A STOPPING partition at its stop's end, before a claim's reset takes it: LOADED, and what was pending has taken effect (R317). -/
def loadedNow (s : State) (p : Nat) : State :=
  let s := s.modPart p (fun x => { x with st := .loaded, launchNs := none })
  let s := (openIndices s p).foldl (fun s i => if (s.instarAt i).st = 2 then retireSeq s p i else s) s
  let os := (s.part p).opens
  let s := s.modPart p (fun x => { x with opens := [] })
  os.foldl (fun s o => hostOpen s p o 0) s

theorem stopAtEnd_eq {s : State} {p : Nat} (h : (s.part p).st = .stopping) :
    stopAtEnd s p = if ((loadedNow s p).part p).resetting && (loadedNow s p).link.resetting.isSome then finishReset (unloadPart (loadedNow s p) p)
      else loadedNow s p := by
  unfold stopAtEnd
  rw [if_pos (by rw [h]; rfl)]
  rfl

theorem loadedNow_frame (s : State) (p : Nat) : Frame runFields s (loadedNow s p) := by
  unfold loadedNow
  extract_lets s1 s2 os s3
  have h1 : Frame runFields s s1 := State.modPart_frame (.refl _ s) (by decide)
  have h2 : Frame runFields s s2 := frame_foldl _ h1 fun t _ h => frame_ite (retireSeq_frame h (by decide)) h
  exact frame_foldl _ (State.modPart_frame h2 (by decide)) fun t _ h => hostOpen_frame h (by decide)

theorem loadedNow_runs (s : State) (p q : Nat) : runOf (loadedNow s p) q = if q = p then { runOf s p with st := .loaded } else runOf s q := by
  unfold loadedNow
  extract_lets s1 s2 os s3
  have h2 : KeepsRuns s1 s2 := .foldl (fun s i => by
    split
    · exact retireSeq_keepsRuns s p i
    · exact fun _ => rfl) _ s1
  have h3 : KeepsRuns s2 s3 := modPart_keepsRuns s2 p fun _ => rfl
  have h4 : KeepsRuns s3 (os.foldl (fun s o => hostOpen s p o 0) s3) := .foldl (fun s o => hostOpen_keepsRuns s p o 0) _ s3
  rw [((h2.trans h3).trans h4) q, runOf_modPart]
  rfl

/-- A partition that a claim resets and whose step is in progress. -/
def PartRun.held (r : PartRun) : Bool := r.resetting && r.active && r.step

/-- A claim's reset goes on while a partition that it stops has a step in progress (R410). -/
theorem finishReset_of_held {s : State} {p : Nat} (hp : p < 8) (h : (runOf s p).held = true) : finishReset s = s := by
  simp only [PartRun.held, Bool.and_eq_true] at h
  obtain ⟨⟨hreset, hactive⟩, -⟩ := h
  have hany : (List.range 8).any (fun p => (s.part p).resetting && (s.active p || (s.part p).st == .suspended)) = true :=
    List.any_eq_true.2 ⟨p, List.mem_range.2 hp, by
      have hr : (s.part p).resetting = true := hreset
      have ha : s.active p = true := hactive
      rw [hr, ha]
      rfl⟩
  unfold finishReset
  split
  · rfl
  · rw [if_pos hany]

/-- A STOP while no claim's reset can end. -/
theorem stopOp_stops {s : State} (p : Nat) (h : s.link.resetting = none ∨ ∃ q, q < 8 ∧ (runOf s q).held = true) :
    Frame runFields s (stopOp s p) ∧
      ∀ q, runOf (stopOp s p) q = if q = p then (runOf s p).stopped s.link.resetting.isSome else runOf s q := by
  cases hstep : (s.part p).step with
  | some st =>
    have hsome : (runOf s p).step = true := by simp [runOf, PartSt.toRun, hstep]
    rw [stopOp_of_step (by rw [hstep]; rfl), PartRun.stopped, if_pos hsome]
    exact ⟨State.modPart_frame (.refl _ s) (by decide), runOf_modPart s p _⟩
  | none =>
    have hnone : (runOf s p).step = false := by simp [runOf, PartSt.toRun, hstep]
    have hstopped : (runOf s p).stopped s.link.resetting.isSome =
        if (runOf s p).resetting && s.link.resetting.isSome then .unloaded else { runOf s p with st := .loaded } := by
      rw [PartRun.stopped, if_neg (by rw [hnone]; exact Bool.false_ne_true)]
    rw [stopOp_of_no_step hstep, stopAtEnd_eq (by rw [State.modPart_part_self]), hstopped]
    generalize hm : s.modPart p (fun x => { x with st := .stopping }) = m
    have hmrun : ∀ q, runOf m q = if q = p then { runOf s p with st := .stopping } else runOf s q := fun q => by
      rw [← hm, runOf_modPart]
      rfl
    have hF : Frame runFields s (loadedNow m p) := (hm ▸ State.modPart_frame (.refl _ s) (by decide) : Frame runFields s m).trans (loadedNow_frame m p)
    have hrun : ∀ q, runOf (loadedNow m p) q = if q = p then { runOf s p with st := .loaded } else runOf s q := fun q => by
      rw [loadedNow_runs, hmrun, hmrun, if_pos rfl]
      split <;> rfl
    have hreset : ((loadedNow m p).part p).resetting = (runOf s p).resetting := by
      rw [show ((loadedNow m p).part p).resetting = (runOf (loadedNow m p) p).resetting from rfl, hrun, if_pos rfl]
    have hlink : (loadedNow m p).link = s.link := hF.same .link (by decide)
    rw [hreset, hlink]
    split
    next hends =>
      have hun : ∀ q, runOf (unloadPart (loadedNow m p) p) q = if q = p then .unloaded else runOf s q := fun q => by
        rw [unloadPart_runs]
        split
        · rfl
        next hq => rw [hrun, if_neg hq]
      obtain hn | ⟨q, hq, hheld⟩ := h
      · rw [hn] at hends
        simp at hends
      have hne : q ≠ p := fun e => by
        rw [e, PartRun.held, hnone] at hheld
        simp at hheld
      rw [finishReset_of_held hq (by rw [hun, if_neg hne]; exact hheld)]
      exact ⟨unloadPart_frame hF (.refl _), hun⟩
    · exact ⟨hF, hrun⟩

/-! ### One partition after another -/

/-- Operations on the partitions in order, each with its own effect on what its partition runs by and none on the others. -/
theorem runOf_foldl {I : State → Prop} {f : State → Nat → State} {g : Nat → PartRun → PartRun}
    (hf : ∀ s p, I s → p < 8 → I (f s p) ∧ ∀ q, runOf (f s p) q = if q = p then g p (runOf s p) else runOf s q) {s : State} (hI : I s) :
    I ((List.range 8).foldl f s) ∧ ∀ q, q < 8 → runOf ((List.range 8).foldl f s) q = g q (runOf s q) := by
  have hn : ∀ n, n ≤ 8 → I ((List.range n).foldl f s) ∧ ∀ q, runOf ((List.range n).foldl f s) q = if q < n then g q (runOf s q) else runOf s q := by
    intro n
    induction n with
    | zero => exact fun _ => ⟨hI, fun q => rfl⟩
    | succ n ih =>
      intro hle
      obtain ⟨hIn, hruns⟩ := ih (Nat.le_of_succ_le hle)
      obtain ⟨hIs, hlast⟩ := hf _ n hIn hle
      rw [List.range_succ, List.foldl_append]
      refine ⟨hIs, fun q => ?_⟩
      rw [List.foldl_cons, List.foldl_nil, hlast, hruns, hruns, if_neg (Nat.lt_irrefl n)]
      by_cases hq : q = n
      · rw [if_pos hq, if_pos (by omega), hq]
      · rw [if_neg hq]
        by_cases hl : q < n
        · rw [if_pos hl, if_pos (by omega)]
        · rw [if_neg hl, if_neg (by omega)]
  obtain ⟨hI8, h8⟩ := hn 8 (Nat.le_refl 8)
  exact ⟨hI8, fun q hq => (h8 q).trans (if_pos hq)⟩

/-- A change of what only some partitions run by. -/
theorem runOf_ite {s u : State} {p q : Nat} {c : Prop} [Decidable c] {r : PartRun} (h : runOf u q = if q = p then r else runOf s q) :
    runOf (if c then u else s) q = if q = p then (if c then r else runOf s p) else runOf s q := by
  by_cases hc : c
  · simpa only [if_pos hc] using h
  · simp only [if_neg hc]
    split
    next hq => rw [hq]
    · rfl

/-! ### Heartbeats (R408, R409) -/

theorem hostWrite_heartbeat {z : State} {w : Sender} (h : HostCan z w 0) (v : Nat) :
    hostWrite z w pgDev 0x068 v = { z with link := { z.link with hbAt := z.clk.dev } } := by
  rw [show pgDev = 0 from rfl, hostWrite_command h rfl (by decide) (by decide) (by decide) (by decide) (by decide)]
  rfl

/-- The host is ORPHAN, and its timeout counted and logged. -/
def orphaned (s : State) : State :=
  ({ s with link := { s.link with host := .orphan, session := 0 } }.bump pgDev 0x088 1).logEntry 0x9101 0xFF 0xFF 0

theorem orphanOp_of_due {s : State} (h : hbDue s = true) :
    orphanOp s = (List.range 8).foldl (fun s p => if (s.part p).st == .running && !s.isRT p then stopOp s p else s) (orphaned s) := if_pos h

/-- RUNNING BEST_EFFORT partitions stop, the others run on; the host stays ORPHAN. -/
theorem orphanOp_runs {s : State} (h : hbDue s = true) (hr : s.link.resetting = none) :
    (orphanOp s).link = { s.link with host := .orphan, session := 0 } ∧
      ∀ p, p < 8 → runOf (orphanOp s) p = if (runOf s p).st == .running && !s.isRT p then (runOf s p).stopped false else runOf s p := by
  have h0 : Frame [.fresh, .regs, .log, .link] s (orphaned s) :=
    State.logEntry_frame (State.bump_frame (Frame.set_link (.refl _ s) (by decide)) (by decide)) (by decide)
  have hlink : (orphaned s).link = { s.link with host := .orphan, session := 0 } := by simp [orphaned]
  have hnone : (orphaned s).link.resetting = none := by rw [hlink]; exact hr
  have hfold := runOf_foldl (I := fun u => Frame runFields (orphaned s) u)
    (f := fun s p => if (s.part p).st == .running && !s.isRT p then stopOp s p else s)
    (g := fun p r => if r.st == .running && !s.isRT p then r.stopped false else r) (fun u p hu _ => ?_) (.refl _ (orphaned s))
  · rw [orphanOp_of_due h]
    obtain ⟨hF, hruns⟩ := hfold
    refine ⟨(hF.same .link (by decide)).trans hlink, fun p hp => ?_⟩
    rw [hruns p hp, KeepsRuns.of_frame h0 (by decide) p]
  · have hru : u.link.resetting = none := by rw [hu.same .link (by decide)]; exact hnone
    have hrt : u.isRT p = s.isRT p := by
      rw [State.isRT, State.partReg, hu.inForce (by decide), h0.inForce (by decide), State.isRT, State.partReg]
    obtain ⟨hF, hruns⟩ := stopOp_stops p (.inl hru)
    rw [hru] at hruns
    refine ⟨frame_ite (hu.trans hF) hu, fun q => ?_⟩
    rw [← hrt]
    exact runOf_ite (hruns q)

/-- Settles O23: the write is one assignment, and the timeout's stops leave each partition as it says, whatever the others do. -/
theorem heartbeatsKeepTheHost : Obligations.HeartbeatsKeepTheHost := by
  refine ⟨fun t w v s h => congrArg Host.Outcome.next (hostWrite_heartbeat h v.toNat), fun t s h hr => ?_⟩
  obtain ⟨hlink, hruns⟩ := orphanOp_runs h hr
  refine ⟨orphanOp (atTime t s), rfl, by rw [hlink], by rw [hlink], fun p hp hst => ⟨fun hrt => ?_, fun hrt => ?_⟩⟩
  · have hp := congrArg PartRun.st (hruns p hp)
    rw [if_neg (by simp [show (atTime t s).isRT p = true from hrt])] at hp
    exact hp.trans hst
  · have hp := congrArg PartRun.st (hruns p hp)
    have hrun : (runOf (atTime t s) p).st = .running := hst
    rw [if_pos (by simp [hrun, show (atTime t s).isRT p = false from hrt]), PartRun.stopped] at hp
    have hu : ((orphanOp (atTime t s)).part p).st = (runOf (orphanOp (atTime t s)) p).st := rfl
    rw [hu, hp]
    split <;> simp

end Sys2Proof.Machine
end

section
/-! Claims with RESET = 1 (R410): the marks, the unloads and the stops with which a reset begins, and the grant that ends it. -/

namespace Sys2Proof.Machine

@[simp] theorem runOf_st (s : State) (p : Nat) : (runOf s p).st = (s.part p).st := rfl
@[simp] theorem runOf_step (s : State) (p : Nat) : (runOf s p).step = (s.part p).step.isSome := rfl
@[simp] theorem runOf_plan (s : State) (p : Nat) : (runOf s p).plan = (s.part p).plan := rfl
@[simp] theorem runOf_resetting (s : State) (p : Nat) : (runOf s p).resetting = (s.part p).resetting := rfl
theorem runOf_active (s : State) (p : Nat) : (runOf s p).active = s.active p := rfl

/-! ### A reset begins -/

/-- RESETTING is told, and the session is over. -/
def resetNoted (s : State) (port : Nat) : State :=
  let s := s.logEntry 0x9104 0xFF 0xFF 0
  { s with link := { s.link with session := 0, resetting := some port, grant := grantWord 4 0 port 0 } }

/-- The RUNNING and STOPPING partitions are those that the reset waits for. -/
def markedReset (s : State) : State :=
  (List.range 8).foldl (fun s p => if s.active p then s.modPart p (fun x => { x with resetting := true }) else s) s

/-- The plans of the LOADED and SUSPENDED partitions are unloaded. -/
def unloadedIdle (s : State) : State :=
  (List.range 8).foldl (fun s p => if (s.part p).st == .loaded || (s.part p).st == .suspended then unloadPart s p else s) s

/-- The RUNNING partitions stop. -/
def stoppedRunning (s : State) : State :=
  (List.range 8).foldl (fun s p => if (s.part p).st == .running then stopOp s p else s) s

theorem beginReset_eq (s : State) (port : Nat) : beginReset s port = finishReset (stoppedRunning (unloadedIdle (markedReset (resetNoted s port)))) := rfl

theorem resetNoted_frame (s : State) (port : Nat) : Frame [.fresh, .regs, .log, .link] s (resetNoted s port) :=
  Frame.set_link (State.logEntry_frame (.refl _ s) (by decide)) (by decide)

theorem resetNoted_link (s : State) (port : Nat) :
    (resetNoted s port).link = { s.link with session := 0, resetting := some port, grant := grantWord 4 0 port 0 } := by simp [resetNoted]

def PartRun.marked (r : PartRun) : PartRun := if r.active then { r with resetting := true } else r

def PartRun.idleUnloaded (r : PartRun) : PartRun := if r.st == .loaded || r.st == .suspended then .unloaded else r

def PartRun.runningStopped (r : PartRun) : PartRun := if r.st == .running then r.stopped true else r

theorem markedReset_runs (s : State) : Frame [.plans] s (markedReset s) ∧ ∀ p, p < 8 → runOf (markedReset s) p = (runOf s p).marked :=
  runOf_foldl (I := fun u => Frame [.plans] s u) (g := fun _ r => r.marked) (fun u p hu _ => by
    refine ⟨frame_ite (State.modPart_frame hu (by decide)) hu, fun q => ?_⟩
    exact runOf_ite (runOf_modPart u p _ q)) (.refl _ s)

theorem unloadedIdle_runs (s : State) : Frame runFields s (unloadedIdle s) ∧ ∀ p, p < 8 → runOf (unloadedIdle s) p = (runOf s p).idleUnloaded :=
  runOf_foldl (I := fun u => Frame runFields s u) (g := fun _ r => r.idleUnloaded) (fun u p hu _ => by
    refine ⟨frame_ite (unloadPart_frame hu (.refl _)) hu, fun q => ?_⟩
    exact runOf_ite (unloadPart_runs u p q)) (.refl _ s)

/-- What a reset leaves of each partition before it is seen whether it is over, with nothing changed of settings, sessions and AON since it was noted. -/
def resetBegun (s : State) (port : Nat) : State := unloadedIdle (markedReset (resetNoted s port))

theorem resetBegun_runs (s : State) (port : Nat) :
    Frame runFields (resetNoted s port) (resetBegun s port) ∧
      ∀ p, p < 8 → runOf (resetBegun s port) p = (runOf s p).marked.idleUnloaded := by
  obtain ⟨hm, hmruns⟩ := markedReset_runs (resetNoted s port)
  obtain ⟨hu, huruns⟩ := unloadedIdle_runs (markedReset (resetNoted s port))
  refine ⟨(hm.mono (by decide)).trans hu, fun p hp => ?_⟩
  rw [resetBegun, huruns p hp, hmruns p hp, KeepsRuns.of_frame (resetNoted_frame s port) (by decide) p]

/-! ### A reset with nothing to wait for -/

theorem stoppedRunning_of_none {s : State} (h : ∀ p, p < 8 → (s.part p).st ≠ .running) : stoppedRunning s = s :=
  List.foldlRecOn (motive := fun u => u = s) _ _ rfl fun u hu p hp => by
    rw [hu, if_neg (by simpa using h p (List.mem_range.1 hp))]

/-- PART_PAIRS of every partition is cleared. -/
def emptied (s : State) : State := (List.range 8).foldl (fun s p => applyPart (s.setBoth (addr (pgPart p) 0x044) 0) p) s

theorem finishReset_of_idle {s : State} {port : Nat} (hr : s.link.resetting = some port)
    (h : ∀ p, p < 8 → s.active p = false ∧ (s.part p).st ≠ .suspended) :
    finishReset s = grantClaim (emptied s) port ((claimVersion (emptied s) false).getD 0x0100) false := by
  have hany : (List.range 8).any (fun p => (s.part p).resetting && (s.active p || (s.part p).st == .suspended)) = false :=
    List.any_eq_false.2 fun p hp => by
      obtain ⟨ha, hs⟩ := h p (List.mem_range.1 hp)
      simp [ha, hs]
  unfold finishReset
  rw [hr]
  exact if_neg (by rw [hany]; exact Bool.false_ne_true)

def PartRun.emptied (r : PartRun) : PartRun := if r.st == .empty || r.st == .ready then { r with st := .empty } else r

theorem setBoth_inForce_self (s : State) (k v : Nat) : (s.setBoth k v).inForce k = v % 2 ^ 32 := State.setForce_inForce_self ..

theorem setBoth_inForce_ne (s : State) {k j : Nat} (v : Nat) (h : j ≠ k) : (s.setBoth k v).inForce j = s.inForce j := State.setForce_inForce_ne (s := s) v h

/-- A partition that is EMPTY or READY is EMPTY once its page names no pair (R291). -/
theorem applyPart_runs {s : State} {p : Nat} (h : s.partReg p 0x044 = 0) (q : Nat) :
    runOf (applyPart s p) q = if q = p then (runOf s p).emptied else runOf s q := by
  unfold applyPart
  extract_lets x pairs engs s1 s2
  refine runOf_ite (c := (x.st == .empty || x.st == .ready) = true) (r := { runOf s p with st := .empty }) ?_
  have h1 : Frame [.units] s s1 := frame_foldl _ (.refl _ s) fun t _ hF => by
    dsimp only
    exact frame_ite (State.setPair_frame hF (.refl _)) (frame_ite (State.setPair_frame hF (.refl _)) hF)
  have h2 : Frame [.units] s s2 := frame_foldl _ h1 fun t _ hF => by
    dsimp only
    exact frame_ite (State.setEngine_frame hF (.refl _)) (frame_ite (State.setEngine_frame hF (.refl _)) hF)
  have hpart : s2.part p = s.part p := congrArg (fun x : Plans => sget PartSt.reset x.parts p) (h2.same .plans (by decide))
  have hpairs : bits pairs 19 0 = 0 := by
    rw [show pairs = 0 from h]
    rfl
  rw [runOf_modPart, hpart, KeepsRuns.of_frame h2 (by decide) q]
  simp only [hpairs]
  rfl

theorem emptied_runs (s : State) :
    (Frame [.regs, .units, .plans, .settings] s (emptied s) ∧ (emptied s).inForce (addr pgDev 0x058) = s.inForce (addr pgDev 0x058)) ∧
      ∀ p, p < 8 → runOf (emptied s) p = (runOf s p).emptied :=
  runOf_foldl (I := fun u => Frame [.regs, .units, .plans, .settings] s u ∧ u.inForce (addr pgDev 0x058) = s.inForce (addr pgDev 0x058))
    (f := fun s p => applyPart (s.setBoth (addr (pgPart p) 0x044) 0) p) (g := fun _ r => r.emptied) (fun u p hu hp => by
    obtain ⟨hF, hv⟩ := hu
    have hz : (u.setBoth (addr (pgPart p) 0x044) 0).partReg p 0x044 = 0 := setBoth_inForce_self u (addr (pgPart p) 0x044) 0
    have hbase : pgPart p ≠ 0 := by rw [pgPart]; omega
    have hne : addr pgDev 0x058 ≠ addr (pgPart p) 0x044 := by simp only [addr, pgDev, pgPart]; omega
    refine ⟨⟨applyPart_frame (State.setBoth_frame hF (by decide)) (by decide), ?_⟩, fun q => applyPart_runs hz q⟩
    rw [(applyPart_frame (.refl [.units, .plans] _) (.refl _)).inForce (by decide), setBoth_inForce_ne u 0 hne]
    exact hv) ⟨.refl _ s, rfl⟩

theorem claimVersion_cold {a s : State} (h : s.inForce (addr pgDev 0x058) = a.inForce (addr pgDev 0x058)) : claimVersion s false = claimVersion a false := by
  simp [claimVersion, h]

/-- A partition that is neither RUNNING nor STOPPING has no plan left. -/
theorem PartRun.idle_after {r : PartRun} (h : r.active = false) : r.marked.idleUnloaded.st = .empty ∨ r.marked.idleUnloaded.st = .ready := by
  rw [PartRun.marked, if_neg (by rw [h]; exact Bool.false_ne_true), PartRun.idleUnloaded]
  unfold PartRun.active at h
  cases hs : r.st <;> simp [hs, PartRun.unloaded] at h ⊢

/-- A reset that finds no partition RUNNING or STOPPING is over at once: a cold grant, and every partition EMPTY. -/
theorem beginReset_of_idle {a s : State} {port v : Nat} (haon : s.aon.session = a.aon.session) (hv : claimVersion s false = some v)
    (hidle : ∀ p, p < 8 → s.active p = false) :
    Granted a (beginReset s port) port v false ∧ (beginReset s port).link.resetting = none ∧ ∀ p, p < 8 → ((beginReset s port).part p).st = .empty := by
  obtain ⟨hF, hruns⟩ := resetBegun_runs s port
  have hN := resetNoted_frame s port
  have hst : ∀ p, p < 8 → ((resetBegun s port).part p).st = .empty ∨ ((resetBegun s port).part p).st = .ready := fun p hp => by
    have ha : (runOf s p).active = false := (runOf_active s p).trans (hidle p hp)
    rw [← runOf_st, hruns p hp]
    exact PartRun.idle_after ha
  have hrunning : ∀ p, p < 8 → ((resetBegun s port).part p).st ≠ .running := fun p hp he => by
    obtain h | h := hst p hp <;> exact absurd (h.symm.trans he) nofun
  have hover : finishReset (resetBegun s port) =
      grantClaim (emptied (resetBegun s port)) port ((claimVersion (emptied (resetBegun s port)) false).getD 0x0100) false := by
    refine finishReset_of_idle ?_ fun p hp => ⟨?_, fun he => ?_⟩
    · rw [hF.same .link (by decide), resetNoted_link]
    · obtain h | h := hst p hp <;> simp [State.active, h]
    · obtain h | h := hst p hp <;> exact absurd (h.symm.trans he) nofun
  obtain ⟨⟨hE, hforce⟩, heruns⟩ := emptied_runs (resetBegun s port)
  have hver : claimVersion (emptied (resetBegun s port)) false = some v := by
    rw [claimVersion_cold (a := s) (by rw [hforce, hF.inForce (by decide), hN.inForce (by decide)]), hv]
  have hfin : beginReset s port = grantClaim (emptied (resetBegun s port)) port v false := by
    rw [beginReset_eq, ← resetBegun, stoppedRunning_of_none hrunning, hover, hver]
    rfl
  have hsess : (emptied (resetBegun s port)).aon = s.aon :=
    (hE.same .aon (by decide)).trans ((hF.same .aon (by decide)).trans (hN.same .aon (by decide)))
  rw [hfin]
  refine ⟨grantClaim_granted (by rw [hsess, haon]) .., grantClaim_resetting .., fun p hp => ?_⟩
  have hgrant : runOf (grantClaim (emptied (resetBegun s port)) port v false) p = _ := KeepsRuns.of_plans (grantClaim_plans ..) p
  rw [← runOf_st, hgrant, heruns p hp, PartRun.emptied]
  obtain h | h := hst p hp <;> simp [h]

/-! ### A reset that waits for a step -/

theorem PartRun.held_runningStopped {r : PartRun} (h : r.held = true) : r.runningStopped.held = true := by
  unfold PartRun.runningStopped
  split
  · simp only [PartRun.held, Bool.and_eq_true] at h
    obtain ⟨⟨hreset, -⟩, hstep⟩ := h
    simp [PartRun.stopped, PartRun.held, PartRun.active, hreset, hstep]
  · exact h

/-- The stops of a reset that waits for a step: its own partitions stop, and the reset goes on. -/
theorem stoppedRunning_runs {s : State} {port q : Nat} (hr : s.link.resetting = some port) (hq : q < 8) (h : (runOf s q).held = true) :
    (Frame runFields s (stoppedRunning s) ∧ (runOf (stoppedRunning s) q).held = true) ∧
      ∀ p, p < 8 → runOf (stoppedRunning s) p = (runOf s p).runningStopped :=
  runOf_foldl (I := fun u => Frame runFields s u ∧ (runOf u q).held = true) (g := fun _ r => r.runningStopped) (fun u p hu _ => by
    obtain ⟨hF, hheld⟩ := hu
    have hru : u.link.resetting = some port := by rw [hF.same .link (by decide), hr]
    obtain ⟨hS, hruns⟩ := stopOp_stops p (.inr ⟨q, hq, hheld⟩)
    rw [hru] at hruns
    have hall : ∀ i, runOf (if (u.part p).st == .running then stopOp u p else u) i = if i = p then (runOf u p).runningStopped else runOf u i :=
      fun i => runOf_ite (hruns i)
    refine ⟨⟨frame_ite (hF.trans hS) hF, ?_⟩, hall⟩
    rw [hall]
    split
    next hqp =>
      rw [hqp] at hheld
      exact PartRun.held_runningStopped hheld
    · exact hheld) ⟨.refl _ s, h⟩

/-- A partition whose step a reset waits for is STOPPING and marked. -/
theorem PartRun.awaited {r : PartRun} (ha : r.active = true) (hs : r.step = true) :
    r.marked.idleUnloaded.held = true ∧ r.marked.idleUnloaded.runningStopped.st = .stopping ∧ r.marked.idleUnloaded.runningStopped.resetting = true := by
  have hmark : r.marked.idleUnloaded = { r with resetting := true } := by
    rw [PartRun.marked, if_pos ha, PartRun.idleUnloaded, if_neg]
    unfold PartRun.active at ha
    cases hst : r.st <;> simp [hst] at ha ⊢
  rw [hmark]
  refine ⟨by simpa [PartRun.held, PartRun.active, hs] using ha, ?_⟩
  unfold PartRun.runningStopped
  unfold PartRun.active at ha
  split
  · rw [PartRun.stopped, if_pos hs]
    exact ⟨rfl, rfl⟩
  next hne =>
    refine ⟨?_, rfl⟩
    cases hst : r.st <;> simp [hst] at ha hne ⊢

/-- A LOADED or SUSPENDED partition is unloaded by a reset. -/
theorem PartRun.released {r : PartRun} (h : r.st = .loaded ∨ r.st = .suspended) : r.marked.idleUnloaded.runningStopped = .unloaded := by
  have hidle : r.active = false := by obtain h | h := h <;> simp [PartRun.active, h]
  have hun : r.marked.idleUnloaded = .unloaded := by
    rw [PartRun.marked, if_neg (by rw [hidle]; exact Bool.false_ne_true), PartRun.idleUnloaded, if_pos]
    obtain h | h := h <;> simp [h]
  rw [hun]
  rfl

theorem beginReset_of_step {s : State} {port q : Nat} (hq : q < 8) (ha : s.active q = true) (hs : (s.part q).step.isSome = true) :
    (beginReset s port).link = { s.link with session := 0, resetting := some port, grant := grantWord 4 0 port 0 } ∧
      ∀ p, p < 8 → runOf (beginReset s port) p = (runOf s p).marked.idleUnloaded.runningStopped := by
  obtain ⟨hF, hruns⟩ := resetBegun_runs s port
  have hlink : (resetBegun s port).link = _ := (hF.same .link (by decide)).trans (resetNoted_link s port)
  have hheld : (runOf (resetBegun s port) q).held = true := by
    rw [hruns q hq]
    exact (PartRun.awaited (r := runOf s q) ((runOf_active s q).trans ha) hs).1
  obtain ⟨⟨hS, hstill⟩, hsruns⟩ := stoppedRunning_runs (by rw [hlink]) hq hheld
  rw [beginReset_eq, ← resetBegun, finishReset_of_held hq hstill]
  exact ⟨(hS.same .link (by decide)).trans hlink, fun p hp => by rw [hsruns p hp, hruns p hp]⟩

/-! ### The claim itself -/

/-- A claim with RESET = 1 that a version fits begins its reset, once what it ends has been counted and logged. -/
theorem claimFrom_of_reset {z : State} {v : Nat} (hv : claimVersion z false = some v) (port value : Nat) (takeover : Bool) :
    ∃ y, Frame [.fresh, .regs, .log] z y ∧ claimFrom z port value takeover true = beginReset y port := by
  unfold claimFrom
  extract_lets held y y'
  have hheld : held = false := rfl
  rw [hheld, hv]
  exact ⟨y, frame_ite (State.logEntry_frame (State.bump_frame (.refl _ z) (by decide)) (by decide)) (.refl _ z), if_pos rfl⟩

/-- No claim is taken while a reset waits for a partition: nothing comes before the write. -/
theorem settleLink_of_waiting {z : State} (hdue : hbDue z = false) (hwait : ∃ p, p < 8 ∧ (z.part p).resetting = true ∧ z.active p = true)
    (hnone : ∀ p, p < 8 → (z.part p).resetting = true → (z.part p).st ≠ .suspended) : settleLink z = z := by
  have horphan : orphanOp z = z := by simp [orphanOp, hdue]
  have hfold : (List.range 8).foldl (fun s p => if (s.part p).resetting && (s.part p).st == .suspended then unloadPart s p else s) z = z :=
    List.foldlRecOn (motive := fun u => u = z) _ _ rfl fun u hu p hp => by
      rw [hu, if_neg]
      simpa using hnone p (List.mem_range.1 hp)
  have hover : finishReset z = z := by
    obtain ⟨p, hp, hr, ha⟩ := hwait
    have hany : (List.range 8).any (fun p => (z.part p).resetting && (z.active p || (z.part p).st == .suspended)) = true :=
      List.any_eq_true.2 ⟨p, List.mem_range.2 hp, by simp [hr, ha]⟩
    unfold finishReset
    split
    · rfl
    · rw [if_pos hany]
  unfold settleLink
  simp only [horphan, hfold, hover, ite_self]

/-- Settles O22: the reset is followed partition by partition through its marks, unloads and stops to its end or to the step that it waits for. -/
theorem claimResetLeavesNothing : Obligations.ClaimResetLeavesNothing := by
  refine ⟨fun t port tk s v hup hfirst halone hhost hv => ?_, fun t port s hphase hdue hreset hwait hnone => congrArg Host.Outcome.next ?_⟩
  · have hu : besideH0 (atTime t s) t port (fun s => claimWrite s port tk true) = claimFrom (atTime t s) port.val (claimValue tk true) tk true := by
      rw [besideH0_of_alone halone, claimWrite_eq hup]
      exact claimCmd_of_allowed (z := atTime t s) (w := anyone port) hup.2.2 hhost hfirst true
    obtain ⟨y, hy, hc⟩ := claimFrom_of_reset (z := atTime t s) hv port.val (claimValue tk true) tk
    have hpart : ∀ p, y.part p = s.part p := fun p => congrArg (fun x : Plans => sget PartSt.reset x.parts p) (hy.same .plans (by decide))
    have hactive : ∀ p, y.active p = s.active p := fun p => by rw [State.active, hpart, State.active]
    have hver : claimVersion y false = some v := (claimVersion_cold (hy.inForce (by decide) _)).trans hv
    have haon : y.aon.session = s.aon.session := congrArg AonSt.session (hy.same .aon (by decide))
    have hexec : exec (.claimReset t port tk) s = .next (beginReset y port.val) := congrArg Host.Outcome.next (hu.trans hc)
    refine ⟨fun hidle => ⟨_, hexec, beginReset_of_idle haon hver fun p hp => (hactive p).trans (hidle p hp)⟩, fun ⟨q, hq, ha, hs⟩ => ?_⟩
    obtain ⟨hlink, hruns⟩ := beginReset_of_step (s := y) (port := port.val) hq ((hactive q).trans ha) (by rw [hpart]; exact hs)
    have hrun : ∀ p, runOf y p = runOf s p := fun p => by rw [runOf, hpart, runOf]
    refine ⟨_, hexec, by rw [hlink], by rw [hlink], by rw [hlink], fun p hp ha hs => ?_, fun p hp hst => ?_⟩
    · rw [← runOf_st, ← runOf_resetting, hruns p hp, hrun]
      exact (PartRun.awaited ((runOf_active s p).trans ha) hs).2
    · rw [← runOf_st, ← runOf_plan, hruns p hp, hrun, PartRun.released (r := runOf s p) hst]
      exact ⟨rfl, rfl⟩
  · have hup : hostUp (atTime t s) = true := by
      rw [hostUp, show (atTime t s).phase = .up from hphase]
      rfl
    rw [besideH0_of_alone (.inr (h0Claims_of_resetting (s := atTime t s) hreset))]
    show hostWrite (atTime t s) (anyone port) pgDev 0x05C (claimValue false false) = _
    rw [hostWrite_claimOf _ hup (settleLink_of_waiting hdue hwait hnone)]
    exact claimCmd_of_resetting (z := atTime t s) hreset

end Sys2Proof.Machine
end

section
/-! Bulk transfers (R400–R405, R443): what a BULK_READ answers, and what a BULK_WRITE leaves in DRAM and, once programmed, in the flash. -/

namespace Sys2Proof.Machine

/-! ### What is sent -/

theorem State.sent_sent (s : State) (o o' : List Output) (c c' : List (Nat × Nat)) : (s.sent o c).sent o' c' = s.sent (o ++ o') c' := by
  simp [State.sent, State.withCounters, List.append_assoc]

/-- Frames sent one after another on a port. -/
theorem hostSends_eq (l : List Bytes) (s : State) (port : Nat) (dst : BitVec 48) (tag : Option (Nat × Nat)) :
    ∃ c, l.foldl (fun s x => hostSend s port dst tag x) s = s.sent (l.map (fun x => .host port dst tag x)) c := by
  induction l generalizing s with
  | nil => exact ⟨s.regs.counters, by simp [State.sent, State.withCounters]⟩
  | cons x l ih =>
    obtain ⟨c, hc⟩ := hostSend_eq s port dst tag x
    obtain ⟨c', hc'⟩ := ih (s.sent [.host port dst tag x] c)
    rw [List.foldl_cons, hc, hc', State.sent_sent]
    exact ⟨c', rfl⟩

/-- What a port sends and how, told by its settings. -/
theorem Frame.portTag {W : List Field} {a s : State} (h : Frame W a s) (hW : .settings ∉ W) (port : Nat) : portTag s port = portTag a port := by
  have hw : portWord s port = portWord a port := h.inForce hW _
  rw [Machine.portTag, hw, Machine.portTag]

theorem Frame.bulkMax {W : List Field} {a s : State} (h : Frame W a s) (hW : .settings ∉ W) (port : Nat) : bulkMax s port = bulkMax a port := by
  have hw : portWord s port = portWord a port := h.inForce hW _
  rw [Machine.bulkMax, hw, Machine.bulkMax]

/-! ### BULK_READ -/

/-- The one answer of a read that is refused. -/
def readRefusal (r : HostReq) (code : Nat) : Bytes := hostFrame 4 2 r.tag r.session code (bulkBytes { parseBulk r.payload with count := 0 })

/-- A well-formed BULK_READ. -/
def ReadFits (r : HostReq) : Prop :=
  r.payload.length = 16 ∧ (parseBulk r.payload).count % 4 = 0 ∧ 4 ≤ (parseBulk r.payload).count ∧ (parseBulk r.payload).count ≤ 2 ^ 22 ∧
    (parseBulk r.payload).offset % 4 = 0

/-- The bytes that a read asks for, in order. -/
def readBytes (s : State) (b : BulkHdr) : Bytes := (List.range b.count).map (fun i => bulkByte s b (b.offset + i))

/-- The read is outstanding and has passed the arbiter. -/
def readTaken (s : State) (port session : Nat) : State :=
  let s := { s with link := { s.link with
    reads := s.link.reads.filter (fun (e : Nat × Nat × Nat) => decide (s.clk.clock ≤ e.2.2)) ++ [(port, session, s.clk.clock + s.freeVal (2 ^ 32))] } }
  sysAccess s.tick

theorem readTaken_frame (s : State) (port session : Nat) : Frame [.fresh, .regs, .press, .link] s (readTaken s port session) :=
  sysAccess_frame (State.tick_frame (Frame.set_link (.refl _ s) (by decide)) (by decide)) (by decide)

section
variable {z : State} {r : HostReq} (hup : LinkUp z) (hfit : ReadFits r) (port : Nat) (f : HostFrame)
include hup hfit

/-- A well-formed read is refused where four are outstanding or its range cannot be reached, else its data leave. -/
theorem bulkReadOp_eq :
    bulkReadOp z port f r =
      if 4 ≤ readsOut z port r.session then hostSend z port f.src (portTag z port) (readRefusal r 0x9024)
      else match rangeCode z (parseBulk r.payload) with
        | some code => hostSend z port f.src (portTag z port) (readRefusal r code)
        | none =>
          let x := readTaken z port r.session
          ((dataFrames (bulkMax x port) r (parseBulk r.payload) (parseBulk r.payload).count (parseBulk r.payload).offset
            (readBytes z (parseBulk r.payload))).foldl (fun s x => hostSend s port f.src (portTag z port) x) x).tick.bump pgHost 0x0B8
              (parseBulk r.payload).count := by
  obtain ⟨hlen, hcount, hmin, hmax, hoff⟩ := hfit
  unfold bulkReadOp
  rw [settleLink_of_linkUp hup]
  dsimp only
  rw [if_neg (by omega)]
  rfl

theorem bulkReadOp_of_full (h : 4 ≤ readsOut z port r.session) :
    ∃ c, bulkReadOp z port f r = z.sent [.host port f.src (portTag z port) (readRefusal r 0x9024)] c := by
  rw [bulkReadOp_eq hup hfit, if_pos h]
  exact hostSend_eq ..

theorem bulkReadOp_of_code (h : readsOut z port r.session < 4) {code : Nat} (hc : rangeCode z (parseBulk r.payload) = some code) :
    ∃ c, bulkReadOp z port f r = z.sent [.host port f.src (portTag z port) (readRefusal r code)] c := by
  rw [bulkReadOp_eq hup hfit, if_neg (Nat.not_le.2 h), hc]
  exact hostSend_eq ..

/-- A read that can be reached leaves memory, and its data leave in frames of the port's size. -/
theorem bulkReadOp_of_reached (h : readsOut z port r.session < 4) (hc : rangeCode z (parseBulk r.payload) = none) :
    (bulkReadOp z port f r).mem = z.mem ∧ (bulkReadOp z port f r).out = z.out ++ (dataFrames (bulkMax z port) r (parseBulk r.payload)
      (parseBulk r.payload).count (parseBulk r.payload).offset (readBytes z (parseBulk r.payload))).map
        (fun x => .host port f.src (portTag z port) x) := by
  rw [bulkReadOp_eq hup hfit, if_neg (Nat.not_le.2 h), hc]
  have hF := readTaken_frame z port r.session
  obtain ⟨c, hsent⟩ := hostSends_eq (dataFrames (bulkMax z port) r (parseBulk r.payload) (parseBulk r.payload).count (parseBulk r.payload).offset
    (readBytes z (parseBulk r.payload))) (readTaken z port r.session) port f.src (portTag z port)
  dsimp only
  rw [hF.bulkMax (by decide), hsent, State.bump_mem, State.bump_out]
  exact ⟨hF.same .mem (by decide), congrArg (· ++ _) (hF.same .out (by decide))⟩

end

/-- Settles O18: a read is one answer that refuses it, or its bytes in frames. -/
theorem bulkReadsAnswerTheirBytes : Obligations.BulkReadsAnswerTheirBytes := by
  intro t port f s r hrx ht hup hlen hcount hmin hmax hoff
  obtain ⟨c, hc⟩ := onFrame_of_good hrx ht (fun s r => bulkReadOp s port.val f r)
  have hexec : exec (.bulkRead t port f) s = .next (bulkReadOp ((atTime t s).withCounters c) port.val f r) := congrArg Host.Outcome.next hc
  have hfit : ReadFits r := ⟨hlen, hcount, hmin, hmax, hoff⟩
  have hup : LinkUp ((atTime t s).withCounters c) := hup
  refine ⟨fun h hr => ⟨_, hexec, bulkReadOp_of_reached hup hfit port.val f h hr⟩, fun code h hr => ?_, fun h => ?_⟩
  · obtain ⟨c', hu⟩ := bulkReadOp_of_code hup hfit port.val f h hr
    rw [hu] at hexec
    exact ⟨_, hexec, rfl, rfl⟩
  · obtain ⟨c', hu⟩ := bulkReadOp_of_full hup hfit port.val f h
    rw [hu] at hexec
    exact ⟨_, hexec, rfl, rfl⟩

/-! ### BULK_WRITE -/

/-- The acknowledgement of a write. -/
def writeAck (r : HostReq) : Bytes := hostFrame 6 0 r.tag r.session 0 (bulkBytes (parseBulk r.payload))

/-- An acknowledgement is kept and leaves; memory stays. -/
theorem answerBulk_eq (s : State) (port : Nat) (f : HostFrame) (r : HostReq) (code : Nat) (body : Bytes) :
    ∃ k c, answerBulk s port f r code body =
      ({ s with link := { s.link with keptBulk := k } } : State).sent [.host port f.src (portTag s port) (hostFrame 6 0 r.tag r.session code body)] c := ⟨_, hostSend_eq ..⟩

theorem waitingFor_of_session {s : State} {port session : Nat} (h : waitingFor s port (fun q => q.session == session) = []) (tag : Nat) :
    waitingFor s port (fun q => q.tag == tag && q.session == session) = [] := by
  unfold waitingFor at h ⊢
  rw [List.filter_eq_nil_iff] at h ⊢
  intro e he hp
  refine h e he ?_
  simp only [Bool.and_eq_true] at hp ⊢
  obtain ⟨hport, hsame⟩ := hp
  refine ⟨hport, ?_⟩
  split at hsame
  · rw [Bool.and_eq_true] at hsame
    exact hsame.2
  · exact hsame

/-- A well-formed BULK_WRITE for a port. -/
def WriteFits (s : State) (port : Nat) (r : HostReq) : Prop :=
  16 ≤ r.payload.length ∧ (parseBulk r.payload).count % 4 = 0 ∧ (parseBulk r.payload).offset % 4 = 0 ∧
    (r.payload.drop 16).length = (parseBulk r.payload).count ∧ (parseBulk r.payload).count ≤ bulkMax s port

/-- A well-formed write of the current session that nothing stands in the way of. -/
theorem bulkWriteOp_of_allowed {z : State} {port : Nat} {r : HostReq} (hup : LinkUp z) (hk : keptAnswer z.link.keptBulk port r = none)
    (hw : waitingFor z port (fun q => q.session == r.session) = []) (hs : currentSession z (BitVec.ofNat 32 r.session) = true)
    (hfit : WriteFits z port r) (hc : bulkWriteCode z (parseBulk r.payload) = none) (f : HostFrame) :
    bulkWriteOp z port f r =
      if (parseBulk r.payload).window = 0 then
        answerBulk (((sysAccess z).wrN (dramFrame 4096 + (parseBulk r.payload).offset) (r.payload.drop 16)).bump pgHost 0x0B0
          (parseBulk r.payload).count) port f r 0 (bulkBytes (parseBulk r.payload))
      else
        noteSlotWrite { z with link := { z.link with
          flashWait := z.link.flashWait ++ [(port, f)]
          flashNext := flashAdvance z.link.flashNext (parseBulk r.payload).offset (parseBulk r.payload).count } } (parseBulk r.payload).offset := by
  obtain ⟨hlen, hcount, hoff, hdata, hmax⟩ := hfit
  unfold bulkWriteOp
  rw [hk, waitingFor_of_session hw]
  dsimp only
  rw [if_neg (by decide), settleLink_of_linkUp hup, if_neg (by omega), hw, if_neg (by decide), if_neg (by rw [hs]; exact nofun), hc]

/-- What a write to DRAM leaves (R402): its bytes, no others, and its acknowledgement. -/
theorem dramWrite_reaches {z : State} (hwf : Memory.wf z.mem = true) (port : Nat) (f : HostFrame) (r : HostReq)
    (hdata : (r.payload.drop 16).length = (parseBulk r.payload).count) :
    let a := dramFrame 4096 + (parseBulk r.payload).offset
    let u := answerBulk (((sysAccess z).wrN a (r.payload.drop 16)).bump pgHost 0x0B0 (parseBulk r.payload).count) port f r 0
      (bulkBytes (parseBulk r.payload))
    u.rdN a (parseBulk r.payload).count = r.payload.drop 16 ∧ (∀ x, x < a ∨ a + (parseBulk r.payload).count ≤ x → u.rd x = z.rd x) ∧
      u.out = z.out ++ [.host port f.src (portTag z port) (writeAck r)] := by
  intro a u
  have hA : Frame [.fresh, .regs, .press] z (sysAccess z) := sysAccess_frame (.refl _ z) (.refl _)
  have hmem : (sysAccess z).mem = z.mem := hA.same .mem (by decide)
  generalize hx : ((sysAccess z).wrN a (r.payload.drop 16)).bump pgHost 0x0B0 (parseBulk r.payload).count = x
  have hX : Frame [.fresh, .regs, .press, .mem] z x := hx ▸ State.bump_frame (State.wrN_frame (hA.mono (by decide)) (by decide)) (by decide)
  have hxmem : x.mem = ((sysAccess z).wrN a (r.payload.drop 16)).mem := by rw [← hx, State.bump_mem]
  obtain ⟨k, c, hans⟩ := answerBulk_eq x port f r 0 (bulkBytes (parseBulk r.payload))
  have hu : u = ({ x with link := { x.link with keptBulk := k } } : State).sent [.host port f.src (portTag z port) (writeAck r)] c := by
    rw [← hX.portTag (by decide)]
    exact (congrArg (fun x => answerBulk x port f r 0 (bulkBytes (parseBulk r.payload))) hx).trans hans
  have hrd : ∀ i, u.rd i = ((sysAccess z).wrN a (r.payload.drop 16)).rd i := fun i => by
    rw [hu]
    exact congrArg (memGet · i) hxmem
  refine ⟨?_, fun i hi => ?_, ?_⟩
  · have hrdN : u.rdN a (parseBulk r.payload).count = ((sysAccess z).wrN a (r.payload.drop 16)).rdN a (parseBulk r.payload).count :=
      List.map_congr_left fun i _ => hrd (a + i)
    rw [hrdN, ← hdata]
    exact State.rdN_wrN_self _ (hmem ▸ hwf) a
  · rw [hrd, State.rd_wrN_out _ _ (by rw [hdata]; exact hi)]
    exact congrArg (memGet · i) hmem
  · rw [hu]
    exact congrArg (· ++ _) (hX.same .out (by decide))

/-! ### FLASH_PROGRAM_COMPLETE (R403) -/

/-- Sectors erased before a program, with memory in its canonical form and every byte outside the erased range as it was. -/
theorem wipeSectors (l : List Nat) {s : State} (hwf : Memory.wf s.mem = true) {lo hi : Nat} (hl : ∀ a ∈ l, lo ≤ a ∧ a + 65536 ≤ hi) :
    Frame [.mem] s (l.foldl (fun s a => s.wipe (flashBase + a) 65536) s) ∧
      Memory.wf (l.foldl (fun s a => s.wipe (flashBase + a) 65536) s).mem = true ∧
      ∀ x, x < flashBase + lo ∨ flashBase + hi ≤ x → (l.foldl (fun s a => s.wipe (flashBase + a) 65536) s).rd x = s.rd x :=
  List.foldlRecOn (motive := fun u : State => Frame [.mem] s u ∧ Memory.wf u.mem = true ∧
    ∀ x, x < flashBase + lo ∨ flashBase + hi ≤ x → u.rd x = s.rd x) _ _ ⟨.refl _ s, hwf, fun _ _ => rfl⟩ fun u hu a ha => by
    obtain ⟨hF, huwf, hrd⟩ := hu
    obtain ⟨hlo, hhi⟩ := hl a ha
    exact ⟨State.wipe_frame hF (.refl _), Memory.wf_filter huwf _, fun x hx => (State.rd_wipe_out u (by omega)).trans (hrd x hx)⟩

/-- The sectors that a range begins lie within it, up to its last sector's end. -/
theorem mem_sectorStarts {off n a : Nat} (h : a ∈ sectorStarts off n) : off ≤ a ∧ a + 65536 ≤ (off + n + 65535) / 65536 * 65536 := by
  unfold sectorStarts at h
  obtain ⟨hm, hr⟩ := List.mem_filter.1 h
  obtain ⟨k, -, rfl⟩ := List.mem_map.1 hm
  simp only [Bool.and_eq_true, decide_eq_true_eq] at hr
  omega

/-- The flash as a program leaves it, before its acknowledgement. -/
def programmed (s : State) (r : HostReq) : State :=
  let b := parseBulk r.payload
  let s := (sectorStarts b.offset b.count).foldl (fun s a => s.wipe (flashBase + a) 65536) s
  (noteSlotWrite (s.wrN (flashBase + b.offset) (r.payload.drop 16)) b.offset).bump pgHost 0x0B0 b.count

theorem flashDoneOp_of_waiting {s : State} {port : Nat} {f : HostFrame} {rest : List (Nat × HostFrame)} {r : HostReq}
    (hup : s.phase = .recovery ∨ s.phase = .up ∧ (s.proc 0).st = .run) (hw : s.link.flashWait = (port, f) :: rest)
    (hp : parseHost f.payload = .good r) :
    flashDoneOp s = answerBulk (programmed { s with link := { s.link with flashWait := rest } } r) port f r 0 (bulkBytes (parseBulk r.payload)) := by
  have hrun : (!(s.phase == .recovery || (s.phase == .up && mpUp s))) = false := by
    obtain h | ⟨h, hmp⟩ := hup <;> simp [h, mpUp]
    exact hmp
  unfold flashDoneOp
  rw [hw]
  dsimp only
  rw [hrun, if_neg Bool.false_ne_true, hp]
  rfl

/-- What programming leaves: the bytes at their offset, and nothing changed outside the sectors that they touch. -/
theorem programmed_reaches {s : State} {r : HostReq} (hwf : Memory.wf s.mem = true) (hdata : (r.payload.drop 16).length = (parseBulk r.payload).count) :
    Frame [.mem, .boot, .regs] s (programmed s r) ∧
      (programmed s r).rdN (flashBase + (parseBulk r.payload).offset) (parseBulk r.payload).count = r.payload.drop 16 ∧
      ∀ x, x < flashBase + (parseBulk r.payload).offset ∨
        flashBase + ((parseBulk r.payload).offset + (parseBulk r.payload).count + 65535) / 65536 * 65536 ≤ x → (programmed s r).rd x = s.rd x := by
  generalize hb : parseBulk r.payload = b at hdata ⊢
  obtain ⟨hF, hw, hout⟩ := wipeSectors (sectorStarts b.offset b.count) hwf (fun a ha => mem_sectorStarts ha)
  generalize hy : (sectorStarts b.offset b.count).foldl (fun s a => s.wipe (flashBase + a) 65536) s = y at hF hw hout
  have hprog : programmed s r = (noteSlotWrite (y.wrN (flashBase + b.offset) (r.payload.drop 16)) b.offset).bump pgHost 0x0B0 b.count := by
    rw [programmed, hb, hy]
  have hmem : (programmed s r).mem = (y.wrN (flashBase + b.offset) (r.payload.drop 16)).mem := by
    rw [hprog, State.bump_mem]
    exact (noteSlotWrite_frame (.refl [.boot] (y.wrN (flashBase + b.offset) (r.payload.drop 16))) (.refl _)).same .mem (by decide)
  have hrd : ∀ x, (programmed s r).rd x = (y.wrN (flashBase + b.offset) (r.payload.drop 16)).rd x := fun x => congrArg (memGet · x) hmem
  refine ⟨?_, ?_, fun x hx => ?_⟩
  · rw [hprog]
    exact State.bump_frame (noteSlotWrite_frame (State.wrN_frame (hF.mono (by decide)) (by decide)) (by decide)) (by decide)
  · have hrdN : (programmed s r).rdN (flashBase + b.offset) b.count =
        (y.wrN (flashBase + b.offset) (r.payload.drop 16)).rdN (flashBase + b.offset) b.count := List.map_congr_left fun i _ => hrd _
    rw [hrdN, ← hdata]
    exact State.rdN_wrN_self _ hw _
  · rw [hrd, State.rd_wrN_out _ _ (by omega), hout x hx]

/-- Settles O19: the write to DRAM is one store, the write to the flash waits, and the oldest that waits is programmed sector by sector. -/
theorem bulkWritesReachTheirMemory : Obligations.BulkWritesReachTheirMemory := by
  refine ⟨fun t port f s r hrx ht hup hk hw hs hlen hcount hoff hdata hmax hcode hwf => ?_, fun t s port f rest r hup hw hp hdata hwf => ?_⟩
  · obtain ⟨c, hc⟩ := onFrame_of_good hrx ht (fun s r => bulkWriteOp s port.val f r)
    have hexec : exec (.bulkWrite t port f) s = .next (bulkWriteOp ((atTime t s).withCounters c) port.val f r) := congrArg Host.Outcome.next hc
    rw [bulkWriteOp_of_allowed (z := (atTime t s).withCounters c) hup hk hw hs ⟨hlen, hcount, hoff, hdata, hmax⟩ hcode] at hexec
    refine ⟨fun h0 => ?_, fun h2 => ?_⟩
    · rw [if_pos h0] at hexec
      exact ⟨_, hexec, dramWrite_reaches (z := (atTime t s).withCounters c) hwf port.val f r hdata⟩
    · rw [if_neg (by omega)] at hexec
      have hF : Frame [.boot] _ _ := noteSlotWrite_frame (off := (parseBulk r.payload).offset) (.refl _ { (atTime t s).withCounters c with
        link := { s.link with
          flashWait := s.link.flashWait ++ [(port.val, f)]
          flashNext := flashAdvance s.link.flashNext (parseBulk r.payload).offset (parseBulk r.payload).count } }) (.refl _)
      exact ⟨_, hexec, congrArg LinkSt.flashWait (hF.same .link (by decide)), hF.same .mem (by decide), hF.same .out (by decide)⟩
  · have hexec : exec (.flashProgramComplete t) s = .next _ :=
      congrArg Host.Outcome.next (flashDoneOp_of_waiting (s := atTime t s) hup hw hp)
    obtain ⟨hF, hrd, hout⟩ := programmed_reaches (s := { atTime t s with link := { s.link with flashWait := rest } }) hwf hdata
    obtain ⟨k, c, hans⟩ := answerBulk_eq (programmed { atTime t s with link := { s.link with flashWait := rest } } r) port f r 0
      (bulkBytes (parseBulk r.payload))
    have htag : portTag (programmed { atTime t s with link := { s.link with flashWait := rest } } r) port = portTag s port :=
      hF.portTag (by decide) port
    rw [htag] at hans
    exact ⟨_, hexec.trans (congrArg Host.Outcome.next hans), congrArg LinkSt.flashWait (hF.same .link (by decide)), hrd, hout,
      congrArg (· ++ _) (hF.same .out (by decide))⟩

end Sys2Proof.Machine
end

section
/-! Commits (R412–R416, R363, R382): what a snapshot holds, how a page settles at its safe point, and what a write of PAGE_COMMIT does. -/

namespace Sys2Proof.Machine

/-! ### Snapshots -/

theorem shadowOf_lt (s : State) (k : Nat) : s.shadowOf k < 2 ^ 32 := BitVec.isLt _

/-- A snapshot holds of every key its shadow. -/
theorem snapshotOf_value {s : State} {b : Block} {page : Nat} {e : Nat × Word} (h : e ∈ snapshotOf s b page) : e.2.toNat = s.shadowOf e.1 := by
  obtain ⟨k, -, rfl⟩ := List.mem_map.1 h
  exact (BitVec.toNat_ofNat ..).trans (Nat.mod_eq_of_lt (shadowOf_lt s k))

theorem mem_snapshotOf {b : Block} {off : Nat} (h : off ∈ rwsOffsets b) (s : State) (page : Nat) :
    (addr page off, BitVec.ofNat 32 (s.shadowOf (addr page off))) ∈ snapshotOf s b page :=
  List.mem_map.2 ⟨addr page off, List.mem_append_left _ (List.mem_map_of_mem h), rfl⟩

theorem snapshotOf_length (s : State) (b : Block) (page : Nat) : (rwsOffsets b).length ≤ (snapshotOf s b page).length := by
  simp [snapshotOf]

/-- What is in force once a snapshot is, for a key whose entries agree. -/
theorem forceAll_inForce {l : List (Nat × Word)} {k v : Nat} (hl : ∀ e ∈ l, e.1 = k → e.2.toNat = v) (s : State) :
    ((∃ e ∈ l, e.1 = k) → (forceAll s l).inForce k = v) ∧ ((∀ e ∈ l, e.1 ≠ k) → (forceAll s l).inForce k = s.inForce k) := by
  induction l generalizing s with
  | nil => exact ⟨fun ⟨e, he, _⟩ => absurd he List.not_mem_nil, fun _ => rfl⟩
  | cons e l ih =>
    have hlater : ∀ e ∈ l, e.1 = k → e.2.toNat = v := fun x hx => hl x (List.mem_cons_of_mem _ hx)
    obtain ⟨hin, hout⟩ := ih hlater (s.setForce e.1 e.2.toNat)
    refine ⟨fun hex => ?_, fun hne => ?_⟩
    · by_cases hr : ∃ e ∈ l, e.1 = k
      · exact hin hr
      · have hnone : ∀ e ∈ l, e.1 ≠ k := fun x hx hk => hr ⟨x, hx, hk⟩
        have hek : e.1 = k := by
          obtain ⟨x, hx, hk⟩ := hex
          obtain rfl | hx := List.mem_cons.1 hx
          · exact hk
          · exact absurd hk (hnone x hx)
        have hv := hl e List.mem_cons_self hek
        have hlt : e.2.toNat < 2 ^ 32 := BitVec.isLt _
        refine (hout hnone).trans ?_
        rw [hek, State.setForce_inForce_self, Nat.mod_eq_of_lt hlt, hv]
    · exact (hout fun x hx => hne x (List.mem_cons_of_mem _ hx)).trans (State.setForce_inForce_ne _ _ (Ne.symm (hne e List.mem_cons_self)))

/-- A snapshot that is in force: every RWS register of the page has its shadow's value. -/
theorem forceAll_snapshotOf {a s : State} {b : Block} {off : Nat} (h : off ∈ rwsOffsets b) (page : Nat) :
    (forceAll s (snapshotOf a b page)).inForce (addr page off) = a.shadowOf (addr page off) := by
  refine (forceAll_inForce (fun e he hk => ?_) s).1 ⟨_, mem_snapshotOf h a page, rfl⟩
  rw [snapshotOf_value he, hk]

/-- Beside the registers an applied snapshot changes no setting: what it puts into force is the snapshot. -/
theorem applySnapshot_force (s : State) (b : Block) (page : Nat) (snap : List (Nat × Word)) :
    (applySnapshot s b page snap).regs.force = (forceAll (accountPage s b) snap).regs.force := by
  have hF : Frame [.mem, .regs, .clk, .units, .plans, .vat, .press, .net] (forceAll (accountPage s b) snap) (applySnapshot s b page snap) := by
    have hrefl := Frame.refl [.mem, .regs, .clk, .units, .plans, .vat, .press, .net] (forceAll (accountPage s b) snap)
    unfold applySnapshot
    dsimp only
    split
    · exact applyPart_frame hrefl (by decide)
    · exact applyChan_frame hrefl (by decide)
    · exact shrinkFelt_frame hrefl (by decide)
    · exact applyPort_frame hrefl (by decide)
    · exact applyTime_frame hrefl (by decide)
    · exact dropOffLinks_frame hrefl (by decide)
    · exact hrefl
  exact (hF.same .settings (by decide)).1

theorem accountPage_force (s : State) (b : Block) : (accountPage s b).regs.force = s.regs.force :=
  ((accountPage_frame (.refl [.fresh, .regs, .units, .plans, .press] s) (.refl _)).same .settings (by decide)).1

/-- What a snapshot puts into force does not depend on what else there is. -/
theorem forceAll_force_congr {s u : State} (h : u.regs.force = s.regs.force) (l : List (Nat × Word)) :
    (forceAll u l).regs.force = (forceAll s l).regs.force := by
  induction l generalizing s u with
  | nil => exact h
  | cons e l ih =>
    refine ih (s := s.setForce e.1 e.2.toNat) (u := u.setForce e.1 e.2.toNat) ?_
    show sput _ u.regs.force _ _ = sput _ s.regs.force _ _
    rw [h]

theorem applySnapshot_force_of (s : State) (b : Block) (page : Nat) (snap : List (Nat × Word)) :
    (applySnapshot s b page snap).regs.force = (forceAll s snap).regs.force :=
  (applySnapshot_force ..).trans (forceAll_force_congr (accountPage_force s b) snap)

/-! ### A page settles (R414) -/

/-- An error recorded on a page leaves its commit. -/
theorem pageErr_commit (s : State) (page source code info q : Nat) : SameCommit (s.hdrOf q) ((s.pageErr page source code info).hdrOf q) :=
  (State.pageErr_frame (.refl [.regs] s) (.refl _)).same .commits (by decide) q

/-- The page's checks and its safe point do not look at its header. -/
theorem pageChecks_setHdr (s : State) (h : PageHdr) (b : Block) (page : Nat) (snap : List (Nat × Word)) :
    pageChecks (s.setHdr page h) b page snap = pageChecks s b page snap := by
  cases b <;> rfl

theorem readyNow_setHdr (s : State) (h : PageHdr) (b : Block) (page : Nat) (snap : List (Nat × Word)) :
    readyNow (s.setHdr page h) b snap = readyNow s b snap := by
  cases b <;> rfl

theorem settle_of_passed {s : State} {b : Block} {page : Nat} (hp : (s.hdrOf page).cstate = .pending)
    (h : firstBad (pageChecks s b page (s.hdrOf page).snapshot) = none) :
    settle s b page = (applySnapshot s b page (s.hdrOf page).snapshot).setHdr page { s.hdrOf page with cstate := .applied, snapshot := [] } := by
  unfold settle
  dsimp only
  rw [if_neg (not_not.2 hp), h]

theorem settle_of_bad {s : State} {b : Block} {page code off : Nat} (hp : (s.hdrOf page).cstate = .pending)
    (h : firstBad (pageChecks s b page (s.hdrOf page).snapshot) = some (code, off)) :
    settle s b page = (s.setHdr page { s.hdrOf page with cstate := .refused, snapshot := [] }).pageErr page 0 code off := by
  unfold settle
  dsimp only
  rw [if_neg (not_not.2 hp), h]

theorem fencesAfter_of_not_applied {s : State} {page : Nat} (h : (s.hdrOf page).cstate ≠ .applied) (b : Block) : fencesAfter s b page = s := by
  cases b with
  | part p => exact if_neg h
  | pressP p => exact if_neg h
  | _ => rfl

theorem fencesAfter_dl (s : State) (page : Nat) : fencesAfter s .dl page = s := rfl

theorem fencesAfter_of_no_shadow {b : Block} (h : hasShadow b = false) (s : State) (page : Nat) : fencesAfter s b page = s := by
  cases b with
  | part p => exact absurd h nofun
  | pressP p => exact absurd h nofun
  | _ => rfl

/-! ### PAGE_COMMIT (R414) -/

/-- The commit is pending with its snapshot. -/
def pendingCommit (z : State) (b : Block) (page : Nat) (token : BitVec 16) : State :=
  z.setHdr page { z.hdrOf page with cstate := .pending, token := token, snapshot := snapshotOf z b page, at? := z.clk.clock }

section
variable {z : State} {page first : Nat} {b : Block} {token : BitVec 16} (hb : blockOf page = some (b, first))
include hb

theorem commitWrite_of_zero : commitWrite z page 0 = z.pageErr page 0 0x9006 0x010 := by
  unfold commitWrite
  rw [hb]
  rfl

variable (ht : token ≠ 0)
include ht

theorem commitWrite_of_pending (h : (z.hdrOf page).cstate = .pending) : commitWrite z page token = z.pageErr page 0 0x9005 0x010 := by
  unfold commitWrite
  rw [hb]
  dsimp only
  rw [if_neg ht, if_pos h]

variable (h : (z.hdrOf page).cstate ≠ .pending)
include h

theorem commitWrite_of_no_shadow (hs : hasShadow b = false) :
    commitWrite z page token = z.setHdr page { z.hdrOf page with cstate := .applied, token := token } := by
  unfold commitWrite
  rw [hb]
  dsimp only
  rw [if_neg ht, if_neg h, hs]
  rfl

theorem commitWrite_of_shadow (hs : hasShadow b = true) :
    commitWrite z page token = if b = .dl then settleDl (pendingCommit z b page token) (fun p => (z.part p).st != .running)
      else if readyNow z b (snapshotOf z b page) then settle (pendingCommit z b page token) b page else pendingCommit z b page token := by
  unfold commitWrite
  rw [hb]
  dsimp only
  rw [if_neg ht, if_neg h, hs, if_neg (by decide), readyNow_setHdr]
  rfl

end

/-- A write of PAGE_COMMIT on a page that the host can write. -/
theorem pageCommit_writes {t : Nat} {w : Sender} {page first : Nat} {b : Block} {s : State} (hc : HostCan (atTime t s) w page)
    (hb : blockOf page = some (b, first)) (token : BitVec 16) :
    exec (.pageCommit t w page token) s =
      .next (if token = 0 then commitWrite (atTime t s) page token else fencesAfter (commitWrite (atTime t s) page token) b page) := by
  have hw : hostWrite (atTime t s) w page 0x010 token.toNat = _ := hostWrite_of_can hc hb (by decide) (by decide)
  refine congrArg Host.Outcome.next (hw.trans ?_)
  rw [if_pos (by decide)]
  unfold writeHead
  rw [if_neg (by decide), if_pos rfl, deadPage_of_can hc b]
  simp only [BitVec.ofNat_toNat, BitVec.setWidth_eq, Bool.false_eq_true, if_false]

/-! ### The deadline page (R363) -/

theorem blockOf_dl {page first : Nat} (h : blockOf page = some (.dl, first)) : page = pgDl := by
  have hall : ∀ q : Fin 0x1F2, (blockOf q.val).map Prod.fst = some .dl → q.val = pgDl := by decide +kernel
  exact hall ⟨page, blockOf_lt h⟩ (by rw [h]; rfl)

/-- The partition whose fields a register of the deadline page is. -/
def dlPart (key : Nat) : Nat := (key - addr pgDl 0x080) / 0x10

theorem dlPart_addr (off : Nat) : dlPart (addr pgDl off) = (off - 0x080) / 0x10 := by
  unfold dlPart addr
  rw [Nat.add_sub_add_left]

/-- The fields of a snapshot that take effect now, and those that wait. -/
def dlNow (snap : List (Nat × Word)) (ready : Nat → Bool) : List (Nat × Word) := snap.filter (fun e => ready (dlPart e.1))
def dlRest (snap : List (Nat × Word)) (ready : Nat → Bool) : List (Nat × Word) := snap.filter (fun e => !ready (dlPart e.1))

section
variable {s : State} {ready : Nat → Bool} (hp : (s.hdrOf pgDl).cstate = .pending)
  (hwhole : (rwsOffsets .dl).length ≤ (s.hdrOf pgDl).snapshot.length)
include hp hwhole

/-- A whole snapshot that passes: the fields whose partitions are ready take effect, and the commit is APPLIED once none waits. -/
theorem settleDl_of_passed (h : firstBad (pageChecks s .dl pgDl (s.hdrOf pgDl).snapshot) = none) :
    (settleDl s ready).regs.force = (forceAll s (dlNow (s.hdrOf pgDl).snapshot ready)).regs.force ∧
      ((settleDl s ready).hdrOf pgDl).cstate = if dlRest (s.hdrOf pgDl).snapshot ready = [] then .applied else .pending := by
  have hne : (s.hdrOf pgDl).snapshot ≠ [] := fun e => by
    rw [e] at hwhole
    exact absurd hwhole (by decide)
  unfold settleDl
  dsimp only
  rw [h, ite_self]
  split
  next hnone =>
    have hnow : dlNow (s.hdrOf pgDl).snapshot ready = [] := List.isEmpty_iff.1 (hnone.resolve_left (not_not.2 hp))
    rw [hnow, if_neg, hp]
    · exact ⟨rfl, rfl⟩
    · intro hrest
      obtain ⟨e, he⟩ := List.exists_mem_of_ne_nil _ hne
      have h1 := List.filter_eq_nil_iff.1 hnow e he
      have h2 := List.filter_eq_nil_iff.1 hrest e he
      simp only [Bool.not_eq_true', Bool.not_eq_false] at h1 h2
      exact h1 h2
  · refine ⟨rfl, ?_⟩
    rw [State.setHdr_hdrOf_self]
    show (if (dlRest (s.hdrOf pgDl).snapshot ready).isEmpty = true then CommitState.applied else .pending) = _
    simp only [List.isEmpty_iff]

/-- A whole snapshot that a check refuses where fields of it would take effect. -/
theorem settleDl_of_bad {code off : Nat} (h : firstBad (pageChecks s .dl pgDl (s.hdrOf pgDl).snapshot) = some (code, off))
    (hnow : dlNow (s.hdrOf pgDl).snapshot ready ≠ []) :
    settleDl s ready = (s.setHdr pgDl { s.hdrOf pgDl with cstate := .refused, snapshot := [] }).pageErr pgDl 0 code off := by
  have hone : ¬((s.hdrOf pgDl).cstate ≠ .pending ∨ (dlNow (s.hdrOf pgDl).snapshot ready).isEmpty = true) := by
    rw [List.isEmpty_iff]
    exact fun e => e.elim (absurd hp) (absurd · hnow)
  unfold settleDl
  dsimp only
  refine (if_neg hone).trans ?_
  rw [decide_eq_false (Nat.not_lt.2 hwhole), if_neg Bool.false_ne_true, h]

end

/-- The fields of each partition on the deadline page (R363). -/
theorem dlField_mem {p : Nat} (h : p < 8) : 0x080 + 0x10 * p ∈ rwsOffsets .dl := by
  have hall : ∀ p : Fin 8, 0x080 + 0x10 * p.val ∈ rwsOffsets .dl := by decide +kernel
  exact hall ⟨p, h⟩

/-- What the deadline page reads once the fields of the ready partitions have taken effect. -/
theorem dlNow_inForce {a : State} {off : Nat} (h : off ∈ rwsOffsets .dl) (ready : Nat → Bool) (s : State) :
    (forceAll s (dlNow (snapshotOf a .dl pgDl) ready)).inForce (addr pgDl off) =
      if ready ((off - 0x080) / 0x10) then a.shadowOf (addr pgDl off) else s.inForce (addr pgDl off) := by
  obtain ⟨hin, hout⟩ := forceAll_inForce (l := dlNow (snapshotOf a .dl pgDl) ready) (k := addr pgDl off) (v := a.shadowOf (addr pgDl off))
    (fun e he hk => by rw [snapshotOf_value (List.mem_filter.1 he).1, hk]) s
  split
  next hr => exact hin ⟨_, List.mem_filter.2 ⟨mem_snapshotOf h a pgDl, by rwa [dlPart_addr]⟩, rfl⟩
  next hr =>
    refine hout fun e he hk => hr ?_
    obtain ⟨-, hready⟩ := List.mem_filter.1 he
    rwa [hk, dlPart_addr] at hready

/-- The fields of a partition are among those that take effect, or among those that wait. -/
theorem dlField_parts {p : Nat} (h : p < 8) (a : State) (ready : Nat → Bool) :
    (ready p = true → dlNow (snapshotOf a .dl pgDl) ready ≠ []) ∧ (ready p = false → dlRest (snapshotOf a .dl pgDl) ready ≠ []) := by
  have hpart : dlPart (addr pgDl (0x080 + 0x10 * p)) = p := by
    rw [dlPart_addr]
    omega
  have hm := mem_snapshotOf (dlField_mem h) a pgDl
  exact ⟨fun hr => List.ne_nil_of_mem (List.mem_filter.2 ⟨hm, by simpa [hpart] using hr⟩),
    fun hr => List.ne_nil_of_mem (List.mem_filter.2 ⟨hm, by simpa [hpart] using hr⟩)⟩

/-! ### O24 -/

/-- A refused commit with no error recorded before. -/
theorem refused_recorded {s : State} {page code off : Nat} {h : PageHdr} (he : h.errValid = false) :
    let u := (s.setHdr page { h with cstate := .refused, snapshot := [] }).pageErr page 0 code off
    (u.hdrOf page).cstate = .refused ∧ (u.hdrOf page).errCode = code ∧ (u.hdrOf page).errSource = 0 ∧
      (u.hdrOf page).errInfo = BitVec.ofNat 32 off ∧ u.regs.force = s.regs.force := by
  simp [State.pageErr, he]

theorem pendingCommit_hdr (z : State) (b : Block) (page : Nat) (token : BitVec 16) :
    (pendingCommit z b page token).hdrOf page =
      { z.hdrOf page with cstate := .pending, token := token, snapshot := snapshotOf z b page, at? := z.clk.clock } := State.setHdr_hdrOf_self ..

theorem pendingCommit_checks (z : State) (b : Block) (page : Nat) (token : BitVec 16) :
    pageChecks (pendingCommit z b page token) b page ((pendingCommit z b page token).hdrOf page).snapshot =
      pageChecks z b page (snapshotOf z b page) := by
  rw [pendingCommit_hdr]
  exact pageChecks_setHdr ..

/-- A commit that settles at its write and passes: APPLIED, and every RWS register has its shadow's value. -/
theorem settle_pendingCommit {z : State} {b : Block} {page : Nat} (token : BitVec 16)
    (hok : firstBad (pageChecks z b page (snapshotOf z b page)) = none) :
    ((settle (pendingCommit z b page token) b page).hdrOf page).cstate = .applied ∧
      ∀ off ∈ rwsOffsets b, (settle (pendingCommit z b page token) b page).inForce (addr page off) = z.shadowOf (addr page off) := by
  rw [settle_of_passed (by rw [pendingCommit_hdr]) (by rw [pendingCommit_checks]; exact hok), pendingCommit_hdr]
  refine ⟨by rw [State.setHdr_hdrOf_self], fun off hoff => ?_⟩
  rw [State.inForce, State.setHdr_regs_force, applySnapshot_force_of]
  exact forceAll_snapshotOf hoff page

/-- The commit of the deadline page as it is written: the fields of the partitions that are not RUNNING take effect (R363). -/
def deadlineCommit (z : State) (token : BitVec 16) : State := settleDl (pendingCommit z .dl pgDl token) (fun p => (z.part p).st != .running)

theorem deadlineCommit_of_passed {z : State} (token : BitVec 16) (hok : firstBad (pageChecks z .dl pgDl (snapshotOf z .dl pgDl)) = none) :
    (∀ off ∈ rwsOffsets .dl, (deadlineCommit z token).inForce (addr pgDl off) =
      if (z.part ((off - 0x080) / 0x10)).st = .running then z.inForce (addr pgDl off) else z.shadowOf (addr pgDl off)) ∧
    ((∀ p, (z.part p).st ≠ .running) → ((deadlineCommit z token).hdrOf pgDl).cstate = .applied) ∧
    ((∃ p, p < 8 ∧ (z.part p).st = .running) → ((deadlineCommit z token).hdrOf pgDl).cstate = .pending) := by
  have hwhole : (rwsOffsets .dl).length ≤ ((pendingCommit z .dl pgDl token).hdrOf pgDl).snapshot.length := by
    rw [pendingCommit_hdr]
    exact snapshotOf_length ..
  obtain ⟨hf, hcs⟩ := settleDl_of_passed (ready := fun p => (z.part p).st != .running) (by rw [pendingCommit_hdr]) hwhole
    (by rw [pendingCommit_checks]; exact hok)
  rw [pendingCommit_hdr] at hf hcs
  refine ⟨fun off hoff => ?_, fun hidle => ?_, fun ⟨p, hp8, hrun⟩ => ?_⟩
  · rw [State.inForce, deadlineCommit, hf]
    refine (dlNow_inForce hoff _ _).trans ?_
    by_cases hrun : (z.part ((off - 0x080) / 0x10)).st = .running
    · rw [if_pos hrun, if_neg (by simp [hrun])]
      rfl
    · rw [if_neg hrun, if_pos (by simp [hrun])]
  · have hrest : dlRest (snapshotOf z .dl pgDl) (fun p => (z.part p).st != .running) = [] :=
      List.filter_eq_nil_iff.2 fun e _ => by simp [hidle]
    exact hcs.trans (if_pos hrest)
  · exact hcs.trans (if_neg ((dlField_parts hp8 z _).2 (by simp [hrun])))

/-- A commit that settles at its write and fails a check is refused. -/
theorem commitWrite_of_bad {z : State} {page first code off : Nat} {b : Block} {token : BitVec 16} (hb : blockOf page = some (b, first)) (ht : token ≠ 0)
    (hp : (z.hdrOf page).cstate ≠ .pending) (hs : hasShadow b = true)
    (hr : if b = .dl then ∃ p, p < 8 ∧ (z.part p).st ≠ .running else readyNow z b (snapshotOf z b page) = true)
    (hbad : firstBad (pageChecks z b page (snapshotOf z b page)) = some (code, off)) :
    commitWrite z page token = ((pendingCommit z b page token).setHdr page
      { (pendingCommit z b page token).hdrOf page with cstate := .refused, snapshot := [] }).pageErr page 0 code off := by
  rw [commitWrite_of_shadow hb ht hp hs]
  have hbad' := (pendingCommit_checks z b page token).symm ▸ hbad
  by_cases hdl : b = .dl
  · rw [if_pos hdl] at hr ⊢
    obtain ⟨p, hp8, hidle⟩ := hr
    subst hdl
    obtain rfl := blockOf_dl hb
    exact settleDl_of_bad (by rw [pendingCommit_hdr]) (by rw [pendingCommit_hdr]; exact snapshotOf_length ..) hbad'
      (by rw [pendingCommit_hdr]; exact (dlField_parts hp8 z _).1 (by simpa using hidle))
  · rw [if_neg hdl] at hr ⊢
    rw [if_pos hr]
    exact settle_of_bad (by rw [pendingCommit_hdr]) hbad'

/-- Settles O24: a write of PAGE_COMMIT is an error, a snapshot that waits, or one that settles whole; on the deadline page partition by partition. -/
theorem commitsAreWhole : Obligations.CommitsAreWhole := by
  intro t w page first b token s hc hb
  have hexec := pageCommit_writes hc hb token
  generalize hz : atTime t s = z at hexec ⊢
  obtain ⟨hhdr, hsnap, hpart, hshadow, hforce, hregs⟩ : (s.hdrOf page = z.hdrOf page) ∧ snapshotOf s b page = snapshotOf z b page ∧
    (∀ p, s.part p = z.part p) ∧ (∀ k, s.shadowOf k = z.shadowOf k) ∧ (∀ k, s.inForce k = z.inForce k) ∧ s.regs = z.regs := by
    subst hz
    exact ⟨rfl, rfl, fun _ => rfl, fun _ => rfl, fun _ => rfl, rfl⟩
  rw [hhdr, hsnap, hregs]
  simp only [hpart, hshadow, hforce]
  refine ⟨fun ht => ?_, fun ht hp => ?_, fun ht hp => ⟨fun hs => ?_, fun hs hdl hr => ?_, fun hs hdl hr hok => ?_, fun hdl hok => ?_,
    fun code off hs hr hbad herr => ?_⟩⟩
  · rw [hexec, if_pos ht, ht, commitWrite_of_zero hb]
  · rw [hexec, if_neg ht, commitWrite_of_pending hb ht hp, fencesAfter_of_not_applied]
    rw [(pageErr_commit ..).1, hp]
    exact nofun
  · rw [hexec, if_neg ht, commitWrite_of_no_shadow hb ht hp hs, fencesAfter_of_no_shadow hs]
  · rw [hexec, if_neg ht, commitWrite_of_shadow hb ht hp hs, if_neg hdl, hr, if_neg Bool.false_ne_true, fencesAfter_of_not_applied]
    · rfl
    · rw [pendingCommit_hdr]
      exact nofun
  · rw [if_neg ht, commitWrite_of_shadow hb ht hp hs, if_neg hdl, if_pos hr] at hexec
    exact ⟨_, hexec, settle_pendingCommit token hok⟩
  · subst hdl
    obtain rfl := blockOf_dl hb
    rw [if_neg ht, commitWrite_of_shadow hb ht hp rfl, if_pos rfl, fencesAfter_dl] at hexec
    exact ⟨_, hexec, deadlineCommit_of_passed token hok⟩
  · have hrefused := refused_recorded (s := pendingCommit z b page token) (page := page) (code := code) (off := off)
      (h := (pendingCommit z b page token).hdrOf page) (by rw [pendingCommit_hdr]; exact herr)
    rw [if_neg ht, commitWrite_of_bad hb ht hp hs hr hbad, fencesAfter_of_not_applied (by rw [hrefused.1]; exact nofun)] at hexec
    exact ⟨_, hexec, hrefused⟩

end Sys2Proof.Machine
end

section
/-! Safe points (R414–R416): what settles a page and what a settled page keeps, and each occasion at which pages settle (R191, R227, R278, R317, R388). -/

namespace Sys2Proof.Machine

/-! ### Commits that are due, and pages that have settled -/

theorem CommitDue.of_same {a s : State} {page : Nat} (h : CommitDue a page) (hs : SameCommit (a.hdrOf page) (s.hdrOf page))
    (hc : s.clk.clock = a.clk.clock) : CommitDue s page := by
  obtain ⟨hpend, hat⟩ := h
  obtain ⟨hcs, -, -, hat'⟩ := hs
  exact ⟨hcs.trans hpend, by rw [hat', hc]; exact hat⟩

section
variable {W : List Field} {a s : State} (hF : Frame W a s) (hW : .commits ∉ W)
include hF hW

theorem Frame.commit (page : Nat) : SameCommit (a.hdrOf page) (s.hdrOf page) := hF.same .commits hW page

theorem Frame.cstate (page : Nat) : (s.hdrOf page).cstate = (a.hdrOf page).cstate := (hF.commit hW page).1

theorem Frame.commitDue {page : Nat} (h : CommitDue a page) : CommitDue s page := h.of_same (hF.commit hW page) hF.clock

/-- What leaves settings and commits leaves a page settled. -/
theorem Frame.settled (hS : .settings ∉ W) {z : State} {page : Nat} (h : Settled z a page) : Settled z s page := by
  unfold Settled at h ⊢
  rwa [hF.cstate hW, (hF.same .settings hS).1]

/-- A page settles as it would have before what leaves settings and commits. -/
theorem Frame.settled_before (hS : .settings ∉ W) {u : State} {page : Nat} (h : Settled s u page) : Settled a u page := by
  obtain ⟨-, -, hsnap, -⟩ := hF.commit hW page
  have hforce := (hF.same .settings hS).1
  unfold Settled at h ⊢
  rwa [hsnap, forceAll_force_congr hforce, hforce] at h

end

theorem Settled.not_pending {a s : State} {page : Nat} (h : Settled a s page) : (s.hdrOf page).cstate ≠ .pending := by
  obtain ⟨h, -⟩ | ⟨h, -⟩ := h <;> rw [h] <;> exact nofun

/-- A pending page settles. -/
theorem settle_settled {s : State} {page : Nat} (h : (s.hdrOf page).cstate = .pending) (b : Block) : Settled s (settle s b page) page := by
  cases hbad : firstBad (pageChecks s b page (s.hdrOf page).snapshot) with
  | none =>
    rw [settle_of_passed h hbad]
    exact .inl ⟨by rw [State.setHdr_hdrOf_self], applySnapshot_force_of ..⟩
  | some e =>
    obtain ⟨code, off⟩ := e
    rw [settle_of_bad h hbad]
    refine .inr ⟨?_, by simp⟩
    rw [(pageErr_commit ..).1, State.setHdr_hdrOf_self]

theorem settle_of_not_pending {s : State} {page : Nat} (h : (s.hdrOf page).cstate ≠ .pending) (b : Block) : settle s b page = s := if_pos h

theorem setHdr_commit_ne (s : State) {page q : Nat} (h : q ≠ page) (c : PageHdr) : SameCommit (s.hdrOf q) ((s.setHdr page c).hdrOf q) := by
  rw [State.setHdr_hdrOf_ne _ _ h]
  exact ⟨rfl, rfl, rfl, rfl⟩

theorem SameCommit.trans {h k l : PageHdr} (a : SameCommit h k) (b : SameCommit k l) : SameCommit h l := by
  obtain ⟨a1, a2, a3, a4⟩ := a
  obtain ⟨b1, b2, b3, b4⟩ := b
  exact ⟨b1.trans a1, b2.trans a2, b3.trans a3, b4.trans a4⟩

/-- A page that settles leaves the others' commits. -/
theorem settle_commit_ne (s : State) (b : Block) {page q : Nat} (h : q ≠ page) : SameCommit (s.hdrOf q) ((settle s b page).hdrOf q) := by
  by_cases hp : (s.hdrOf page).cstate = .pending
  · cases hbad : firstBad (pageChecks s b page (s.hdrOf page).snapshot) with
    | none =>
      rw [settle_of_passed hp hbad]
      exact ((applySnapshot_frame (.refl _ s) (.refl _)).commit (by decide) q).trans (setHdr_commit_ne _ h _)
    | some e =>
      rw [settle_of_bad hp hbad]
      exact (setHdr_commit_ne s h _).trans (pageErr_commit ..)
  · rw [settle_of_not_pending hp]
    exact ⟨rfl, rfl, rfl, rfl⟩

theorem settleTimed_of_due {s : State} {page : Nat} (h : CommitDue s page) (b : Block) : settleTimed s b page = settle s b page := if_pos h.2

theorem settleTimed_settled {s : State} {page : Nat} (h : CommitDue s page) (b : Block) : Settled s (settleTimed s b page) page := by
  rw [settleTimed_of_due h]
  exact settle_settled h.1 b

theorem settleTimed_commit_ne (s : State) (b : Block) {page q : Nat} (h : q ≠ page) :
    SameCommit (s.hdrOf q) ((settleTimed s b page).hdrOf q) := by
  unfold settleTimed
  split
  · exact settle_commit_ne s b h
  · exact ⟨rfl, rfl, rfl, rfl⟩

theorem settleTimed_clock (s : State) (b : Block) (page : Nat) : (settleTimed s b page).clk.clock = s.clk.clock :=
  (settleTimed_frame (.refl _ s) (.refl _)).clock

/-! ### COMMIT_SAFE_POINT -/

theorem commitSafePoint_settles {t page first : Nat} {b : Block} {s : State} (hphase : s.phase = .up) (hb : blockOf page = some (b, first))
    (hready : genericPage b = true ∨ b ≠ .dl ∧ readyNow (atTime t s) b (s.hdrOf page).snapshot = true) (hbusy : pageBusy s page = false)
    (hdue : CommitDue (atTime t s) page) :
    exec (.commitSafePoint t page) s = .next (fencesAfter (settle (atTime t s) b page) b page) := by
  obtain ⟨hpend, hat⟩ := hdue
  have hmp : emulated page = true → mpUp (atTime t s) = true := fun he => by
    simp only [pageBusy, he, hphase] at hbusy
    exact (by simpa using hbusy : mpUp s = true)
  have hdl : b ≠ .dl := by
    obtain h | h := hready
    · rintro rfl
      exact absurd h nofun
    · exact h.1
  have hgo : (genericPage b || readyNow (atTime t s) b ((atTime t s).hdrOf page).snapshot) = true := by
    obtain h | h := hready
    · rw [h, Bool.true_or]
    · rw [Bool.or_eq_true]
      exact .inr h.2
  have hpoint : commitSafePoint (atTime t s) page = settle (atTime t s) b page := by
    unfold commitSafePoint
    rw [hb]
    dsimp only
    rw [if_pos ⟨hpend, hat, hmp⟩, if_neg hdl, if_pos hgo]
  have hcan : (hostUp (atTime t s) && !deadPage (atTime t s) b && !pageBusy (atTime t s) page && ((atTime t s).hdrOf page).cstate == .pending) = true := by
    have hup : hostUp (atTime t s) = true := by
      rw [hostUp, show (atTime t s).phase = .up from hphase]
      rfl
    have hlive : deadPage (atTime t s) b = false := by
      rw [deadPage, show (atTime t s).phase = .up from hphase]
      rfl
    have hfree : pageBusy (atTime t s) page = false := hbusy
    rw [hup, hlive, hfree, hpend]
    rfl
  refine congrArg Host.Outcome.next ?_
  rw [hb]
  dsimp only
  rw [if_pos hcan, hpoint]

/-! ### Patrols and self-tests (R191, R388) -/

/-- The patrol's next line, or its pass's end (R177). -/
def patrolLine (s : State) (err : LineError) : State :=
  if !s.press.patrolBusy then s
  else
    let last (s : State) : State :=
      { s with press := { s.press with patrolBusy := false, patrolAt := 0 } }.bump pgDram 0x060 1
    match nextAllocated s (s.press.patrolAt / 1024) with
    | none => last s
    | some f =>
      let line := max s.press.patrolAt (f * 1024)
      let s := request s ⟨arbDram, 15, 4, 1, 1⟩
      let s := match err with
        | .none => s
        | .single => dramError s f false none
        | .double => dramError s f true none
      if (nextAllocated s ((line + 1) / 1024)).isNone then last s
      else { s with press := { s.press with patrolAt := line + 1 } }

/-- A pass that is not under way begins with the page's safe point. -/
theorem patrolOp_of_idle {s : State} (h : s.press.patrolBusy = false) (err : LineError) :
    patrolOp s err = patrolLine (if bit ((settleTimed s .dram pgDram).inForce (addr pgDram 0x044)) 31 then
      { settleTimed s .dram pgDram with press := { (settleTimed s .dram pgDram).press with patrolBusy := true, patrolAt := 0 } }
      else settleTimed s .dram pgDram) err := by
  unfold patrolOp
  rw [h, if_neg Bool.false_ne_true]
  rfl

/-- What a patrol may change: neither settings nor commits are among it. -/
abbrev patrolFields : List Field := [.out, .fresh, .mem, .regs, .units, .plans, .vat, .press, .safety, .selftest, .aon, .log, .net]

theorem patrolLine_frame (s : State) (err : LineError) : Frame patrolFields s (patrolLine s err) := by
  have hlast {z : State} (hz : Frame patrolFields s z) :
      Frame patrolFields s ({ z with press := { z.press with patrolBusy := false, patrolAt := 0 } }.bump pgDram 0x060 1) :=
    State.bump_frame (Frame.set_press hz (by decide)) (by decide)
  unfold patrolLine
  split
  · exact .refl _ s
  extract_lets last s1
  split
  · exact hlast (.refl _ s)
  extract_lets line s2 _
  have h1 : Frame patrolFields s s1 := request_frame (.refl patrolFields s) (by decide)
  have h2 : Frame patrolFields s s2 := by
    unfold s2
    split
    · exact h1
    · exact dramError_frame h1 (.refl _)
    · exact dramError_frame h1 (.refl _)
  split
  · exact hlast h2
  · exact Frame.set_press h2 (by decide)

theorem patrolOp_settles {s : State} (hfree : s.press.patrolBusy = false) (hdue : CommitDue s pgDram) (err : LineError) :
    Settled s (patrolOp s err) pgDram := by
  have hbegun := frame_ite (c := bit ((settleTimed s .dram pgDram).inForce (addr pgDram 0x044)) 31 = true)
    (Frame.set_press (v := { (settleTimed s .dram pgDram).press with patrolBusy := true, patrolAt := 0 })
      (Frame.refl patrolFields (settleTimed s .dram pgDram)) (by decide)) (.refl _ _)
  rw [patrolOp_of_idle hfree]
  exact (hbegun.trans (patrolLine_frame _ err)).settled (by decide) (by decide) (settleTimed_settled hdue _)

theorem chunkGrantOp_settles {s : State} (hdue : CommitDue s pgSt) (n : Nat) : Settled s (chunkGrantOp s n) pgSt := by
  have hF : Frame [.fresh, .regs, .units] (settleTimed s .st pgSt) (chunkGrantOp s n) := by
    have hrefl := Frame.refl [.fresh, .regs, .units] (settleTimed s .st pgSt)
    unfold chunkGrantOp
    dsimp only
    split
    · exact modUnit_frame (wakeUnit_frame (account_frame (modUnit_frame (endFiller_frame hrefl (by decide)) (by decide)) (by decide)) (by decide))
        (by decide)
    · exact hrefl
  exact hF.settled (by decide) (by decide) (settleTimed_settled hdue _)

/-! ### A channel's frame boundary (R227) -/

/-- The channel's pages at the boundary: its own, then its shaping page. -/
def atFrameBoundary (s : State) (ch : Nat) : State :=
  settleTimed (settleTimed (endRx s ch 6) (.chan ch) (pgChan ch)) (.shape ch) (pgShape ch)

theorem avtpFrame_of_start {s : State} {port ch : Nat} {vid : Option Nat} {p : Bytes} (hm : matchChan s port vid p = some ch)
    (hs : suits (be p 0 1) (s.chanCfg ch).kind = true) (hf : startsFrame (be p 0 1 == 3) p = true) :
    Frame [.fresh, .regs, .vat, .press, .log] (atFrameBoundary s ch) (avtpFrame s port vid p) := by
  have hrefl := Frame.refl [.fresh, .regs, .vat, .press, .log] (atFrameBoundary s ch)
  unfold avtpFrame
  rw [hm]
  dsimp only
  rw [hs, hf, Bool.and_self, if_pos rfl]
  show Frame _ _ (match matchChan (atFrameBoundary s ch) port vid p with
    | none => (atFrameBoundary s ch).bump (pgPort port) 0x070 1
    | some ch' => chanPacket (atFrameBoundary s ch) ch' p)
  split
  · exact State.bump_frame hrefl (by decide)
  · exact chanPacket_frame hrefl (.refl _)

theorem pgChan_ne_pgShape (ch : Nat) : pgChan ch ≠ pgShape ch := by
  unfold pgChan pgShape
  omega

theorem atFrameBoundary_chan {s : State} {ch : Nat} (hdue : CommitDue s (pgChan ch)) :
    ((atFrameBoundary s ch).hdrOf (pgChan ch)).cstate ≠ .pending ∧
      ((s.hdrOf (pgShape ch)).cstate ≠ .pending → Settled s (atFrameBoundary s ch) (pgChan ch)) := by
  have hend : Frame [.fresh, .regs, .vat, .log] s (endRx s ch 6) := endRx_frame (.refl _ s) (.refl _)
  have hset := settleTimed_settled (hend.commitDue (by decide) hdue) (.chan ch)
  refine ⟨?_, fun hshape => ?_⟩
  · unfold atFrameBoundary
    rw [(settleTimed_commit_ne _ _ (pgChan_ne_pgShape ch)).1]
    exact hset.not_pending
  · have hnone : ((settleTimed (endRx s ch 6) (.chan ch) (pgChan ch)).hdrOf (pgShape ch)).cstate ≠ .pending := by
      rw [(settleTimed_commit_ne _ _ (pgChan_ne_pgShape ch).symm).1, hend.cstate (by decide)]
      exact hshape
    unfold atFrameBoundary
    rw [settleTimed_of_not_pending hnone]
    exact hend.settled_before (by decide) (by decide) hset

theorem atFrameBoundary_shape {s : State} {ch : Nat} (hdue : CommitDue s (pgShape ch)) :
    ((atFrameBoundary s ch).hdrOf (pgShape ch)).cstate ≠ .pending ∧
      ((s.hdrOf (pgChan ch)).cstate ≠ .pending → Settled s (atFrameBoundary s ch) (pgShape ch)) := by
  have hend : Frame [.fresh, .regs, .vat, .log] s (endRx s ch 6) := endRx_frame (.refl _ s) (.refl _)
  have hdue' := hend.commitDue (by decide) hdue
  have hlater : CommitDue (settleTimed (endRx s ch 6) (.chan ch) (pgChan ch)) (pgShape ch) :=
    hdue'.of_same (settleTimed_commit_ne _ _ (pgChan_ne_pgShape ch).symm) (settleTimed_clock ..)
  refine ⟨(settleTimed_settled hlater (.shape ch)).not_pending, fun hchan => ?_⟩
  have hnone : ((endRx s ch 6).hdrOf (pgChan ch)).cstate ≠ .pending := by rwa [hend.cstate (by decide)]
  unfold atFrameBoundary
  rw [settleTimed_of_not_pending hnone]
  exact hend.settled_before (by decide) (by decide) (settleTimed_settled hdue' (.shape ch))

/-- An AVTP frame reaches the channels, tagged or not (R193). -/
theorem vatRxOp_of_packet {s : State} {port : Nat} {f p : Bytes} {vid : Option Nat} (hup : s.phase = .up) (hon : portOn s port = true)
    (h : (be f 12 2 = 0x22F0 ∧ vid = none ∧ p = f.drop 14) ∨
      (be f 12 2 = 0x8100 ∧ be f 16 2 = 0x22F0 ∧ vid = some (be f 14 2 % 4096) ∧ p = f.drop 18)) :
    vatRxOp s port f true = avtpFrame (received s port) port vid p := by
  obtain ⟨ht, rfl, rfl⟩ | ⟨ht, ht', rfl, rfl⟩ := h
  · exact vatRxOp_of_avtp hup hon ht
  · simp [vatRxOp, hup, hon, received, ht, ht']

/-! ### The display's tick (R278) -/

theorem displayTick_settles {s : State} {p : Nat} (ho : dispOwner s = some p) (hdue : CommitDue s pgDisp) : Settled s (displayTick s p) pgDisp := by
  have hF : Frame [.fresh, .regs, .plans, .vat, .press] (settleTimed s .disp pgDisp) (displayTick s p) := by
    unfold displayTick
    rw [if_pos ho]
    exact frame_foldl _ (.refl _ _) fun _ _ h => frame_ite (composeStream_frame h (.refl _)) h
  exact hF.settled (by decide) (by decide) (settleTimed_settled hdue _)

theorem Frame.dispOwner {W : List Field} {a s : State} (h : Frame W a s) (hW : .settings ∉ W) : dispOwner s = dispOwner a := by
  simp only [Machine.dispOwner, State.partReg, h.inForce hW]

end Sys2Proof.Machine
end

section
/-! The step boundary (R317): the pages that settle at it are those of the partition, of its cores and of its engines, as they are owned when the step
ends; neither an abort nor the boundary's other work changes an owner. -/

namespace Sys2Proof.Machine

/-! ### Owners -/

/-- No pair or engine has changed its owner. -/
structure OwnersStay (a s : State) : Prop where
  pair : ∀ i, pairOwner s i = pairOwner a i
  engine : ∀ q, engineOwner s q = engineOwner a q

theorem OwnersStay.refl (s : State) : OwnersStay s s := ⟨fun _ => rfl, fun _ => rfl⟩

theorem OwnersStay.trans {a s u : State} (h : OwnersStay a s) (k : OwnersStay s u) : OwnersStay a u :=
  ⟨fun i => (k.pair i).trans (h.pair i), fun q => (k.engine q).trans (h.engine q)⟩

theorem OwnersStay.foldl {β : Type} {f : State → β → State} (hf : ∀ s b, OwnersStay s (f s b)) (l : List β) (s : State) : OwnersStay s (l.foldl f s) := by
  induction l generalizing s with
  | nil => exact .refl s
  | cons b l ih => exact (hf s b).trans (ih _)

theorem Retunes.ownersStay {a s : State} (h : Retunes a s) (k : TestsStay a s) : OwnersStay a s := by
  refine ⟨fun i => ?_, fun q => by rw [engineOwner, k.engine, engineOwner]⟩
  obtain ⟨f, hf⟩ := h.pair i
  rw [pairOwner, hf, pairOwner]

theorem OwnersStay.of_frame {W : List Field} {a s : State} (h : Frame W a s) (hw : .units ∉ W) : OwnersStay a s :=
  (Retunes.of_frame h hw).ownersStay (.of_frame h hw)

theorem abortStep_ownersStay (s : State) (p : Nat) : OwnersStay s (abortStep s p) := (abortStep_retunes s p).ownersStay (abortStep_testsStay s p)

theorem accountPage_ownersStay (s : State) (b : Block) : OwnersStay s (accountPage s b) := by
  unfold accountPage
  split
  · exact (account_retunes ..).ownersStay (account_testsStay ..)
  · exact .of_frame (accountEngine_frame (.refl [.fresh, .regs, .plans] s) (.refl _)) (by decide)
  · exact .of_frame (serveArbs_frame (.refl [.regs, .press] s) (.refl _)) (by decide)
  · exact .of_frame (serveArbs_frame (.refl [.regs, .press] s) (.refl _)) (by decide)
  · exact .refl s

theorem stepClear_ownersStay (s : State) (p : Nat) : OwnersStay s (stepClear s p) := by
  refine .foldl (fun s page => ?_) _ s
  extract_lets hit z
  have hclear (x : State) : OwnersStay x (x.clearCounters page) := .of_frame (State.clearCounters_frame (.refl [.regs] x) (.refl _)) (by decide)
  have hz : OwnersStay s z := by
    unfold z
    split
    · exact (accountPage_ownersStay ..).trans (hclear _)
    · exact hclear s
  split
  · split
    · exact hz.trans (.of_frame (State.modPart_frame (.refl [.plans] z) (.refl _)) (by decide))
    · exact hz
  · exact .refl s

/-! ### The boundary's pages (R317) -/

/-- The pages that settle at a partition's boundary. -/
def boundaryPages (s : State) (p : Nat) : List Nat :=
  pgPart p :: pgPressP p :: ((List.range 40).filter (fun n => pairOwner s (n / 2) == p)).map pgCore
    ++ ((List.range 4).filter (fun q => engineOwner s q == p)).map pgEngine

/-- Pages that settle one after another. -/
def settlePages (s : State) (l : List Nat) : State :=
  l.foldl (fun s page => match blockOf page with | some (b, _) => settleTimed s b page | none => s) s

theorem boundaryCommits_eq (s : State) (p : Nat) :
    boundaryCommits s p =
      if ((settlePages s (boundaryPages s p)).hdrOf pgDl).at? < (settlePages s (boundaryPages s p)).clk.clock then
        settleDl (settlePages s (boundaryPages s p)) (fun q => q == p || ((settlePages s (boundaryPages s p)).part q).st != .running)
      else settlePages s (boundaryPages s p) := rfl

/-- One page of the list in its turn: of any page, a commit that is not pending stays so, and one that is due stays due or is no longer pending. -/
theorem settleTurn {s : State} {x q : Nat} :
    let u := match blockOf x with | some (b, _) => settleTimed s b x | none => s
    ((s.hdrOf q).cstate ≠ .pending → (u.hdrOf q).cstate ≠ .pending) ∧ (q ≠ x → CommitDue s q → CommitDue u q) ∧
      (q = x → (blockOf x).isSome = true → CommitDue s q → (u.hdrOf q).cstate ≠ .pending) := by
  intro u
  cases hb : blockOf x with
  | none =>
    have hu : u = s := by simp only [u, hb]
    rw [hu]
    exact ⟨id, fun _ => id, fun _ h => absurd h nofun⟩
  | some e =>
    obtain ⟨b, first⟩ := e
    have hu : u = settleTimed s b x := by simp only [u, hb]
    rw [hu]
    refine ⟨fun hn => ?_, fun hne hdue => hdue.of_same (settleTimed_commit_ne s b hne) (settleTimed_clock ..), fun hq _ hdue => ?_⟩
    · by_cases hq : q = x
      · subst hq
        rwa [settleTimed_of_not_pending hn]
      · rwa [(settleTimed_commit_ne s b hq).1]
    · subst hq
      exact (settleTimed_settled hdue b).not_pending

/-- Every page of the list that is due has settled after it. -/
theorem settlePages_settles (l : List Nat) (s : State) (q : Nat) :
    ((s.hdrOf q).cstate ≠ .pending → ((settlePages s l).hdrOf q).cstate ≠ .pending) ∧
      (q ∈ l → (blockOf q).isSome = true → CommitDue s q → ((settlePages s l).hdrOf q).cstate ≠ .pending) := by
  induction l generalizing s with
  | nil => exact ⟨id, fun h => absurd h List.not_mem_nil⟩
  | cons x l ih =>
    obtain ⟨hkeep, hdue', hdone⟩ := settleTurn (s := s) (x := x) (q := q)
    obtain ⟨ihkeep, ihdue⟩ := ih (match blockOf x with | some (b, _) => settleTimed s b x | none => s)
    refine ⟨fun hn => ihkeep (hkeep hn), fun hm hb hdue => ?_⟩
    by_cases hq : q = x
    · exact ihkeep (hdone hq (hq ▸ hb) hdue)
    · exact ihdue ((List.mem_cons.1 hm).resolve_left hq) hb (hdue' hq hdue)

theorem settleDl_commit_ne (s : State) (ready : Nat → Bool) {q : Nat} (h : q ≠ pgDl) : SameCommit (s.hdrOf q) ((settleDl s ready).hdrOf q) := by
  unfold settleDl
  dsimp only
  split
  · exact ⟨rfl, rfl, rfl, rfl⟩
  split
  · exact (setHdr_commit_ne s h _).trans (pageErr_commit ..)
  · exact ((forceAll_frame (.refl [.regs, .settings] s) (.refl _)).commit (by decide) q).trans (setHdr_commit_ne _ h _)

/-- At the boundary every page of it that is due settles. -/
theorem boundaryCommits_settles {s : State} {p q : Nat} (hm : q ∈ boundaryPages s p) (hb : (blockOf q).isSome = true) (hdl : q ≠ pgDl)
    (hdue : CommitDue s q) : ((boundaryCommits s p).hdrOf q).cstate ≠ .pending := by
  have h := (settlePages_settles (boundaryPages s p) s q).2 hm hb hdue
  rw [boundaryCommits_eq]
  split
  · rwa [(settleDl_commit_ne _ _ hdl).1]
  · exact h

/-! ### A step's end -/

/-- What comes after them. -/
def afterCommits (s : State) (p : Nat) : State := stopAtEnd (withdrawOverdue (endSafe (dueFences s) p) p) p

theorem afterCommits_cstate (s : State) (p page : Nat) : ((afterCommits s p).hdrOf page).cstate = (s.hdrOf page).cstate := by
  have hF : Frame [.out, .fresh, .mem, .regs, .units, .plans, .vat, .press, .link, .safety, .selftest, .aon, .log, .net, .settings] s
      (afterCommits s p) :=
    stopAtEnd_frame (withdrawOverdue_frame (endSafe_frame (dueFences_frame (.refl _ s) (by decide)) (by decide)) (by decide)) (by decide)
  exact hF.cstate (by decide) page

/-- What comes before them at the boundary of a step that does not complete (R317). -/
def beforeCommits (s : State) (p : Nat) (st : StepRec) : State :=
  let s := opensDue (retireDue s p (st.n + 1)) p (st.n + 1)
  let s := releaseSlots (st.holds.foldl (fun s k => releaseHold s p k) s) p st.n
  let s := s.modPart p (fun x => { x with step := none, relAt := s.clk.clock, rels := st.holds })
  resetTallies (refreshBuffers s p st.sets) p

theorem stepBoundary_eq (s : State) (p : Nat) (st : StepRec) :
    stepBoundary s p st false = afterCommits (boundaryCommits (stepClear (beforeCommits s p st) p) p) p := by
  unfold stepBoundary beforeCommits afterCommits
  simp only [Bool.false_eq_true, if_false, List.foldl_nil]

theorem beforeCommits_frame (s : State) (p : Nat) (st : StepRec) :
    Frame [.fresh, .mem, .regs, .plans, .vat, .press, .log] s (beforeCommits s p st) := by
  have hopens : Frame [.fresh, .mem, .regs, .plans, .vat, .press, .log] s (opensDue (retireDue s p (st.n + 1)) p (st.n + 1)) :=
    opensDue_frame (retireDue_frame (.refl _ s) (by decide)) (by decide)
  have hholds := frame_foldl st.holds hopens (f := fun s k => releaseHold s p k) fun _ _ h => releaseHold_frame h (by decide)
  exact resetTallies_frame (refreshBuffers_frame (State.modPart_frame (releaseSlots_frame hholds (by decide)) (by decide)) (by decide)) (by decide)

/-- What a step's end counts of a step that does not complete, and what it notes of it (R315, R318). -/
theorem endStep_eq {s : State} {p outcome : Nat} {st : StepRec} (hst : (s.part p).step = some st) (ho : outcome = 3 ∨ outcome = 4) (missed : Bool) :
    ∃ x, Frame [.regs, .plans] s x ∧ endStep s p outcome missed = stepBoundary x p st false := by
  unfold endStep
  rw [hst]
  obtain rfl | rfl := ho
  · have hcounted : Frame [.regs, .plans] s (s.bump (pgPart p) 0x0C0 1) := State.bump_frame (.refl _ s) (by decide)
    exact ⟨_, State.modPart_frame hcounted (by decide), rfl⟩
  · have hcounted : Frame [.regs, .plans] s (s.bump (pgPart p) 0x0C8 1) := State.bump_frame (.refl _ s) (by decide)
    have hmissed := frame_ite (c := missed = true) (State.bump_frame (page := pgPart p) (off := 0x0C0) (n := 1) hcounted (by decide)) hcounted
    exact ⟨_, State.modPart_frame hmissed (by decide), rfl⟩

/-- When a step ends that does not complete, the pages of the partition's boundary settle: its own, and those of the cores and engines that it owns. -/
theorem endStep_settles {s : State} {p q outcome : Nat} {st : StepRec} (hst : (s.part p).step = some st) (ho : outcome = 3 ∨ outcome = 4)
    (missed : Bool) (hm : q ∈ boundaryPages s p) (hb : (blockOf q).isSome = true) (hdl : q ≠ pgDl) (hdue : CommitDue s q) :
    ((endStep s p outcome missed).hdrOf q).cstate ≠ .pending := by
  obtain ⟨x, hx, hend⟩ := endStep_eq hst ho missed
  have hbefore := beforeCommits_frame x p st
  have hclear : Frame [.fresh, .regs, .units, .plans, .press] (beforeCommits x p st) (stepClear (beforeCommits x p st) p) :=
    stepClear_frame (.refl _ _) (.refl _)
  have howners : OwnersStay s (stepClear (beforeCommits x p st) p) :=
    ((OwnersStay.of_frame hx (by decide)).trans (.of_frame hbefore (by decide))).trans (stepClear_ownersStay ..)
  have hpages : boundaryPages (stepClear (beforeCommits x p st) p) p = boundaryPages s p := by
    simp only [boundaryPages, howners.pair, howners.engine]
  have hdue' := hclear.commitDue (by decide) (hbefore.commitDue (by decide) (hx.commitDue (by decide) hdue))
  rw [hend, stepBoundary_eq, afterCommits_cstate]
  exact boundaryCommits_settles (by rw [hpages]; exact hm) hb hdl hdue'

/-! ### PUBLICATION_DEADLINE (R316, R343) -/

theorem claimStrike_of_not_failed {s : State} {p : Nat} {st : StepRec} (hst : (s.part p).step = some st) (hf : st.fail = none) : claimStrike s p = s := by
  unfold claimStrike
  rw [hst]
  dsimp only
  rw [hf]

theorem own_mem_boundaryPages (s : State) (p : Nat) : pgPart p ∈ boundaryPages s p ∧ pgPressP p ∈ boundaryPages s p :=
  ⟨List.mem_cons_self, List.mem_cons_of_mem _ List.mem_cons_self⟩

theorem core_mem_boundaryPages {s : State} {p n : Nat} (hn : n < 40) (h : pairOwner s (n / 2) = p) : pgCore n ∈ boundaryPages s p := by
  unfold boundaryPages
  refine List.mem_append_left _ (List.mem_cons_of_mem _ (List.mem_cons_of_mem _ (List.mem_map_of_mem (List.mem_filter.2 ⟨List.mem_range.2 hn, ?_⟩))))
  simpa using h

theorem engine_mem_boundaryPages {s : State} {p q : Nat} (hq : q < 4) (h : engineOwner s q = p) : pgEngine q ∈ boundaryPages s p := by
  unfold boundaryPages
  refine List.mem_append_right _ (List.mem_map_of_mem (List.mem_filter.2 ⟨List.mem_range.2 hq, ?_⟩))
  simpa using h

/-- The deadline of a step that has not failed ends the step, and leaves the commits to its boundary: with outcome 4 where it was declared invalid,
and the owners as they were. -/
theorem deadlineOp_ends {s : State} {p : Nat} {st : StepRec} (hpast : pastDeadline s p = true) (hst : (s.part p).step = some st)
    (hf : st.fail = none) :
    ∃ z st' outcome missed, deadlineOp s p = endStep z p outcome missed ∧ (outcome = 3 ∨ outcome = 4) ∧ (z.part p).step = some st' ∧
      (∀ page, CommitDue s page → CommitDue z page) ∧ (st.declared = true → OwnersStay s z) := by
  have hop : deadlineOp s p = if st.declared then endStep (abortStep s p) p 4 false
      else if (s.logLimited 0x5101 p p 0xFF st.n).isSafety p then endStep (declareInvalid (s.logLimited 0x5101 p p 0xFF st.n) p 0x5101) p 4 true
      else endStep (abortStep (publishMissing (s.logLimited 0x5101 p p 0xFF st.n) p 2) p) p 3 true := by
    unfold deadlineOp
    rw [hst]
    dsimp only
    rw [hpast, claimStrike_of_not_failed hst hf]
    rfl
  rw [hop]
  have hlog : Frame [.fresh, .regs, .log] s (s.logLimited 0x5101 p p 0xFF st.n) := State.logLimited_frame (.refl _ s) (.refl _)
  have hlogged : ((s.logLimited 0x5101 p p 0xFF st.n).part p).step = some st := ((PartsKept.of_frame hlog (by decide)).step p).trans hst
  generalize s.logLimited 0x5101 p p 0xFF st.n = y at hlog hlogged
  split
  · have habort : Frame [.out, .fresh, .mem, .regs, .units, .plans, .press, .log, .net] s (abortStep s p) := abortStep_frame (.refl _ s) (.refl _)
    exact ⟨_, st, 4, false, rfl, .inr rfl, ((abortStep_partsKept s p).step p).trans hst, fun _ h => habort.commitDue (by decide) h,
      fun _ => abortStep_ownersStay s p⟩
  next hd =>
  have hdeclared : st.declared = false := by simpa using hd
  split
  · have hdecl : Frame [.out, .fresh, .mem, .regs, .units, .plans, .press, .safety, .selftest, .aon, .log, .net] y (declareInvalid y p 0x5101) :=
      declareInvalid_frame (.refl _ y) (.refl _)
    obtain ⟨⟨st', hst', -⟩, -⟩ := declareInvalid_isDeclared hlogged hdeclared 0x5101
    exact ⟨_, st', 4, true, rfl, .inr rfl, hst', fun _ h => hdecl.commitDue (by decide) (hlog.commitDue (by decide) h), fun h => absurd h hd⟩
  · have hpub : Frame [.out, .fresh, .mem, .regs, .plans, .press, .log, .net] y (publishMissing y p 2) := publishMissing_frame (.refl _ y) (.refl _)
    have habort : Frame [.out, .fresh, .mem, .regs, .units, .plans, .press, .log, .net] (publishMissing y p 2) (abortStep (publishMissing y p 2) p) :=
      abortStep_frame (.refl _ _) (.refl _)
    have hstep := (publishMissing_publishes y p 2).step p
    rw [hlogged] at hstep
    obtain ⟨st', hst', -⟩ := Option.map_eq_some_iff.1 hstep
    exact ⟨_, st', 3, true, rfl, .inl rfl, ((abortStep_partsKept _ p).step p).trans hst',
      fun _ h => habort.commitDue (by decide) (hpub.commitDue (by decide) (hlog.commitDue (by decide) h)), fun h => absurd h hd⟩

theorem blockOf_core (n : Fin 40) : blockOf (pgCore n.val) = some (.core n.val, 0x100) := by revert n; decide
theorem blockOf_engine (q : Fin 4) : blockOf (pgEngine q.val) = some (.engine q.val, 0x170) := by revert q; decide

/-! ### O25 -/

/-- Settles O25: each occasion runs the page's settling on what it finds, and nothing before or after it touches settings or commits. -/
theorem safePointsSettle : Obligations.SafePointsSettle := by
  refine ⟨fun t page first b s hphase hb hready hbusy hdue => ⟨fun hok => ?_, fun code off hbad => ?_⟩, fun t err s hphase hfree hdue => ?_,
    fun t core s hdue => ⟨_, rfl, chunkGrantOp_settles hdue _⟩, fun t port f p vid ch s hphase hon hf hm hs hstart => ?_,
    fun t tick p s hphase htick hle ho hdue => ?_, fun t p s st hpast hst hfail => ?_⟩
  · rw [commitSafePoint_settles hphase hb hready hbusy hdue, settle_of_passed hdue.1 hok]
    rfl
  · rw [commitSafePoint_settles hphase hb hready hbusy hdue, settle_of_bad hdue.1 hbad, fencesAfter_of_not_applied]
    · rfl
    · rw [(pageErr_commit ..).1, State.setHdr_hdrOf_self]
      exact nofun
  · refine ⟨patrolOp (atTime t s) err, congrArg Host.Outcome.next (if_pos hphase), ?_⟩
    exact patrolOp_settles (s := atTime t s) hfree hdue err
  · have hon' : portOn (atTime t s) port.val = true := hon
    have hu : vatRxOp (atTime t s) port.val f true = avtpFrame (received (atTime t s) port.val) port.val vid p := vatRxOp_of_packet hphase hon' hf
    have hr : Frame [.regs] (atTime t s) (received (atTime t s) port.val) := State.bump_frame (.refl _ _) (.refl _)
    have hF := avtpFrame_of_start (s := received (atTime t s) port.val) ((received_matchChan ..).trans hm)
      (by rw [received_chanCfg]; exact hs) hstart
    refine ⟨_, congrArg Host.Outcome.next ((if_pos hphase).trans hu), fun hdue => ?_, fun hdue => ?_⟩
    · obtain ⟨hnot, hset⟩ := atFrameBoundary_chan (hr.commitDue (by decide) hdue)
      refine ⟨by rwa [hF.cstate (by decide)], fun hn => hF.settled (by decide) (by decide) (hr.settled_before (by decide) (by decide) (hset ?_))⟩
      rw [hr.cstate (by decide)]
      exact hn
    · obtain ⟨hnot, hset⟩ := atFrameBoundary_shape (hr.commitDue (by decide) hdue)
      refine ⟨by rwa [hF.cstate (by decide)], fun hn => hF.settled (by decide) (by decide) (hr.settled_before (by decide) (by decide) (hset ?_))⟩
      rw [hr.cstate (by decide)]
      exact hn
  · obtain ⟨a, v, ha, hv, hexec⟩ := (stepsBeginAtTheirTick t p s tick hphase htick).2 hle
    have hbegun : Frame [.fresh, .mem, .regs, .plans, .press, .log] (atTime t s) a :=
      ha ▸ State.bump_frame (State.modPart_frame (.refl _ _) (by decide)) (by decide)
    have hopened := frame_ite (c := (s.part p.val).stepNo = 0) (opensDue_frame (p := p.val) (m := 0)
      (retireDue_frame (p := p.val) (m := 0) hbegun (by decide)) (by decide)) hbegun
    refine ⟨v, hexec, hv ▸ hopened.settled_before (by decide) (by decide) (displayTick_settles ?_ (hopened.commitDue (by decide) hdue))⟩
    rw [hopened.dispOwner (by decide)]
    exact ho
  · obtain ⟨z, st', outcome, missed, hop, ho, hst', hdue, howners⟩ := deadlineOp_ends (s := atTime t s) hpast hst hfail
    have hpage : ∀ page, page ∈ boundaryPages z p.val → (blockOf page).isSome = true → page ≠ pgDl → CommitDue (atTime t s) page →
        ((deadlineOp (atTime t s) p.val).hdrOf page).cstate ≠ .pending := fun page hm hb hdl h => by
      rw [hop]
      exact endStep_settles hst' ho missed hm hb hdl (hdue page h)
    refine ⟨deadlineOp (atTime t s) p.val, rfl, fun page hm => ?_, fun hd => ⟨fun n hn hown => ?_, fun q hq hown => ?_⟩⟩
    · obtain rfl | hm := List.mem_cons.1 hm
      · exact hpage _ (own_mem_boundaryPages z p.val).1 (by rw [blockOf_part]; rfl) (by unfold pgPart pgDl; omega)
      · obtain rfl := List.mem_singleton.1 hm
        exact hpage _ (own_mem_boundaryPages z p.val).2 (by rw [blockOf_pressP]; rfl) (by unfold pgPressP pgDl; omega)
    · exact hpage _ (core_mem_boundaryPages hn (((howners hd).pair _).trans hown)) (by rw [blockOf_core ⟨n, hn⟩]; rfl) (by unfold pgCore pgDl; omega)
    · exact hpage _ (engine_mem_boundaryPages hq (((howners hd).engine _).trans hown)) (by rw [blockOf_engine ⟨q, hq⟩]; rfl)
        (by unfold pgEngine pgDl; omega)

end Sys2Proof.Machine
end

section
/-! Where a start begins (R438–R442): it loses what stands outside AON and the flash, so that nobody has a claim and nothing is loaded, and the boot
counter decides whether it goes on or ends in recovery. What wakes the device begins one (R445–R447, R473, R521). -/

namespace Sys2Proof.Machine

/-! ### What a start begins with (R438) -/

/-- A table filled key by key reads as filled. -/
theorem sget_foldl_sput {α : Type} [DecidableEq α] (d : α) (f : Nat → α) (l : List Nat) (t : List (Nat × α)) (k : Nat) :
    sget d (l.foldl (fun t i => sput d t i (f i)) t) k = if k ∈ l then f k else sget d t k := by
  induction l generalizing t with
  | nil => simp
  | cons j r ih =>
    rw [List.foldl_cons, ih]
    by_cases hr : k ∈ r
    · simp [hr]
    · obtain rfl | h := eq_or_ne k j
      · simp [hr]
      · simp [hr, h, sget_sput_ne _ _ _ _ h]

theorem keptPairs_owner (s : State) (i : Nat) : (sget PairSt.reset (keptPairs s) i).owner = 0xF := by
  unfold keptPairs
  rw [sget_foldl_sput]
  split <;> rfl

/-- Nobody has a claim, and nothing is loaded (R291, R407). -/
structure Cleared (s : State) : Prop where
  host : s.link.host = .unclaimed
  parts : ∀ p, (s.part p).st = .empty
  running : s.plans.running = []
  owner : ∀ i, (s.pair i).owner = 0xF

theorem Cleared.of_same {a s : State} (h : Cleared a) (hl : s.link = a.link) (hp : s.plans = a.plans) (hu : s.units = a.units) : Cleared s :=
  ⟨by rw [hl, h.host], fun p => by rw [State.part, hp]; exact h.parts p, by rw [hp, h.running], fun i => by rw [State.pair, hu]; exact h.owner i⟩

theorem lose_cleared (s : State) (supply cold dark : Bool) : Cleared (lose s supply cold dark) := by
  refine ⟨rfl, fun _ => rfl, rfl, fun i => ?_⟩
  cases dark
  · exact keptPairs_owner s i
  · rfl

theorem beginStart_cleared (s : State) (kind cause : Nat) (supply dark : Bool) : Cleared (beginStart s kind cause supply dark) := by
  have hstart : Cleared (startState s kind cause supply dark) :=
    (lose_cleared s supply (kind == 1) dark).of_same (State.bump_link ..) (State.bump_plans ..) (State.bump_units ..)
  exact hstart.of_same (romChoose_same _ (f := .link) (by decide)) (romChoose_same _ (f := .plans) (by decide)) (romChoose_same _ (f := .units) (by decide))

theorem beginStart_clock (s : State) (kind cause : Nat) (supply dark : Bool) : (beginStart s kind cause supply dark).clk.clock = s.clk.clock :=
  (beginStart_frame (.refl allParts s) (by decide)).clock

theorem beginStart_aon (s : State) (kind cause : Nat) (supply dark : Bool) :
    (beginStart s kind cause supply dark).aon = keptAon s supply (kind == 1) := (beginStart_start s kind cause supply dark).2.1

/-- Every start but a cold one by supply goes on, or ends in recovery at the sixth recent failure (R442). -/
theorem beginStart_began (s : State) (kind cause : Nat) (dark : Bool) : Began (beginStart s kind cause false dark) (recentFails s) kind cause := by
  obtain ⟨-, -, hrecovery, hgoes⟩ := beginStart_start s kind cause false dark
  rw [recentFails_lose] at hrecovery hgoes
  obtain ⟨hhost, hparts, hrunning, howner⟩ := beginStart_cleared s kind cause false dark
  refine ⟨?_, hhost, hparts, hrunning, howner⟩
  rw [beginStart_clock]
  split
  · exact hrecovery ‹_›
  · exact hgoes ‹_›

/-- With fewer than six recent failures the start goes on. -/
theorem beginStart_starting {s : State} (h : (recentFails s).length < 6) (kind cause : Nat) (dark : Bool) :
    (beginStart s kind cause false dark).phase = .starting ∧
      (beginStart s kind cause false dark).boot.start = ⟨kind, cause, (beginStart s kind cause false dark).clk.clock⟩ := by
  have hb := (beginStart_began s kind cause dark).1
  rwa [if_neg (by omega)] at hb

@[simp] theorem keptAon_wakeLast (s : State) (cold : Bool) : (keptAon s false cold).wakeLast = s.aon.wakeLast := by cases cold <;> rfl
@[simp] theorem keptAon_failures (s : State) (cold : Bool) : (keptAon s false cold).failures = s.aon.failures := by cases cold <;> rfl

/-! ### Sleep and wake (R445–R447, R473, R521) -/

/-- A wake notes what it came from and begins a warm start. -/
theorem wake_began (s : State) (last cause : Nat) (dark : Bool) :
    let u := beginStart { s with aon := { s.aon with wakeLast := last } } 2 cause false dark
    Began u (recentFails s) 2 cause ∧ u.aon.wakeLast = last := by
  refine ⟨beginStart_began { s with aon := { s.aon with wakeLast := last } } 2 cause dark, ?_⟩
  rw [beginStart_aon, keptAon_wakeLast]

theorem wakePatternOp_of_unwatched {s : State} (h : wakeWatch s = false) : wakePatternOp s = s := by
  unfold wakePatternOp
  dsimp only
  split
  · rfl
  · simp [h]

theorem wakePatternOp_of_pattern {s : State} (hw : wakeWatch s = true) (hb : s.aon.wake.bits = some wakeBits) (hl : s.aon.wake.lit = false)
    (ht : s.aon.wake.since + 20000000 ≤ s.clk.clock) :
    wakePatternOp s = beginStart { s with aon := { s.aon with wakeLast := 3 } } 2 4 false false := by
  unfold wakePatternOp
  dsimp only
  rw [hb]
  simp [hw, hl, ht]

/-- A change of WAK's light that is one (R521). -/
theorem litChangeOp_aon {s : State} {lit : Bool} (hp : s.phase ≠ .off) (hl : s.aon.wake.lit ≠ lit) (ht : 2 ≤ aonPeriods s s.aon.wake.changed) :
    (litChangeOp s lit).aon.wake.lit = lit ∧ (litChangeOp s lit).aon.wake.since = s.clk.clock ∧
      (s.phase = .sleep → (litChangeOp s lit).aon.wake.bits = none) := by
  unfold litChangeOp
  rw [if_neg (not_or.2 ⟨hp, not_or.2 ⟨hl, by omega⟩⟩)]
  extract_lets d w' a s'
  have haon : (if (lit && s'.phase != .sleep) = true then s'.bump pgSntw 0x060 1 else s').aon = s'.aon := by
    split
    · exact State.bump_aon ..
    · rfl
  rw [haon]
  refine ⟨rfl, rfl, fun hs => ?_⟩
  have hw : wakeWatch s = false := by simp [wakeWatch, hs]
  simp [s', w', hw]

theorem litChangeOp_of_short {s : State} {lit : Bool} (ht : aonPeriods s s.aon.wake.changed < 2) : litChangeOp s lit = s :=
  if_pos (.inr (.inr ht))

theorem aonSensorOp_aon {s : State} (hp : s.phase ≠ .off) (temp : Int) :
    (aonSensorOp s temp).aon.aonTemp = temp ∧
      (if s.aon.hot = true ∧ temp ≤ 380 then (aonSensorOp s temp).aon.hot = false ∧
          (aonSensorOp s temp).aon.sleepFrom = s.aon.sleepFrom + (s.clk.clock - s.aon.hotFrom) ∧ (aonSensorOp s temp).aon.wake.since = s.clk.clock
        else if s.aon.hot = false ∧ 380 < temp ∧ s.phase = .sleep ∧ s.aon.owedShutdown = true then
          (aonSensorOp s temp).aon.hot = true ∧ (aonSensorOp s temp).aon.hotFrom = s.clk.clock
        else (aonSensorOp s temp).aon = { s.aon with aonTemp := temp }) := by
  unfold aonSensorOp
  rw [if_neg hp]
  dsimp only
  by_cases hcool : s.aon.hot = true ∧ temp ≤ 380
  · simp only [if_pos hcool, and_self]
  · by_cases hhot : s.aon.hot = false ∧ 380 < temp ∧ s.phase = .sleep ∧ s.aon.owedShutdown = true
    · simp only [if_neg hcool, if_pos hhot, and_self]
    · simp only [if_neg hcool, if_neg hhot, and_self]

/-! ### O9 -/

/-- Settles O9: each wake is one start's beginning, and the other commands change AON alone. -/
theorem sleepAndWake : Obligations.SleepAndWake := by
  refine ⟨fun t s hs hcool hlit ht => ⟨_, congrArg Host.Outcome.next (if_pos ⟨hs, hcool, hlit, ht⟩), wake_began (atTime t s) 1 2 true⟩,
    fun t s hs hcool htimer ht => ⟨_, congrArg Host.Outcome.next (if_pos ⟨hs, hcool, htimer, ht⟩), wake_began (atTime t s) 2 3 true⟩,
    fun t s hs hen hbits hlit ht => ?_, fun t s hs => ?_, fun t lit s hp hl => ⟨fun hn => ?_, fun hn => ?_⟩, fun t temp s hp => ?_⟩
  · have hw : wakeWatch (atTime t s) = true := by simp [wakeWatch, hs, hen]
    exact ⟨_, congrArg Host.Outcome.next (wakePatternOp_of_pattern hw hbits hlit ht), wake_began (atTime t s) 3 4 false⟩
  · exact congrArg Host.Outcome.next (wakePatternOp_of_unwatched (by simp [wakeWatch, hs]))
  · have hclock : (litChangeOp (atTime t s) lit).clk.clock = (atTime t s).clk.clock := (litChangeOp_frame (.refl [.regs, .aon] _) (.refl _)).clock
    refine ⟨_, rfl, ?_⟩
    rw [hclock]
    exact litChangeOp_aon hp hl hn
  · exact congrArg Host.Outcome.next (litChangeOp_of_short hn)
  · have hclock : (aonSensorOp (atTime t s) temp).clk.clock = (atTime t s).clk.clock := (aonSensorOp_frame (.refl [.aon] _) (.refl _)).clock
    refine ⟨_, rfl, ?_⟩
    rw [hclock]
    exact aonSensorOp_aon (s := atTime t s) hp temp

end Sys2Proof.Machine
end

section
/-! How a start ends (R431, R436, R440–R442): at HOST_READY, or as a failure that enters the boot counter. Neither the start's steps nor the fences that
are due at HOST_READY find anything loaded, so that the plans are left as the start's beginning left them. -/

namespace Sys2Proof.Machine

/-! ### A start that fails (R441, R442) -/

/-- s came from a within one start: what the boot counter notes of a failure is as it was. -/
structure SameStart (a s : State) : Prop where
  running : s.boot.running = a.boot.running
  failures : s.aon.failures = a.aon.failures
  base : s.aon.base = a.aon.base
  clk : s.clk = a.clk

theorem SameStart.refl (s : State) : SameStart s s := ⟨rfl, rfl, rfl, rfl⟩

theorem SameStart.trans {a s u : State} (h : SameStart a s) (k : SameStart s u) : SameStart a u :=
  ⟨k.running.trans h.running, k.failures.trans h.failures, k.base.trans h.base, k.clk.trans h.clk⟩

theorem SameStart.foldl {β : Type} {f : State → β → State} (hf : ∀ s b, SameStart s (f s b)) (l : List β) (s : State) : SameStart s (l.foldl f s) := by
  induction l generalizing s with
  | nil => exact .refl s
  | cons b l ih => exact (hf s b).trans (ih _)

theorem logEntry_sameStart (s : State) (code p u n : Nat) : SameStart s (s.logEntry code p u n) :=
  ⟨by rw [State.logEntry_boot], by rw [State.logEntry_aon], by rw [State.logEntry_aon], State.logEntry_clk ..⟩

theorem testFailed_sameStart (s : State) (n : Nat) : SameStart s (testFailed s n) := by
  unfold testFailed
  split
  · exact .refl s
  · refine SameStart.trans ?_ (logEntry_sameStart ..)
    exact ⟨rfl, rfl, rfl, rfl⟩

theorem stepsMade_sameStart (s : State) (reached : Nat) (found : StartReport) : SameStart s (stepsMade s reached found) := by
  unfold stepsMade
  extract_lets a warm dramSkip sramSkip trains tests power boot s1 s2
  have h1 : SameStart s s1 := ⟨rfl, rfl, rfl, rfl⟩
  clear_value s1
  split
  · exact h1
  have h2 : SameStart s1 s2 := by
    unfold s2
    split
    · exact .refl s1
    · exact .foldl (fun _ _ => logEntry_sameStart ..) _ s1
  exact (h1.trans h2).trans (.foldl testFailed_sameStart _ s2)

/-- The failure enters the boot counter, and the next start begins. -/
theorem failStart_startOver (s : State) : StartOver s (failStart s) := by
  have haon : (recordFail s).aon = { s.aon with failures := failuresNow s } := by simp [recordFail, failuresNow]
  have hclk : (recordFail s).clk = s.clk := by simp [recordFail]
  have hrecent : recentFails (recordFail s) = (failuresNow s).filter (fun f => decide (s.aonTime ≤ f.aonTime + 600000000000)) := by
    rw [recentFails, State.aonTime, haon, hclk, State.aonTime]
  refine ⟨hrecent ▸ beginStart_began (recordFail s) 2 7 false, ?_⟩
  unfold failStart
  rw [beginStart_aon, keptAon_failures, haon]

theorem SameStart.startOver {a s u : State} (h : SameStart a s) (k : StartOver s u) : StartOver a u := by
  have htime : s.aonTime = a.aonTime := by rw [State.aonTime, h.clk, h.base, State.aonTime]
  have hnow : failuresNow s = failuresNow a := by rw [failuresNow, h.running, htime, h.failures, failuresNow]
  unfold StartOver at k ⊢
  rwa [hnow, htime] at k

/-! ### Fences where nothing is loaded (R179, R382) -/

/-- s came from a with the plans and every pair's owner as they were. -/
structure SameOwners (a s : State) : Prop where
  plans : s.plans = a.plans
  owner : ∀ i, (s.pair i).owner = (a.pair i).owner

theorem SameOwners.refl (s : State) : SameOwners s s := ⟨rfl, fun _ => rfl⟩

theorem SameOwners.trans {a s u : State} (h : SameOwners a s) (k : SameOwners s u) : SameOwners a u :=
  ⟨k.plans.trans h.plans, fun i => (k.owner i).trans (h.owner i)⟩

theorem SameOwners.of_retunes {W : List Field} {a s : State} (h : Retunes a s) (hF : Frame W a s) (hp : .plans ∉ W) : SameOwners a s := by
  refine ⟨hF.same .plans hp, fun i => ?_⟩
  obtain ⟨f, hf⟩ := h.pair i
  rw [hf]

theorem SameOwners.of_frame {W : List Field} {a s : State} (hF : Frame W a s) (hp : .plans ∉ W) (hu : .units ∉ W) : SameOwners a s :=
  .of_retunes (.of_frame hF hu) hF hp

theorem SameOwners.foldl {β : Type} {f : State → β → State} (hf : ∀ s b, SameOwners s (f s b)) (l : List β) (s : State) :
    SameOwners s (l.foldl f s) := by
  induction l generalizing s with
  | nil => exact .refl s
  | cons b l ih => exact (hf s b).trans (ih _)

/-- Nothing runs, and every pair is in the pool. -/
structure Unowned (s : State) : Prop where
  running : s.plans.running = []
  owner : ∀ i, (s.pair i).owner = 0xF

theorem SameOwners.unowned {a s : State} (h : SameOwners a s) (k : Unowned a) : Unowned s :=
  ⟨by rw [h.plans, k.running], fun i => by rw [h.owner, k.owner]⟩

theorem Unowned.foldl {β : Type} {f : State → β → State} (hf : ∀ s b, Unowned s → SameOwners s (f s b)) (l : List β) {s : State} (h : Unowned s) :
    SameOwners s (l.foldl f s) := by
  induction l generalizing s with
  | nil => exact .refl s
  | cons b l ih => exact (hf s b h).trans (ih ((hf s b h).unowned h))

theorem modUnit_sameOwners (s : State) (u : Nat) (f : CoreSt → CoreSt) : SameOwners s (modUnit s u f) :=
  .of_retunes (modUnit_retunes s u f) (modUnit_frame (.refl [.units] s) (.refl _)) (by decide)

theorem account_sameOwners (s : State) (u : Nat) : SameOwners s (account s u) :=
  .of_retunes (account_retunes s u) (account_frame (.refl [.fresh, .regs, .units] s) (.refl _)) (by decide)

theorem undefUnit_sameOwners (s : State) (u : Nat) (active1 : Bool) : SameOwners s (undefUnit s u active1) :=
  .of_retunes (undefUnit_retunes s u active1) (undefUnit_frame (.refl [.fresh, .units] s) (.refl _)) (by decide)

theorem settleCore_sameOwners (s : State) (u : Nat) : SameOwners s (settleCore s u) :=
  .of_retunes (settleCore_retunes s u) (settleCore_frame (.refl [.fresh, .regs, .units] s) (.refl _)) (by decide)

theorem endFiller_sameOwners (s : State) (u : Nat) : SameOwners s (endFiller s u) := by
  unfold endFiller
  split
  · exact .refl s
  · exact ((account_sameOwners s u).trans (undefUnit_sameOwners ..)).trans (modUnit_sameOwners ..)

theorem abortChunk_sameOwners (s : State) (u : Nat) : SameOwners s (abortChunk s u) := by
  unfold abortChunk
  extract_lets ns s1 same woken s2 old s3 s4 src s5
  split
  · exact .refl s
  have h2 : SameOwners s1 s2 := by
    unfold s2
    split
    · have hF : Frame [.regs] s1 woken := frame_foldl _ (.refl _ s1) fun _ _ h => State.unbump_frame h (.refl _)
      exact (SameOwners.of_frame hF (by decide) (by decide)).trans (modUnit_sameOwners ..)
    split
    · exact .refl s1
    · exact (SameOwners.of_frame (State.bump_frame (.refl [.regs] s1) (.refl _)) (by decide) (by decide)).trans (undefUnit_sameOwners ..)
  have h4 : SameOwners s3 s4 := .foldl (fun s n => by
    split
    · exact ⟨rfl, fun _ => rfl⟩
    · exact .refl s) ns s3
  have h5 : SameOwners s4 s5 := ⟨rfl, fun _ => rfl⟩
  exact (((account_sameOwners s u).trans h2).trans ((modUnit_sameOwners ..).trans h4)).trans (h5.trans (settleCore_sameOwners ..))

theorem powerOff_sameOwners (s : State) (ns : List Nat) : SameOwners s (powerOff s ns) := by
  refine .foldl (fun s n => ?_) ns s
  exact ⟨rfl, fun _ => rfl⟩

theorem abortItem_of_unowned {s : State} (h : Unowned s) (q : Nat) : abortItem s q = s := by
  unfold abortItem
  rw [State.run, h.running]
  rfl

/-- A fence of a core that no partition owns aborts no item and moves no logical core. -/
theorem fenceCore_of_unowned {s : State} (h : Unowned s) (n cause : Nat) (faulty : Option Nat) : SameOwners s (fenceCore s n cause faulty) := by
  unfold fenceCore
  split
  · exact .refl s
  extract_lets u p s1 s2 o s3 src s4 x s5 s6
  have h1 : SameOwners s s1 := by
    unfold s1
    rw [abortItem_of_unowned h]
    exact (abortChunk_sameOwners s u).trans (endFiller_sameOwners ..)
  have h2 : SameOwners s1 s2 := (account_sameOwners s1 u).trans (powerOff_sameOwners ..)
  have h3 : SameOwners s2 s3 := by
    unfold s3
    split
    · exact .refl s2
    · exact (SameOwners.of_retunes (wakeUnit_retunes s2 o) (wakeUnit_frame (.refl [.fresh, .regs, .units] s2) (.refl _)) (by decide)).trans
        (settleCore_sameOwners ..)
  have h4 : SameOwners s3 s4 := .of_frame (Frame.set_aon (.refl [.aon] s3) (by decide)) (by decide) (by decide)
  have h6 : SameOwners s4 s6 := .of_frame (endRotation_frame (State.logEntry_frame (State.bump_frame (.refl [.fresh, .regs, .selftest, .log] s4)
    (by decide)) (by decide)) (by decide)) (by decide) (by decide)
  have hp : ¬ p < 8 := by simp [p, pairOwner, h.owner]
  clear_value s6
  rw [if_neg hp]
  exact ((h1.trans h2).trans (h3.trans h4)).trans h6

theorem fenceUnit_of_unowned {s : State} (h : Unowned s) (n cause : Nat) (faulty : Option Nat) : SameOwners s (fenceUnit s n cause faulty) := by
  unfold fenceUnit
  extract_lets p bound
  split
  · exact .refl s
  · rw [if_neg fun hb => absurd hb.1.1 (by simp [p, pairOwner, h.owner])]
    exact fenceCore_of_unowned h n cause faulty

theorem dueFences_of_unowned {s : State} (h : Unowned s) : SameOwners s (dueFences s) := by
  unfold dueFences
  split
  · exact .refl s
  extract_lets z
  have hz : SameOwners s z := h.foldl (fun s c hs => by
    split
    · exact fenceUnit_of_unowned hs ..
    · exact .refl s) _
  clear_value z
  split
  · exact hz.trans ⟨rfl, fun _ => rfl⟩
  · exact hz

/-! ### HOST_READY (R436, R439, R440) -/

/-- The start's steps are made, a shutdown that is owed is logged, and the configuration is in force (R433–R439, R473). -/
def configured (s : State) (found : StartReport) : State :=
  let s := stepsMade s 9 found
  let s := if s.aon.owedShutdown then ({ s with aon := { s.aon with owedShutdown := false } }).logEntry 0x8102 0xFF 0xFF 0 else s
  applyConfig s

/-- The cores have power, but those that failed their test (R21, R383, R439). -/
def coresUp (s : State) (found : StartReport) : State := (found.failed.map (·.val)).foldl fenceAtStart (powerCores (configured s found))

/-- Every processor is in RUN from the slot that was started (R440). -/
def procsUp (s : State) : State :=
  { s with
    phase := .up
    procs := (List.range 3).foldl (fun l i =>
      sput ProcSt.reset l i { s.proc i with st := .run, cause := 1, slot := s.boot.running, fw := imageVersion s s.boot.running, restarts := [] }) []
    boot := { s.boot with readyAt := s.clk.clock } }

/-- The coverage runs of a warm start begin, and the fences of R179 that are due are made. -/
def fencesMade (s : State) (warm : Bool) (recorded : List Nat) : State :=
  latchStCore (dueFences (if warm then runCoverage s (recorded.filter (fun n => !coreOut s n)) else s)) 0

/-- The sentinel is on, and an activation is complete where the slot that was started is its new one (R440, R456). -/
def sentinelUp (s : State) : State :=
  let s : State := { s with power := { s.power with vcore := vcoreFor s }, safety := { s.safety with sentinelOn := true } }
  let done := s.boot.newSlot == some s.boot.running
  let s : State := { s with boot := { s.boot with newSlot := none, sntUp := true } }
  if done then s.logEntry 0x7109 0xFF 0xFF 0 else s

theorem hostReadyOp_of_passed {s : State} (hp : s.phase = .starting) (hr : s.boot.romCode = none) (found : StartReport) :
    hostReadyOp s found =
      sentinelUp (fencesMade (procsUp (coresUp s found)) (s.boot.start.kind == 2) (recordedCores (configured s found))) := by
  unfold hostReadyOp
  rw [if_neg (by simp [hp]), if_neg (by simp [hr])]
  rfl

/-- A slot that fails the ROM's checks never reaches it (R431, R441). -/
theorem hostReadyOp_of_failed {s : State} (hp : s.phase = .starting) (hr : s.boot.romCode ≠ none) (found : StartReport) :
    hostReadyOp s found = failStart s := by
  unfold hostReadyOp
  rw [if_neg (by simp [hp]), if_pos (Option.isSome_iff_ne_none.2 hr)]

theorem setPair_sameOwners (s : State) (i : Nat) {c : PairSt} (h : c.owner = (s.pair i).owner) : SameOwners s (s.setPair i c) := by
  refine ⟨rfl, fun k => ?_⟩
  obtain rfl | hne := eq_or_ne k i
  · rw [State.setPair_pair_self, h]
  · rw [State.setPair_pair_ne _ _ hne]

theorem applyConfig_keeps (s : State) : (applyConfig s).boot.running = s.boot.running ∧ SameOwners s (applyConfig s) := by
  unfold applyConfig
  split
  next copy b _ =>
  extract_lets s1 rs modes ports pat s2 s3 s4
  have h1 : Frame [.fresh, .regs, .log] s s1 := frame_ite (State.logEntry_frame (.refl _ s) (.refl _)) (.refl _ s)
  have h2 : Frame [.units] s1 s2 := frame_foldl _ (.refl _ s1) fun _ _ h => State.setPair_frame h (.refl _)
  have h2o : SameOwners s1 s2 := by
    refine .foldl (fun z i => ?_) _ s1
    exact setPair_sameOwners z i rfl
  have h3 : Frame [.regs, .settings] s2 s3 := applyPower_frame (applyHostPorts_frame (.refl _ s2) (.refl _)) (.refl _)
  have h4 : Frame [.regs, .net, .settings] s3 s4 :=
    frame_foldl _ (.refl _ s3) fun _ _ h => State.setOptical_frame (State.setBoth_frame h (by decide)) (by decide)
  have hrun : s4.boot.running = s.boot.running := by
    rw [h4.same .boot (by decide), h3.same .boot (by decide), h2.same .boot (by decide), h1.same .boot (by decide)]
  have howners : SameOwners s s4 := (((SameOwners.of_frame h1 (by decide) (by decide)).trans h2o).trans (.of_frame h3 (by decide) (by decide))).trans
    (.of_frame h4 (by decide) (by decide))
  clear_value s4
  exact ⟨hrun, howners.trans (.of_frame (Frame.set_boot (.refl [.boot] s4) (by decide)) (by decide) (by decide))⟩

/-- Up to HOST_READY nothing is loaded and no claim is made, and the slot stays the one that was started. -/
theorem coresUp_keeps (s : State) (found : StartReport) :
    Frame [.fresh, .regs, .units, .aon, .boot, .log, .power, .net, .settings] s (coresUp s found) ∧
      (coresUp s found).boot.running = s.boot.running ∧ SameOwners s (coresUp s found) := by
  have hconf : Frame [.fresh, .regs, .units, .aon, .boot, .log, .power, .net, .settings] s (configured s found) ∧
      (configured s found).boot.running = s.boot.running ∧ SameOwners s (configured s found) := by
    unfold configured
    extract_lets s1 a s2
    have h1 : Frame [.fresh, .regs, .aon, .boot, .log, .power] s s1 := stepsMade_frame (.refl _ s) (.refl _)
    have h2 : Frame [.fresh, .regs, .aon, .log] s1 s2 :=
      frame_ite (State.logEntry_frame (Frame.set_aon (.refl _ s1) (by decide)) (by decide)) (.refl _ s1)
    obtain ⟨hrun, howners⟩ := applyConfig_keeps s2
    refine ⟨applyConfig_frame ((h1.mono (by decide)).trans (h2.mono (by decide))) (by decide), ?_,
      ((SameOwners.of_frame h1 (by decide) (by decide)).trans (.of_frame h2 (by decide) (by decide))).trans howners⟩
    rw [hrun, h2.same .boot (by decide), (stepsMade_sameStart s 9 found).running]
  obtain ⟨hF, hrun, howners⟩ := hconf
  have hpower : Frame [.units] (configured s found) (coresUp s found) :=
    frame_foldl _ (powerCores_frame (.refl _ _) (.refl _)) fun _ _ h => fenceAtStart_frame h (.refl _)
  have hfence (z : State) (n : Nat) : SameOwners z (fenceAtStart z n) := by
    unfold fenceAtStart
    split
    · exact .refl z
    · exact modUnit_sameOwners ..
  have hon : SameOwners (configured s found) (powerCores (configured s found)) := .foldl (fun z n => by
    split
    · exact .refl z
    · exact ⟨rfl, fun _ => rfl⟩) _ _
  refine ⟨hF.trans (hpower.mono (by decide)), ?_, howners.trans (hon.trans (.foldl hfence _ _))⟩
  rw [hpower.same .boot (by decide), hrun]

theorem procsUp_proc (s : State) (i : Fin 3) : ((procsUp s).proc i.val).st = .run ∧ ((procsUp s).proc i.val).slot = s.boot.running := by
  unfold procsUp State.proc
  dsimp only
  rw [sget_foldl_sput, if_pos (List.mem_range.2 i.isLt)]
  exact ⟨rfl, rfl⟩

theorem fencesMade_keeps (s : State) (warm : Bool) (recorded : List Nat) :
    Frame [.out, .fresh, .mem, .regs, .units, .plans, .press, .safety, .selftest, .aon, .boot, .log, .net] s (fencesMade s warm recorded) ∧
      (fencesMade s warm recorded).boot.readyAt = s.boot.readyAt ∧ (Unowned s → (fencesMade s warm recorded).plans = s.plans) := by
  have hcover : Frame [.units, .boot] s (if warm then runCoverage s (recorded.filter (fun n => !coreOut s n)) else s) :=
    frame_ite (runCoverage_frame (.refl _ s) (.refl _)) (.refl _ s)
  have hready : (if warm then runCoverage s (recorded.filter (fun n => !coreOut s n)) else s).boot.readyAt = s.boot.readyAt := by
    split
    · unfold runCoverage
      rw [(frame_foldl _ (.refl [.units] _) fun _ _ h => modUnit_frame h (.refl _)).same .boot (by decide)]
    · rfl
  have howners : SameOwners s (if warm then runCoverage s (recorded.filter (fun n => !coreOut s n)) else s) := by
    split
    · exact (⟨rfl, fun _ => rfl⟩ : SameOwners s { s with boot := { s.boot with coverage := recorded.filter (fun n => !coreOut s n) } }).trans
        (.foldl (fun _ _ => modUnit_sameOwners ..) _ _)
    · exact .refl s
  unfold fencesMade
  generalize (if warm then runCoverage s (recorded.filter (fun n => !coreOut s n)) else s) = z at *
  have hlatch (y : State) : Frame [.regs] y (latchStCore y 0) := latchStCore_frame (.refl _ y) (.refl _)
  have hfences : Frame [.out, .fresh, .mem, .regs, .units, .plans, .press, .safety, .selftest, .aon, .log, .net] z (dueFences z) :=
    dueFences_frame (.refl _ z) (.refl _)
  refine ⟨((hcover.mono (by decide)).trans (hfences.mono (by decide))).trans ((hlatch _).mono (by decide)), ?_, fun h => ?_⟩
  · rw [(hlatch _).same .boot (by decide), hfences.same .boot (by decide), hready]
  · rw [(hlatch _).same .plans (by decide), (dueFences_of_unowned (howners.unowned h)).plans, howners.plans]

theorem sentinelUp_keeps (s : State) :
    Frame [.fresh, .regs, .safety, .boot, .log, .power] s (sentinelUp s) ∧ (sentinelUp s).boot.readyAt = s.boot.readyAt ∧
      (sentinelUp s).safety.sentinelOn = true := by
  unfold sentinelUp
  extract_lets p q s1 done b s2
  have hcore : Frame [.fresh, .regs, .safety, .boot, .log, .power] s { s with power := { s.power with vcore := vcoreFor s } } := Frame.set_power (.refl _ s) (by decide)
  have h1 : Frame [.fresh, .regs, .safety, .boot, .log, .power] s s1 := Frame.set_safety hcore (by decide)
  have h2 : Frame [.fresh, .regs, .safety, .boot, .log, .power] s s2 := Frame.set_boot h1 (by decide)
  refine ⟨frame_ite (State.logEntry_frame h2 (by decide)) h2, ?_⟩
  split
  · rw [State.logEntry_boot, State.logEntry_safety]
    exact ⟨rfl, rfl⟩
  · exact ⟨rfl, rfl⟩

/-- Where a start ends that fails nowhere: the device is IDLE, with the host and the plans as the start's beginning left them. -/
theorem hostReadyOp_ready {s : State} (hp : s.phase = .starting) (hr : s.boot.romCode = none) (found : StartReport) :
    let u := hostReadyOp s found
    u.phase = .up ∧ u.boot.readyAt = u.clk.clock ∧ u.safety.sentinelOn = true ∧
      (∀ i : Fin 3, (u.proc i.val).st = .run ∧ (u.proc i.val).slot = s.boot.running) ∧ u.link = s.link ∧ (Unowned s → u.plans = s.plans) := by
  intro u
  have hu : u = _ := hostReadyOp_of_passed hp hr found
  obtain ⟨hcores, hslot, howners⟩ := coresUp_keeps s found
  have hprocs := procsUp_proc (coresUp s found)
  have hup : SameOwners (coresUp s found) (procsUp (coresUp s found)) := ⟨rfl, fun _ => rfl⟩
  obtain ⟨hfences, hready, hplans⟩ := fencesMade_keeps (procsUp (coresUp s found)) (s.boot.start.kind == 2) (recordedCores (configured s found))
  obtain ⟨hsent, hready', hon⟩ :=
    sentinelUp_keeps (fencesMade (procsUp (coresUp s found)) (s.boot.start.kind == 2) (recordedCores (configured s found)))
  rw [← hu] at hsent hready' hon
  refine ⟨?_, ?_, hon, fun i => ?_, ?_, fun h => ?_⟩
  · rw [hsent.same .phase (by decide), hfences.same .phase (by decide)]
    rfl
  · rw [hready', hready, hsent.same .clk (by decide), hfences.same .clk (by decide)]
    rfl
  · rw [State.proc, hsent.same .procs (by decide), hfences.same .procs (by decide), ← hslot]
    exact hprocs i
  · rw [hsent.same .link (by decide), hfences.same .link (by decide)]
    exact hcores.same .link (by decide)
  · rw [hsent.same .plans (by decide), hplans ((howners.trans hup).unowned h)]
    exact howners.plans

/-! ### O10 -/

/-- Settles O10: HOST_READY changes neither the claim nor, where nothing is loaded, the plans; and every failure is one entry of the boot counter and one
start's beginning. -/
theorem startsEndOrFail : Obligations.StartsEndOrFail := by
  refine ⟨fun t found s hp => ⟨fun hr => ⟨_, rfl, ?_⟩, fun hr => ?_⟩, fun t why reached found s hp => ?_, fun t reached found s hp ht => ?_,
    fun t s hp hg ht => ?_⟩
  · obtain ⟨hphase, hready, hon, hprocs, hlink, hplans⟩ := hostReadyOp_ready (s := atTime t s) hp hr found
    refine ⟨hphase, hready, hon, hprocs, congrArg LinkSt.host hlink, fun hrun howner hempty p => ?_⟩
    rw [State.part, hplans ⟨hrun, howner⟩]
    exact hempty p
  · exact ⟨_, congrArg Host.Outcome.next (hostReadyOp_of_failed (s := atTime t s) hp hr found), failStart_startOver _⟩
  · exact ⟨_, congrArg Host.Outcome.next (if_neg (not_not.2 hp)), (stepsMade_sameStart ..).startOver (failStart_startOver _)⟩
  · exact ⟨_, congrArg Host.Outcome.next (if_pos ⟨hp, ht⟩), (stepsMade_sameStart ..).startOver (failStart_startOver _)⟩
  · exact congrArg Host.Outcome.next (if_pos ⟨hp, hg, ht⟩)

end Sys2Proof.Machine
end

section
/-! Processors that halt for a restart and come back (R449–R451), and what MP copies to the flash once they have (R452, R454). -/

namespace Sys2Proof.Machine

/-! ### The halt (R449, R450, R452) -/

/-- A halt changes one processor, keeps a dump that is not copied yet, and of the plans and the safety state notes QP's spares and SP's hold. -/
theorem restartProc_keeps (s : State) (i cause : Nat) (dump : Bool) :
    (∀ j, j ≠ i → (restartProc s i cause dump).proc j = s.proc j) ∧
      ((restartProc s i cause dump).proc i).dumpNew = (dump || (s.proc i).dumpNew) ∧
      (restartProc s i cause dump).plans.parts = s.plans.parts ∧ (restartProc s i cause dump).safety.dev = s.safety.dev := by
  unfold restartProc
  extract_lets s1 s2 s3 s4 x d y y' s5
  have h4 : Frame [.fresh, .regs, .log] s s4 := by
    have h1 : Frame [.fresh, .regs, .log] s s1 := State.logEntry_frame (.refl _ s) (.refl _)
    have h2 : Frame [.fresh, .regs, .log] s s2 := frame_ite (State.bump_frame (State.logEntry_frame h1 (.refl _)) (by decide)) h1
    have h3 : Frame [.fresh, .regs, .log] s s3 := State.bump_frame h2 (by decide)
    exact frame_ite (State.bump_frame h3 (by decide)) h3
  have hy : y'.dumpNew = (dump || (s.proc i).dumpNew) := by
    have hx : x.dumpNew = (s.proc i).dumpNew := by rw [show x = s4.proc i from rfl, State.proc, h4.same .procs (by decide), State.proc]
    cases dump
    · exact hx
    · rfl
  have hspares : s5.procs = (s4.setProc i y').procs ∧ s5.plans.parts = s4.plans.parts ∧ s5.safety = s4.safety := by
    simp only [s5, recordSpares]
    split <;> exact ⟨rfl, rfl, rfl⟩
  have hprocs := hspares.1
  have hparts : s5.plans.parts = s.plans.parts := by rw [hspares.2.1, h4.same .plans (by decide)]
  have hdev : s5.safety.dev = s.safety.dev := by rw [hspares.2.2, h4.same .safety (by decide)]
  have hother : ∀ j, j ≠ i → s5.proc j = s.proc j := fun j hj => by
    rw [State.proc, hprocs, ← State.proc, State.setProc_proc_ne _ _ hj, State.proc, h4.same .procs (by decide), State.proc]
  have hself : (s5.proc i).dumpNew = (dump || (s.proc i).dumpNew) := by
    rw [State.proc, hprocs, ← State.proc, State.setProc_proc_self, hy]
  clear_value s5
  split
  · exact ⟨hother, hself, hparts, hdev⟩
  · exact ⟨hother, hself, hparts, hdev⟩

theorem restartProc_frame' (s : State) (i cause : Nat) (dump : Bool) :
    Frame [.fresh, .regs, .plans, .safety, .procs, .log] s (restartProc s i cause dump) := restartProc_frame (.refl _ s) (.refl _)

/-- A halt with a dump. -/
theorem restartProc_dumps (s : State) (i cause : Nat) :
    let u := restartProc s i cause true
    (u.proc i).st = .restarting ∧ (u.proc i).cause = cause ∧ (u.proc i).since = u.clk.clock ∧ (u.proc i).dump.isSome = true ∧
      (u.proc i).dumpSeq = (s.proc i).dumpSeq + 1 := by
  intro u
  obtain ⟨hst, hcause, hsince, hseq, hdump⟩ := restartProc_proc s i cause true
  exact ⟨hst, hcause, hsince.trans (restartProc_frame' s i cause true).clock.symm, hdump rfl, hseq⟩

theorem procTrapOp_of_run {s : State} {i : Nat} (hp : s.phase = .up) (hr : (s.proc i).st = .run) (cause : Nat) :
    procTrapOp s i cause = restartProc s i cause true := if_pos ⟨hp, hr⟩

theorem lockstepOp_of_run {s : State} (hp : s.phase = .up) (hr : (s.proc 1).st = .run) :
    lockstepOp s = restartProc (deviceSafe (s.logEntry 0x6109 0xFF 0xC1 0) 1 0x6109) 1 4 true := if_pos ⟨hp, by simp [spUp, hr]⟩

/-- SP's mismatch halts SP, and the device and every safety-relevant partition are in the safe state (R344, R346, R348). -/
theorem lockstepOp_safe {s : State} (hp : s.phase = .up) (hr : (s.proc 1).st = .run) :
    ((lockstepOp s).proc 1).dumpSeq = (s.proc 1).dumpSeq + 1 ∧ (lockstepOp s).safety.dev = (if s.safety.dev = 0 then 1 else s.safety.dev) ∧
      ∀ p, p < 8 → s.isSafety p = true → ((lockstepOp s).part p).safe.isSome = true := by
  rw [lockstepOp_of_run hp hr]
  set z := deviceSafe (s.logEntry 0x6109 0xFF 0xC1 0) 1 0x6109
  have hz : Frame [.fresh, .regs, .plans, .safety, .log] s z := deviceSafe_frame (State.logEntry_frame (.refl _ s) (by decide)) (.refl _)
  obtain ⟨-, -, hparts, hdev⟩ := restartProc_keeps z 1 4 true
  obtain ⟨-, -, -, -, hseq⟩ := restartProc_dumps z 1 4
  refine ⟨?_, ?_, fun p hp8 hs => ?_⟩
  · rw [hseq, State.proc, hz.same .procs (by decide), State.proc]
  · rw [hdev, deviceSafe_safety, State.logEntry_safety]
  · rw [State.part, hparts, ← State.part]
    refine deviceSafe_isSome hp8 ?_ 1 0x6109
    rwa [State.isSafety, State.partReg, (State.logEntry_frame (.refl [.fresh, .regs, .log] s) (.refl _)).inForce (by decide)]

/-! ### The return and the escalation (R431, R442, R450, R451) -/

theorem liveNext_of_none {s : State} (h : s.boot.live = none) : liveNext s = s := by
  unfold liveNext
  rw [h]

theorem activationOp_of_none {s : State} (h : s.boot.activate = none) : activationOp s = s := by
  unfold activationOp
  rw [h]

/-- What waits for a processor that is back: for MP a log entry of those that were lost, for SP its command and the end of the hold, for QP the
partition commands (R450, R454). -/
def servedBack (s : State) (i : Nat) : State :=
  if i = 0 then
    if s.log.lost then ({ s with log := { s.log with lost := false } }).logEntry 0x710B 0xFF 0xC0 0 else s
  else if i = 1 then
    { serveStCmd s with safety := { (serveStCmd s).safety with hold := none, degraded := false } }
  else servePartCmds s

theorem servedBack_frame (s : State) (i : Nat) :
    Frame [.out, .fresh, .mem, .regs, .units, .plans, .vat, .press, .link, .safety, .selftest, .aon, .log, .net, .settings] s (servedBack s i) := by
  unfold servedBack
  split
  · exact frame_ite (State.logEntry_frame (Frame.set_log (.refl _ s) (by decide) (le_refl _)) (by decide)) (.refl _ s)
  split
  · exact Frame.set_safety (serveStCmd_frame (.refl _ s) (by decide)) (by decide)
  · exact servePartCmds_frame (.refl _ s) (by decide)

theorem procBackOp_of_ok {s : State} {i : Nat} (hr : (s.proc i).st = .restarting) (hok : loadOk s i = true) :
    procBackOp s i = activationOp (liveNext (servedBack
      (s.setProc i { s.proc i with st := .run, slot := s.boot.preferred, fw := imageVersion s s.boot.preferred }) i)) := by
  unfold procBackOp
  rw [if_neg (not_not.2 hr), if_neg (by simp [hok])]
  rfl

theorem procBackOp_of_bad {s : State} {i : Nat} (hr : (s.proc i).st = .restarting) (hbad : loadOk s i = false) :
    procBackOp s i = escalated s := by
  unfold procBackOp
  rw [if_neg (not_not.2 hr), if_pos (by simp [hbad])]

/-- Where no activation waits for it, a processor's return is what waited for it and nothing else. -/
theorem procBackOp_runs {s : State} {i : Nat} (hr : (s.proc i).st = .restarting) (hok : loadOk s i = true) (hlive : s.boot.live = none)
    (hact : s.boot.activate = none) :
    ((procBackOp s i).proc i).st = .run ∧ ((procBackOp s i).proc i).slot = s.boot.preferred ∧ (i = 1 → (procBackOp s i).safety.hold = none) := by
  rw [procBackOp_of_ok hr hok]
  set z := s.setProc i { s.proc i with st := .run, slot := s.boot.preferred, fw := imageVersion s s.boot.preferred }
  have hF := servedBack_frame z i
  have hboot : (servedBack z i).boot = s.boot := hF.same .boot (by decide)
  have hproc : (servedBack z i).proc i = z.proc i := by rw [State.proc, hF.same .procs (by decide), State.proc]
  rw [liveNext_of_none (by rw [hboot, hlive]), activationOp_of_none (by rw [hboot, hact]), hproc, State.setProc_proc_self]
  refine ⟨rfl, rfl, fun h => ?_⟩
  subst h
  rfl

/-- An escalation begins a warm start with cause WATCHDOG; the failure that it may be (R441) is then the only recent one. -/
theorem escalated_starts {s : State} (h : s.aon.failures = []) :
    (escalated s).phase = .starting ∧ (escalated s).boot.start = ⟨2, 5, (escalated s).clk.clock⟩ := by
  refine beginStart_starting ?_ 2 5 false
  refine lt_of_le_of_lt (List.length_filter_le _ _) ?_
  split
  · have haon : (recordFail s).aon.failures = failuresNow s := by simp [recordFail, failuresNow]
    rw [haon, failuresNow, h]
    simp
  · simp [h]

theorem escalateOp_of_due {s : State} {i : Nat} {badHash : Bool} (hp : s.phase = .up) (hr : (s.proc i).st = .restarting)
    (hdue : badHash = true ∨ (s.proc i).since + 500000000 ≤ s.clk.clock ∨
      4 ≤ ((s.proc i).restarts.filter (fun x => decide (s.clk.dev < x + 60000000000))).length) : escalateOp s i badHash = escalated s := by
  unfold escalateOp
  dsimp only
  refine if_neg ?_
  simp only [hp, hr, beq_self_eq_true, Bool.true_and, Bool.not_eq_true', Bool.not_eq_false, Bool.or_eq_true, decide_eq_true_eq, or_assoc]
  exact hdue

/-! ### O11 -/

/-- Settles O11: a halt is one processor's, a return is what waited for it, and an escalation one start's beginning. -/
theorem processorRestarts : Obligations.ProcessorRestarts := by
  refine ⟨fun t i s hp hr => ⟨⟨_, congrArg Host.Outcome.next (procTrapOp_of_run (s := atTime t s) hp hr 3), restartProc_dumps _ _ 3⟩,
    ⟨_, congrArg Host.Outcome.next (procTrapOp_of_run (s := atTime t s) hp hr 5), restartProc_dumps _ _ 5⟩⟩,
    fun t s hp hr => ?_, fun t i s hr => ⟨fun hok hlive hact => ⟨_, rfl, procBackOp_runs (s := atTime t s) hr hok hlive hact⟩, fun hbad hfails => ?_⟩,
    fun t i badHash s hp hr hdue hfails => ?_⟩
  · have hop := lockstepOp_of_run (s := atTime t s) hp hr
    obtain ⟨hst, hcause, hsince, hdump, -⟩ := restartProc_dumps (deviceSafe ((atTime t s).logEntry 0x6109 0xFF 0xC1 0) 1 0x6109) 1 4
    rw [← hop] at hst hcause hsince hdump
    obtain ⟨hseq, hdev, hparts⟩ := lockstepOp_safe (s := atTime t s) hp hr
    exact ⟨_, rfl, hst, hcause, hsince, hdump, hseq, hdev, hparts⟩
  · exact ⟨_, congrArg Host.Outcome.next (procBackOp_of_bad (s := atTime t s) hr hbad), escalated_starts hfails⟩
  · exact ⟨_, congrArg Host.Outcome.next (escalateOp_of_due (s := atTime t s) hp hr hdue), escalated_starts hfails⟩

/-! ### Copies (R452, R454) -/

theorem logBytes_length (n : Nat) (e : LogEntry) : (logBytes n e).length = 32 := by simp [logBytes, toLE]

/-- Where the flash log keeps entry n. -/
def logAt (n : Nat) : Nat := flashBase + 0x0CD00000 + n % 262144 * 32

theorem logCopyOp_of_up {s : State} {e : LogEntry} {r : List LogEntry} (hp : s.phase = .up) (hr : (s.proc 0).st = .run) (hq : s.log.queue = e :: r) :
    logCopyOp s = { s.wrN (logAt s.log.nextSeq) (logBytes s.log.nextSeq e) with
      log := { s.log with queue := r, nextSeq := s.log.nextSeq + 1 } } := by
  have hlog : (s.wrN (logAt s.log.nextSeq) (logBytes s.log.nextSeq e)).log = s.log := (State.wrN_frame (.refl [.mem] s) (.refl _)).same .log (by decide)
  unfold logCopyOp
  rw [hq]
  dsimp only
  rw [if_neg (by simp [hp, mpUp, hr])]
  show ({ s.wrN (logAt s.log.nextSeq) (logBytes s.log.nextSeq e) with
    log := { (s.wrN (logAt s.log.nextSeq) (logBytes s.log.nextSeq e)).log with queue := r, nextSeq := s.log.nextSeq + 1 } } : State) = _
  rw [hlog]

/-- A log copy writes one entry of the ring. -/
theorem logCopyOp_copies {s : State} {e : LogEntry} {r : List LogEntry} (hp : s.phase = .up) (hr : (s.proc 0).st = .run) (hq : s.log.queue = e :: r)
    (hwf : Memory.wf s.mem = true) :
    (logCopyOp s).log.queue = r ∧ (logCopyOp s).log.nextSeq = s.log.nextSeq + 1 ∧
      (logCopyOp s).rdN (logAt s.log.nextSeq) 32 = logBytes s.log.nextSeq e ∧
      ∀ a, a < logAt s.log.nextSeq ∨ logAt s.log.nextSeq + 32 ≤ a → (logCopyOp s).rd a = s.rd a := by
  rw [logCopyOp_of_up hp hr hq]
  have hread := State.rdN_wrN_self (logBytes s.log.nextSeq e) hwf (logAt s.log.nextSeq)
  have hother := fun a h => State.rd_wrN_out (logBytes s.log.nextSeq e) s (a := logAt s.log.nextSeq) (b := a) h
  rw [logBytes_length] at hread hother
  generalize s.wrN (logAt s.log.nextSeq) (logBytes s.log.nextSeq e) = z at hread hother
  exact ⟨rfl, rfl, hread, hother⟩

theorem dumpCopyOp_of_new {s : State} {i : Nat} {d : Dump} (hp : s.phase = .up) (hmp : (s.proc 0).st = .run) (hr : (s.proc i).st = .run)
    (hd : (s.proc i).dump = some d) (hnew : (s.proc i).dumpNew = true) :
    dumpCopyOp s i = { s.setProc i { s.proc i with dumpNew := false } with boot := { s.boot with
      dumpNext := (s.boot.dumpNext + 1) % 32, dumpRing := s.boot.dumpRing.filter (fun e => e.1 != s.boot.dumpNext) ++ [(s.boot.dumpNext, d)] } } := by
  unfold dumpCopyOp
  dsimp only
  rw [hd]
  dsimp only
  rw [if_neg (by simp [hp, hnew, hr, mpUp, hmp])]
  rfl

/-! ### O12 -/

/-- Settles O12: a log copy writes one entry's 32 bytes, a dump copy one slot of the ring. -/
theorem copiesToFlash : Obligations.CopiesToFlash := by
  refine ⟨fun t s e r hp hr hq hwf => ?_, fun t i s d hp hmp hr hd hnew => ?_⟩
  · exact ⟨_, rfl, logCopyOp_copies (s := atTime t s) hp hr hq hwf⟩
  · refine ⟨_, congrArg Host.Outcome.next (dumpCopyOp_of_new (s := atTime t s) hp hmp hr hd hnew), ?_, ?_, rfl⟩
    · exact List.mem_append_right _ (List.mem_singleton_self _)
    · show (((atTime t s).setProc i.val _).proc i.val).dumpNew = false
      rw [State.setProc_proc_self]

end Sys2Proof.Machine
end

section
/-! Activations (R455–R459): an activation names the other slot in the flash header, and then either begins a warm start or has the processors restart
one after another. -/

namespace Sys2Proof.Machine

/-! ### What a start leaves of an activation (R438, R442) -/

theorem enterRecovery_activate (s : State) : (enterRecovery s).boot.activate = s.boot.activate := by
  unfold enterRecovery
  extract_lets s1 rs s2 s3
  have h1 : Frame [.fresh, .regs, .log] s s1 := State.logEntry_frame (.refl _ s) (.refl _)
  have h2 : Frame [.fresh, .regs, .log, .settings] s s2 := applyHostPorts_frame (h1.mono (by decide)) (by decide)
  have h3 : Frame [.fresh, .regs, .log, .settings] s s3 := frame_ite h2 (State.logEntry_frame h2 (by decide))
  have hboot : s3.boot = s.boot := h3.same .boot (by decide)
  clear_value s3
  have hkept := congrArg BootSt.activate hboot
  exact hkept

theorem romPick_activate (s : State) (pref : Bool) : (romPick s pref).boot.activate = s.boot.activate := by
  have hstart (z : State) (b : Bool) : (startFrom z b).boot.activate = z.boot.activate := rfl
  unfold romPick
  extract_lets +onlyGivenNames src s1 n
  have hs : s1.boot.activate = s.boot.activate := rfl
  clear_value s1 n
  split
  · rw [enterRecovery_activate, hs]
  extract_lets +onlyGivenNames f
  clear_value f
  split
  · simp only [State.logEntry_boot, State.bump_boot, hstart]
    rw [writeHeader_boot]
    exact hs
  · rw [hstart, hs]

theorem beginStart_activate (s : State) (kind cause : Nat) (supply dark : Bool) : (beginStart s kind cause supply dark).boot.activate = none := by
  have hstart : (startState s kind cause supply dark).boot.activate = none := by
    unfold startState
    rw [State.bump_boot]
    rfl
  have hrom (z : State) : (romChoose z).boot.activate = z.boot.activate := by
    rw [romChoose]
    generalize headerNow z = h
    rcases h with _ | ⟨c, q, pref⟩
    · rw [romWith, romPick_activate, State.logEntry_boot]
    · rw [romWith, romPick_activate]
  exact (hrom _).trans hstart

/-! ### LIVE (R456) -/

theorem liveNext_restarts {s : State} {i : Nat} {r : List Nat} (h : s.boot.live = some (i :: r)) (hrun : allRun s = true) :
    liveNext s = restartProc { s with boot := { s.boot with live := some r } } i 6 false := by
  unfold liveNext
  rw [h]
  dsimp only
  rw [if_neg (by simp [hrun])]

theorem liveNext_completes {s : State} (h : s.boot.live = some []) (hrun : allRun s = true) :
    liveNext s = ({ s with boot := { s.boot with live := none, newSlot := none, running := s.boot.preferred } } : State).logEntry 0x7109 0xFF 0xFF 0 := by
  unfold liveNext
  rw [h]
  dsimp only
  rw [if_neg (by simp [hrun])]

/-- A LIVE activation leaves what PREFERRED names, and none that waits begins by it. -/
theorem liveNext_keeps (s : State) :
    (liveNext s).phase = s.phase ∧ (liveNext s).boot.preferred = s.boot.preferred ∧ (liveNext s).boot.activate = s.boot.activate := by
  refine ⟨(liveNext_frame (.refl [.fresh, .regs, .plans, .safety, .boot, .procs, .log] s) (.refl _)).same .phase (by decide), ?_⟩
  unfold liveNext
  split
  · exact ⟨rfl, rfl⟩
  split
  · exact ⟨rfl, rfl⟩
  split
  · next i r _ =>
    rw [(restartProc_frame' _ i 6 false).same .boot (by decide)]
    exact ⟨rfl, rfl⟩
  · rw [State.logEntry_boot]
    exact ⟨rfl, rfl⟩

/-! ### The beginning (R456) -/

/-- The header names the new slot, and the activation has begun. -/
def slotNamed (s : State) : State :=
  (writeHeader { s with boot := { s.boot with activate := none, newSlot := some (!s.boot.running) } } (!s.boot.running)).bump pgBoot 0x098 1

/-- The processors whose component differs between the new slot and the other, QP first. -/
def differing (s : State) (new : Bool) : List Nat :=
  [(2, 3), (1, 2), (0, 1)].filterMap (fun e => if compHash s new e.2 = compHash s (!new) e.2 then none else some e.1)

/-- What an activation whose slot is named comes to in each MODE. -/
def activated (new : Bool) (s : State) (mode : Nat) : State :=
  if mode = 1 then beginStart s 2 6 false false
  else liveNext { s with boot := { s.boot with live := some (differing s new) } }

theorem beginActivation_eq (s : State) (mode : Nat) : beginActivation s mode = activated (!s.boot.running) (slotNamed s) mode := rfl

theorem slotNamed_frame (s : State) : Frame [.mem, .regs, .boot] s (slotNamed s) :=
  State.bump_frame (writeHeader_frame (Frame.set_boot (.refl _ s) (by decide)) (by decide)) (by decide)

theorem slotNamed_boot (s : State) :
    (slotNamed s).boot = { s.boot with activate := none, newSlot := some (!s.boot.running), preferred := !s.boot.running } := by
  rw [slotNamed, State.bump_boot, writeHeader_boot]

theorem headerBytes_length (pref : Bool) (seq : Nat) : (headerBytes pref seq).length = 4096 := by
  simp only [headerBytes, List.length_append, toLE_length, List.length_replicate]

theorem nextHeader_le (s : State) : (nextHeader s).1 ≤ 1 := by
  rw [nextHeader]
  generalize headerNow s = h
  rcases h with _ | ⟨c, q, p⟩
  · exact Nat.zero_le 1
  · exact Nat.sub_le 1 c

theorem writeHeader_mem (s : State) (pref : Bool) :
    (writeHeader s pref).mem = (s.wrN (flashBase + (nextHeader s).1 * 65536) (headerBytes pref (nextHeader s).2)).mem := by
  unfold writeHeader
  generalize s.wrN (flashBase + (nextHeader s).1 * 65536) (headerBytes pref (nextHeader s).2) = z
  rfl

/-- A header's write stays in the two sectors of the header (R427). -/
theorem writeHeader_rd (s : State) (pref : Bool) {a : Nat} (h : a < flashBase ∨ flashBase + 131072 ≤ a) : (writeHeader s pref).rd a = s.rd a := by
  have hcopy := nextHeader_le s
  have hlen := headerBytes_length pref (nextHeader s).2
  have hout := State.rd_wrN_out (headerBytes pref (nextHeader s).2) s (a := flashBase + (nextHeader s).1 * 65536) (b := a) (by omega)
  rwa [State.rd, writeHeader_mem]

theorem slotNamed_rd (s : State) {a : Nat} (h : a < flashBase ∨ flashBase + 131072 ≤ a) : (slotNamed s).rd a = s.rd a := by
  rw [slotNamed, State.rd, State.bump_mem, ← State.rd, writeHeader_rd _ _ h, State.rd, State.rd]

theorem allRun_congr {s z : State} (h : z.procs = s.procs) : allRun z = allRun s := by simp only [allRun, State.proc, h]

theorem compHash_congr {s z : State} (h : z.mem = s.mem) (b : Bool) (ty : Nat) : compHash z b ty = compHash s b ty := by
  simp only [compHash, manifest, State.rdN, State.rd, h]

theorem differing_eq (s : State) (new : Bool) :
    differing s new = ([(2, 3), (1, 2), (0, 1)].filter (fun e => compHash s new e.2 != compHash s (!new) e.2)).map (·.1) := by
  unfold differing
  generalize [(2, 3), (1, 2), (0, 1)] = l
  induction l with
  | nil => rfl
  | cons e l ih =>
    by_cases he : compHash s new e.2 = compHash s (!new) e.2
    · simpa [he] using ih
    · simpa [he] using ih

/-- MODE WARM (R456). -/
theorem beginActivation_began (s : State) : Began (beginActivation s 1) (recentFails s) 2 6 := by
  have hF := slotNamed_frame s
  have hrecent : recentFails (slotNamed s) = recentFails s := recentFails_congr (hF.same .aon (by decide)) (hF.same .clk (by decide))
  rw [beginActivation_eq, activated, if_pos rfl, ← hrecent]
  exact beginStart_began (slotNamed s) 2 6 false

theorem activated_keeps (new : Bool) (s : State) {mode : Nat} (h : mode ≠ 1) :
    (activated new s mode).phase = s.phase ∧ (activated new s mode).boot.preferred = s.boot.preferred ∧
      (activated new s mode).boot.activate = s.boot.activate := by
  unfold activated
  rw [if_neg h]
  exact liveNext_keeps _

/-- MODE LIVE: PREFERRED names the new slot, and the device goes on (R456). -/
theorem beginActivation_goesOn (s : State) {mode : Nat} (h : mode ≠ 1) :
    (beginActivation s mode).phase = s.phase ∧ (beginActivation s mode).boot.preferred = !s.boot.running := by
  obtain ⟨hphase, hpref, -⟩ := activated_keeps (!s.boot.running) (slotNamed s) h
  rw [beginActivation_eq, hphase, hpref, slotNamed_boot, (slotNamed_frame s).same .phase (by decide)]
  exact ⟨rfl, rfl⟩

theorem beginActivation_activate (s : State) (mode : Nat) : (beginActivation s mode).boot.activate = none := by
  rw [beginActivation_eq]
  by_cases h : mode = 1
  · rw [activated, if_pos h]
    exact beginStart_activate ..
  · rw [(activated_keeps _ _ h).2.2, slotNamed_boot]

/-- The first processor whose component differs restarts. -/
theorem activated_restarts {new : Bool} {s : State} {i mode : Nat} {r : List Nat} (hm : mode ≠ 1) (hrun : allRun s = true)
    (h : differing s new = i :: r) :
    let u := activated new s mode
    u.mem = s.mem ∧ u.boot = { s.boot with live := some r } ∧ (u.proc i).st = .restarting ∧ (u.proc i).cause = 6 ∧ ∀ j, j ≠ i → u.proc j = s.proc j := by
  intro u
  set z : State := { s with boot := { s.boot with live := some r } }
  have hu : u = restartProc z i 6 false := by
    unfold u activated
    rw [if_neg hm]
    exact liveNext_restarts (congrArg some h) hrun
  have hF := restartProc_frame' z i 6 false
  obtain ⟨hst, hcause, -⟩ := restartProc_proc z i 6 false
  obtain ⟨hother, -⟩ := restartProc_keeps z i 6 false
  rw [hu]
  exact ⟨hF.same .mem (by decide), hF.same .boot (by decide), hst, hcause, hother⟩

/-- With no component that differs the new slot runs at once. -/
theorem activated_completes {new : Bool} {s : State} {mode : Nat} (hm : mode ≠ 1) (hrun : allRun s = true) (h : differing s new = []) :
    let u := activated new s mode
    u.mem = s.mem ∧ u.boot = { s.boot with live := none, newSlot := none, running := s.boot.preferred } ∧ u.procs = s.procs := by
  intro u
  set z : State := { s with boot := { s.boot with live := none, newSlot := none, running := s.boot.preferred } }
  have hu : u = z.logEntry 0x7109 0xFF 0xFF 0 := by
    unfold u activated
    rw [if_neg hm]
    exact liveNext_completes (congrArg some h) hrun
  rw [hu, State.logEntry_mem, State.logEntry_boot, State.logEntry_procs]
  exact ⟨rfl, rfl, rfl⟩

/-! ### Slots' checks (R455) -/

@[simp] theorem slotSt_setSlotSt_self (s : State) (b : Bool) (v : SlotVerify) : slotSt (setSlotSt s b v) b = v := by cases b <;> rfl

theorem slotSt_congr {s z : State} (h : z.boot = s.boot) (b : Bool) : slotSt z b = slotSt s b := by simp only [slotSt, h]

/-- The first error since clearing stands in PAGE_ERR (R412). -/
theorem pageErr_first {s : State} {page : Nat} (h : (s.hdrOf page).errValid = false) (source code info : Nat) :
    ((s.pageErr page source code info).hdrOf page).errValid = true ∧ ((s.pageErr page source code info).hdrOf page).errSource = source ∧
      ((s.pageErr page source code info).hdrOf page).errCode = code := by
  unfold State.pageErr
  dsimp only
  rw [if_neg (by simp [h]), State.setHdr_hdrOf_self]
  exact ⟨rfl, rfl, rfl⟩

/-- The command that MP is busy with is served. -/
def unbusy (s : State) : State := { s with boot := { s.boot with busy := none } }

theorem imageCheck_unbusy (s : State) (b : Bool) : imageCheck (unbusy s) b = imageCheck s b := rfl

theorem slotVerifiedOp_of_busy {s : State} {c : Nat} {arg : Word} (hb : s.boot.busy = some (c, arg))
    (hp : s.phase = .recovery ∨ s.phase = .up ∧ (s.proc 0).st = .run) :
    slotVerifiedOp s = (imageCheck s (bit arg.toNat 0)).elim (setSlotSt (unbusy s) (bit arg.toNat 0) .verified)
      fun code => bootRefuse (setSlotSt (unbusy s) (bit arg.toNat 0) .refused) code 1 := by
  have hup : (s.phase == .recovery || (s.phase == .up && mpUp s)) = true := by
    obtain h | ⟨h, hr⟩ := hp
    · simp [h]
    · simp [h, mpUp, hr]
  unfold slotVerifiedOp
  rw [hb]
  dsimp only
  rw [if_neg (by simp [hup])]
  have hcheck := imageCheck_unbusy s (bit arg.toNat 0)
  rw [unbusy] at hcheck
  rw [hcheck]
  cases imageCheck s (bit arg.toNat 0) <;> rfl

/-! ### O13 -/

theorem activationOp_of_due {s : State} {mode : Nat} (h : s.boot.activate = some mode) (hp : s.phase = .up) (hdue : activationDue s = true) :
    activationOp s = beginActivation s mode := by
  unfold activationOp
  rw [h]
  exact if_pos ⟨hp, hdue⟩

theorem activationOp_of_early {s : State} (hdue : activationDue s = false) : activationOp s = s := by
  unfold activationOp
  split
  · exact if_neg (by simp [hdue])
  · rfl

/-- Settles O13: a check's end is one slot's state, a deferred activation begins as one that does not wait. -/
theorem checksAndActivationsEnd : Obligations.ChecksAndActivationsEnd := by
  refine ⟨fun t s c arg hb hp => ?_, fun t s mode hp hact => ⟨fun hdue => ?_, fun hdue => ?_⟩⟩
  · refine ⟨_, congrArg Host.Outcome.next (slotVerifiedOp_of_busy (s := atTime t s) hb hp), ?_, fun hok => ?_, fun code hbad => ?_⟩
    · cases imageCheck (atTime t s) (bit arg.toNat 0) <;> cases bit arg.toNat 0 <;> simp [bootRefuse, setSlotSt, unbusy]
    · rw [hok]
      exact ⟨slotSt_setSlotSt_self .., rfl⟩
    · rw [hbad]
      refine ⟨(slotSt_congr (State.pageErr_boot ..) _).trans (slotSt_setSlotSt_self ..), fun herr => ?_⟩
      exact pageErr_first (s := setSlotSt (unbusy (atTime t s)) (bit arg.toNat 0) .refused) herr 2 code 1
  · refine ⟨_, congrArg Host.Outcome.next (activationOp_of_due (s := atTime t s) hact hp hdue), beginActivation_activate .., fun hm => ?_, fun hm => ?_⟩
    · subst hm
      exact beginActivation_began _
    · obtain ⟨hphase, hpref⟩ := beginActivation_goesOn (atTime t s) (mode := mode) (by omega)
      exact ⟨hphase.trans hp, hpref⟩
  · exact congrArg Host.Outcome.next (activationOp_of_early hdue)

end Sys2Proof.Machine
end

section
/-! BOOT_CMD and PROC_CMD (R443–R445, R449, R455–R459, R462): each command is one write, which the recovery serves too where the command lives there. -/

namespace Sys2Proof.Machine

/-! ### A write of BOOT_CMD -/

theorem settleLink_up {z : State} (h : LinkUp z) : settleLink z = z := by
  obtain ⟨-, hdue, hreset⟩ := h
  unfold settleLink orphanOp
  simp [hdue, hreset]

/-- A write of BOOT_CMD, in recovery too (R443). -/
theorem hostWrite_boot_up {z : State} {w : Sender} (h : HostCanUp z w 3) (v : Nat) : hostWrite z w pgBoot 0x050 v = bootCmdWrite z v := by
  obtain ⟨hlink, hsession, hbusy, hfused, hdead⟩ := h
  have hup : hostUp z = true := by
    obtain hp | hp := hlink.1 <;> simp [hostUp, hp]
  have hacc : accOf .boot 0x050 = .wo := by decide
  unfold hostWrite
  rw [if_pos hup, settleLink_up hlink]
  unfold regWrite
  rw [if_neg (by decide)]
  simp only [show addr pgBoot 0x050 / 4096 = 3 from rfl, show addr pgBoot 0x050 % 4096 = 0x050 from rfl, show blockOf 3 = some (.boot, 3) from rfl]
  rw [if_neg (by simp [hbusy]), if_neg (by simp [hsession]), if_neg (by simp [fusedPage]), if_neg (by decide)]
  unfold writeBlock
  rw [hacc]
  dsimp only
  rw [if_neg (by decide), hdead]
  rfl

/-- In recovery the BOOT page works (R443). -/
theorem hostCanUp_of_recovery {z : State} {w : Sender} (hp : z.phase = .recovery) (hdue : hbDue z = false) (hreset : z.link.resetting = none)
    (hsession : currentSession z w.session = true) : HostCanUp z w 3 :=
  ⟨⟨.inr hp, hdue, hreset⟩, hsession, by simp [pageBusy, hp, pgBoot], rfl, by simp [deadPage, liveInRecovery]⟩

/-! ### VERIFY, ACTIVATE and CANCEL (R455–R457) -/

/-- The check of a slot has begun (R455). -/
def verifyStarted (s : State) (arg : Nat) : State :=
  let s := setSlotSt s (bit arg 0) .verifying
  { s with boot := { s.boot with
    busy := some (1, BitVec.ofNat 32 arg), failedMark := if s.boot.failedMark = some (bit arg 0) then none else s.boot.failedMark } }

theorem verifyStarted_slots (s : State) (arg : Nat) :
    slotSt (verifyStarted s arg) (bit arg 0) = .verifying ∧ slotSt (verifyStarted s arg) (!bit arg 0) = slotSt s (!bit arg 0) := by
  unfold verifyStarted
  cases bit arg 0 <;> exact ⟨rfl, rfl⟩

section
variable {s : State} (hbusy : s.boot.busy = none) (hlive : s.boot.live = none)
include hbusy hlive

theorem bootCmdWrite_verify (h : s.phase = .recovery ∨ bit (s.inForce (addr pgBoot 0x054)) 0 ≠ s.boot.running) :
    bootCmdWrite s 1 = verifyStarted s (s.inForce (addr pgBoot 0x054)) := by
  have hslot : ¬ (¬ s.phase = .recovery ∧ bit (s.inForce (addr pgBoot 0x054)) 0 = s.boot.running) := by tauto
  unfold bootCmdWrite verifyStarted
  simp [hbusy, hlive, bits, hslot]

theorem bootCmdWrite_verify_refused (hp : s.phase = .up) (h : bit (s.inForce (addr pgBoot 0x054)) 0 = s.boot.running) :
    bootCmdWrite s 1 = bootRefuse s 0x7010 1 := by
  unfold bootCmdWrite
  simp [hbusy, hlive, bits, hp, h]

theorem bootCmdWrite_activate (hp : s.phase = .up) : bootCmdWrite s 2 = activateCmd s (s.inForce (addr pgBoot 0x054)) 2 := by
  unfold bootCmdWrite
  simp [hbusy, hlive, hp, bits]

theorem bootCmdWrite_cancel (hp : s.phase = .up) : bootCmdWrite s 3 = { s with boot := { s.boot with activate := none } } := by
  unfold bootCmdWrite
  simp [hbusy, hlive, hp, bits]

end

section
variable {s : State} {arg value mode : Nat}

theorem activateCmd_unverified (h : slotSt s (!s.boot.running) ≠ .verified ∨ s.boot.failedMark = some (!s.boot.running)) :
    activateCmd s arg value = bootRefuse s 0x7013 value := if_pos h

variable (hmode : mode = bits arg 8 8) (hslot : slotSt s (!s.boot.running) = .verified) (hmark : s.boot.failedMark ≠ some (!s.boot.running))
include hmode hslot hmark

theorem activateCmd_newData (hm : mode = 0) (hd : compHash s (!s.boot.running) 4 ≠ compHash s s.boot.running 4) :
    activateCmd s arg value = bootRefuse s 0x7017 value := by
  unfold activateCmd
  dsimp only
  rw [if_neg (by simp [hslot, hmark]), if_pos ⟨hmode ▸ hm, hd⟩]

/-- An ACTIVATE that is taken begins at once where nothing keeps it waiting; else it waits, which is logged in an emergency (R457, R459). -/
theorem activateCmd_taken (hd : mode ≠ 0 ∨ compHash s (!s.boot.running) 4 = compHash s s.boot.running 4) :
    activateCmd s arg value = if activationDue s then beginActivation s mode
      else if emergencyOver s then { s with boot := { s.boot with activate := some mode } }
      else ({ s with boot := { s.boot with activate := some mode } } : State).logEntry 0x7108 0xFF 0xC0 0 := by
  have hsame : ¬ (mode = 0 ∧ compHash s (!s.boot.running) 4 ≠ compHash s s.boot.running 4) := fun h => hd.elim (· h.1) h.2
  unfold activateCmd
  dsimp only
  rw [← hmode, if_neg (by simp [hslot, hmark]), if_neg hsame]
  rfl

end

/-- A LIVE activation that begins leaves memory outside the header, and either runs the new slot or has the first processor restart whose component
differs (R456). -/
theorem beginActivation_live {s : State} {new : Bool} {mode : Nat} (hnew : new = !s.boot.running) (hm : mode ≠ 1) (hrun : allRun s = true) :
    let u := beginActivation s mode
    u.boot.activate = none ∧ (∀ a, a < flashBase ∨ flashBase + 131072 ≤ a → u.rd a = s.rd a) ∧
      (differing u new = [] → u.boot.running = new ∧ u.boot.live = none ∧ u.procs = s.procs) ∧
      ∀ i r, differing u new = i :: r → u.boot.running = s.boot.running ∧ u.boot.live = some r ∧ (u.proc i).st = .restarting ∧
        (u.proc i).cause = 6 ∧ ∀ j, j ≠ i → u.proc j = s.proc j := by
  intro u
  have hu : u = activated new (slotNamed s) mode := hnew ▸ beginActivation_eq s mode
  have hprocs : (slotNamed s).procs = s.procs := (slotNamed_frame s).same .procs (by decide)
  have hall : allRun (slotNamed s) = true := (allRun_congr hprocs).trans hrun
  have hboot := slotNamed_boot s
  rw [← hnew] at hboot
  have hrd (a : Nat) := slotNamed_rd s (a := a)
  have hnone : u.boot.activate = none := beginActivation_activate s mode
  generalize slotNamed s = z at hu hprocs hall hboot hrd
  have hdiff (hmem : u.mem = z.mem) : differing u new = differing z new := by
    simp only [differing, compHash_congr hmem]
  cases h : differing z new with
  | nil =>
    obtain ⟨hmem, hb, hp⟩ := activated_completes hm hall h
    rw [← hu] at hmem hb hp
    rw [hdiff hmem, h, hb, hboot]
    refine ⟨rfl, fun a ha => ?_, fun _ => ⟨rfl, rfl, hp.trans hprocs⟩, fun i r => nofun⟩
    rw [State.rd, hmem, ← State.rd, hrd a ha]
  | cons i r =>
    obtain ⟨hmem, hb, hst, hcause, hother⟩ := activated_restarts hm hall h
    rw [← hu] at hmem hb hst hcause hother
    rw [hdiff hmem, h, hb, hboot]
    refine ⟨rfl, fun a ha => ?_, nofun, fun j l hjl => ?_⟩
    · rw [State.rd, hmem, ← State.rd, hrd a ha]
    · obtain ⟨rfl, rfl⟩ := List.cons.inj hjl
      exact ⟨rfl, rfl, hst, hcause, fun k hk => (hother k hk).trans (congrArg (fun l => sget ProcSt.reset l k) hprocs)⟩

/-! ### O33 -/

/-- Settles O33: each command is one write of BOOT_CMD, and an ACTIVATE that is taken begins at once or waits. -/
theorem slotsAreVerifiedAndActivated : Obligations.SlotsAreVerifiedAndActivated := by
  refine ⟨fun t w s hcan hbusy hlive => ⟨fun h => ?_, fun hp h => ?_⟩, fun t w s new mode hcan hbusy hlive hnew hmode =>
    ⟨fun h => ?_, fun hslot hmark => ⟨fun hm hd => ?_, fun hm hdue => ?_, fun hm hd hdue hwf => ?_, fun hd hdue => ?_⟩, ?_⟩⟩
  · obtain ⟨hself, hother⟩ := verifyStarted_slots (atTime t s) (s.inForce (addr 3 0x054))
    exact ⟨_, congrArg Host.Outcome.next ((hostWrite_boot_up hcan 1).trans (bootCmdWrite_verify (s := atTime t s) hbusy hlive h)), rfl, hself, hother, rfl⟩
  · exact congrArg Host.Outcome.next ((hostWrite_boot_up hcan 1).trans (bootCmdWrite_verify_refused (s := atTime t s) hbusy hlive hp h))
  all_goals
    have hop : hostWrite (atTime t s) w pgBoot 0x050 2 = activateCmd (atTime t s) (s.inForce (addr 3 0x054)) 2 :=
      (hostWrite_boot hcan 2).trans (bootCmdWrite_activate (s := atTime t s) hbusy hlive hcan.1.1)
  · subst hnew
    exact congrArg Host.Outcome.next (hop.trans (activateCmd_unverified (s := atTime t s) h))
  · subst hnew
    rw [Bool.not_not] at hd
    exact congrArg Host.Outcome.next (hop.trans (activateCmd_newData (s := atTime t s) hmode hslot hmark hm hd))
  · subst hnew
    have htaken := activateCmd_taken (s := atTime t s) (value := 2) hmode hslot hmark (.inl (by omega))
    rw [if_pos hdue, hm] at htaken
    exact ⟨_, congrArg Host.Outcome.next (hop.trans htaken), beginActivation_began _⟩
  · have hd' : compHash s (!s.boot.running) 4 = compHash s s.boot.running 4 := by simpa only [hnew, Bool.not_not] using hd
    have htaken := activateCmd_taken (s := atTime t s) (value := 2) hmode (hnew ▸ hslot) (hnew ▸ hmark) (.inr hd')
    rw [if_pos hdue] at htaken
    have hne : mode ≠ 1 := by omega
    obtain ⟨hphase, hpref⟩ := beginActivation_goesOn (atTime t s) hne
    obtain ⟨hnone, hrd, hends, hrestarts⟩ := beginActivation_live (s := atTime t s) hnew hne (Bool.and_eq_true_iff.1 hdue).2
    refine ⟨_, congrArg Host.Outcome.next (hop.trans htaken), hphase.trans hcan.1.1, hpref.trans hnew.symm, hnone, hrd, ?_⟩
    rw [differing_eq] at hends hrestarts
    generalize beginActivation (atTime t s) mode = u at hends hrestarts ⊢
    generalize hl : List.filter _ _ = l at hends hrestarts ⊢
    cases l with
    | nil => exact hends rfl
    | cons e r => exact hrestarts e.1 (r.map (·.1)) rfl
  · subst hnew
    rw [Bool.not_not] at hd
    have htaken := activateCmd_taken (s := atTime t s) (value := 2) hmode hslot hmark (hd.imp (fun h => by omega) id)
    rw [if_neg (by simp [hdue])] at htaken
    exact congrArg Host.Outcome.next (hop.trans htaken)
  · exact congrArg Host.Outcome.next ((hostWrite_boot hcan 3).trans (bootCmdWrite_cancel (s := atTime t s) hbusy hlive hcan.1.1))

end Sys2Proof.Machine
end

section
/-! START, SLEEP, SEC_BURN and RESTART (R432, R444, R445, R449, R462), and the state at reset. -/

namespace Sys2Proof.Machine

/-! ### START (R444) -/

theorem bootCmdWrite_start {s : State} (hp : s.phase = .up) (hbusy : s.boot.busy = none) :
    bootCmdWrite s 4 = beginStart s (if bit (s.inForce (addr pgBoot 0x054)) 4 then 1 else 2) 1 false false := by
  unfold bootCmdWrite
  simp [hp, hbusy, bits]

theorem bootCmdWrite_recoveryStart {s : State} (hp : s.phase = .recovery) (hbusy : s.boot.busy = none) :
    bootCmdWrite s 4 = recoveryStart s (s.inForce (addr pgBoot 0x054)) 4 := by
  unfold bootCmdWrite
  simp [hp, hbusy, bits]

/-- A START in recovery has cleared the boot counter and named the slot in the header (R444). -/
def recoveryNamed (s : State) (b : Bool) : State := writeHeader { s with aon := { s.aon with failures := [] } } b

theorem recoveryNamed_failures (s : State) (b : Bool) : (recoveryNamed s b).aon.failures = [] := by
  have hF : Frame [.mem, .boot] { s with aon := { s.aon with failures := [] } } (recoveryNamed s b) := writeHeader_frame (.refl _ _) (by decide)
  rw [hF.same .aon (by decide)]

theorem recentFails_of_none {s : State} (h : s.aon.failures = []) : recentFails s = [] := by simp [recentFails, h]

section
variable {s : State} {arg value : Nat}

theorem recoveryStart_of_bad {code : Nat} (h : imageCheck s (bit arg 0) = some code) : recoveryStart s arg value = bootRefuse s code value := by
  unfold recoveryStart
  simp only [h]

/-- A start of a good slot goes on: no failure is left that would end it in recovery. -/
theorem recoveryStart_of_good (h : imageCheck s (bit arg 0) = none) :
    let u := recoveryStart s arg value
    u.phase = .starting ∧ u.boot.start = ⟨2, 1, u.clk.clock⟩ ∧ u.aon.failures = [] := by
  have hop : recoveryStart s arg value = beginStart (recoveryNamed s (bit arg 0)) 2 1 false false := by
    unfold recoveryStart
    simp only [h]
    rfl
  have hfails := recoveryNamed_failures s (bit arg 0)
  rw [hop]
  generalize recoveryNamed s (bit arg 0) = z at hfails
  obtain ⟨hphase, hstart⟩ := beginStart_starting (s := z) (by simp [recentFails_of_none hfails]) 2 1 false
  exact ⟨hphase, hstart, by rw [beginStart_aon, keptAon_failures, hfails]⟩

end

/-! ### SLEEP and SEC_BURN (R432, R444, R445) -/

/-- Every domain but AON has lost power; flash and fuses keep what they hold (R445). -/
theorem enterSleep_sleeps (s : State) :
    let u := enterSleep s
    u.phase = .sleep ∧ u.aon.sleepTimer = bits (s.inForce (addr pgAon 0x054)) 15 0 ∧ u.aon.sleepFrom = u.clk.clock ∧ u.fuses = s.fuses ∧
      ∀ a, flashBase ≤ a → u.rd a = s.rd a :=
  ⟨rfl, rfl, rfl, rfl, fun a ha => (rd_lose s false false true a).trans (if_pos ha)⟩

section
variable {s : State} (hp : s.phase = .up) (hbusy : s.boot.busy = none) (hlive : s.boot.live = none)
include hp hbusy hlive

theorem bootCmdWrite_sleep (hidle : ∀ p, p < 8 → s.active p = false) (hact : s.boot.activate = none) :
    bootCmdWrite s 5 = if s.aon.wake.lit then bootRefuse s 0x7012 5 else enterSleep s := by
  have hnone : (List.range 8).any (fun p => s.active p) = false := by simpa using hidle
  unfold bootCmdWrite
  simp only [show bits 5 3 0 = 5 from rfl]
  simp [hp, hbusy, hlive, hact, hnone]

theorem bootCmdWrite_secBurn (hgood : s.boot.good = true) :
    bootCmdWrite s 6 = { s with fuses := { s.fuses with
      minSec := if le (manifest s s.boot.running) 8 4 ≤ 64 then max s.fuses.minSec (le (manifest s s.boot.running) 8 4) else s.fuses.minSec } } := by
  unfold bootCmdWrite
  simp [hp, hbusy, hlive, hgood, bits]

end

/-! ### RESTART (R449, R462) -/

/-- RESTART's value names the command and whether a dump is taken. -/
theorem procCmdWrite_restart (s : State) (i : Nat) (dump : Bool) :
    procCmdWrite s i (1 + 16 * b2n dump) = if !allRun s || s.boot.live.isSome || s.boot.busy.isSome then
      s.pageErr (pgProc i) 2 0x7014 (1 + 16 * b2n dump) else restartProc s i 2 dump := by
  cases dump <;> rfl

/-! ### O34 and O2 -/

/-- Settles O34: each command is one write of BOOT_CMD or PROC_CMD. -/
theorem startsSleepAndRestartsOnCommand : Obligations.StartsSleepAndRestartsOnCommand := by
  refine ⟨fun t w s hcan hbusy => ⟨?_, fun hlive => ⟨fun hidle hact => ?_, fun hgood => ?_⟩⟩, fun t w s hp hdue hreset hsession hbusy => ?_,
    fun t w i dump s hcan => ?_⟩
  · exact ⟨_, congrArg Host.Outcome.next ((hostWrite_boot hcan 4).trans (bootCmdWrite_start (s := atTime t s) hcan.1.1 hbusy)), beginStart_began _ _ _ _⟩
  · have hop := (hostWrite_boot hcan 5).trans (bootCmdWrite_sleep (s := atTime t s) hcan.1.1 hbusy hlive hidle hact)
    refine ⟨fun hlit => ⟨_, congrArg Host.Outcome.next (hop.trans (if_neg (by simp [hlit]))), enterSleep_sleeps (atTime t s)⟩, fun hlit => ?_⟩
    exact congrArg Host.Outcome.next (hop.trans (if_pos hlit))
  · exact congrArg Host.Outcome.next ((hostWrite_boot hcan 6).trans (bootCmdWrite_secBurn (s := atTime t s) hcan.1.1 hbusy hlive hgood))
  · have hcan : HostCanUp (atTime t s) w 3 := hostCanUp_of_recovery hp hdue hreset hsession
    have hop := (hostWrite_boot_up hcan 4).trans (bootCmdWrite_recoveryStart (s := atTime t s) hp hbusy)
    exact ⟨_, congrArg Host.Outcome.next hop, fun code h => recoveryStart_of_bad h, fun h => recoveryStart_of_good h⟩
  · have hop := (hostWrite_proc hcan (1 + 16 * b2n dump)).trans (procCmdWrite_restart (atTime t s) i.val dump)
    refine ⟨fun hrun hlive hbusy => ?_, fun h => congrArg Host.Outcome.next (hop.trans (if_pos ?_))⟩
    · have hrun' : allRun (atTime t s) = true := hrun
      rw [if_neg (by simp [hrun', hlive, hbusy])] at hop
      obtain ⟨hst, hcause, hsince, -, hdump⟩ := restartProc_proc (atTime t s) i.val 2 dump
      obtain ⟨hother, hnew, -⟩ := restartProc_keeps (atTime t s) i.val 2 dump
      exact ⟨_, congrArg Host.Outcome.next hop, hst, hcause, hsince.trans (restartProc_frame' _ _ _ _).clock.symm, hnew, hdump, hother⟩
    · obtain h | h | h := h
      · simp [show allRun (atTime t s) = false from h]
      · simp [Option.isSome_iff_ne_none.2 h]
      · simp [Option.isSome_iff_ne_none.2 h]

/-- Settles O2: reset writes out each of these values. -/
theorem resetIsIdleAndUnclaimed : Obligations.ResetIsIdleAndUnclaimed :=
  ⟨rfl, rfl, rfl, rfl, fun _ => rfl, fun _ => rfl, fun _ => rfl, fun _ => rfl⟩

end Sys2Proof.Machine
end

section
/-! What every command keeps (R17): each answers a next state at its own instant, with the queue and memory's canonical form as they were, and
changes no part of the state that `touched` does not name. All of it is read from the command's frame. -/

namespace Sys2Proof.Machine

/-- Settles O3: every command's next state lies in the command's frame, which holds the clock at the command's instant and leaves the queue. -/
theorem everyCommandCompletes : Obligations.EveryCommandCompletes := by
  intro i s
  obtain ⟨u, hu, hf⟩ := exec_frame i s
  exact ⟨u, hu, hf.clock.trans (atTime_clock s _), hf.pending⟩

/-- Settles O7: the command's frame keeps the parts outside `touched`, memory among them, and the instant's clock reads no byte anew. -/
theorem commandsKeepTheOtherParts : Obligations.CommandsKeepTheOtherParts := by
  intro i s u h
  obtain ⟨v, hv, hf⟩ := exec_frame i s
  obtain rfl := Host.Outcome.next.inj (hv.symm.trans h)
  refine ⟨hf.same, fun hmem a => ?_⟩
  have hsame : v.mem = s.mem := hf.same .mem hmem
  rw [State.rd, State.rd, hsame]

/-- Settles O4: a step idles, or it is a command's frame, which keeps the canonical form. -/
theorem memoryStaysCanonical : Obligations.MemoryStaysCanonical := by
  intro s u hwf h
  obtain ⟨-, rfl⟩ | ⟨c, rest, -, hf⟩ := step_cases h
  · exact hwf
  · exact hf.mem hwf

/-- Settles O5: memory is empty at reset. -/
theorem memoryCanonicalAtReset : Obligations.MemoryCanonicalAtReset := by
  have hmem : State.reset.mem = [] := rfl
  rw [Obligations.MemoryCanonicalAtReset, hmem]
  rfl

/-- Settles O1: the step looks at the front of the queue, and a command there runs over the state with the queue's rest. -/
theorem stepTakesTheFrontCommand : Obligations.StepTakesTheFrontCommand := by
  refine ⟨fun _ _ => rfl, fun s h => ?_⟩
  rw [step, h]

end Sys2Proof.Machine
end

section
/-! Emergencies (R457, R464, R472, R474): what a pass of the hardware over the pairs lowers (R25), and when an emergency's end is the end of the
last. -/

namespace Sys2Proof.Machine

/-! ### Pairs that the hardware lowers (R25, R472, R474) -/

/-- A pair whose hardware cap has been set: it is chosen the lower of its frequency and the cap. -/
def cappedPair (s : State) (i cap : Nat) : PairSt := { chosen s i (min (s.pair i).next cap) with capHw := cap }

/-- The hardware lowers its own pair, and which core runs does not change. -/
theorem hwLower_pair (s : State) (i cap : Nat) :
    (hwLower s i cap).pair i = cappedPair s i cap ∧ (∀ k, k ≠ i → (hwLower s i cap).pair k = s.pair k) ∧
    ∀ n, (hwLower s i cap).inRun n = s.inRun n := by
  obtain ⟨hself, hother, -, -, -, -, hrun⟩ := chooseFreq_all (s.setPair i { s.pair i with capHw := cap }) i (min (s.pair i).next cap)
  refine ⟨hself.trans ?_, fun k hk => (hother k hk).trans (State.setPair_pair_ne _ _ hk), hrun⟩
  rw [chosen, State.setPair_pair_self]
  rfl

theorem cappedPair_congr {s z : State} {i : Nat} (hp : z.pair i = s.pair i) (hrun : ∀ n, z.inRun n = s.inRun n) (cap : Nat) :
    cappedPair z i cap = cappedPair s i cap := by
  have hst : pairStopped z i = pairStopped s i := by simp only [pairStopped, hrun]
  rw [cappedPair, cappedPair, chosen, chosen, hst, hp]

/-- A pass of the hardware lowers each pair of a list once, to a cap that it forms from the pair. -/
theorem hwLower_all (cap : PairSt → Nat) (l : List Nat) (s : State) (hl : l.Nodup) (i : Nat) :
    (l.foldl (fun s i => hwLower s i (cap (s.pair i))) s).pair i = if i ∈ l then cappedPair s i (cap (s.pair i)) else s.pair i := by
  induction l generalizing s with
  | nil => rfl
  | cons j r ih =>
    obtain ⟨hjr, hr⟩ := List.nodup_cons.1 hl
    obtain ⟨hself, hother, hrun⟩ := hwLower_pair s j (cap (s.pair j))
    rw [List.foldl_cons, ih _ hr]
    by_cases hij : i = j
    · subst hij
      rw [if_neg hjr, if_pos (List.mem_cons_self ..), hself]
    · rw [cappedPair_congr (hother i hij) hrun, hother i hij]
      simp [hij]

theorem lowered_of_pair {s u : State} {i cap : Nat} (h : u.pair i = cappedPair s i cap) : Lowered s u i cap := by
  rw [Lowered, h]
  exact ⟨rfl, rfl, rfl⟩

/-- The hardware's pass over the pairs that are enabled. -/
def lowerLive (cap : PairSt → Nat) (s : State) : State := (livePairs s).foldl (fun s i => hwLower s i (cap (s.pair i))) s

theorem lowerLive_power (cap : PairSt → Nat) (s : State) : (lowerLive cap s).power = s.power :=
  (frame_foldl (W := [.fresh, .regs, .units]) _ (.refl _ s) (fun _ _ h => hwLower_frame h (.refl _))).same .power (by decide)

/-- After the pass each of the pairs is lowered, also where the emergency for which it is made has been noted first. -/
theorem lowerLive_lowered (cap : PairSt → Nat) (s : State) (p : PowerSt) {u : State}
    (hu : ∀ i, u.pair i = (lowerLive cap { s with power := p }).pair i) : ∀ i ∈ livePairs s, Lowered s u i (cap (s.pair i)) := by
  intro i hi
  have hpair : u.pair i = cappedPair { s with power := p } i (cap (s.pair i)) :=
    (hu i).trans ((hwLower_all cap _ _ (livePairs_nodup _) i).trans (if_pos hi))
  exact lowered_of_pair hpair

/-- A step of the throttling lowers the pairs of its quadrant (R472). -/
theorem throttleStepOp_pair {s : State} {q : Nat} (hthr : s.power.throttled.elem q = true) (hot : ∃ v ∈ sensorsOf s q, 420 ≤ v) (i : Nat) :
    (throttleStepOp s q).pair i =
      if i ∈ livePairs s ∧ i / 5 = q then cappedPair s i (max 16 ((s.pair i).capHw - 2)) else s.pair i := by
  have hop : throttleStepOp s q = ((livePairs s).filter (fun i => decide (pairQuad i = q))).foldl
      (fun s i => hwLower s i (max 16 ((s.pair i).capHw - 2))) s := by
    unfold throttleStepOp
    rw [if_pos (by simp only [hthr, Bool.true_and, List.any_eq_true, decide_eq_true_eq]; exact hot), List.foldl_filter]
    simp only [decide_eq_true_eq]
  rw [hop, hwLower_all (fun x => max 16 (x.capHw - 2)) _ s ((livePairs_nodup s).filter _)]
  exact if_congr (by rw [List.mem_filter, pairQuad, decide_eq_true_iff]) rfl rfl

/-! ### Emergencies that begin (R474, R475, R481) -/

/-- The hints in force are dropped, and nothing else of the power's state. -/
theorem emergBegin_power (s : State) (code : Nat) : { (emergBegin s code).power with windows := s.power.windows } = s.power := by
  simp only [emergBegin, State.logEntry_power, State.bump_power]

@[simp] theorem emergBegin_emSupply (s : State) (code : Nat) : (emergBegin s code).power.emSupply = s.power.emSupply :=
  (congrArg PowerSt.emSupply (emergBegin_power s code) :)
@[simp] theorem emergBegin_emCurrent (s : State) (code : Nat) : (emergBegin s code).power.emCurrent = s.power.emCurrent :=
  (congrArg PowerSt.emCurrent (emergBegin_power s code) :)

theorem emergBegin_pair (s : State) (code i : Nat) : (emergBegin s code).pair i = s.pair i := by
  have hunits : (emergBegin s code).units = s.units :=
    (emergBegin_frame (.refl [.fresh, .regs, .log, .power] s) (.refl _)).same .units (by decide)
  rw [State.pair, State.pair, hunits]

/-- A SUPPLY emergency takes every pair to FREQ_STEP 16. -/
theorem supplyEmergOp_begins {s : State} (hoff : s.phase ≠ .off) (hsleep : s.phase ≠ .sleep) (hem : s.power.emSupply = false) :
    (supplyEmergOp s).power.emSupply = true ∧ ∀ i ∈ livePairs s, Lowered s (supplyEmergOp s) i 16 := by
  have hop : supplyEmergOp s = emergBegin (lowerLive (fun _ => 16) { s with power := { s.power with emSupply := true } }) 0x8104 :=
    if_neg (by simp [hoff, hsleep, hem])
  rw [hop]
  refine ⟨?_, lowerLive_lowered (fun _ => 16) s _ (emergBegin_pair _ _)⟩
  rw [emergBegin_emSupply, lowerLive_power]

/-- The cap of a CURRENT emergency: 8 steps below the frequency chosen, not below 16 (R474). -/
def currentCap (x : PairSt) : Nat := max 16 (x.next - 8)

/-- The rail is noted and every pair is lowered to that cap. -/
def currentLowered (s : State) (rail : Nat) : State :=
  lowerLive currentCap { s with power := { s.power with emCurrent := rail :: s.power.emCurrent } }

/-- A CURRENT emergency lowers every pair to its cap. -/
theorem currentOp_begins {s : State} {rail mA : Nat} (hoff : s.phase ≠ .off) (hsleep : s.phase ≠ .sleep)
    (hem : s.power.emCurrent.elem rail = false) (hmA : railMa s rail ≤ mA) :
    rail ∈ (currentOp s rail mA).power.emCurrent ∧ ∀ i ∈ livePairs s, Lowered s (currentOp s rail mA) i (max 16 ((s.pair i).next - 8)) := by
  have hop : currentOp s rail mA = if s.power.emCurrent.isEmpty then emergBegin (currentLowered s rail) 0x8105 else currentLowered s rail :=
    if_neg (by simp only [hoff, hsleep, hem]; simpa using hmA)
  have hrail : rail ∈ (currentLowered s rail).power.emCurrent := by
    rw [currentLowered, lowerLive_power]
    exact List.mem_cons_self ..
  rw [hop]
  split
  · rw [emergBegin_emCurrent]
    exact ⟨hrail, lowerLive_lowered currentCap s _ (emergBegin_pair _ _)⟩
  · exact ⟨hrail, lowerLive_lowered currentCap s _ fun _ => rfl⟩

/-- The quadrant of a sensor is being throttled, and the sensor reads a temperature (R472). -/
def ThrottledAt (s : State) (sensor : Nat) (temp : Int) : Prop :=
  sensor / 4 ∈ s.power.throttled ∧ sensor / 4 ∈ s.power.emThermal ∧ s.power.sensors.getD sensor 0 = temp

theorem ThrottledAt.of_power {s u : State} {sensor : Nat} {temp : Int} (hs : ThrottledAt s sensor temp)
    (h : { u.power with windows := s.power.windows } = s.power) : ThrottledAt u sensor temp := by
  unfold ThrottledAt at *
  rw [← h] at hs
  exact hs

/-- A sensor is set as the one of its quadrant that has changed. -/
theorem setSensors_one (s : State) {sensor : Nat} (temp : Int) (h : sensor < 16) :
    (setSensors s (sensor / 4) ((List.range 4).map (fun i => if i = sensor % 4 then temp else (sensorsOf s (sensor / 4)).getD i 0))).power.sensors.getD
      sensor 0 = temp := by
  have hmod : sensor % 4 < 4 := Nat.mod_lt _ (by omega)
  have hset := setSensors_sensor s (q := sensor / 4) (k := sensor % 4)
    (temps := (List.range 4).map (fun i => if i = sensor % 4 then temp else (sensorsOf s (sensor / 4)).getD i 0)) (by omega) hmod (by simp)
  rw [Nat.div_add_mod] at hset
  exact hset.trans (by simp [hmod])

/-- A THERMAL throttling begins at the sensor's quadrant. -/
theorem throttleStartOp_begins {s : State} {sensor : Nat} {temp : Int} (hsensor : sensor < 16) (hoff : s.phase ≠ .off) (hsleep : s.phase ≠ .sleep)
    (hot : 420 ≤ temp) (hthr : s.power.throttled.elem (sensor / 4) = false) : ThrottledAt (throttleStartOp s sensor temp) sensor temp := by
  unfold throttleStartOp
  extract_lets q first z src y x
  rw [if_neg (by simp only [hoff, hsleep, hthr, q]; simpa using hot)]
  have hy : ThrottledAt y sensor temp := ⟨List.mem_cons_self .., List.mem_cons_self .., setSensors_one s temp hsensor⟩
  have hx : ThrottledAt x sensor temp := hy.of_power (by rw [State.bump_power])
  split
  · exact hx.of_power (emergBegin_power ..)
  · exact hx.of_power (by rw [State.logEntry_power])

/-! ### Emergencies that end (R457, R474) -/

/-- With the last emergency the second of R457 begins. -/
theorem emergEnd_last {s : State} (h : emergency s = false) : (emergEnd s true).boot.emergClear = some (emergEnd s true).clk.clock := by
  simp only [emergEnd, h, Bool.not_false, Bool.and_self, if_true, State.logEntry_boot, State.logEntry_clk]

theorem thermalEnd_throttled (s : State) : (thermalEnd s).power.throttled = s.power.throttled := by
  unfold thermalEnd
  split
  · rw [emergEnd_power]
  · rfl

/-- A quadrant that reads 100 °C or below: every sensor does where those of the others do. -/
theorem setSensors_cool {s : State} {q : Nat} {temps : List Int} (hl : temps.length = 4) (hcool : ∀ v ∈ temps, v ≤ 400) :
    (setSensors s q temps).power.sensors.all (fun v => decide (v ≤ 400)) = true ↔
      ∀ k : Fin 16, k.val / 4 ≠ q → s.power.sensors.getD k.val 0 ≤ 400 := by
  have hget : ∀ k : Nat, k < 16 → ((List.range 16).map (fun i => s.power.sensors.getD i 0)).getD k 0 = s.power.sensors.getD k 0 :=
    fun k hk => by simp [hk]
  simp only [setSensors, List.all_map, List.all_eq_true, List.mem_range, Function.comp, decide_eq_true_eq]
  constructor
  · intro h k hk
    have hk' := h k.val k.isLt
    rwa [if_neg hk, hget _ k.isLt] at hk'
  · intro h k hk
    split
    · rw [List.getD_eq_getElem _ _ (by omega)]
      exact hcool _ (List.getElem_mem _)
    · next hq =>
      rw [hget k hk]
      exact h ⟨k, hk⟩ hq

/-- THERMAL ends where no quadrant is throttled and every sensor of the device reads 100 °C or below. -/
theorem thermalEnd_ends {s : State} (h : s.power.throttled = []) (hcool : s.power.sensors.all (fun v => decide (v ≤ 400)) = true) :
    (thermalEnd s).power.emThermal = [] ∧ (s.power.emSupply = false → s.power.emCurrent = [] → s.power.emThermal ≠ [] →
      (thermalEnd s).boot.emergClear = some (thermalEnd s).clk.clock) := by
  by_cases hem : s.power.emThermal = []
  · have hop : thermalEnd s = s := if_neg (by simp [hem])
    rw [hop]
    exact ⟨hem, fun _ _ hne => absurd hem hne⟩
  · have hop : thermalEnd s = emergEnd { s with power := { s.power with emThermal := [] } } true := if_pos (by simp [hem, h, hcool])
    rw [hop]
    exact ⟨by rw [emergEnd_power], fun hs hc _ => emergEnd_last (by simp [emergency, hs, hc])⟩

/-- Until then THERMAL waits. -/
theorem thermalEnd_waits {s : State} (h : s.power.throttled = [] → s.power.sensors.all (fun v => decide (v ≤ 400)) = false) :
    thermalEnd s = s := by
  refine if_neg fun hc => ?_
  simp only [Bool.and_eq_true, List.isEmpty_iff] at hc
  obtain ⟨⟨-, hthr⟩, hcool⟩ := hc
  exact Bool.false_ne_true ((h hthr).symm.trans hcool)

/-- A quadrant's sensors are set, and it is throttled no more (R472). -/
def unthrottled (s : State) (q : Nat) (temps : List Int) : State :=
  { setSensors s q temps with power := { (setSensors s q temps).power with throttled := s.power.throttled.filter (· != q) } }

/-- The end of a quadrant's throttling: the emergency ends with the last quadrant's, once the others' sensors read 100 °C or below too. -/
theorem throttleClearOp_clears {s : State} {q : Nat} {temps : List Int} (hthr : s.power.throttled.elem q = true) (hl : temps.length = 4)
    (hcool : ∀ v ∈ temps, v ≤ 400) :
    q ∉ (throttleClearOp s q temps).power.throttled ∧
      (if (∀ k ∈ s.power.throttled, k = q) ∧ ∀ k : Fin 16, k.val / 4 ≠ q → s.power.sensors.getD k.val 0 ≤ 400 then
          (throttleClearOp s q temps).power.emThermal = [] ∧
            (s.power.emSupply = false → s.power.emCurrent = [] → s.power.emThermal ≠ [] →
              (throttleClearOp s q temps).boot.emergClear = some (throttleClearOp s q temps).clk.clock)
        else (throttleClearOp s q temps).power.emThermal = s.power.emThermal) := by
  have hop : throttleClearOp s q temps = thermalEnd (unthrottled s q temps) :=
    if_pos ⟨hthr, hl, by simpa using hcool⟩
  have hlast : s.power.throttled.filter (· != q) = [] ↔ ∀ k ∈ s.power.throttled, k = q := by simp [List.filter_eq_nil_iff]
  have hall := setSensors_cool (s := s) (q := q) hl hcool
  rw [hop]
  refine ⟨by simp [thermalEnd_throttled, unthrottled], ?_⟩
  split
  · next h => exact thermalEnd_ends (hlast.2 h.1) (hall.2 h.2)
  · next h =>
    have hwaits : thermalEnd (unthrottled s q temps) = unthrottled s q temps :=
      thermalEnd_waits fun hnone => Bool.eq_false_iff.2 fun hc => h ⟨hlast.1 hnone, hall.1 hc⟩
    rw [hwaits]
    rfl

/-! ### O14 -/

/-- Settles O14: an emergency that begins is one pass over the pairs or, for THERMAL, begins the steps of its quadrant; one that clears is taken out, and
the last one's end is noted. -/
theorem emergenciesActAndClear : Obligations.EmergenciesActAndClear := by
  refine ⟨fun t s hoff hsleep hem => ?_, fun t rail mA s hoff hsleep hem => ⟨fun hmA => ?_, fun hmA => ?_⟩,
    fun t sensor temp s hoff hsleep hot hthr => ?_, fun t q s hthr => ⟨fun hot => ?_, fun hcool => ?_⟩, fun t s hem => ?_,
    fun t rail s hem => ?_, fun t q temps s hthr hl hcool => ?_⟩
  · exact ⟨_, rfl, supplyEmergOp_begins (s := atTime t s) hoff hsleep hem⟩
  · exact ⟨_, rfl, currentOp_begins (s := atTime t s) hoff hsleep hem hmA⟩
  · exact congrArg Host.Outcome.next (if_pos (.inr (.inr (.inl hmA))))
  · exact ⟨_, rfl, throttleStartOp_begins (s := atTime t s) sensor.isLt hoff hsleep hot hthr⟩
  · have hpair := throttleStepOp_pair (s := atTime t s) hthr hot
    exact ⟨_, rfl, fun i hi hq => lowered_of_pair ((hpair i).trans (if_pos ⟨hi, hq⟩)), fun i hq => (hpair i).trans (if_neg fun h => hq h.2)⟩
  · refine congrArg Host.Outcome.next (if_neg fun h => ?_)
    obtain ⟨v, hv, hhot⟩ := List.any_eq_true.1 (Bool.and_eq_true_iff.1 h).2
    exact absurd (of_decide_eq_true hhot) (not_le.2 (hcool v hv))
  · have hop : supplyClearOp (atTime t s) = emergEnd { atTime t s with power := { s.power with emSupply := false } } true := if_pos hem
    refine ⟨_, congrArg Host.Outcome.next hop, emergEnd_power .., fun hc ht => emergEnd_last (by simp [emergency, hc, ht])⟩
  · have hop : currentClearOp (atTime t s) rail.val =
        emergEnd { atTime t s with power := { s.power with emCurrent := s.power.emCurrent.filter (· != rail.val) } } true := if_pos hem
    refine ⟨_, congrArg Host.Outcome.next hop, emergEnd_power .., fun hs hc ht => emergEnd_last (by simp [emergency, hs, hc, ht])⟩
  · exact ⟨_, rfl, throttleClearOp_clears (s := atTime t s) hthr hl hcool⟩

end Sys2Proof.Machine
end

section
/-! The supply and the thermal shutdown (R428, R438, R473, R516, R517): both are one loss of what stands outside AON and the flash. -/

namespace Sys2Proof.Machine

/-- The flash reads as before, and what lies below it as nothing has written it. -/
def FlashAlone (s u : State) : Prop := (∀ a, flashBase ≤ a → u.rd a = s.rd a) ∧ ∀ a, a < flashBase → u.rd a = 0

theorem lose_flashAlone (s : State) (supply cold dark : Bool) : FlashAlone s (lose s supply cold dark) :=
  ⟨fun a h => (rd_lose s supply cold dark a).trans (if_pos h), fun a h => (rd_lose s supply cold dark a).trans (if_neg (not_le.2 h))⟩

theorem FlashAlone.of_mem {s u v : State} (h : FlashAlone s u) (hm : v.mem = u.mem) : FlashAlone s v := by
  unfold FlashAlone State.rd at *
  rwa [hm]

/-- A cold start by supply goes on, since the boot counter is lost with AON, and resumes the session number recorded in flash. -/
theorem beginStart_supply (s : State) :
    let u := beginStart s 1 0 true true
    u.phase = .starting ∧ u.boot.start = ⟨1, 0, u.clk.clock⟩ ∧ u.aon.session = recordedSession s := by
  obtain ⟨-, -, -, hgoes⟩ := beginStart_start s 1 0 true true
  have hnone : recentFails (lose s true (1 == 1) true) = [] := rfl
  obtain ⟨hphase, hstart⟩ := hgoes (by rw [hnone]; decide)
  refine ⟨hphase, ?_, ?_⟩
  · rw [beginStart_clock]
    exact hstart
  · rw [beginStart_aon]
    rfl

/-- A shutdown is a SLEEP whose wakes wait for the AON sensor, with its record in the fault history (R473). -/
theorem shutdownOp_sleeps {s : State} {temp : Int} (hoff : s.phase ≠ .off) (hsleep : s.phase ≠ .sleep) (hot : 460 ≤ temp) :
    let u := shutdownOp s temp
    u.phase = .sleep ∧ u.aon.hot = decide (380 < s.aon.aonTemp) ∧ u.aon.sleepFrom = u.clk.clock ∧
      u.aon.faults = s.aon.faults ++ [⟨0xFF, none, 0x8102⟩] ∧ FlashAlone s u := by
  unfold shutdownOp
  rw [if_neg (by simp only [hoff, hsleep]; simpa using hot)]
  exact ⟨rfl, rfl, rfl, rfl, (lose_flashAlone s false false true).of_mem rfl⟩

/-- Settles O8: the loss of the supply and the shutdown leave the flash alone, and a supply in range is one start's beginning. -/
theorem supplyAndShutdown : Obligations.SupplyAndShutdown := by
  refine ⟨fun t s => ?_, fun t s hoff => ⟨fun hdue => ?_, fun hearly => ?_⟩, fun t sensor temp s hoff hsleep hot => ?_⟩
  · exact ⟨_, rfl, rfl, rfl, (lose_flashAlone (atTime t s) true true true).of_mem rfl⟩
  · exact ⟨_, congrArg Host.Outcome.next (if_pos ⟨hoff, hdue⟩), beginStart_supply (atTime t s)⟩
  · exact congrArg Host.Outcome.next (if_neg fun h => absurd h.2 (not_le.2 hearly))
  · exact ⟨_, rfl, shutdownOp_sleeps (s := atTime t s) hoff hsleep hot⟩

end Sys2Proof.Machine
end

section
/-! Display pictures (R277, R278, R524): a picture leaves, or is dropped, as one release of its stream. -/

namespace Sys2Proof.Machine

/-! ### What an end leaves of the picture -/

/-- Outputs emitted one after another: nothing but the outputs changes. -/
theorem emits_eq {α : Type} (f : α → Output) (l : List α) (s : State) :
    l.foldl (fun s x => s.emit (f x)) s = { s with out := s.out ++ l.map f } := by
  induction l generalizing s with
  | nil => simp
  | cons x r ih => rw [List.foldl_cons, ih, State.emit, List.map_cons, List.append_assoc, List.singleton_append]

/-- A stream that is released keeps its number of pictures and is no longer busy. -/
theorem releasePicture_disp (s : State) (n : Nat) :
    ((releasePicture s n).disp n).pics = (s.disp n).pics ∧ ((releasePicture s n).disp n).busy = false := by
  unfold releasePicture
  dsimp only
  rw [State.setDisp_disp_self]
  exact ⟨rfl, rfl⟩

theorem releasePicture_frame' (s : State) (n : Nat) : Frame [.vat] s (releasePicture s n) := releasePicture_frame (.refl _ s) (.refl _)

/-! ### The two ends (R277, R524) -/

section
variable {s : State} {n : Nat} (hb : (s.disp n).busy = true)
include hb

theorem displaySent_of_off (hoff : portOn s (s.disp n).port = false) : displaySent s n = releasePicture s n := by
  unfold displaySent
  rw [if_pos (by simp [hb, hoff])]

/-- Where the port is on, the packets leave and the picture counts. -/
theorem displaySent_of_on (hon : portOn s (s.disp n).port = true) :
    (displaySent s n).out = s.out ++ (s.disp n).packets.map (fun b => .display (s.disp n).port (s.disp n).tag b) ∧
      ((displaySent s n).disp n).pics = (s.disp n).pics + 1 ∧ ((displaySent s n).disp n).busy = false := by
  unfold displaySent
  extract_lets d z y x
  rw [if_neg (by simp [d, hb, hon]), if_pos hb]
  have hz : z = { s with out := s.out ++ d.packets.map (fun b => .display d.port d.tag b) } := emits_eq (fun b => .display d.port d.tag b) d.packets s
  have hx : x.out = z.out := ((releasePicture_frame' y n).same .out (by decide)).trans (by simp only [y, State.bump_out])
  refine ⟨hx.trans (by rw [hz]), ?_, ?_⟩ <;> rw [State.setDisp_disp_self]
  exact (releasePicture_disp y n).2

/-- A fault drops the picture: nothing leaves and nothing counts as sent. -/
theorem displayFault_of_busy :
    (displayFault s n).out = s.out ∧ ((displayFault s n).disp n).pics = (s.disp n).pics ∧ ((displayFault s n).disp n).busy = false := by
  obtain ⟨hpics, hbusy⟩ := releasePicture_disp s n
  unfold displayFault
  rw [if_pos hb]
  dsimp only
  rw [State.disp, State.logEntry_vat, State.bump_vat, State.logEntry_out, State.bump_out]
  exact ⟨(releasePicture_frame' s n).same .out (by decide), hpics, hbusy⟩

end

/-! ### O47 -/

/-- Settles O47: whether the port is on decides if the picture leaves before its stream is released; a fault only releases it. -/
theorem picturesLeaveOrDrop : Obligations.PicturesLeaveOrDrop := by
  intro t n s hb
  have hb' : ((atTime t s).disp n.val).busy = true := hb
  refine ⟨fun hoff => ?_, fun hon => ⟨_, rfl, displaySent_of_on hb' hon⟩, ⟨_, rfl, displayFault_of_busy hb'⟩⟩
  have hF := releasePicture_frame' (atTime t s) n.val
  obtain ⟨hpics, hbusy⟩ := releasePicture_disp (atTime t s) n.val
  exact ⟨_, congrArg Host.Outcome.next (displaySent_of_off hb' hoff), hF.same .out (by decide), hpics, hbusy, hF.same .regs (by decide)⟩

end Sys2Proof.Machine
end

section
/-! Sirris links (R489–R490, R492, R495, R498): which SEQ a link expects next is changed by its own DATA alone. Whatever a message brings about,
on this device or on its way to another, leaves it. -/

namespace Sys2Proof.Machine

/-! ### SEQs that are expected -/

/-- s came from a with every link expecting the SEQ that it did. -/
structure KeepsExpected (a s : State) : Prop where
  expected : ∀ n, (s.sir n).expected = (a.sir n).expected

theorem KeepsExpected.of_net {a s : State} (h : s.net.sirris = a.net.sirris) : KeepsExpected a s := ⟨fun n => by rw [State.sir, h, State.sir]⟩

theorem KeepsExpected.of_frame {W : List Field} {a s : State} (h : Frame W a s) (hn : .net ∉ W) : KeepsExpected a s :=
  .of_net (congrArg Net.sirris (h.same .net hn))

theorem KeepsExpected.refl (s : State) : KeepsExpected s s := .of_net rfl

theorem KeepsExpected.trans {a s u : State} (h : KeepsExpected a s) (k : KeepsExpected s u) : KeepsExpected a u :=
  ⟨fun n => (k.expected n).trans (h.expected n)⟩

theorem KeepsExpected.foldl {β : Type} {f : State → β → State} (hf : ∀ s b, KeepsExpected s (f s b)) (l : List β) (s : State) :
    KeepsExpected s (l.foldl f s) := by
  induction l generalizing s with
  | nil => exact .refl s
  | cons b l ih => exact (hf s b).trans (ih _)

theorem KeepsExpected.foldl_fst {β γ : Type} {f : State × γ → β → State × γ} (hf : ∀ s b, KeepsExpected s.1 (f s b).1) (l : List β)
    (s : State × γ) : KeepsExpected s.1 (l.foldl f s).1 := by
  induction l generalizing s with
  | nil => exact .refl s.1
  | cons b l ih => exact (hf s b).trans (ih _)

theorem State.setSir_keepsExpected (s : State) (n : Nat) {l : SirLink} (h : l.expected = (s.sir n).expected) : KeepsExpected s (s.setSir n l) := by
  refine ⟨fun m => ?_⟩
  obtain rfl | hne := eq_or_ne m n
  · rw [State.setSir_sir_self, h]
  · rw [State.setSir_sir_ne _ _ hne]

theorem bump_keepsExpected (s : State) (page off k : Nat) : KeepsExpected s (s.bump page off k) := .of_net (congrArg Net.sirris (State.bump_net ..))

/-! ### Messages that leave (R489, R490, R492) -/

theorem State.sirOwe_keepsExpected (s : State) (n : Option Nat) (cls : Nat) (msg : Bytes) : KeepsExpected s (s.sirOwe n cls msg) := by
  cases n with
  | none => exact .refl s
  | some n => exact s.setSir_keepsExpected n rfl

theorem sirTx_keepsExpected (s : State) (n : Nat) (frame : Bytes) : KeepsExpected s (sirTx s n frame) := by
  unfold sirTx
  extract_lets src s1
  have h1 : KeepsExpected s s1 := s.setSir_keepsExpected n rfl
  have h2 : KeepsExpected s1 (s1.emit (.sirris n frame)) := .of_net rfl
  exact (h1.trans h2).trans ((bump_keepsExpected ..).trans (bump_keepsExpected ..))

theorem sirSendNow_keepsExpected (s : State) (n cls : Nat) (msg : Bytes) : KeepsExpected s (sirSendNow s n cls msg) := by
  unfold sirSendNow
  extract_lets l f l'
  exact (s.setSir_keepsExpected n (l := l') rfl).trans (sirTx_keepsExpected ..)

theorem sirSend_keepsExpected (s : State) (n cls : Nat) (msg : Bytes) (src : Option Nat) : KeepsExpected s (sirSend s n cls msg src) := by
  unfold sirSend
  dsimp only
  split
  · exact (sirSendNow_keepsExpected ..).trans (State.sirOwe_keepsExpected ..)
  · exact s.setSir_keepsExpected n rfl

theorem sirDrain_keepsExpected (n : Nat) (l : List (Nat × Bytes × Option Nat)) (s : State) : KeepsExpected s (sirDrain n l s) := by
  induction l generalizing s with
  | nil => exact .refl s
  | cons e l ih => exact (sirSend_keepsExpected ..).trans (ih _)

theorem sirAcked_keepsExpected (s : State) (n : Nat) (f : SirRx) : KeepsExpected s (sirAcked s n f) := by
  unfold sirAcked sirFlush
  extract_lets l done l1 l2 w
  have h1 : l1.expected = l.expected := by
    unfold l1
    split <;> rfl
  refine ((s.setSir_keepsExpected n (l := l2) h1).trans ?_).trans (sirDrain_keepsExpected n w _)
  exact State.setSir_keepsExpected _ n rfl

theorem sirPass_keepsExpected (s : State) (cls dst : Nat) (msg : Bytes) (src : Option Nat) : KeepsExpected s (sirPass s cls dst msg src) := by
  unfold sirPass
  split
  · exact sirSend_keepsExpected ..
  · have hlog : Frame [.fresh, .regs, .log] s ((s.bump pgSir 0x068 1).logLimited 0xA106 0 0xFF 0xFF 0) :=
      State.logLimited_frame (State.bump_frame (.refl _ s) (by decide)) (.refl _)
    exact (KeepsExpected.of_frame hlog (by decide)).trans (State.sirOwe_keepsExpected ..)

theorem sirForward_keepsExpected (s : State) (cls dst : Nat) (msg : Bytes) : KeepsExpected s (sirForward s cls dst msg) := sirPass_keepsExpected ..

/-! ### Work that is aborted (R338, R494, R495) -/

theorem takeWrite_keepsExpected (s : State) (src p a : Nat) (data : Bytes) : KeepsExpected s (takeWrite s src p a data).1 :=
  .of_frame (takeWrite_frame (.refl [.fresh, .mem, .regs, .plans, .press, .log] s) (.refl _)) (by decide)

theorem sendLine_keepsExpected (s : State) (p : Nat) (q : Option Nat) (e : Nat × Nat × Nat × Nat) : KeepsExpected s (sendLine s p q e).1 := by
  unfold sendLine
  extract_lets data s1
  have h1 : KeepsExpected s s1 := .of_frame (touchRange_frame (.refl [.fresh, .regs, .plans, .press] s) (by decide)) (by decide)
  split
  · exact h1.trans (takeWrite_keepsExpected ..)
  · next s2 _ =>
    have h2 : KeepsExpected s1 s2 := .of_net rfl
    exact (h1.trans h2).trans (sirForward_keepsExpected ..)

theorem sendWritten_keepsExpected (s : State) (p : Nat) (q : Option Nat) (vas : List Nat) : KeepsExpected s (sendWritten s p q vas).1 := by
  unfold sendWritten
  refine KeepsExpected.foldl_fst (s := (s, false)) (fun a e => ?_) _
  exact sendLine_keepsExpected a.1 p q e

theorem abortUnit_keepsExpected (s : State) (q : Nat) : KeepsExpected s (abortUnit s q) := by
  unfold abortUnit
  split
  · exact .refl s
  next r _ =>
  extract_lets p s1 _ _ s2 put s3 _ _ s4 s5
  have h1 : KeepsExpected s s1 := by
    unfold s1
    split
    · exact .of_frame (account_frame (.refl [.fresh, .regs, .units] s) (.refl _)) (by decide)
    · split
      · exact .of_frame (accountEngine_frame (.refl [.fresh, .regs, .plans] s) (.refl _)) (by decide)
      · exact .refl s
  have h2 : KeepsExpected s1 s2 := .of_frame (touchPages_frame (.refl [.fresh, .regs, .plans, .press] s1) (by decide)) (by decide)
  have h3 : KeepsExpected s2 s3 := by
    unfold s3
    split
    · exact .refl s2
    · have hw : Frame [.fresh, .mem, .plans] s2 (partWrites s2 p put).tick.tick :=
        State.tick_frame (State.tick_frame (partWrites_frame (.refl _ s2) (by decide)) (by decide)) (by decide)
      exact (KeepsExpected.of_frame hw (by decide)).trans (sendWritten_keepsExpected ..)
  have h4 : KeepsExpected s3 s4 := .of_net rfl
  have h5 : KeepsExpected s4 s5 := .of_frame (dropPrefetch_frame (.refl [.plans] s4) (.refl _)) (by decide)
  refine ((h1.trans h2).trans (h3.trans (h4.trans h5))).trans ?_
  clear_value s5
  split
  · exact .of_frame (settleCore_frame (undefUnit_frame (.refl [.fresh, .regs, .units] s5) (by decide)) (.refl _)) (by decide)
  split
  · exact .refl s5
  split
  · next res _ =>
    split
    · exact .of_frame (cutSieve_frame (sieveCounts_frame (.refl [.fresh, .regs, .plans, .log] s5) (by decide)) (by decide)) (by decide)
    · exact .of_net (by simp [cutSieve])
  · exact .refl s5

theorem clearQueue_keepsExpected (p : Nat) (s : State) (q : Nat) : KeepsExpected s (clearQueue p s q) := by
  unfold clearQueue
  dsimp only
  split
  · exact .of_frame (frame_foldl _ (State.setQueue_frame (.refl [.plans] s) (.refl _)) fun _ _ h => dropPrefetch_frame h (.refl _)) (by decide)
  · exact .refl s

theorem settleUnits_keepsExpected (s : State) : KeepsExpected s (settleUnits s) :=
  .of_frame (settleUnits_frame (.refl [.fresh, .regs, .units] s) (.refl _)) (by decide)

theorem abortStep_keepsExpected (s : State) (p : Nat) : KeepsExpected s (abortStep s p) := by
  rw [abortStep_eq]
  have hrun : KeepsExpected s (abortRunning s p) := .foldl (fun _ _ => abortUnit_keepsExpected ..) _ s
  exact (hrun.trans (.foldl (clearQueue_keepsExpected p) allQueues _)).trans (settleUnits_keepsExpected _)

/-- A WRITE that is answered with a STATUS other than OK fails its item, which blames no unit. -/
theorem remoteFail_keepsExpected (s : State) (q p : Nat) : KeepsExpected s (remoteFail s q p) := by
  unfold remoteFail failItem
  have herr : KeepsExpected s (s.blockErr (pgPressP p) 0xA104) := .of_frame (State.blockErr_frame (.refl [.fresh, .regs] s) (.refl _)) (by decide)
  split
  · exact herr
  next r _ =>
  refine herr.trans ?_
  generalize s.blockErr (pgPressP p) 0xA104 = z
  have hitem : KeepsExpected z (abortItem z q) := by
    unfold abortItem
    split
    · exact .refl z
    · exact (abortUnit_keepsExpected z q).trans (.of_net rfl)
  refine hitem.trans ?_
  unfold failStep
  dsimp only
  split
  · exact .refl _
  split
  · exact (KeepsExpected.of_net rfl : KeepsExpected (abortItem z q) ((abortItem z q).modStep r.item.part _)).trans (abortStep_keepsExpected ..)
  · exact .refl _

/-! ### Messages that are taken in (R495–R498) -/

theorem sirWake_keepsExpected (s : State) (tag : Nat) : KeepsExpected s (sirWake s tag) :=
  .of_frame (sirWake_frame (.refl [.plans] s) (.refl _)) (by decide)

theorem sysWake_keepsExpected (s : State) (sys : Nat) : KeepsExpected s (sysWake s sys) := by
  unfold sysWake
  extract_lets t met due keep s1
  have h1 : KeepsExpected s s1 := .of_net rfl
  refine h1.trans (.foldl (fun z w => ?_) due s1)
  dsimp only
  split
  · exact (sirWake_keepsExpected ..).trans (bump_keepsExpected ..)
  · exact (sirForward_keepsExpected ..).trans (bump_keepsExpected ..)

theorem sysAdd_keepsExpected (s : State) (sys step n : Nat) : KeepsExpected s (sysAdd s sys step n) := by
  unfold sysAdd
  dsimp only
  split
  · exact bump_keepsExpected ..
  · exact (KeepsExpected.of_net rfl : KeepsExpected s (s.setStally sys _)).trans (sysWake_keepsExpected ..)

theorem sysWait_keepsExpected (s : State) (sys step v src part tag : Nat) : KeepsExpected s (sysWait s sys step v src part tag) := by
  unfold sysWait
  dsimp only
  split
  · exact bump_keepsExpected ..
  · exact (KeepsExpected.of_net rfl : KeepsExpected s (s.setStally sys _)).trans (sysWake_keepsExpected ..)

theorem sirWriteAck_keepsExpected (s : State) (tag status : Nat) : KeepsExpected s (sirWriteAck s tag status) := by
  unfold sirWriteAck
  split
  · exact .refl s
  extract_lets src s1
  have h1 : KeepsExpected s s1 := .of_net rfl
  split
  · exact h1
  split
  · exact h1
  · exact h1.trans (remoteFail_keepsExpected ..)

theorem sirWrite_keepsExpected (s : State) (src p tag a : Nat) (data : Bytes) : KeepsExpected s (sirWrite s src p tag a data) := by
  unfold sirWrite
  dsimp only
  split
  · exact (takeWrite_keepsExpected ..).trans (sirWriteAck_keepsExpected ..)
  · exact (takeWrite_keepsExpected ..).trans (sirForward_keepsExpected ..)

theorem sirTake_keepsExpected (s : State) (m : Bytes) : KeepsExpected s (sirTake s m) := by
  unfold sirTake
  extract_lets src p tag step arg sys v
  split
  · exact sirWrite_keepsExpected ..
  · exact sirWriteAck_keepsExpected ..
  · exact (bump_keepsExpected ..).trans (sysAdd_keepsExpected ..)
  · exact sysWait_keepsExpected ..
  · exact sirWake_keepsExpected ..
  · exact .refl s

/-- The DATA frame that is expected moves its own link's SEQ by one (R490). -/
theorem sirData_expected {s : State} {n : Nat} {f : SirRx} (h : f.seq = (s.sir n).expected) :
    ((sirData s n f).sir n).expected = ((s.sir n).expected + 1) % 65536 := by
  unfold sirData
  extract_lets l s1 dst
  rw [if_neg (not_not.2 h)]
  have hacked : (s1.sir n).expected = (l.expected + 1) % 65536 :=
    ((sirAcked_keepsExpected _ n f).expected n).trans (congrArg SirLink.expected (State.setSir_sir_self ..))
  split
  · exact ((((State.sirOwe_keepsExpected ..).trans (sirTake_keepsExpected ..)).trans (settleUnits_keepsExpected _)).expected n).trans hacked
  · exact ((sirPass_keepsExpected ..).expected n).trans hacked

end Sys2Proof.Machine
end

section
/-! Sirris links (R486–R492): what a link sends, what a good frame does to it, and how it goes DOWN. -/

namespace Sys2Proof.Machine

/-! ### Frames that leave (R486, R490) -/

theorem sirTx_out (s : State) (n : Nat) (frame : Bytes) : (sirTx s n frame).out = s.out ++ [.sirris n frame] := by
  simp [sirTx, State.emit]

/-- A link notes when it sent. -/
theorem sirTx_sir (s : State) (n : Nat) (frame : Bytes) : (sirTx s n frame).sir n = { s.sir n with lastTx := s.clk.clock } := by
  unfold sirTx
  rw [State.sir, State.bump_net, State.bump_net, State.emit_net]
  exact State.setSir_sir_self ..

/-- A control frame carries what the link expects and owes. -/
theorem sirControl_out (s : State) (n typ seq : Nat) (msg : Bytes) : (sirControl s n typ seq msg).out =
    s.out ++ [.sirris n (sirFrame typ 0 seq (s.sir n).expected (s.sir n).owedReq (s.sir n).owedRsp msg)] := sirTx_out ..

theorem sirControl_sir (s : State) (n typ seq : Nat) (msg : Bytes) : (sirControl s n typ seq msg).sir n =
    { s.sir n with owedReq := 0, owedRsp := 0, ackOwed := false, lastTx := s.clk.clock } := by
  unfold sirControl
  dsimp only
  rw [sirTx_sir, State.setSir_sir_self, State.setSir_clk]

/-- Frames sent again one after another: the link but for the clock of the last one stays as it is. -/
theorem sirResends (n : Nat) (l : List SirKept) (s : State) :
    let u := l.foldl (fun s f => (sirTx s n f.frame).bump pgSir (sirCnt n 2) 1) s
    u.out = s.out ++ l.map (fun x => .sirris n x.frame) ∧ { u.sir n with lastTx := (s.sir n).lastTx } = s.sir n := by
  induction l generalizing s with
  | nil => exact ⟨(List.append_nil _).symm, rfl⟩
  | cons k l ih =>
    obtain ⟨hout, hsir⟩ := ih ((sirTx s n k.frame).bump pgSir (sirCnt n 2) 1)
    rw [State.bump_out, sirTx_out] at hout
    have hnext : ((sirTx s n k.frame).bump pgSir (sirCnt n 2) 1).sir n = { s.sir n with lastTx := s.clk.clock } := by
      rw [State.sir, State.bump_net]
      exact sirTx_sir ..
    rw [hnext] at hsir
    refine ⟨hout.trans (by simp), ?_⟩
    exact congrArg (fun x : SirLink => { x with lastTx := (s.sir n).lastTx }) hsir

theorem sirResend_out (s : State) (n k : Nat) :
    (sirResend s n k).out = s.out ++ ((s.sir n).kept.drop k).map (fun x => .sirris n x.frame) := (sirResends n _ s).1

theorem sirResend_sir (s : State) (n k : Nat) : { (sirResend s n k).sir n with lastTx := (s.sir n).lastTx } = s.sir n := (sirResends n _ s).2

theorem sirResend_kept (s : State) (n k : Nat) : ((sirResend s n k).sir n).kept = (s.sir n).kept :=
  (congrArg SirLink.kept (sirResend_sir s n k) :)
theorem sirResend_rounds (s : State) (n k : Nat) : ((sirResend s n k).sir n).rounds = (s.sir n).rounds :=
  (congrArg SirLink.rounds (sirResend_sir s n k) :)

/-- A NACK names the SEQ that is expected, which stays expected; none has been sent where the last is not old enough. -/
theorem sirNack_nacks (s : State) (n : Nat) :
    ((sirNack s n).sir n).expected = (s.sir n).expected ∧
      ((s.sir n).lastNack = none → (sirNack s n).out = s.out ++
        [.sirris n (sirFrame 3 0 (s.sir n).expected (s.sir n).expected (s.sir n).owedReq (s.sir n).owedRsp [])]) := by
  unfold sirNack
  extract_lets l due
  split
  · rw [State.sir, State.bump_net, ← State.sir, sirControl_sir, State.bump_out, sirControl_out, State.setSir_sir_self]
    exact ⟨rfl, fun _ => rfl⟩
  · next hdue =>
    refine ⟨rfl, fun hnone => absurd ?_ hdue⟩
    simp [due, l, hnone]

/-! ### A link that goes DOWN (R488, R490) -/

/-- Buffers of other links that are freed leave a link as it is. -/
theorem sirOwes_sir {n : Nat} (l : List (Nat × Bytes × Option Nat)) (s : State) (h : ∀ e ∈ l, e.2.2 ≠ some n) :
    (l.foldl (fun s e => s.sirOwe e.2.2 e.1 e.2.1) s).sir n = s.sir n := by
  induction l generalizing s with
  | nil => rfl
  | cons e l ih =>
    rw [List.foldl_cons, ih _ fun e' he => h e' (List.mem_cons_of_mem _ he)]
    have hne := h e List.mem_cons_self
    unfold State.sirOwe
    split
    · rfl
    · next m hm => exact State.setSir_sir_ne _ _ fun hnm => hne (hm.trans (congrArg some hnm.symm))

theorem State.endSir_sir (s : State) (n : Nat) (x : SirLink) : (s.endSir n x).sir n = x := by
  unfold State.endSir
  dsimp only
  rw [sirOwes_sir _ _ fun e he => by simpa using (List.mem_filter.1 he).2, State.setSir_sir_self]

theorem State.endSir_ports (s : State) (n : Nat) (x : SirLink) : (s.endSir n x).net.ports = s.net.ports := by
  unfold State.endSir
  generalize (s.sir n).waiting.filter (fun e => e.2.2 != some n) = l
  have howes (l : List (Nat × Bytes × Option Nat)) : ∀ z : State, (l.foldl (fun s e => s.sirOwe e.2.2 e.1 e.2.1) z).net.ports = z.net.ports := by
    induction l with
    | nil => exact fun _ => rfl
    | cons e l ih =>
      intro z
      rw [List.foldl_cons, ih]
      unfold State.sirOwe
      split <;> rfl
  exact howes l _

theorem retrain_sir (s : State) (i n : Nat) : (retrain s i).sir n = s.sir n := by
  unfold retrain
  split
  · rw [State.sir, State.bump_net]
    rfl
  · rfl

theorem retrain_optical {s : State} {i : Nat} (h : (s.optical i).link = 2) : ((retrain s i).optical i).link = 1 := by
  unfold retrain
  rw [if_pos h, State.optical, State.bump_net, ← State.optical, State.setOptical_optical_self]

/-- What the link kept and what waited for it is lost, and its port trains again. -/
theorem sirDown_down (s : State) (n : Nat) :
    ((sirDown s n).sir n).up = false ∧ ((sirDown s n).sir n).kept = [] ∧ ((sirDown s n).sir n).waiting = [] ∧
      ((s.optical (10 + n)).link = 2 → ((sirDown s n).optical (10 + n)).link = 1) := by
  have hsir : (sirDown s n).sir n = { SirLink.reset with peer := (s.sir n).peer } := by
    unfold sirDown
    rw [retrain_sir, State.sir, State.logEntry_net, State.bump_net]
    exact State.endSir_sir ..
  rw [hsir]
  refine ⟨rfl, rfl, rfl, fun h => retrain_optical ?_⟩
  rw [State.optical, State.logEntry_net, State.bump_net, State.endSir_ports]
  exact h

/-! ### Good frames (R486, R488–R490) -/

/-- A good frame has been counted, on the port's page too (R525). -/
def sirCounted (s : State) (n : Nat) : State := (s.bump (pgPort (10 + n)) 0x050 1).bump pgSir (sirCnt n 1) 1

theorem sirCounted_sir (s : State) (n m : Nat) : (sirCounted s n).sir m = s.sir m := by
  rw [State.sir, sirCounted, State.bump_net, State.bump_net, State.sir]

/-- A link that is UP has been heard. -/
def sirHeard (s : State) (n : Nat) : State :=
  (sirCounted s n).setSir n { (sirCounted s n).sir n with lastGood := (sirCounted s n).clk.clock }

theorem sirHeard_sir (s : State) (n : Nat) : (sirHeard s n).sir n = { s.sir n with lastGood := s.clk.clock } := by
  rw [sirHeard, State.setSir_sir_self, sirCounted_sir, sirCounted, State.bump_clk, State.bump_clk]

theorem sirHeard_out (s : State) (n : Nat) : (sirHeard s n).out = s.out := by simp [sirHeard, sirCounted]
theorem sirHeard_mem (s : State) (n : Nat) : (sirHeard s n).mem = s.mem := by simp [sirHeard, sirCounted]
theorem sirHeard_plans (s : State) (n : Nat) : (sirHeard s n).plans = s.plans := by simp [sirHeard, sirCounted]

/-- What a NACK asks for is sent again, from the SEQ it names on (R490). -/
def sirAgain (s : State) (n : Nat) (f : SirRx) : State :=
  match (s.sir n).kept with
  | [] => s
  | k :: _ => if (f.seq + 65536 - k.seq) % 65536 < (s.sir n).kept.length then sirResend s n ((f.seq + 65536 - k.seq) % 65536) else s

theorem sirAgain_of_nil {s : State} {n : Nat} (f : SirRx) (h : (s.sir n).kept = []) : sirAgain s n f = s := by
  rw [sirAgain, h]

theorem sirAgain_of_cons {s : State} {n : Nat} (f : SirRx) {k : SirKept} {r : List SirKept} (h : (s.sir n).kept = k :: r) :
    sirAgain s n f =
      if (f.seq + 65536 - k.seq) % 65536 < (s.sir n).kept.length then sirResend s n ((f.seq + 65536 - k.seq) % 65536) else s := by
  unfold sirAgain
  split
  · next hnil => exact absurd (h.symm.trans hnil) (List.cons_ne_nil k r)
  · next k' _ hk' =>
    obtain ⟨rfl, -⟩ := List.cons.inj (h.symm.trans hk')
    rfl

/-- What a good frame of a link that is UP does, by its TYPE. -/
def sirHears (s : State) (n typ : Nat) (f : SirRx) : State :=
  if typ = 1 then sirData s n f else if typ = 3 then sirAgain (sirAcked s n f) n f else sirAcked s n f

section
variable {s : State} {n typ : Nat} {fr : Bytes} {f : SirRx} (hp : s.phase = .up) (htr : sirTrained s n = true) (htyp : be fr 1 1 = typ)
  (hcrc : sirCrcOk fr = true) (hf : sirParse fr = some f)
include hp htr htyp hcrc hf

theorem sirReceive_of_up (hup : (s.sir n).up = true) (h4 : typ ≠ 4) : sirReceive s n typ fr = sirHears (sirHeard s n) n typ f := by
  have hup' : ((s.bump (pgPort (10 + n)) 0x050 1).sir n).up = true := by
    rw [State.sir, State.bump_net]
    exact hup
  unfold sirReceive
  rw [if_neg (by simp [hp, htr, htyp])]
  dsimp only
  rw [hup', hcrc, hf]
  dsimp only
  rw [if_neg (by simp), if_neg h4, if_neg (by simp)]
  refine if_congr Iff.rfl rfl (if_congr Iff.rfl ?_ rfl)
  split
  · next h => exact (sirAgain_of_nil f h).symm
  · next h => exact (sirAgain_of_cons f h).symm

/-- A good HELLO brings the link UP, or finds it UP. -/
theorem sirReceive_hello (h4 : typ = 4) : sirReceive s n typ fr =
    if (s.sir n).up then (sirCounted s n).setSir n { (sirCounted s n).sir n with
        lastGood := (sirCounted s n).clk.clock, peer := be f.msg 0 2 % 1024 }
      else sirUp (sirCounted s n) n (be f.msg 0 2 % 1024) := by
  have hup : (s.bump (pgPort (10 + n)) 0x050 1).sir n = s.sir n := by rw [State.sir, State.bump_net, State.sir]
  unfold sirReceive
  rw [if_neg (by simp [hp, htr, htyp])]
  dsimp only
  rw [hup, hcrc, hf]
  dsimp only
  rw [if_neg (by simp), if_pos h4]
  rfl

end

theorem sirUp_sir (s : State) (n peer : Nat) : (sirUp s n peer).sir n =
    { SirLink.reset with up := true, peer := peer, lastGood := s.clk.clock, lastProgress := s.clk.clock, lastTx := s.clk.clock } := by
  rw [State.sir, sirUp, State.logEntry_net]
  exact State.setSir_sir_self ..

/-- Nothing waits: ACKSEQ frees what it acknowledges and the credits return (R489, R490). -/
theorem sirAcked_frees {s : State} {n d : Nat} {f : SirRx} {k : SirKept} {r : List SirKept} (hk : (s.sir n).kept = k :: r)
    (hd : d = (f.ackseq + 65536 - k.seq) % 65536) (hle : d ≤ (s.sir n).kept.length) (hw : (s.sir n).waiting = []) :
    ((sirAcked s n f).sir n).kept = (s.sir n).kept.drop d ∧ (sirAcked s n f).out = s.out ∧
      ((sirAcked s n f).sir n).credReq = min 512 ((s.sir n).credReq + f.creq) := by
  unfold sirAcked sirFlush
  extract_lets l done l1 l2 w l3
  have hdone : done = d := by
    unfold done
    rw [hk]
    dsimp only
    rw [← hd, ← hk, if_pos hle]
  have h1 : l1.kept = l.kept.drop d ∧ l1.credReq = l.credReq ∧ l1.waiting = [] := by
    unfold l1
    rw [hdone]
    split
    · next h => exact ⟨by rw [h]; rfl, rfl, hw⟩
    · exact ⟨rfl, rfl, hw⟩
  obtain ⟨hkept, hcred, hwait⟩ := h1
  have h3 : l3 = l2 := State.setSir_sir_self ..
  have hnone : w = [] := (congrArg SirLink.waiting h3).trans hwait
  rw [hnone, sirDrain, State.setSir_sir_self, h3]
  exact ⟨hkept, rfl, congrArg (fun c => min 512 (c + f.creq)) hcred⟩

/-- A NACK frees as an ACK does and sends again from the SEQ it names (R490). -/
theorem sirHears_nack {s : State} {n d : Nat} {f : SirRx} {k k' : SirKept} {r r' : List SirKept} (hk : (s.sir n).kept = k :: r)
    (hd : d = (f.ackseq + 65536 - k.seq) % 65536) (hle : d ≤ (s.sir n).kept.length) (hw : (s.sir n).waiting = [])
    (hk' : (s.sir n).kept.drop d = k' :: r') (hlt : (f.seq + 65536 - k'.seq) % 65536 < (k' :: r').length) :
    ((sirHears s n 3 f).sir n).kept = k' :: r' ∧
      (sirHears s n 3 f).out = s.out ++ ((k' :: r').drop ((f.seq + 65536 - k'.seq) % 65536)).map (fun x => .sirris n x.frame) := by
  obtain ⟨hfreed, hout, -⟩ := sirAcked_frees hk hd hle hw
  rw [hk'] at hfreed
  have hop : sirHears s n 3 f = sirAgain (sirAcked s n f) n f := rfl
  rw [hop, sirAgain_of_cons f hfreed, hfreed, if_pos hlt, sirResend_out, hfreed, hout]
  exact ⟨(sirResend_kept ..).trans hfreed, rfl⟩

/-! ### The TYPEs (R488–R490) -/

section
variable {s : State} {n : Nat} {fr : Bytes} {f : SirRx} (hp : s.phase = .up) (htr : sirTrained s n = true) (hcrc : sirCrcOk fr = true)
  (hf : sirParse fr = some f)
include hp htr hcrc hf

/-- A HELLO: from whom and when, and SEQ 0 and every credit where the link was not UP before. -/
theorem sirReceive_hello_up (htyp : be fr 1 1 = 4) :
    let u := sirReceive s n 4 fr
    (u.sir n).up = true ∧ (u.sir n).peer = be f.msg 0 2 % 1024 ∧ (u.sir n).lastGood = u.clk.clock ∧
      ((s.sir n).up = false → (u.sir n).nextSeq = 0 ∧ (u.sir n).expected = 0 ∧ (u.sir n).credReq = 512 ∧ (u.sir n).credRsp = 512) := by
  dsimp only
  rw [sirReceive_hello hp htr htyp hcrc hf rfl]
  split
  · next hup =>
    rw [State.setSir_sir_self, sirCounted_sir, State.setSir_clk]
    exact ⟨hup, rfl, rfl, fun hdown => absurd (hup.symm.trans hdown) (by decide)⟩
  · rw [sirUp_sir, sirUp, State.logEntry_clk]
    exact ⟨rfl, rfl, rfl, fun _ => ⟨rfl, rfl, rfl, rfl⟩⟩

variable (hup : (s.sir n).up = true)
include hup

/-- A DATA frame with the SEQ expected moves it by one. -/
theorem sirReceive_data (htyp : be fr 1 1 = 1) (hseq : f.seq = (s.sir n).expected) :
    ((sirReceive s n 1 fr).sir n).expected = ((s.sir n).expected + 1) % 65536 := by
  have hexp : ((sirHeard s n).sir n).expected = (s.sir n).expected := by rw [sirHeard_sir]
  rw [sirReceive_of_up hp htr htyp hcrc hf hup (by decide), ← hexp]
  exact sirData_expected (hseq.trans hexp.symm)

/-- Any other is discarded and named in a NACK. -/
theorem sirReceive_data_other (htyp : be fr 1 1 = 1) (hseq : f.seq ≠ (s.sir n).expected) :
    let u := sirReceive s n 1 fr
    (u.sir n).expected = (s.sir n).expected ∧ u.mem = s.mem ∧ u.plans = s.plans ∧
      ((s.sir n).lastNack = none → u.out = s.out ++
        [.sirris n (sirFrame 3 0 (s.sir n).expected (s.sir n).expected (s.sir n).owedReq (s.sir n).owedRsp [])]) := by
  have hexp : ((sirHeard s n).sir n).expected = (s.sir n).expected := by rw [sirHeard_sir]
  have hnack : sirData (sirHeard s n) n f = sirNack (sirHeard s n) n := if_pos (by rwa [hexp])
  have hop : sirReceive s n 1 fr = sirNack (sirHeard s n) n := (sirReceive_of_up hp htr htyp hcrc hf hup (by decide)).trans hnack
  have hF : Frame [.out, .regs, .net] (sirHeard s n) (sirNack (sirHeard s n) n) := sirNack_frame (.refl _ _) (.refl _)
  obtain ⟨hsame, hout⟩ := sirNack_nacks (sirHeard s n) n
  rw [sirHeard_sir, sirHeard_out] at hout
  dsimp only
  rw [hop]
  exact ⟨hsame.trans hexp, (hF.same .mem (by decide)).trans (sirHeard_mem s n), (hF.same .plans (by decide)).trans (sirHeard_plans s n), hout⟩

variable {k : SirKept} {r : List SirKept} {d : Nat} (hk : (s.sir n).kept = k :: r) (hd : d = (f.ackseq + 65536 - k.seq) % 65536)
  (hle : d ≤ (s.sir n).kept.length) (hw : (s.sir n).waiting = [])
include hk hd hle hw

/-- An ACK frees what it acknowledges. -/
theorem sirReceive_ack (htyp : be fr 1 1 = 2) :
    let u := sirReceive s n 2 fr
    (u.sir n).kept = (s.sir n).kept.drop d ∧ u.out = s.out ∧ (u.sir n).credReq = min 512 ((s.sir n).credReq + f.creq) := by
  have hop := sirReceive_of_up hp htr htyp hcrc hf hup (by decide)
  rw [sirHears, if_neg (by decide), if_neg (by decide)] at hop
  have hfrees := sirAcked_frees (s := sirHeard s n) (n := n) (f := f) (k := k) (r := r) (d := d)
  rw [sirHeard_sir, sirHeard_out] at hfrees
  rw [hop]
  exact hfrees hk hd hle hw

/-- A NACK frees as an ACK does and sends again from the SEQ it names. -/
theorem sirReceive_nack {k' : SirKept} {r' : List SirKept} (htyp : be fr 1 1 = 3) (hk' : (s.sir n).kept.drop d = k' :: r')
    (hlt : (f.seq + 65536 - k'.seq) % 65536 < (k' :: r').length) :
    let u := sirReceive s n 3 fr
    (u.sir n).kept = k' :: r' ∧
      u.out = s.out ++ ((k' :: r').drop ((f.seq + 65536 - k'.seq) % 65536)).map (fun x => .sirris n x.frame) := by
  have hop : sirReceive s n 3 fr = sirHears (sirHeard s n) n 3 f := sirReceive_of_up hp htr htyp hcrc hf hup (by decide)
  have hagain := sirHears_nack (s := sirHeard s n) (n := n) (f := f) (k := k) (r := r) (d := d) (k' := k') (r' := r')
  rw [sirHeard_sir, sirHeard_out] at hagain
  rw [hop]
  exact hagain hk hd hle hw hk' hlt

end

/-! ### Timeouts (R490) -/

section
variable {s : State} {n : Nat} (hup : (s.sir n).up = true) (hkept : (s.sir n).kept ≠ []) (hlate : (s.sir n).lastProgress + 20000 ≤ s.clk.clock)
include hup hkept hlate

theorem retryTimeoutOp_again (hr : (s.sir n).rounds < 32) :
    ((retryTimeoutOp s n).sir n).rounds = (s.sir n).rounds + 1 ∧
      (retryTimeoutOp s n).out = s.out ++ (s.sir n).kept.map (fun x => .sirris n x.frame) := by
  unfold retryTimeoutOp
  extract_lets l
  rw [if_neg (by simp [l, hup, hkept, hlate]), if_neg (not_le.2 hr)]
  rw [sirResend_rounds, sirResend_out, State.setSir_sir_self, State.setSir_out, List.drop_zero]
  exact ⟨rfl, rfl⟩

theorem retryTimeoutOp_down (hr : 32 ≤ (s.sir n).rounds) : retryTimeoutOp s n = sirDown s n := by
  unfold retryTimeoutOp
  extract_lets l
  rw [if_neg (by simp [l, hup, hkept, hlate]), if_pos hr]

end

/-! ### O59 -/

/-- Settles O59: a good frame counts and is then its TYPE's operation; each timeout is one operation of the link. -/
theorem sirrisLinksKeepOrder : Obligations.SirrisLinksKeepOrder := by
  intro t n s
  refine ⟨fun hp htr hdown => ?_, fun fr f hp htr htyp hcrc hf => ?_, fun hup hlate => ?_,
    fun fr f hp htr hup htyp hcrc hf => ⟨fun hseq => ?_, fun hseq => ?_⟩,
    fun fr f k r d hp htr hup hcrc hf hk hd hle hw => ⟨fun htyp => ?_, fun k' r' htyp hk' hlt => ?_⟩,
    fun hup hkept hlate => ⟨fun hr => ?_, fun hr => ?_⟩, fun hup hidle => ?_⟩
  · exact ⟨_, congrArg Host.Outcome.next (if_pos ⟨hp, htr, hdown⟩), sirTx_out ..⟩
  · exact ⟨_, rfl, sirReceive_hello_up (s := atTime t s) hp htr hcrc hf htyp⟩
  · exact ⟨_, congrArg Host.Outcome.next (if_pos ⟨hup, hlate⟩), sirDown_down (atTime t s) n.val⟩
  · exact ⟨_, rfl, sirReceive_data (s := atTime t s) hp htr hcrc hf hup htyp hseq⟩
  · exact ⟨_, rfl, sirReceive_data_other (s := atTime t s) hp htr hcrc hf hup htyp hseq⟩
  · exact ⟨_, rfl, sirReceive_ack (s := atTime t s) hp htr hcrc hf hup hk hd hle hw htyp⟩
  · exact ⟨_, rfl, sirReceive_nack (s := atTime t s) hp htr hcrc hf hup hk hd hle hw htyp hk' hlt⟩
  · exact ⟨_, rfl, retryTimeoutOp_again (s := atTime t s) hup hkept hlate hr⟩
  · obtain ⟨hdown, hlost, -⟩ := sirDown_down (atTime t s) n.val
    exact ⟨_, congrArg Host.Outcome.next (retryTimeoutOp_down (s := atTime t s) hup hkept hlate hr), hdown, hlost⟩
  · have hop : ackIdleOp (atTime t s) n.val = sirControl (atTime t s) n.val 2 0 [] := if_pos ⟨hup, hidle⟩
    refine ⟨_, congrArg Host.Outcome.next hop, ?_, ?_, sirControl_out ..⟩ <;> rw [sirControl_sir]

end Sys2Proof.Machine
end

section
/-! What a CORE item stores (R37, R38, R75, R77, R79, R81): the computation of one INT8 tile, over whatever memory its partition has. -/

namespace Sys2Proof.Machine

/-! ### Computations that only read, and computations that store -/

/-- From any trace without stores a computation answers a and leaves no store, nor another row. -/
def Reads {α : Type} (c : Comp α) (a : α) : Prop :=
  ∀ o : Trace, o.writes = [] → ∃ o', c.run.run o = (.ok a, o') ∧ o'.writes = [] ∧ o'.row = o.row ∧ o'.hawk = o.hawk

theorem Reads.pure {α : Type} (a : α) : Reads (Pure.pure a : Comp α) a := fun o ho => ⟨o, rfl, ho, rfl, rfl⟩

theorem Reads.bind {α β : Type} {c : Comp α} {f : α → Comp β} {a : α} {b : β} (hc : Reads c a) (hf : Reads (f a) b) : Reads (c >>= f) b := by
  intro o ho
  obtain ⟨o₁, h₁, hw₁, hr₁, hh₁⟩ := hc o ho
  obtain ⟨o₂, h₂, hw₂, hr₂, hh₂⟩ := hf o₁ hw₁
  exact ⟨o₂, (bind_run_of_ok h₁ f).trans h₂, hw₂, hr₂.trans hr₁, hh₂.trans hh₁⟩

theorem Reads.bind_pure {α β : Type} {c : Comp α} {a : α} (hc : Reads c a) (f : α → β) : Reads (c >>= fun x => Pure.pure (f x)) (f a) :=
  hc.bind (.pure _)

theorem Reads.mapM {α β : Type} {f : α → Comp β} {g : α → β} {l : List α} (hf : ∀ x ∈ l, Reads (f x) (g x)) : Reads (l.mapM f) (l.map g) := by
  induction l with
  | nil => exact .pure []
  | cons x l ih =>
    rw [List.mapM_cons]
    exact (hf x List.mem_cons_self).bind ((ih fun y hy => hf y (List.mem_cons_of_mem x hy)).bind_pure (g x :: ·))

theorem passOn_reads : Reads passOn () := fun _ ho => ⟨_, rfl, ho, rfl, rfl⟩

theorem Trace.touch_writes (o : Trace) (va : Nat) : (o.touch va).writes = o.writes := by unfold Trace.touch; split <;> rfl
theorem Trace.touch_row (o : Trace) (va : Nat) : (o.touch va).row = o.row := by unfold Trace.touch; split <;> rfl
theorem Trace.touch_hawk (o : Trace) (va : Nat) : (o.touch va).hawk = o.hawk := by unfold Trace.touch; split <;> rfl

/-- c answers and makes the stores ws of the array, from row r on; the row that comes next is r'. -/
def Stores {α : Type} (c : Comp α) (r r' : Nat) (ws : List Put) : Prop :=
  ∀ o : Trace, o.row = r → o.hawk = false →
    ∃ a o', c.run.run o = (.ok a, o') ∧ o'.writes = ws.reverse ++ o.writes ∧ o'.row = r' ∧ o'.hawk = false

theorem Stores.pure {α : Type} (a : α) (r : Nat) : Stores (Pure.pure a : Comp α) r r [] := fun o ho hh => ⟨a, o, rfl, rfl, ho, hh⟩

theorem Stores.bind {α β : Type} {c : Comp α} {f : α → Comp β} {r r' r'' : Nat} {ws ws' : List Put} (hc : Stores c r r' ws)
    (hf : ∀ a, Stores (f a) r' r'' ws') : Stores (c >>= f) r r'' (ws ++ ws') := by
  intro o ho hh
  obtain ⟨a, o₁, h₁, hw₁, hr₁, hh₁⟩ := hc o ho hh
  obtain ⟨b, o₂, h₂, hw₂, hr₂, hh₂⟩ := hf a o₁ hr₁ hh₁
  exact ⟨b, o₂, (bind_run_of_ok h₁ f).trans h₂, by rw [hw₂, hw₁, List.reverse_append, List.append_assoc], hr₂, hh₂⟩

theorem Stores.bind_pure {α β : Type} {c : Comp α} {r r' : Nat} {ws : List Put} (hc : Stores c r r' ws) (f : α → β) :
    Stores (c >>= fun a => Pure.pure (f a)) r r' ws := by
  simpa using hc.bind (fun a => Stores.pure (f a) r')

theorem endRow_stores (r : Nat) : Stores endRow r (r + 1) [] := fun _ ho hh => ⟨(), _, rfl, rfl, congrArg (· + 1) ho, hh⟩
theorem endPass_stores (r : Nat) : Stores endPass r r [] := fun _ ho hh => ⟨(), _, rfl, rfl, ho, hh⟩

/-- From a trace without stores, at row 0 of the array, a computation leaves the stores ws. -/
def Leaves {α : Type} (c : Comp α) (ws : List Put) : Prop :=
  ∀ o : Trace, o.writes = [] → o.row = 0 → o.hawk = false → (c.run.run o).2.writes = ws.reverse

theorem Stores.leaves {α : Type} {c : Comp α} {r' : Nat} {ws : List Put} (h : Stores c 0 r' ws) : Leaves c ws := by
  intro o ho hr hh
  obtain ⟨b, o', hrun, hw, -, -⟩ := h o hr hh
  rw [hrun, hw, ho, List.append_nil]

/-- What a computation reads before it stores does not show in its stores. -/
theorem Reads.leaves_bind {α β : Type} {c : Comp α} {a : α} {f : α → Comp β} {ws : List Put} (hc : Reads c a) (hf : Leaves (f a) ws) :
    Leaves (c >>= f) ws := by
  intro o ho hr hh
  obtain ⟨o', hrun, hw, hr', hh'⟩ := hc o ho
  rw [bind_run_of_ok hrun]
  exact hf o' hw (hr'.trans hr) (hh'.trans hh)

theorem Leaves.bind_pure {α β : Type} {c : Comp α} {ws : List Put} (h : Leaves c ws) (f : α → β) : Leaves (c >>= fun a => Pure.pure (f a)) ws := by
  intro o ho hr hh
  rw [← h o ho hr hh, ExceptT.run_bind, StateT.run_bind]
  rcases c.run.run o with ⟨_ | _, o'⟩ <;> rfl

theorem Leaves.runComp_writes {α : Type} {c : Comp α} {ws : List Put} (h : Leaves c ws) : (runComp c).2.writes = ws := by
  have hw := h ⟨[], [], 0, false, 0, 0⟩ rfl rfl rfl
  unfold runComp
  exact (congrArg List.reverse hw).trans (List.reverse_reverse ws)

/-! ### Bytes, numbers, planes and vectors in memory -/

section
variable {P : Port} {m : Nat → Byte}

theorem rd8_reads {va : Nat} {b : Byte} (h : P.rd va = .ok b) : Reads (rd8 P va) b := by
  intro o ho
  refine ⟨_, rd8_run_of_not_stored h ?_ ?_, ?_, Trace.touch_row .., Trace.touch_hawk ..⟩
  · rw [ho]; rfl
  · rw [ho]; rfl
  · rw [Trace.touch_writes, ho]

theorem rdLE_one_reads {va : Nat} {b : Byte} (h : P.rd va = .ok b) : Reads (rdLE P va 1) b.toNat :=
  (Reads.mapM (f := fun i => rd8 P (va + i)) (g := fun _ => b) (l := upto 1) fun i hi => rd8_reads (by
    rw [List.mem_singleton.1 hi]; exact h)).bind_pure leNat

theorem loadPlane_reads {p : Pass} (h : ∀ k < p.rows, ∀ c < 128, P.rd (p.wAddr + k * 128 + c) = .ok (m (p.wAddr + k * 128 + c))) (old : Plane) :
    Reads (loadPlane P .int8 p old)
      ⟨(upto p.rows).map (fun k => (upto 128).map (fun c => (m (p.wAddr + k * 128 + c)).toNat)) ++ old.rows.drop p.rows, old.scales⟩ := by
  unfold loadPlane
  refine (Reads.mapM fun k hk => Reads.mapM fun c hc => ?_).bind (Reads.pure _)
  have hbyte := rdLE_one_reads (h k (List.mem_range.1 hk) c (List.mem_range.1 hc))
  simpa [Pair.rowBytes] using hbyte

theorem rdVector_int8_reads {rows va : Nat} (h : ∀ k < rows, P.rd (va + k) = .ok (m (va + k))) :
    Reads (rdVector P .int8 2 rows va) ((upto rows).map (fun k => (m (va + k)).toNat)) := by
  unfold rdVector rdElems
  rw [show rows * Pair.perRow .int8 = rows from Nat.mul_one rows]
  refine Reads.mapM fun k hk => ?_
  simpa [rdElem, fmtOf, Fmt.bits] using rdLE_one_reads (h k (List.mem_range.1 hk))

end

/-! ### The rows of a drain (R75) -/

section
variable {P : Port}

theorem wr8_stores {va : Nat} (h : P.wr va = .ok ()) (b : Byte) (r : Nat) : Stores (wr8 P va b) r r [⟨va, b, 0, r, false⟩] := by
  intro o ho hh
  refine ⟨(), _, put8_run_of_writable h b 0 o, ?_, ?_, ?_⟩
  · simp [ho, hh]
  · exact (Trace.touch_row ..).trans ho
  · exact (Trace.touch_hawk ..).trans hh

/-- The stores of a word at an address. -/
def wordPuts (va v r : Nat) : List Put := (List.range 4).map (fun i => ⟨va + i, (toLE 4 v).getD i 0, 0, r, false⟩)

theorem wrLE_four_stores {va : Nat} (h : ∀ i < 4, P.wr (va + i) = .ok ()) (v r : Nat) : Stores (wrLE P va 4 v) r r (wordPuts va v r) :=
  (wr8_stores (h 0 (by decide)) _ r).bind fun _ => (wr8_stores (h 1 (by decide)) _ r).bind fun _ => (wr8_stores (h 2 (by decide)) _ r).bind fun _ =>
    (wr8_stores (h 3 (by decide)) _ r).bind fun _ => .pure () r

/-- The words of one row lie one behind the other. -/
theorem wrElems_int32_stores {va : Nat} (l : List Nat) (k r : Nat) (h : ∀ c < l.length, ∀ i < 4, P.wr (va + (k + c) * 4 + i) = .ok ()) :
    Stores (wrElems P .int32 va k l) r r ((l.zipIdx k).flatMap (fun w => wordPuts (va + w.2 * 4) w.1 r)) := by
  induction l generalizing k with
  | nil => exact .pure () r
  | cons v l ih =>
    refine (wrLE_four_stores (h 0 (Nat.succ_pos _)) v r).bind fun _ => ih (k + 1) fun c hc i hi => ?_
    rw [show k + 1 + c = k + (c + 1) by omega]
    exact h (c + 1) (Nat.succ_lt_succ hc) i hi

/-- Row i of a drained bank is row i of what the item stores. -/
theorem drainRows_stores {va : Nat → Nat} (rows : List (List Word)) (cols k : Nat) (hcols : ∀ row ∈ rows, row.length = cols)
    (h : ∀ n < rows.length, ∀ c < cols, ∀ i < 4, P.wr (va (k + n) + c * 4 + i) = .ok ()) :
    Stores ((rows.zipIdx k).mapM (fun x => do wrElems P .int32 (va x.2) 0 (x.1.map BitVec.toNat); endRow)) k (k + rows.length)
      ((rows.zipIdx k).flatMap (fun x => (x.1.map BitVec.toNat).zipIdx.flatMap (fun w => wordPuts (va x.2 + w.2 * 4) w.1 x.2))) := by
  induction rows generalizing k with
  | nil => exact .pure [] k
  | cons row rows ih =>
    have hrow : ∀ c < (row.map BitVec.toNat).length, ∀ i < 4, P.wr (va k + (0 + c) * 4 + i) = .ok () := by
      intro c hc i hi
      rw [List.length_map, hcols row List.mem_cons_self] at hc
      simpa using h 0 (Nat.succ_pos _) c hc i hi
    have hrest : ∀ n < rows.length, ∀ c < cols, ∀ i < 4, P.wr (va (k + 1 + n) + c * 4 + i) = .ok () := by
      intro n hn
      rw [show k + 1 + n = k + (n + 1) by omega]
      exact h (n + 1) (Nat.succ_lt_succ hn)
    rw [List.zipIdx_cons, List.mapM_cons, List.flatMap_cons, List.length_cons, show k + (rows.length + 1) = k + 1 + rows.length by omega]
    refine Stores.bind (r' := k + 1) ?_ fun _ => (ih (k + 1) (fun y hy => hcols y (List.mem_cons_of_mem _ hy)) hrest).bind_pure _
    simpa using (wrElems_int32_stores _ 0 k hrow).bind fun _ => endRow_stores k

end

/-! ### The column sums of an INT8 vector (R77) -/

theorem zipIdx_map_range {α : Type} (f : Nat → α) (n : Nat) : ((List.range n).map f).zipIdx = (List.range n).map (fun c => (f c, c)) := by
  apply List.ext_getElem <;> simp

/-- The products of a vector's elements and the weights of column c. -/
def int8Products (a : List Nat) (rows : List (List Nat)) (c : Nat) : List Int := (a.zip rows).map (fun x => sext 8 x.1 * sext 8 (x.2.getD c 0))

theorem intRowStep_int8 (cols a : Nat) (row : List Nat) (p : Nat → Int) :
    intRowStep (fun _ => true) [sext 8 a] [row.map (sext 8)] ((List.range cols).map p)
      = (List.range cols).map (fun c => p c + sext 8 a * sext 8 (row.getD c 0)) := by
  have hget (c : Nat) : (row[c]?.map (sext 8)).getD 0 = sext 8 (row[c]?.getD 0) := by cases row[c]? <;> rfl
  rw [intRowStep, zipIdx_map_range, List.map_map]
  exact List.map_congr_left fun c _ => by simp [hget]

theorem intRowStep_nil (cols : Nat) (ws : List (List Int)) (p : Nat → Int) :
    intRowStep (fun _ => true) [] ws ((List.range cols).map p) = (List.range cols).map p := by
  rw [intRowStep, zipIdx_map_range, List.map_map]
  exact List.map_congr_left fun c _ => by simp

/-- Row after row, the partial sum of each column grows by the row's product (R77). -/
theorem intSums_int8 (cols : Nat) (rows : List (List Nat)) (a : List Nat) (k : Nat) (p : Nat → Int) :
    intSums 1 8 (fun _ _ => true) cols k a rows ((List.range cols).map p)
      = (List.range cols).map (fun c => p c + (int8Products a rows c).sum) := by
  induction rows generalizing a k p with
  | nil => simp [intSums, int8Products]
  | cons row rows ih =>
    cases a with
    | nil =>
      have hrest := ih [] (k + 1) p
      simpa [intSums, intRowStep_nil, int8Products] using hrest
    | cons x a =>
      have hrest := ih a (k + 1) (fun c => p c + sext 8 x * sext 8 (row.getD c 0))
      rw [← intRowStep_int8] at hrest
      simp only [intSums, List.take_succ_cons, List.take_zero, List.map_cons, List.map_nil, List.drop_succ_cons, List.drop_zero]
      simpa [int8Products, add_assoc] using hrest

/-- The vector at va and the weight rows at wa, in memory, give column c the sum that R77 names. -/
theorem int8Products_memory (m : Nat → Byte) (va wa rows : Nat) {c : Nat} (hc : c < 128) :
    (int8Products ((upto rows).map (fun k => (m (va + k)).toNat)) ((upto rows).map (fun k => (upto 128).map (fun c => (m (wa + k * 128 + c)).toNat))) c).sum
      = dotInt8 m va wa rows c := by
  unfold int8Products dotInt8 upto
  rw [List.zip_map', List.map_map]
  exact congrArg _ (List.map_congr_left fun k _ => by simp [List.getD, hc])

/-! ### An INT8 tile of one pass (R75, R77, R79, R81) -/

/-- A descriptor of one INT8 pass that opens and closes its tile and drains it as INT32, over a port that serves what it reads, with the bytes of m, and
where it stores. -/
structure Int8Tile (P : Port) (m : Nat → Byte) (d : ArrayDesc) : Prop where
  aFmt : d.aFmt = 2
  wFmt : d.wFmt = 2
  first : d.first = true
  last : d.last = true
  wmode : d.wmode = 1
  outPath : d.outPath = 1
  cols : d.cols ≤ 128
  vectors : ∀ n < d.vectors, ∀ k < d.rows, P.rd (d.aAddr + n * d.aStride + k) = .ok (m (d.aAddr + n * d.aStride + k))
  weights : ∀ k < d.rows, ∀ c < 128, P.rd (d.wAddr + k * 128 + c) = .ok (m (d.wAddr + k * 128 + c))
  outputs : ∀ n < d.vectors, ∀ c < d.cols, ∀ i < 4, P.wr (d.oAddr + n * d.oStride + c * 4 + i) = .ok ()

/-- The words of output row n: its sums, each saturated (R38). -/
def int8Row (m : Nat → Byte) (d : ArrayDesc) (n : Nat) : List Word :=
  (List.range d.cols).map (fun c => BitVec.ofInt 32 (satInt32 (dotInt8 m (d.aAddr + n * d.aStride) d.wAddr d.rows c)))

/-- The stores of the tile: vector after vector, column after column, byte after byte. -/
def int8Puts (m : Nat → Byte) (d : ArrayDesc) : List Put :=
  (List.range d.vectors).flatMap (fun n => (List.range d.cols).flatMap (fun c => (List.range 4).map (fun i => ⟨d.oAddr + n * d.oStride + c * 4 + i,
    (toLE 4 (BitVec.ofInt 32 (satInt32 (dotInt8 m (d.aAddr + n * d.aStride) d.wAddr d.rows c))).toNat).getD i 0, 0, n, false⟩)))

theorem int8Puts_eq (m : Nat → Byte) (d : ArrayDesc) :
    int8Puts m d = ((upto d.vectors).map (int8Row m d)).zipIdx.flatMap (fun x => (x.1.map BitVec.toNat).zipIdx.flatMap (fun w =>
      wordPuts (d.oAddr + x.2 * d.oStride + w.2 * 4) w.1 x.2)) := by
  simp only [int8Puts, upto, int8Row, wordPuts, zipIdx_map_range, List.map_map, List.flatMap_map, Function.comp_def]

/-- The first pass of a tile adds nothing to its sums but the saturation (R38, R77). -/
theorem bottomAdd_int8 {m : Nat → Byte} {d : ArrayDesc} (hcols : d.cols ≤ 128) (P : Port) (n : Nat) {pl : Plane} {tail : List (List Nat)}
    (hpl : pl.rows = (upto d.rows).map (fun k => (upto 128).map (fun c => (m (d.wAddr + k * 128 + c)).toNat)) ++ tail) :
    bottomAdd .int8 none (columnSums .int8 (passOfDesc P d) pl ((upto d.rows).map (fun k => (m (d.aAddr + n * d.aStride + k)).toNat)))
      = int8Row m d n := by
  have htake : pl.rows.take d.rows = (upto d.rows).map (fun k => (upto 128).map (fun c => (m (d.wAddr + k * 128 + c)).toNat)) := by
    rw [hpl]
    exact List.take_left' (by simp [upto])
  have hzero : List.replicate d.cols (0 : Int) = (List.range d.cols).map (fun _ => 0) := by simp
  have hword : List.replicate d.cols (0 : Word) = (List.range d.cols).map (fun _ => 0) := by simp
  simp only [columnSums, passOfDesc, htake, hzero, intSums_int8]
  unfold bottomAdd int8Row
  simp only [Pair.isInt, if_true, Option.getD_none, List.length_map, List.length_range]
  rw [hword, List.zip_map', List.map_map]
  refine List.map_congr_left fun c hc => ?_
  simp [int8Products_memory m _ _ _ (lt_of_lt_of_le (List.mem_range.1 hc) hcols)]

theorem runPasses_singleton (P : Port) (st : ArraySt × List DrainedEntry) (p : Pass) : runPasses P st [p] = runPass P st p :=
  bind_pure (runPass P st p)

section
variable {P : Port} {m : Nat → Byte} {d : ArrayDesc} (h : Int8Tile P m d)
include h

/-- Once the plane holds the weight rows, the vectors' sums are the rows of the drain. -/
theorem Int8Tile.drain_leaves {β : Type} {pl : Plane} {tail : List (List Nat)}
    (hpl : pl.rows = (upto d.rows).map (fun k => (upto 128).map (fun c => (m (d.wAddr + k * 128 + c)).toNat)) ++ tail)
    (drn : List DrainedEntry) (g : List (List Word) → List DrainedEntry → β) :
    Leaves ((upto d.vectors).mapM (fun n => do
        let v ← (passOfDesc P d).vec n
        passOn
        return bottomAdd .int8 none (columnSums .int8 (passOfDesc P d) pl v)) >>= fun rows => do
      let drn ← drain P .int8 (passOfDesc P d) rows drn
      endPass
      return g rows drn) (int8Puts m d) := by
  have hsums : Reads ((upto d.vectors).mapM (fun n => do
      let v ← (passOfDesc P d).vec n
      passOn
      return bottomAdd .int8 none (columnSums .int8 (passOfDesc P d) pl v))) ((upto d.vectors).map (int8Row m d)) := by
    refine Reads.mapM fun n hn => ?_
    have hvec : (passOfDesc P d).vec n = rdVector P .int8 2 d.rows (d.aAddr + n * d.aStride) := by simp [passOfDesc, h.aFmt, h.wFmt, pairOf]
    rw [← bottomAdd_int8 h.cols P n hpl, hvec]
    exact Reads.bind (rdVector_int8_reads (h.vectors n (List.mem_range.1 hn))) (passOn_reads.bind (.pure _))
  have hlen : ((upto d.vectors).map (int8Row m d)).length = d.vectors := by simp [upto]
  have hdrain := drainRows_stores (va := fun i => d.oAddr + i * d.oStride) ((upto d.vectors).map (int8Row m d)) d.cols 0
    (fun row hrow => by obtain ⟨n, -, rfl⟩ := List.mem_map.1 hrow; simp [int8Row])
    (fun n hn => by rw [Nat.zero_add]; exact h.outputs n (hlen ▸ hn))
  have hpath : drain P .int8 (passOfDesc P d) ((upto d.vectors).map (int8Row m d)) drn = do
      let _ ← ((upto d.vectors).map (int8Row m d)).zipIdx.mapM (fun x => do
        wrElems P .int32 (d.oAddr + x.2 * d.oStride) 0 (x.1.map BitVec.toNat); endRow)
      return drn := by simp only [drain, passOfDesc, h.outPath]
  refine hsums.leaves_bind (Stores.leaves (r' := 0 + ((upto d.vectors).map (int8Row m d)).length) ?_)
  rw [hpath, int8Puts_eq, ← List.append_nil (List.flatMap _ _)]
  exact (hdrain.bind_pure _).bind fun _ => (endPass_stores _).bind_pure _

/-- The tile stores its saturated sums, whatever the array held before, provided that its bank is free (R74). -/
theorem Int8Tile.runPasses_leaves {a : ArraySt} (hfill : (if d.bank then a.fill1 else a.fill0) = false) (drn : List DrainedEntry) :
    Leaves (runPasses P (a, drn) [passOfDesc P d]) (int8Puts m d) := by
  obtain ⟨p0, p1, active, b0, b1, f0, f1⟩ := a
  have hpair : (pairOf (passOfDesc P d).aFmt (passOfDesc P d).wFmt).getD .int8 = .int8 := by simp [passOfDesc, h.aFmt, h.wFmt, pairOf]
  have hwmode : (passOfDesc P d).wmode = 1 := h.wmode
  have hfirst : (passOfDesc P d).first = true := h.first
  have hlast : (passOfDesc P d).last = true := h.last
  have hfree : (true == if (passOfDesc P d).bank then f1 else f0) = false := by rw [show (passOfDesc P d).bank = d.bank from rfl, hfill]; rfl
  rw [runPasses_singleton]
  unfold runPass
  simp only [hpair, hwmode, hfirst, hlast, if_true, one_ne_zero, if_false, pure_bind]
  refine Reads.leaves_bind (loadPlane_reads (p := passOfDesc P d) h.weights _) (passOn_reads.leaves_bind ?_)
  cases active
  · simp only [Bool.false_eq_true, if_false, if_true, Bool.not_false, hfree]
    exact h.drain_leaves rfl drn _
  · simp only [Bool.false_eq_true, if_false, if_true, Bool.not_true, hfree]
    exact h.drain_leaves rfl drn _

end

/-- The clause of O39 on one descriptor's stores (R37, R38, R75, R77, R79, R81). -/
theorem runPasses_int8_writes {P : Port} {m : Nat → Byte} {d : ArrayDesc} {a : ArraySt} (drn : List DrainedEntry) (hrd : ∀ va, P.rd va = .ok (m va))
    (hwr : ∀ va, P.wr va = .ok ()) (ha : d.aFmt = 2) (hw : d.wFmt = 2) (hfirst : d.first = true) (hlast : d.last = true) (hmode : d.wmode = 1)
    (hout : d.outPath = 1) (hcols : d.cols ≤ 128) (hfill : (if d.bank then a.fill1 else a.fill0) = false) :
    (runComp (runPasses P (a, drn) [passOfDesc P d])).2.writes = (List.range d.vectors).flatMap (fun n => (List.range d.cols).flatMap (fun c =>
      (List.range 4).map (fun i => ⟨d.oAddr + n * d.oStride + c * 4 + i,
        (toLE 4 (BitVec.ofInt 32 (satInt32 (dotInt8 m (d.aAddr + n * d.aStride) d.wAddr d.rows c))).toNat).getD i 0, 0, n, false⟩))) :=
  ((⟨ha, hw, hfirst, hlast, hmode, hout, hcols, fun _ _ _ _ => hrd _, fun _ _ _ _ => hrd _, fun _ _ _ _ _ _ => hwr _⟩ :
    Int8Tile P m d).runPasses_leaves hfill drn).runComp_writes

/-- An item of one such descriptor and no hawk program stores what the tile stores. -/
theorem Int8Tile.runCore_writes {P : Port} {m : Nat → Byte} {d : ArrayDesc} (h : Int8Tile P m d) {b : Bytes} (hb : parseArrayDesc b = d) {ty : Nat}
    (hty : ty ≠ 2) (a : ArraySt) (k : HawkSt) : (runComp (runCore P a k [(ty, b)] 0)).2.writes = int8Puts m d := by
  apply Leaves.runComp_writes
  unfold runCore
  simp only [runDescs, hty, if_false, if_true, bind_pure, hb]
  exact (h.runPasses_leaves (ite_self _) []).bind_pure _

end Sys2Proof.Machine
end

section
/-! WORK_ITEM_START (R22, R308, R477): what a core's start leaves, and why O39 is not settled. -/

namespace Sys2Proof.Machine

/-! ### The memory of a partition -/

/-- s came from a with the page tables, the memory and the modes of the pairs as they were. -/
structure SamePages (a s : State) : Prop where
  part : ∀ p, s.part p = a.part p
  instar : ∀ i, s.instarAt i = a.instarAt i
  mem : s.mem = a.mem
  mode : ∀ i, (s.pair i).safe = (a.pair i).safe

theorem SamePages.trans {a s u : State} (h : SamePages a s) (k : SamePages s u) : SamePages a u :=
  ⟨fun p => (k.part p).trans (h.part p), fun i => (k.instar i).trans (h.instar i), k.mem.trans h.mem, fun i => (k.mode i).trans (h.mode i)⟩

theorem setQueue_samePages (s : State) (q : Nat) (l : List QItem) : SamePages s (s.setQueue q l) := ⟨fun _ => rfl, fun _ => rfl, rfl, fun _ => rfl⟩

theorem SamePages.resolve {a s : State} (h : SamePages a s) (p va : Nat) : resolve s p va = resolve a p va := by
  simp only [Machine.resolve, windowPage, h.part, h.instar]

theorem SamePages.access {a s : State} (h : SamePages a s) (p va : Nat) (w : Bool) : access s p va w = access a p va w := by
  have hpte (key : Nat) : s.pte p key = a.pte p key := by rw [State.pte, h.part, State.pte]
  simp only [Machine.access, h.resolve, hpte]

theorem SamePages.pageByte {a s : State} (h : SamePages a s) (hf : s.fresh = a.fresh) (e : Pte) (va : Nat) : pageByte s e va = pageByte a e va := by
  simp only [Machine.pageByte, frameBases, State.rd, h.mem, h.mode, hf]

theorem SamePages.portOf {a s : State} (h : SamePages a s) (hf : s.fresh = a.fresh) (p : Nat) : portOf s p = portOf a p := by
  simp only [Machine.portOf, h.access, h.pageByte hf]

theorem SamePages.partBytes {a s : State} (h : SamePages a s) (hf : s.fresh = a.fresh) (p va n : Nat) : partBytes s p va n = partBytes a p va n := by
  simp only [Machine.partBytes, partByte, h.access, h.pageByte hf]

theorem SamePages.readDescs {a s : State} (h : SamePages a s) (hf : s.fresh = a.fresh) (p n va : Nat) : readDescs s p n va = readDescs a p n va := by
  induction n generalizing va with
  | zero => rfl
  | succ n ih => simp only [Machine.readDescs, h.partBytes hf, ih]

/-! ### A unit that starts an item (R22, R24, R477) -/

/-- A core's unit once its filler has ended and it has woken, at the beginning of its item. -/
def unitBegun (s : State) (q : Nat) : State := modUnit (wakeUnit (endFiller (account s q) q) q) q (fun c => { c with pos := 0 })

theorem unitBegun_frame (s : State) (q : Nat) : Frame [.fresh, .regs, .units] s (unitBegun s q) :=
  modUnit_frame (wakeUnit_frame (endFiller_frame (account_frame (.refl _ s) (.refl _)) (.refl _)) (.refl _)) (by decide)

theorem unitBegun_samePages (s : State) (q : Nat) : SamePages s (unitBegun s q) := by
  have hF := unitBegun_frame s q
  refine ⟨fun p => ?_, fun i => ?_, hF.same .mem (by decide), fun i => ?_⟩
  · rw [State.part, hF.same .plans (by decide), State.part]
  · rw [State.instarAt, hF.same .plans (by decide), State.instarAt]
  · exact ((modUnit_retunes ..).mode i).trans (((wakeUnit_retunes ..).mode i).trans (((endFiller_latchesHold _ q).mode i).trans ((account_retunes s q).mode i)))

theorem unitBegun_unitRun (s : State) (q : Nat) : unitRun (unitBegun s q) q = true := modUnit_unitRun (fun _ => rfl) (wakeUnit_unitRun ..)

/-- Neither an item nor a test is on a unit. -/
structure UnitQuiet (s : State) (u : Nat) : Prop where
  run : s.run (qCore u) = none
  testing : ∀ n ∈ unitCores s u, (s.core n).testing = false
  coverage : ∀ n ∈ unitCores s u, n ∉ s.boot.coverage

theorem UnitQuiet.not_testing {s : State} {u : Nat} (h : UnitQuiet s u) : unitTesting s u = false := by
  unfold unitTesting
  rw [List.any_eq_false]
  intro n hn
  simp [h.testing n hn, h.coverage n hn]

theorem UnitQuiet.of_unit {W : List Field} {a s : State} {u : Nat} (h : UnitQuiet a u) (hF : Frame W a s) (hp : .plans ∉ W) (hb : .boot ∉ W)
    (ht : TestsStay a s) (hr : Retunes a s) : UnitQuiet s u := by
  have hcores : unitCores s u = unitCores a u := unitCores_congr hr.mode u
  refine ⟨?_, fun n hn => ?_, fun n hn => ?_⟩
  · rw [State.run, hF.same .plans hp]; exact h.run
  · rw [ht.testing]; exact h.testing n (hcores ▸ hn)
  · rw [hF.same .boot hb]; exact h.coverage n (hcores ▸ hn)

theorem unitQuiet_of_free {s : State} {q : Nat} (hq : q < 40) (h : unitFree s q = true) : UnitQuiet s q := by
  unfold unitFree at h
  rw [if_pos hq] at h
  simp only [Bool.and_eq_true, Bool.not_eq_true', Option.isNone_iff_eq_none, List.any_eq_false] at h
  obtain ⟨hrun, hfenced, htest⟩ := h
  refine ⟨hrun, fun n hn => by simpa using htest n hn, fun n hn hc => ?_⟩
  have hcov : (s.boot.coverage.any fun c => c / 2 == q / 2) = false := by
    unfold coreFenced pairFenced at hfenced
    split at hfenced <;> exact (Bool.or_eq_false_iff.1 hfenced).2
  have hpair : n / 2 = q / 2 := by
    unfold unitCores at hn
    split at hn <;> simp at hn <;> omega
  exact absurd (List.any_eq_false.1 hcov n hc) (by simp [hpair])

/-- What a quiet unit has done is counted without a free value (R65), and its filler goes on. -/
theorem UnitQuiet.account_eq {s : State} {u : Nat} (h : UnitQuiet s u) :
    account s u = s ∨ ∃ z g, Frame [.regs] s z ∧ account s u = modUnit z u g ∧ ∀ c, (g c).filler = c.filler := by
  unfold account
  extract_lets c
  split
  · exact .inl rfl
  split
  next n m _ =>
  rw [h.run, h.not_testing]
  exact .inr ⟨_, _, frame_foldl _ (.refl _ s) fun _ _ h => bumpRow_frame h (by decide), rfl, fun _ => rfl⟩

theorem UnitQuiet.account_frame {s : State} {u : Nat} (h : UnitQuiet s u) : Frame [.regs, .units] s (account s u) := by
  obtain he | ⟨z, g, hz, he, -⟩ := h.account_eq
  · rw [he]; exact .refl _ s
  · rw [he]; exact modUnit_frame (hz.mono (by decide)) (by decide)

theorem UnitQuiet.account_filler {s : State} {u : Nat} (h : UnitQuiet s u) : ((account s u).core u).filler = (s.core u).filler := by
  obtain he | ⟨z, g, hz, he, hg⟩ := h.account_eq
  · rw [he]
  · rw [he, modUnit_core, if_pos (mem_unitCores_self ..), hg, State.core, hz.same .units (by decide), State.core]

theorem UnitQuiet.account {s : State} {u : Nat} (h : UnitQuiet s u) : UnitQuiet (account s u) u :=
  h.of_unit h.account_frame (by decide) (by decide) (account_testsStay s u) (account_retunes s u)

theorem UnitQuiet.lapse_fresh {s : State} {u : Nat} (h : UnitQuiet s u) : (lapse s u).fresh = s.fresh := by
  unfold lapse
  split
  · exact (modUnit_frame h.account_frame (by decide)).same .fresh (by decide)
  · rfl

theorem UnitQuiet.wakeUnit_fresh {s : State} {u : Nat} (h : UnitQuiet s u) : (wakeUnit s u).fresh = s.fresh := by
  rw [← h.lapse_fresh]
  unfold wakeUnit
  extract_lets s1 same s2 i _ s3
  split
  · exact (modUnit_frame (.refl [.units] s1) (.refl _)).same .fresh (by decide)
  · have h2 : Frame [.regs, .units] s1 s2 := frame_ite (.refl _ s1) (frame_foldl _ (.refl _ s1) fun _ _ h => State.bump_frame h (by decide))
    have h3 : Frame [.regs, .units] s1 s3 := frame_ite (State.setPair_frame h2 (by decide)) h2
    exact (modUnit_frame h3 (by decide)).same .fresh (by decide)

/-- The end of a filler takes one free value, for what it leaves undefined (R478). -/
theorem UnitQuiet.endFiller_fresh {s : State} {u : Nat} (h : UnitQuiet s u) :
    (endFiller s u).fresh = s.fresh + if (s.core u).filler = 0 then 0 else 1 := by
  unfold endFiller
  split
  · rfl
  · extract_lets s1 s2
    have h2 : s2.fresh = s1.fresh + 1 := congrArg (· + 1) ((modUnit_frame (.refl [.units] s1) (.refl _)).same .fresh (by decide))
    rw [(modUnit_frame (.refl [.units] s2) (.refl _)).same .fresh (by decide), h2, h.account_frame.same .fresh (by decide)]

theorem UnitQuiet.endFiller {s : State} {u : Nat} (h : UnitQuiet s u) : UnitQuiet (Machine.endFiller s u) u := by
  have htests : TestsStay s (Machine.endFiller s u) := by
    unfold Machine.endFiller
    split
    · exact .refl s
    · exact ((account_testsStay s u).trans (undefUnit_testsStay ..)).trans (modUnit_testsStay _ u fun _ => rfl)
  have hmodes : Retunes s (Machine.endFiller s u) := by
    unfold Machine.endFiller
    split
    · exact .refl s
    · exact ((account_retunes s u).trans (undefUnit_retunes ..)).trans (modUnit_retunes ..)
  exact h.of_unit (endFiller_frame (.refl [.fresh, .regs, .units] s) (.refl _)) (by decide) (by decide) htests hmodes

/-- A start takes a free value of the state's before the item's own only where it ends a filler. -/
theorem UnitQuiet.unitBegun_fresh {s : State} {u : Nat} (h : UnitQuiet s u) :
    (unitBegun s u).fresh = s.fresh + if (s.core u).filler = 0 then 0 else 1 := by
  rw [unitBegun, (modUnit_frame (.refl [.units] _) (.refl _)).same .fresh (by decide), h.account.endFiller.wakeUnit_fresh, h.account.endFiller_fresh,
    h.account_filler, h.account_frame.same .fresh (by decide)]

/-! ### WORK_ITEM_START (R308) -/

/-- The head of a queue sends its waits, and neither what runs nor how much queues changes (R498). -/
theorem sendWaits_work (s : State) (q : Nat) :
    (sendWaits s q).plans.running = s.plans.running ∧ ((sendWaits s q).queue q).length = (s.queue q).length := by
  unfold sendWaits
  split
  · exact ⟨rfl, rfl⟩
  next x rest hq =>
  split
  · exact ⟨rfl, rfl⟩
  extract_lets due
  split
  · exact ⟨rfl, rfl⟩
  split
  next t sent ht =>
  have hF : Frame [.out, .fresh, .regs, .log, .net] s (t, sent).1 := ht ▸ frame_foldl_fst due (.refl _ s) fun u d hu => by
    extract_lets tag m _ _ s1
    have h1 : Frame [.out, .fresh, .regs, .log, .net] s s1 := Frame.set_net hu (by decide)
    show Frame [.out, .fresh, .regs, .log, .net] s ((sirForward s1 0 d.2.1.home m).bump pgStally 0x090 1)
    exact State.bump_frame (sirForward_frame h1 (by decide)) (by decide)
  have hplans : t.plans = s.plans := hF.same .plans (by decide)
  have hrunning : (t.setQueue q ({ x with sent := sent } :: rest)).plans.running = t.plans.running := rfl
  refine ⟨hrunning.trans (by rw [hplans]), ?_⟩
  rw [State.setQueue_queue_self, hq]
  rfl

theorem unitRun_of_units {a s : State} (h : s.units = a.units) (u : Nat) : unitRun s u = unitRun a u := by
  unfold unitRun runCoreOf unitCores State.pair State.core
  rw [h]

/-- An item that a core starts runs from this instant, its unit in RUN, with the stores that its descriptor list computes on the partition's memory as the
unit's begin finds it. -/
theorem startCore_runs (s : State) (q : Nat) {x : QItem} (hx : x.proof = false) :
    (startCore s q x).clk = s.clk ∧ (∀ k, (startCore s q x).queue k = s.queue k) ∧ unitRun (startCore s q x) q = true ∧
    ∃ r, (startCore s q x).run q = some r ∧ r.item = x ∧ r.since = s.clk.clock ∧ r.landed = false ∧
      r.writes = (runComp (runCore (portOf (unitBegun s q) x.part) ((unitBegun s q).core q).array (freeHawk (2 ^ 64 * ((unitBegun s q).fresh + 1)))
        (readDescs (unitBegun s q) x.part x.item.ndesc x.item.descAddr) x.item.hawkAddr)).2.writes := by
  have hbegun := unitBegun_frame s q
  have hclk : (unitBegun s q).clk = s.clk := hbegun.same .clk (by decide)
  have hqueue (k : Nat) : (unitBegun s q).queue k = s.queue k := by rw [State.queue, hbegun.same .plans (by decide), State.queue]
  have hrun : unitRun (unitBegun s q) q = true := unitBegun_unitRun s q
  unfold startCore
  extract_lets s1 s2 c P ds
  have hs2 : s2 = unitBegun s q := rfl
  clear_value s2
  generalize unitBegun s q = b at hs2 hclk hqueue hrun ⊢
  subst hs2
  rw [if_neg (by rw [hx]; decide)]
  split
  next res d hcomp =>
  split
  next a k _ =>
  extract_lets pages s3
  have hwrites : d.writes = (runComp (runCore P c.array (freeHawk (2 ^ 64 * (s2.fresh + 1))) ds x.item.hawkAddr)).2.writes := by rw [hcomp]
  have htouch : Frame [.fresh, .regs, .plans, .press] s2 s3 := touchPages_frame (.refl _ s2) (.refl _)
  have hclk3 : s3.clk = s.clk := (htouch.same .clk (by decide)).trans hclk
  refine ⟨hclk3, fun k => ?_, ?_, _, State.setRun_run_some .., rfl, congrArg Clk.clock hclk3, rfl, hwrites⟩
  · have hqueues := congrArg (fun p : Plans => p.queues) (touchPages_pagesOnly s2 x.part (uplinkOf q) pages).rest
    exact (congrArg (fun l => sget [] l k) hqueues).trans (hqueue k)
  · exact (unitRun_of_units (htouch.same .units (by decide)) q).trans hrun

theorem startOp_of_head {s : State} {q : Nat} {x : QItem} {rest : List QItem} (hup : s.phase = .up) (hq : s.queue q = x :: rest)
    (hfree : unitFree s q = true) (hwaits : waitsMet s x = true) :
    startOp s q = if !x.proof && itemCorrupt s x then crcRefuse s q x
      else sendWaits (if q < 40 then startCore (s.setQueue q rest) q x else if q < 128 then startSpec (s.setQueue q rest) q x
        else startSieve (s.setQueue q rest) q x) q := by
  unfold startOp
  rw [hq]
  simp [hup, hfree, hwaits]

/-- Work that waits at a core without filler starts as O39 says: its stores are computed on its partition's memory as it is at this instant. -/
theorem workItemStart_core {t : Nat} {k : Fin 40} {s : State} {x : QItem} {rest : List QItem} (hup : s.phase = .up) (hq : s.queue k.val = x :: rest)
    (hfree : unitFree (atTime t s) k.val = true) (hwaits : waitsMet (atTime t s) x = true) (hx : x.proof = false)
    (hcrc : itemCorrupt (atTime t s) x = false) (hfiller : (s.core k.val).filler = 0) :
    ∃ u, exec (.workItemStart t (.core k)) s = .next u ∧ (u.queue k.val).length = rest.length ∧ unitRun u k.val = true ∧
      ∃ r, u.run k.val = some r ∧ r.item = x ∧ r.since = u.clk.clock ∧ r.landed = false ∧ ∃ (a : ArraySt) (h : HawkSt),
        r.writes = (runComp (runCore (portOf (atTime t s) x.part) a h (readDescs (atTime t s) x.part x.item.ndesc x.item.descAddr) x.item.hawkAddr)).2.writes := by
  set b := (atTime t s).setQueue k.val rest with hb
  have hop : startOp (atTime t s) k.val = sendWaits (startCore b k.val x) k.val := by
    rw [startOp_of_head (s := atTime t s) hup hq hfree hwaits, hcrc, Bool.and_false, if_neg Bool.false_ne_true, if_pos k.isLt]
  have hquiet : UnitQuiet b k.val := by
    obtain ⟨hrun, htests, hcoverage⟩ := unitQuiet_of_free k.isLt hfree
    exact ⟨hrun, htests, hcoverage⟩
  have hpages : SamePages (atTime t s) (unitBegun b k.val) := (setQueue_samePages ..).trans (unitBegun_samePages ..)
  have hfresh : (unitBegun b k.val).fresh = (atTime t s).fresh := by
    rw [hquiet.unitBegun_fresh, if_pos (show (b.core k.val).filler = 0 from hfiller)]
    rfl
  obtain ⟨hclk, hqueue, hrun, r, hr, hitem, hsince, hlanded, hwrites⟩ := startCore_runs b k.val hx
  obtain ⟨hrunning, hlength⟩ := sendWaits_work (startCore b k.val x) k.val
  have hsent := sendWaits_frame (.refl [.out, .fresh, .regs, .plans, .log, .net] (startCore b k.val x)) (.refl _) (q := k.val)
  rw [hpages.portOf hfresh, hpages.readDescs hfresh] at hwrites
  refine ⟨_, congrArg Host.Outcome.next hop, ?_, (unitRun_of_units (hsent.same .units (by decide)) _).trans hrun, r, ?_, hitem, ?_, hlanded, _, _, hwrites⟩
  · rw [hlength, hqueue, hb, State.setQueue_queue_self]
  · rw [State.run, hrunning]
    exact hr
  · rw [hsent.same .clk (by decide), hclk]
    exact hsince

/-! ### A start that ends a filler (R161, R478) -/

theorem access_of_mapped {s : State} {p va : Nat} {e : Pte} (hva : va < 2 ^ 48) (hplan : (s.part p).plan = none) (he : s.pte p (va / 65536) = e)
    (hvalid : e.valid = true) (hro : e.ro = false) (hpoison : e.poison = false) (w : Bool) : access s p va w = .ok (va / 65536, e) := by
  have hres : resolve s p va = some (va / 65536, false) := by
    unfold resolve
    rw [if_neg (not_le.2 hva), hplan]
  simp [access, hres, he, hvalid, hro, hpoison]

/-- An item of one descriptor, whose list lies in page 5 of its partition. -/
def fillerItem : QItem := ⟨0, false, ⟨1, 0, false, false, 0, 0, 0, 1, 0, [], [], 5 * 65536, 0, 0, none, [], 0, 0⟩, 0, 1, 0, [], []⟩
/-- The item's descriptor and, 256 bytes behind it, the weight 1. -/
def fillerCells : List Host.Cell :=
  [(0, 64), (7, 1), (9, 0xCA), (10, 0x22), (11, 1), (12, 1), (14, 1), (15, 1), (34, 6), (41, 1), (42, 5), (66, 7), (256, 1)].map
    (fun c => (feltFrame 0 0 + c.1, c.2))
/-- Pages 5 and 7 hold memory, page 6 is of SOURCE NONE: its bytes are free values (R161). -/
def feltPage (frame source : Nat) : Pte := { Pte.reset with valid := true, res := 2, frame := frame, source := source }
def fillerPart : PartSt := { PartSt.reset with ptes := [(5, feltPage 0 0), (6, feltPage 1 2), (7, feltPage 2 0)] }
/-- Core 0 runs filler, and the item waits for it; n free values have been taken. -/
def fillerRuns (n : Nat) : State :=
  { State.reset with
    mem := fillerCells, fresh := n
    units := { State.reset.units with cores := [(0, { CoreSt.reset with filler := 1 })] }
    plans := { State.reset.plans with parts := [(0, fillerPart)], queues := [(0, [fillerItem])] } }

/-- The bytes of the descriptor. -/
def fillerList : Bytes := partBytes (fillerRuns 0) 0 (5 * 65536 + 8) 64
/-- One INT8 tile of one row and one column: the vector in page 6, the weight in page 5, the output in page 7. -/
def fillerTile : ArrayDesc := ⟨1, 2, 2, true, true, false, 1, 1, 1, 1, 1, 0, 0, 0, 0, 0, 6 * 65536, 5 * 65536 + 256, 0, 0, 7 * 65536⟩

theorem fillerRuns_starts : (fillerRuns 0).phase = .up ∧ (fillerRuns 0).queue 0 = [fillerItem] ∧ atTime 0 (fillerRuns 0) = fillerRuns 0 ∧
    unitFree (fillerRuns 0) 0 = true ∧ waitsMet (fillerRuns 0) fillerItem = true ∧ itemCorrupt (fillerRuns 0) fillerItem = false ∧
    ((fillerRuns 0).core 0).filler = 1 := by decide +kernel

theorem fillerRuns_descs : readDescs (fillerRuns 0) fillerItem.part fillerItem.item.ndesc fillerItem.item.descAddr = [(1, fillerList)] ∧
    readDescs (fillerRuns 1) fillerItem.part fillerItem.item.ndesc fillerItem.item.descAddr = [(1, fillerList)] ∧
    parseArrayDesc fillerList = fillerTile := by decide +kernel

theorem portOf_rd_of_access {s : State} {p va key : Nat} {e : Pte} (h : access s p va false = .ok (key, e)) :
    (portOf s p).rd va = .ok ((partByte s p va).getD 0) := by simp [portOf, partByte, h]

theorem portOf_wr_of_access {s : State} {p va key : Nat} {e : Pte} (h : access s p va true = .ok (key, e)) : (portOf s p).wr va = .ok () := by
  simp [portOf, h]

theorem fillerRuns_access (n : Nat) {va : Nat} (h : va / 65536 = 5 ∨ va / 65536 = 6 ∨ va / 65536 = 7) (w : Bool) :
    ∃ key e, access (fillerRuns n) 0 va w = .ok (key, e) := by
  have hva : va < 2 ^ 48 := by omega
  obtain h | h | h := h
  · exact ⟨_, _, access_of_mapped (e := feltPage 0 0) hva rfl (by rw [h]; rfl) rfl rfl rfl w⟩
  · exact ⟨_, _, access_of_mapped (e := feltPage 1 2) hva rfl (by rw [h]; rfl) rfl rfl rfl w⟩
  · exact ⟨_, _, access_of_mapped (e := feltPage 2 0) hva rfl (by rw [h]; rfl) rfl rfl rfl w⟩

/-- The bytes of the partition's memory. -/
def fillerByte (n va : Nat) : Byte := (partByte (fillerRuns n) 0 va).getD 0

theorem fillerTile_int8 (n : Nat) : Int8Tile (portOf (fillerRuns n) 0) (fillerByte n) fillerTile := by
  have hrd (va : Nat) (h : va / 65536 = 5 ∨ va / 65536 = 6 ∨ va / 65536 = 7) : (portOf (fillerRuns n) 0).rd va = .ok (fillerByte n va) := by
    obtain ⟨key, e, ha⟩ := fillerRuns_access n h false
    exact portOf_rd_of_access ha
  refine ⟨rfl, rfl, rfl, rfl, rfl, rfl, by decide, fun k hk j hj => hrd _ ?_, fun k hk c hc => hrd _ ?_, fun k hk c hc i hi => ?_⟩
  · simp only [fillerTile] at *; omega
  · simp only [fillerTile] at *; omega
  · obtain ⟨key, e, ha⟩ := fillerRuns_access n (va := fillerTile.oAddr + k * fillerTile.oStride + c * 4 + i) (by simp only [fillerTile] at *; omega) true
    exact portOf_wr_of_access ha

theorem fillerByte_weight (n : Nat) : fillerByte n (5 * 65536 + 256) = 1 := by
  have ha : access (fillerRuns n) 0 (5 * 65536 + 256) false = .ok ((5 * 65536 + 256) / 65536, feltPage 0 0) :=
    access_of_mapped (by decide) rfl rfl rfl rfl rfl false
  rw [fillerByte, partByte, ha]
  dsimp only
  rw [Option.getD_some, pageByte, if_neg (by decide), show frameBases (fillerRuns n) (feltPage 0 0) = [feltFrame 0 0] from rfl]
  dsimp only
  rw [State.rd, show (fillerRuns n).mem = fillerCells from rfl]
  decide +kernel

theorem fillerByte_vector (n : Nat) : fillerByte n (6 * 65536) = BitVec.ofNat 8 (Config.free (2 ^ 64 * (n + 1) + 6 * 65536)) := by
  have ha : access (fillerRuns n) 0 (6 * 65536) false = .ok (6 * 65536 / 65536, feltPage 1 2) :=
    access_of_mapped (by decide) rfl rfl rfl rfl rfl false
  rw [fillerByte, partByte, ha]
  dsimp only
  rw [Option.getD_some, pageByte, if_pos (show (feltPage 1 2).source = 2 from rfl)]
  rfl

theorem lowByte_sext : ∀ b : Byte, BitVec.ofNat 8 (BitVec.ofInt 32 (satInt32 (sext 8 b.toNat))).toNat = b := by decide +kernel

theorem fillerPuts_head (n : Nat) : (int8Puts (fillerByte n) fillerTile).head?.map Put.val = some (fillerByte n (6 * 65536)) := by
  have hweight : sext 8 (fillerByte n (5 * 65536 + 256)).toNat = 1 := by rw [fillerByte_weight]; rfl
  generalize fillerByte n = m at *
  have hsum : dotInt8 m (6 * 65536) (5 * 65536 + 256) 1 0 = sext 8 (m (6 * 65536)).toNat := by
    simp [dotInt8, hweight]
  have hhead : (int8Puts m fillerTile).head?.map Put.val =
      some ((toLE 4 (BitVec.ofInt 32 (satInt32 (dotInt8 m (6 * 65536 + 0 * 0) (5 * 65536 + 256) 1 0))).toNat).getD 0 0) := rfl
  rw [hhead, Nat.zero_mul, Nat.add_zero, hsum]
  exact congrArg some (lowByte_sext (m (6 * 65536)))

/-- O39 makes two free values agree in their low byte. The end of a filler takes one free value, so that an item which starts thereupon reads the bytes
of a SOURCE NONE page (R161, log entry 2) under the next count of free values, where O39 has the item read them under the count before it.
`Config.free` has no body: of none of its values can anything be proved, so O39 has no proof. -/
theorem freeBytes_agree_of_workItemsStart (h : Obligations.WorkItemsStart) :
    BitVec.ofNat 8 (Config.free (2 ^ 64 * 1 + 6 * 65536)) = BitVec.ofNat 8 (Config.free (2 ^ 64 * 2 + 6 * 65536)) := by
  obtain ⟨hup, hq, hat, hfree, hwaits, hcrc, hfiller⟩ := fillerRuns_starts
  obtain ⟨hlist₀, hlist₁, htile⟩ := fillerRuns_descs
  obtain ⟨hstart, -⟩ := h.1 0 (.core 0) (fillerRuns 0) fillerItem [] hup hq (by rw [hat]; exact hfree) (by rw [hat]; exact hwaits)
    (fun hk => absurd hk (by decide))
  obtain ⟨hstart, -⟩ := hstart (.inr (by rw [hat]; exact hcrc))
  obtain ⟨u, hu, -, ⟨r, hr, -, -, -, hcore⟩, -⟩ := hstart (.inl (by decide))
  obtain ⟨P, a, k, rfl, hwrites⟩ := hcore (by decide) rfl
  rw [hat] at hwrites
  -- what the model makes the item store: the same tile over the memory that the unit's begin finds
  have hquiet : UnitQuiet ((fillerRuns 0).setQueue 0 []) 0 := by
    obtain ⟨hrun, htests, hcoverage⟩ := unitQuiet_of_free (by decide) hfree
    exact ⟨hrun, htests, hcoverage⟩
  have hpages : SamePages (fillerRuns 1) (unitBegun ((fillerRuns 0).setQueue 0 []) 0) :=
    (⟨fun _ => rfl, fun _ => rfl, rfl, fun _ => rfl⟩ : SamePages (fillerRuns 1) ((fillerRuns 0).setQueue 0 [])).trans (unitBegun_samePages ..)
  have hfresh : (unitBegun ((fillerRuns 0).setQueue 0 []) 0).fresh = (fillerRuns 1).fresh := by
    rw [hquiet.unitBegun_fresh, if_neg (show (((fillerRuns 0).setQueue 0 []).core 0).filler ≠ 0 by decide)]
    rfl
  obtain ⟨-, -, -, r', hr', -, -, -, hmodel⟩ := startCore_runs ((fillerRuns 0).setQueue 0 []) 0 (x := fillerItem) rfl
  have hop : startOp (fillerRuns 0) 0 = sendWaits (startCore ((fillerRuns 0).setQueue 0 []) 0 fillerItem) 0 := by
    rw [startOp_of_head hup hq hfree hwaits, hcrc, Bool.and_false, if_neg Bool.false_ne_true, if_pos (by decide)]
  have hsame : r = r' := by
    have hu' : u = sendWaits (startCore ((fillerRuns 0).setQueue 0 []) 0 fillerItem) 0 := by
      rw [← hop, ← hat]
      exact (Host.Outcome.next.inj hu).symm
    rw [hu', State.run, (sendWaits_work _ 0).1] at hr
    exact Option.some.inj (hr.symm.trans hr')
  rw [hpages.portOf hfresh, hpages.readDescs hfresh] at hmodel
  have hpart : fillerItem.part = 0 := rfl
  have hhawk : fillerItem.item.hawkAddr = 0 := rfl
  have h₀ : r.writes = int8Puts (fillerByte 0) fillerTile := by
    rw [hwrites, hlist₀, hpart, hhawk]
    exact (fillerTile_int8 0).runCore_writes htile (by decide) a k
  have h₁ : r.writes = int8Puts (fillerByte 1) fillerTile := by
    rw [hsame, hmodel, hlist₁, hpart, hhawk]
    exact (fillerTile_int8 1).runCore_writes htile (by decide) _ _
  rw [← fillerByte_vector 0, ← fillerByte_vector 1]
  exact Option.some.inj ((fillerPuts_head 0).symm.trans (by rw [← h₀, h₁, fillerPuts_head]))

end Sys2Proof.Machine
end
